-- ==== Sys2Proof/Word.lean ====
section
/-!
DEFINITION. The word types of the part and their plainest arithmetic.
Registers, addresses as they are computed and memory words are bit vectors; a physical address used as a key
of memory, a count or an index is a natural number.
-/

namespace Sys2Proof

/-- A 64-bit register, address or memory word (spec/09 R186). -/
abbrev Word := BitVec 64

/-- One byte of memory. -/
abbrev Byte := BitVec 8

/-- One 32-bit code word (spec/02 R23). -/
abbrev Code := BitVec 32

/-- Bits `hi` down to `lo` of a natural number, as a natural number. -/
def fld (hi lo : Nat) (w : Nat) : Nat := w / 2 ^ lo % 2 ^ (hi + 1 - lo)

/-- A natural number read as a two's-complement integer of `w` bits. -/
def toInt (w : Nat) (x : Nat) : Int :=
  let y := x % 2 ^ w
  if 2 * y < 2 ^ w then (y : Int) else (y : Int) - (2 ^ w : Nat)

/-- The two's-complement pattern of an integer in `w` bits, as a natural number. -/
def ofInt (w : Nat) (x : Int) : Nat := (x % ((2 ^ w : Nat) : Int)).toNat

end Sys2Proof
end

