-- ==== Sys2Proof/Machine/EventData.lean ====
section
/-!
DEFINITION. The data that the steps which no word encodes bring with them: what the host driver, the physical
function, a peer, the security processor or a soft error supplies from outside the part (spec/22).
-/

namespace Sys2Proof

/-- A window of host or peer memory (spec/03 R53, spec/22 R346): region 1 with its base in PA[53:0], or a peer
device number with a range of offsets (`base` counts within the peer's 2^40 bytes). -/
structure Window where
  peer : Option Nat
  base : Nat
  size : Nat
  deriving DecidableEq, Repr

/-- What the physical function assigns when it creates a partition (spec/22 R346, spec/19 R319, spec/03 R60). -/
structure PartCfg where
  /-- the sites asked for on dies 0 to 3, one 120-bit map each (bits 0 to 107 shader sites, 112 to 119 control cores) -/
  sites : List (BitVec 120)
  /-- region sets owned -/
  sets : BitVec 128
  /-- the SPREAD bits to be written for those sets -/
  spread : BitVec 128
  windows : List Window
  /-- the hardware queue slots that are its share -/
  slots : List Nat
  deriving DecidableEq, Repr

/-- A context creation command (spec/22 R347). -/
structure CtxCfg where
  tbr : Word
  frec : Word
  save : Word
  cowpool : Word
  /-- addresses of the user queues mapped for the context -/
  queues : List Word
  deriving DecidableEq, Repr

/-- One source a snapshot set may latch (spec/22 R352). -/
inductive SnapSrc where
  | pmc (i : Nat)
  | queueDepth (q : Nat)
  | writePtr (core ch : Nat)
  /-- of the `k`-th command that a die's bulk engines, or its halo engine, carry out for the context (log 110) -/
  | bulkPtr (die k : Nat)
  | haloPtr (die k : Nat)
  | errCounter (i : Nat)
  deriving DecidableEq, Repr

/-- The configuration of a snapshot set (spec/22 R352). -/
structure SnapCfg where
  sources : List SnapSrc
  timeMatch : Option Word
  deriving DecidableEq, Repr

/-- One firmware image at bring-up (spec/22 R349): its digest, the hash of the key that it names, the signature over its digest, and
its rollback number. -/
structure Image where
  digest : BitVec 512
  key : BitVec 512
  sig : List (BitVec 64)
  rollback : Nat
  deriving DecidableEq, Repr

/-- What bring-up meets, step by step (spec/22 R350). -/
structure BootCfg where
  images : List Image
  linkTrained : Bool
  hbmOk : BitVec 4
  l2Ok : BitVec 4
  coreOk : BitVec 4
  bitmaps : List (BitVec 108)
  perramOk : Bool
  peers : List Nat
  timebase : Word
  deriving DecidableEq, Repr

/-- Where a soft error strikes (spec/19 R328). -/
inductive ErrSite where
  | hbm (pa : Nat)
  | l2 (pa : Nat)
  /-- a line that an L1, or a die's replica store, holds -/
  | l1 (core line : Nat)
  | replica (die line : Nat)
  | reg (blk grp code lane : Nat)
  | scratch (blk off : Nat)
  | fifo (core f idx : Nat)
  /-- the row exponents of a slice, which its core's scale memory holds (spec/11 R234) -/
  | scale (core f idx : Nat)
  | parity (die : Nat)
  deriving DecidableEq, Repr

/-- A soft error: its place and whether the code corrects it (spec/19 R328). -/
structure SoftErr where
  site : ErrSite
  correctable : Bool
  deriving DecidableEq, Repr

/-- An access arriving from the host or from a peer (spec/22 R348). -/
inductive ExtKind where
  | load
  | store (value : Nat)
  | atomic (aop : Nat) (b : Nat) (c : Nat)
  deriving DecidableEq, Repr

structure ExtAccess where
  kind : ExtKind
  pa : Nat
  bytes : Nat
  deriving DecidableEq, Repr

end Sys2Proof
end

