-- ==== Sys2Proof/Syntax.lean ====
section
/-!
DEFINITION. The instructions and steps of the Crerid DX4: one constructor per row of spec/opcode_table.json.
The first 186 are instruction words; their arguments are the fields of the row, under the names the table gives
them. The others are steps of the part that no word encodes (spec/95); their arguments say which agent, queue,
block or command the step concerns, or hold what arrives from outside.
-/

namespace Sys2Proof

inductive Instr where
  /-- IADD (R196). Adds the sub-elements of A and B modulo 2^w in each enabled position. -/
  | iadd (d : BitVec 7) (a : BitVec 7) (b : BitVec 7) (t : BitVec 2)
  /-- ISUB (R196). Subtracts B from A modulo 2^w in each enabled position. -/
  | isub (d : BitVec 7) (a : BitVec 7) (b : BitVec 7) (t : BitVec 2)
  /-- IADDS (R196). Adds signed sub-elements with saturation. -/
  | iadds (d : BitVec 7) (a : BitVec 7) (b : BitVec 7) (t : BitVec 2)
  /-- ISUBS (R196). Subtracts signed sub-elements with saturation. -/
  | isubs (d : BitVec 7) (a : BitVec 7) (b : BitVec 7) (t : BitVec 2)
  /-- IMUL (R196). Writes the low w bits of the product of A and B. -/
  | imul (d : BitVec 7) (a : BitVec 7) (b : BitVec 7) (t : BitVec 2)
  /-- IMULH (R196). Writes the high w bits of the signed product. -/
  | imulh (d : BitVec 7) (a : BitVec 7) (b : BitVec 7) (t : BitVec 2)
  /-- IMULHU (R196). Writes the high w bits of the unsigned product. -/
  | imulhu (d : BitVec 7) (a : BitVec 7) (b : BitVec 7) (t : BitVec 2)
  /-- IMAD (R196). Writes A times B plus the fourth operand modulo 2^w. -/
  | imad (d : BitVec 7) (a : BitVec 7) (b : BitVec 7) (t : BitVec 2)
  /-- IMIN (R196). Writes the signed minimum of A and B. -/
  | imin (d : BitVec 7) (a : BitVec 7) (b : BitVec 7) (t : BitVec 2)
  /-- IMAX (R196). Writes the signed maximum of A and B. -/
  | imax (d : BitVec 7) (a : BitVec 7) (b : BitVec 7) (t : BitVec 2)
  /-- IMINU (R196). Writes the unsigned minimum of A and B. -/
  | iminu (d : BitVec 7) (a : BitVec 7) (b : BitVec 7) (t : BitVec 2)
  /-- IMAXU (R196). Writes the unsigned maximum of A and B. -/
  | imaxu (d : BitVec 7) (a : BitVec 7) (b : BitVec 7) (t : BitVec 2)
  /-- IABS (R196). Writes the wrapping absolute value of A. -/
  | iabs (d : BitVec 7) (a : BitVec 7) (t : BitVec 2)
  /-- INEG (R196). Writes the negation of A modulo 2^w. -/
  | ineg (d : BitVec 7) (a : BitVec 7) (t : BitVec 2)
  /-- POPC (R196). Writes the number of set bits of A. -/
  | popc (d : BitVec 7) (a : BitVec 7) (t : BitVec 2)
  /-- CLZ (R196). Writes the number of leading zero bits of A. -/
  | clz (d : BitVec 7) (a : BitVec 7) (t : BitVec 2)
  /-- AND (R196). Writes the bitwise AND of A and B. -/
  | vand (d : BitVec 7) (a : BitVec 7) (b : BitVec 7) (t : BitVec 3)
  /-- OR (R196). Writes the bitwise OR of A and B. -/
  | vor (d : BitVec 7) (a : BitVec 7) (b : BitVec 7) (t : BitVec 3)
  /-- XOR (R196). Writes the bitwise XOR of A and B. -/
  | vxor (d : BitVec 7) (a : BitVec 7) (b : BitVec 7) (t : BitVec 3)
  /-- ANDN (R196). Writes A AND NOT B. -/
  | vandn (d : BitVec 7) (a : BitVec 7) (b : BitVec 7) (t : BitVec 3)
  /-- SHL (R197). Shifts A left by B, giving 0 for amounts of w or more. -/
  | shl (d : BitVec 7) (a : BitVec 7) (b : BitVec 7) (t : BitVec 2)
  /-- SHR (R197). Shifts A right logically by B. -/
  | shr (d : BitVec 7) (a : BitVec 7) (b : BitVec 7) (t : BitVec 2)
  /-- SAR (R197). Shifts A right arithmetically by B. -/
  | sar (d : BitVec 7) (a : BitVec 7) (b : BitVec 7) (t : BitVec 2)
  /-- ROT (R197). Rotates A left by B modulo w. -/
  | rot (d : BitVec 7) (a : BitVec 7) (b : BitVec 7) (t : BitVec 2)
  /-- BFX (R197). Extracts a sign-extended bit field of A at offset B and length from the fourth operand. -/
  | bfx (d : BitVec 7) (a : BitVec 7) (b : BitVec 7) (t : BitVec 2)
  /-- BFXU (R197). Extracts a zero-extended bit field of A. -/
  | bfxu (d : BitVec 7) (a : BitVec 7) (b : BitVec 7) (t : BitVec 2)
  /-- BFI (R197). Inserts low bits of B into A at the offset and length given by the fourth operand. -/
  | bfi (d : BitVec 7) (a : BitVec 7) (b : BitVec 7) (t : BitVec 2)
  /-- BREV (R196). Reverses the bit order of A. -/
  | brev (d : BitVec 7) (a : BitVec 7) (t : BitVec 2)
  /-- ICMP_SET (R200). Compares integer sub-elements and sets the destination mask bits. -/
  | icmpSet (k : BitVec 4) (c : BitVec 3) (a : BitVec 7) (b : BitVec 7) (t : BitVec 2)
  /-- ICMP_AND (R200). Compares integer sub-elements and ANDs the result into the mask bits. -/
  | icmpAnd (k : BitVec 4) (c : BitVec 3) (a : BitVec 7) (b : BitVec 7) (t : BitVec 2)
  /-- ICMP_OR (R200). Compares integer sub-elements and ORs the result into the mask bits. -/
  | icmpOr (k : BitVec 4) (c : BitVec 3) (a : BitVec 7) (b : BitVec 7) (t : BitVec 2)
  /-- SEL (R196). Writes A where the fourth operand is nonzero, otherwise B. -/
  | sel (d : BitVec 7) (a : BitVec 7) (b : BitVec 7) (t : BitVec 3)
  /-- MOV (R196). Copies A to D under the mask. -/
  | mov (d : BitVec 7) (a : BitVec 7) (t : BitVec 3)
  /-- MOVS (R196). Sign-extends sub-element 0 of A to 64 bits. -/
  | movs (d : BitVec 7) (a : BitVec 7) (t : BitVec 2)
  /-- IADDI (R198). Adds a sign-extended 12-bit immediate to the 64-bit register. -/
  | iaddi (d : BitVec 7) (a : BitVec 7) (i : BitVec 12)
  /-- MOVI (R198). Writes a 16-bit immediate into every sub-element according to TY. -/
  | movi (d : BitVec 7) (t : BitVec 3) (i : BitVec 16)
  /-- ZIP (R199). Interleaves the low halves of A and B sub-elements. -/
  | zip (d : BitVec 7) (a : BitVec 7) (b : BitVec 7) (t : BitVec 3)
  /-- UNZIP (R199). Gathers the even sub-elements of A then of B. -/
  | unzip (d : BitVec 7) (a : BitVec 7) (b : BitVec 7) (t : BitVec 3)
  /-- PACKLO (R199). Packs the low halves of the elements of A and B. -/
  | packlo (d : BitVec 7) (a : BitVec 7) (b : BitVec 7) (t : BitVec 2)
  /-- PACKHI (R199). Packs the high halves of the elements of A and B. -/
  | packhi (d : BitVec 7) (a : BitVec 7) (b : BitVec 7) (t : BitVec 2)
  /-- FADD (R202). Adds floating-point sub-elements with one rounding. -/
  | fadd (d : BitVec 7) (a : BitVec 7) (b : BitVec 7) (t : BitVec 2)
  /-- FSUB (R202). Subtracts floating-point sub-elements with one rounding. -/
  | fsub (d : BitVec 7) (a : BitVec 7) (b : BitVec 7) (t : BitVec 2)
  /-- FMUL (R202). Multiplies floating-point sub-elements with one rounding. -/
  | fmul (d : BitVec 7) (a : BitVec 7) (b : BitVec 7) (t : BitVec 2)
  /-- FMA (R202). Computes A times B plus the fourth operand with one rounding. -/
  | fma (d : BitVec 7) (a : BitVec 7) (b : BitVec 7) (t : BitVec 2)
  /-- FMIN (R203). Writes the smaller value, or the canonical NaN if either is NaN. -/
  | fmin (d : BitVec 7) (a : BitVec 7) (b : BitVec 7) (t : BitVec 2)
  /-- FMAX (R203). Writes the larger value, or the canonical NaN if either is NaN. -/
  | fmax (d : BitVec 7) (a : BitVec 7) (b : BitVec 7) (t : BitVec 2)
  /-- FMINN (R203). Writes the smaller value, preferring a number over a NaN. -/
  | fminn (d : BitVec 7) (a : BitVec 7) (b : BitVec 7) (t : BitVec 2)
  /-- FMAXN (R203). Writes the larger value, preferring a number over a NaN. -/
  | fmaxn (d : BitVec 7) (a : BitVec 7) (b : BitVec 7) (t : BitVec 2)
  /-- FABS (R204). Clears the sign bit of each sub-element. -/
  | fabs (d : BitVec 7) (a : BitVec 7) (t : BitVec 2)
  /-- FNEG (R204). Inverts the sign bit of each sub-element. -/
  | fneg (d : BitVec 7) (a : BitVec 7) (t : BitVec 2)
  /-- FCLASS (R204). Writes a one-hot class code for each sub-element. -/
  | fclass (d : BitVec 7) (a : BitVec 7) (t : BitVec 2)
  /-- FRND (R204). Rounds each sub-element to an integral value in mode RM. -/
  | frnd (d : BitVec 7) (a : BitVec 7) (t : BitVec 2)
  /-- FCMP_SET (R206). Compares floating-point sub-elements and sets the mask bits. -/
  | fcmpSet (k : BitVec 4) (c : BitVec 3) (a : BitVec 7) (b : BitVec 7) (t : BitVec 2)
  /-- FCMP_AND (R206). Compares floating-point sub-elements and ANDs into the mask bits. -/
  | fcmpAnd (k : BitVec 4) (c : BitVec 3) (a : BitVec 7) (b : BitVec 7) (t : BitVec 2)
  /-- FCMP_OR (R206). Compares floating-point sub-elements and ORs into the mask bits. -/
  | fcmpOr (k : BitVec 4) (c : BitVec 3) (a : BitVec 7) (b : BitVec 7) (t : BitVec 2)
  /-- FDIV (R202). Divides A by B, correctly rounded. -/
  | fdiv (d : BitVec 7) (a : BitVec 7) (b : BitVec 7) (t : BitVec 2)
  /-- FSQRT (R202). Writes the correctly rounded square root of A. -/
  | fsqrt (d : BitVec 7) (a : BitVec 7) (t : BitVec 2)
  /-- FSCALE (R205). Multiplies A by two to the integer power B. -/
  | fscale (d : BitVec 7) (a : BitVec 7) (b : BitVec 7) (t : BitVec 2)
  /-- FLOGB (R205). Writes the exponent floor(log2|A|) as a value of the format. -/
  | flogb (d : BitVec 7) (a : BitVec 7) (t : BitVec 2)
  /-- EXP2 (R226). Evaluates 2^A within the stated ulp bound. -/
  | exp2 (d : BitVec 7) (a : BitVec 7) (t : BitVec 2)
  /-- LOG2 (R226). Evaluates log2 A within the stated ulp bound. -/
  | log2 (d : BitVec 7) (a : BitVec 7) (t : BitVec 2)
  /-- RCP (R226). Evaluates 1/A within the stated ulp bound. -/
  | rcp (d : BitVec 7) (a : BitVec 7) (t : BitVec 2)
  /-- RSQ (R226). Evaluates 1/sqrt(A) within the stated ulp bound. -/
  | rsq (d : BitVec 7) (a : BitVec 7) (t : BitVec 2)
  /-- SIN (R226). Evaluates sin A within the stated ulp bound. -/
  | sin (d : BitVec 7) (a : BitVec 7) (t : BitVec 2)
  /-- COS (R226). Evaluates cos A within the stated ulp bound. -/
  | cos (d : BitVec 7) (a : BitVec 7) (t : BitVec 2)
  /-- SINPI (R226). Evaluates sin(pi A) within the stated ulp bound. -/
  | sinpi (d : BitVec 7) (a : BitVec 7) (t : BitVec 2)
  /-- COSPI (R226). Evaluates cos(pi A) within the stated ulp bound. -/
  | cospi (d : BitVec 7) (a : BitVec 7) (t : BitVec 2)
  /-- TANH (R226). Evaluates tanh A within the stated ulp bound. -/
  | tanh (d : BitVec 7) (a : BitVec 7) (t : BitVec 2)
  /-- ERF (R226). Evaluates erf A within the stated ulp bound. -/
  | erf (d : BitVec 7) (a : BitVec 7) (t : BitVec 2)
  /-- CVT (R224). Converts between a floating-point type and another type with rounding. -/
  | cvt (d : BitVec 7) (a : BitVec 7) (u : BitVec 1) (p : BitVec 2) (s : BitVec 3) (t : BitVec 3)
  /-- CVTS (R224). Converts between integer types with saturation. -/
  | cvts (d : BitVec 7) (a : BitVec 7) (u : BitVec 1) (p : BitVec 2) (s : BitVec 3) (t : BitVec 2)
  /-- CVTB (R225). Encodes the group's 64 FP32 values as one block-floating-point block. -/
  | cvtb (d : BitVec 7) (a : BitVec 7) (s : BitVec 3)
  /-- CVTBX (R225). Decodes one block-floating-point block to FP32. -/
  | cvtbx (d : BitVec 7) (a : BitVec 7) (s : BitVec 3)
  /-- SHFL (R215). Reads for each position the element named by its own index from another lane. -/
  | shfl (d : BitVec 7) (a : BitVec 7) (b : BitVec 7) (t : BitVec 3)
  /-- BCAST (R215). Broadcasts the element named by a uniform index to every position. -/
  | bcast (d : BitVec 7) (a : BitVec 7) (b : BitVec 7) (t : BitVec 3)
  /-- PERMB (R215). Permutes bytes within each lane by selector bytes. -/
  | permb (d : BitVec 7) (a : BitVec 7) (b : BitVec 7)
  /-- QSWP (R216). Swaps values between lanes of a quad along x, y or the diagonal. -/
  | qswp (d : BitVec 7) (a : BitVec 7) (b : BitVec 2) (t : BitVec 3)
  /-- DDX (R216). Computes the horizontal quad derivative, fine or coarse. -/
  | ddx (d : BitVec 7) (a : BitVec 7) (c : BitVec 1) (t : BitVec 2)
  /-- DDY (R216). Computes the vertical quad derivative, fine or coarse. -/
  | ddy (d : BitVec 7) (a : BitVec 7) (c : BitVec 1) (t : BitVec 2)
  /-- ELECT (R217). Sets the mask bit of the lowest qualifying non-helper lane. -/
  | elect (d : BitVec 4) (a : BitVec 4)
  /-- VOTE (R218). Writes a ballot of the active lanes whose mask bit is set. -/
  | vote (d : BitVec 7) (a : BitVec 4)
  /-- REDI (R219). Reduces integer positions of the group to a uniform value. -/
  | redi (d : BitVec 7) (a : BitVec 7) (o : BitVec 3) (t : BitVec 2)
  /-- REDF (R220). Reduces floating-point positions by the fixed pairwise tree or min/max. -/
  | redf (d : BitVec 7) (a : BitVec 7) (o : BitVec 3) (t : BitVec 2)
  /-- SCANI (R219). Writes an inclusive or exclusive integer scan over positions. -/
  | scani (d : BitVec 7) (a : BitVec 7) (x : BitVec 1) (o : BitVec 3) (t : BitVec 2)
  /-- KAND (R221). ANDs two mask registers for active lanes. -/
  | kand (d : BitVec 4) (a : BitVec 4) (b : BitVec 4)
  /-- KOR (R221). ORs two mask registers for active lanes. -/
  | kor (d : BitVec 4) (a : BitVec 4) (b : BitVec 4)
  /-- KXOR (R221). XORs two mask registers for active lanes. -/
  | kxor (d : BitVec 4) (a : BitVec 4) (b : BitVec 4)
  /-- KNOT (R221). Inverts a mask register for active lanes. -/
  | knot (d : BitVec 4) (a : BitVec 4)
  /-- KMOV (R221). Copies one mask register to another. -/
  | kmov (d : BitVec 4) (a : BitVec 4)
  /-- KMOV_S (R221). Copies all 256 mask bits into four uniform registers. -/
  | kmovS (d : BitVec 7) (a : BitVec 4)
  /-- KMOV_K (R221). Loads a mask register from four uniform registers. -/
  | kmovK (d : BitVec 4) (a : BitVec 7)
  /-- KMOV_V (R221). Writes each lane's eight mask bits into a vector register. -/
  | kmovV (d : BitVec 7) (a : BitVec 4)
  /-- KPOP (R221). Counts set mask bits over active lanes into a uniform. -/
  | kpop (d : BitVec 7) (a : BitVec 4)
  /-- KFIRST (R221). Writes the lowest set mask position over active lanes. -/
  | kfirst (d : BitVec 7) (a : BitVec 4)
  /-- DROPK (R222). Draws a dropout keep mask from counters, seed and probability. -/
  | dropk (d : BitVec 4) (a : BitVec 7) (b : BitVec 7) (t : BitVec 3)
  /-- READLN (R209). Reads one lane's register into a uniform register. -/
  | readln (d : BitVec 7) (a : BitVec 7) (b : BitVec 7)
  /-- WRITELN (R209). Writes a uniform value into one lane's register. -/
  | writeln (d : BitVec 7) (a : BitVec 7) (b : BitVec 7)
  /-- SRD (R210). Reads a special value into a register. -/
  | srd (d : BitVec 7) (a : BitVec 7)
  /-- LOCQ (R211). Translates an address and reports its page, die, stack and home slice. -/
  | locq (d : BitVec 7) (a : BitVec 7)
  /-- SADD (R208). Adds two uniform registers. -/
  | sadd (d : BitVec 7) (a : BitVec 7) (b : BitVec 7)
  /-- SSUB (R208). Subtracts two uniform registers. -/
  | ssub (d : BitVec 7) (a : BitVec 7) (b : BitVec 7)
  /-- SMUL (R208). Writes the low 64 bits of a uniform product. -/
  | smul (d : BitVec 7) (a : BitVec 7) (b : BitVec 7)
  /-- SMULH (R208). Writes the high 64 bits of a signed uniform product. -/
  | smulh (d : BitVec 7) (a : BitVec 7) (b : BitVec 7)
  /-- SAND (R208). Bitwise AND of uniform registers. -/
  | sand (d : BitVec 7) (a : BitVec 7) (b : BitVec 7)
  /-- SOR (R208). Bitwise OR of uniform registers. -/
  | sor (d : BitVec 7) (a : BitVec 7) (b : BitVec 7)
  /-- SXOR (R208). Bitwise XOR of uniform registers. -/
  | sxor (d : BitVec 7) (a : BitVec 7) (b : BitVec 7)
  /-- SSEL (R208). Writes B to D when A is nonzero, otherwise leaves D. -/
  | ssel (d : BitVec 7) (a : BitVec 7) (b : BitVec 7)
  /-- SSHL (R208). Shifts a uniform register left. -/
  | sshl (d : BitVec 7) (a : BitVec 7) (b : BitVec 7)
  /-- SSHR (R208). Shifts a uniform register right logically. -/
  | sshr (d : BitVec 7) (a : BitVec 7) (b : BitVec 7)
  /-- SSAR (R208). Shifts a uniform register right arithmetically. -/
  | ssar (d : BitVec 7) (a : BitVec 7) (b : BitVec 7)
  /-- SMOV (R208). Copies a uniform register. -/
  | smov (d : BitVec 7) (a : BitVec 7)
  /-- SCMP (R208). Writes 1 or 0 by comparing two uniform registers. -/
  | scmp (d : BitVec 7) (a : BitVec 7) (b : BitVec 7) (c : BitVec 3)
  /-- SADDI (R208). Adds a sign-extended 12-bit immediate to a uniform register. -/
  | saddi (d : BitVec 7) (a : BitVec 7) (i : BitVec 12)
  /-- SMOVW (R208). Writes a 16-bit immediate into one quarter of a uniform register. -/
  | smovw (d : BitVec 7) (z : BitVec 1) (p : BitVec 2) (i : BitVec 16)
  /-- LD (R82). Loads b bytes per enabled lane into a vector register. -/
  | ld (d : BitVec 7) (a : BitVec 7) (s : BitVec 3) (p : BitVec 2) (o : BitVec 7)
  /-- ST (R83). Stores b bytes per enabled lane. -/
  | st (d : BitVec 7) (a : BitVec 7) (s : BitVec 3) (p : BitVec 2) (o : BitVec 7)
  /-- LDS (R85). Loads from the block's scratchpad. -/
  | lds (d : BitVec 7) (a : BitVec 7) (s : BitVec 3) (o : BitVec 7)
  /-- STS (R85). Stores into the block's scratchpad. -/
  | sts (d : BitVec 7) (a : BitVec 7) (s : BitVec 3) (o : BitVec 7)
  /-- LDU (R86). Loads once per group into a uniform register. -/
  | ldu (d : BitVec 7) (a : BitVec 7) (s : BitVec 3) (p : BitVec 2) (o : BitVec 7)
  /-- STU (R86). Stores a uniform register once per group. -/
  | stu (d : BitVec 7) (a : BitVec 7) (s : BitVec 3) (p : BitVec 2) (o : BitVec 7)
  /-- ATOM_W (R89). Performs a 32-bit atomic read-modify-write selected by AOP. -/
  | atomW (d : BitVec 7) (a : BitVec 7) (b : BitVec 7) (o : BitVec 4) (r : BitVec 1)
  /-- ATOM_D (R89). Performs a 64-bit atomic read-modify-write selected by AOP. -/
  | atomD (d : BitVec 7) (a : BitVec 7) (b : BitVec 7) (o : BitVec 4) (r : BitVec 1)
  /-- MCAS (R109). Compares up to eight scattered words and replaces all of them as one event. -/
  | mcas (d : BitVec 7) (a : BitVec 7)
  /-- WAITCMP (R97). Parks the group until a word at home meets a masked condition or a deadline passes. -/
  | waitcmp (d : BitVec 7) (a : BitVec 7) (b : BitVec 7) (c : BitVec 3)
  /-- FENCE (R101). Orders the thread's accesses, and engine commands for kind eng, at its scope. -/
  | fence (k : BitVec 1)
  /-- CMNT (R102). Performs a cache prefetch, write-back, invalidation or zeroing on a line. -/
  | cmnt (a : BitVec 7) (k : BitVec 3)
  /-- QPUSH (R139). Appends a vector to a scatter stream or builds a feed FIFO slice. -/
  | qpush (q : BitVec 4) (f : BitVec 3) (a : BitVec 7) (b : BitVec 7)
  /-- QPOP (R139). Removes the head of a stream or completion queue into a register. -/
  | qpop (q : BitVec 4) (a : BitVec 7)
  /-- QPEEK (R139). Reads the head of a queue without removing it. -/
  | qpeek (q : BitVec 4) (a : BitVec 7)
  /-- QSTAT (R139). Returns the fill state of a queue register. -/
  | qstat (q : BitVec 4) (a : BitVec 7)
  /-- CPYB (R126). Issues a linear byte copy to a core channel or bulk engine. -/
  | cpyb (q : BitVec 4) (s : BitVec 3) (a : BitVec 7) (b : BitVec 7)
  /-- CPYT (R127). Issues a tile copy to memory or into a feed FIFO. -/
  | cpyt (q : BitVec 4) (f : BitVec 3) (s : BitVec 3) (a : BitVec 7) (b : BitVec 7)
  /-- CPYH (R128). Issues a strided box copy to the halo engine. -/
  | cpyh (q : BitVec 4) (s : BitVec 3) (a : BitVec 7)
  /-- CPYC (R129). Issues a compaction of bound-reserved segments. -/
  | cpyc (q : BitVec 4) (s : BitVec 3) (a : BitVec 7) (b : BitVec 7)
  /-- SEAL (R136). Closes each thread's open copies into a numbered batch. -/
  | seal (a : BitVec 7)
  /-- WAITB (R136). Waits until the named sealed batches are complete, then invalidates L1. -/
  | waitb (a : BitVec 7)
  /-- RDWP (R132). Returns a core channel's completion word and acquires its delivered bytes. -/
  | rdwp (q : BitVec 2) (a : BitVec 7)
  /-- STRM (R140). Binds a stream register to an indexed or fibre stream record. -/
  | strm (q : BitVec 3) (a : BitVec 7)
  /-- VLK (R161). Looks up the leaf address holding each lane's coordinate. -/
  | vlk (d : BitVec 7) (a : BitVec 7) (b : BitVec 7)
  /-- VLD1 (R162). Reads one voxel value per lane from the tree. -/
  | vld1 (d : BitVec 7) (a : BitVec 7) (b : BitVec 7) (t : BitVec 2)
  /-- VLD7 (R163). Reads the centre and six face neighbours as FP32. -/
  | vld7 (d : BitVec 7) (a : BitVec 7) (b : BitVec 7)
  /-- VLD27 (R164). Reads the 27-voxel neighbourhood as FP32. -/
  | vld27 (d : BitVec 7) (a : BitVec 7) (b : BitVec 7)
  /-- VST1 (R165). Writes one voxel value per lane into a present leaf. -/
  | vst1 (d : BitVec 7) (a : BitVec 7) (b : BitVec 7) (t : BitVec 2)
  /-- VACT (R166). Sets or clears a voxel's active bit with an atomic on its mask dword. -/
  | vact (a : BitVec 7) (b : BitVec 7) (s : BitVec 1)
  /-- VMARCH (R167). Marches one ray per lane through voxel space to a hit, miss or step limit. -/
  | vmarch (d : BitVec 7) (a : BitVec 7) (b : BitVec 7)
  /-- VINS (R168). Inserts the leaf holding each lane's coordinate through the allocator engine. -/
  | vins (d : BitVec 7) (a : BitVec 7) (b : BitVec 7)
  /-- MMA (R239). Queues a 64-row block-FP product on a core pair whose partials merge into C. -/
  | mma (q : BitVec 4) (f : BitVec 3) (s : BitVec 3) (a : BitVec 7) (b : BitVec 7)
  /-- MMA1 (R239). Queues a 32-row block-FP product on one core's array. -/
  | mma1 (q : BitVec 4) (f : BitVec 3) (s : BitVec 3) (a : BitVec 7) (b : BitVec 7)
  /-- MZERO (R243). Queues the zeroing of an accumulator tile. -/
  | mzero (q : BitVec 4) (a : BitVec 7) (b : BitVec 7)
  /-- MOUT (R243). Queues the conversion of an accumulator tile to the output format. -/
  | mout (q : BitVec 4) (f : BitVec 3) (a : BitVec 7) (b : BitVec 7)
  /-- TDECL (R246). Declares a dependency-table task from a task record. -/
  | tdecl (a : BitVec 7)
  /-- TSIG (R247). Releases and adds a delta to a tag count. -/
  | tsig (a : BitVec 7) (b : BitVec 7)
  /-- TWAIT (R247). Waits until a tag count is zero, then acquires at package scope. -/
  | twait (a : BitVec 7)
  /-- TQRY (R247). Returns a tag count and the number of waiting tasks. -/
  | tqry (a : BitVec 7) (b : BitVec 7)
  /-- TASK_ISSUE (R246). Issues a waiting task once every input tag is ready and its queue has room. -/
  | taskIssue (blk : Nat) (task : Nat)
  /-- BRA (R270). Moves each lane whose guard holds to the target clause. -/
  | bra (c : BitVec 4) (r : BitVec 5) (i : BitVec 17)
  /-- CALL (R270). Branches like BRA and writes the return header into lr of taken lanes. -/
  | call (c : BitVec 4) (r : BitVec 5) (i : BitVec 17)
  /-- JMP (R271). Moves each lane to the address in A. -/
  | jmp (a : BitVec 7)
  /-- RET (R271). Moves each lane to the address in its lr. -/
  | ret
  /-- RET_GET (R271). Copies lr into a vector register. -/
  | retGet (d : BitVec 7)
  /-- RET_SET (R271). Writes lr from a register. -/
  | retSet (a : BitVec 7)
  /-- EXIT (R272). Ends each issuing thread once its stores, commands and issued tasks are done. -/
  | exit
  /-- YIELD (R273). Moves lanes to the next header and deprioritises their entry. -/
  | yield
  /-- BAR (R275). Releases at block scope and waits until every group of the block arrives. -/
  | bar
  /-- BARC (R275). Releases at cluster scope and waits for every group of the cluster. -/
  | barc
  /-- QUIESCE (R278). Releases at package scope and waits for the diagonal check of a phase instance. -/
  | quiesce (p : BitVec 3)
  /-- NOP (R274). Moves the lanes to the next clause header. -/
  | nop
  /-- LAUNCH (R294). Checks a launch record and writes a launch packet into a user queue. -/
  | launch (d : BitVec 7) (a : BitVec 7) (b : BitVec 7)
  /-- RQPUSH (R292). Pushes one record per lane into a record queue. -/
  | rqpush (d : BitVec 7) (a : BitVec 1) (b : BitVec 7)
  /-- RQPOP (R293). Pops records in push order into active lanes. -/
  | rqpop (d : BitVec 7) (a : BitVec 1) (b : BitVec 4)
  /-- TRAP (R317). Raises class 13 with the given code. -/
  | trap (n : BitVec 7)
  /-- PEMIT (R338). Writes each lane's primitive into the bins of its owner dies and advances the mark. -/
  | pemit (d : BitVec 7) (a : BitVec 7) (b : BitVec 7)
  /-- PEMIT_END (R338). Closes the producer by storing all ones in its mark. -/
  | pemitEnd (a : BitVec 7)
  /-- PATTR (R337). Sets one pending attribute slot of the lane. -/
  | pattr (a : BitVec 7) (j : BitVec 3)
  /-- PCOV (R342). Reads coverage, barycentrics, depth, sequence or an attribute for the pixel. -/
  | pcov (d : BitVec 7) (c : BitVec 4)
  /-- PEXP (R342). Records the fragment's exported colour. -/
  | pexp (a : BitVec 7)
  /-- PKILL (R342). Marks the fragment discarded. -/
  | pkill
  /-- PDEPTH (R342). Sets the fragment's depth. -/
  | pdepth (a : BitVec 7)
  /-- CSRRD (R321). Reads a system register. -/
  | csrrd (d : BitVec 7) (b : BitVec 7)
  /-- CSRWR (R321). Writes a system register. -/
  | csrwr (a : BitVec 7) (b : BitVec 7)
  /-- CSRWR_SET (R321). ORs a value into a system register. -/
  | csrwrSet (a : BitVec 7) (b : BitVec 7)
  /-- CSRWR_CLR (R321). Clears bits of a system register. -/
  | csrwrClr (a : BitVec 7) (b : BitVec 7)
  /-- TLBINV (R322). Invalidates translations of a page range and waits for the shootdown. -/
  | tlbinv (a : BitVec 7) (b : BitVec 7)
  /-- TLBINV_ASN (R322). Invalidates every non-global translation of the context's address space. -/
  | tlbinvAsn
  /-- ERET (R316). Returns from a trap handler to EPC and leaves handler mode. -/
  | eret
  /-- SNAP (R323). Fires the context's snapshot trigger with a tag. -/
  | snap (d : BitVec 7) (a : BitVec 7)
  /-- WAITT (R295). Holds the lanes until the timebase reaches a deadline. -/
  | waitt (d : BitVec 7) (a : BitVec 7)
  /-- CLAUSE_FETCH (R26). Fetches a clause and checks its header and words as a whole. -/
  | clauseFetch (blk : Nat) (grp : Nat) (path : Nat)
  /-- CLAUSE_CONDITIONS_MET (R25). Issues a clause's first word once HOLD, SDRAIN and BWAIT conditions hold. -/
  | clauseConditionsMet (blk : Nat) (grp : Nat) (path : Nat)
  /-- WAITING_WORD_RESUME (R30). Completes a waiting word once its queue, batch, barrier, tag or room condition is met. -/
  | waitingWordResume (blk : Nat) (grp : Nat) (path : Nat)
  /-- FAIRNESS_TIMER_EXPIRY (R264). Makes an entry whose wait counter reached the fairness timer the chosen entry. -/
  | fairnessTimerExpiry (blk : Nat) (grp : Nat) (path : Nat)
  /-- YIELD_TIMEOUT (R273). Ends the deprioritisation of a yielded entry after 64 cycles. -/
  | yieldTimeout (blk : Nat) (grp : Nat) (path : Nat)
  /-- WC_ENTRY_DRAIN (R68). Drains a write-combining entry to the die's L2. -/
  | wcEntryDrain (core : Nat) (entry : Nat)
  /-- WC_IDLE_TIMEOUT (R68). Drains an entry after 256 cycles without a write. -/
  | wcIdleTimeout (core : Nat) (entry : Nat)
  /-- STORE_FORWARD_HOME (R63). Performs at home a store written into a replica. -/
  | storeForwardHome (idx : Nat)
  /-- WAITCMP_POLL (R97). Re-reads a waited word every 2 microseconds when no monitor entry is used. -/
  | waitcmpPoll (blk : Nat) (grp : Nat) (path : Nat)
  /-- WAITCMP_DEADLINE (R97). Returns a WAITCMP at its deadline with the last value read. -/
  | waitcmpDeadline (blk : Nat) (grp : Nat) (path : Nat)
  /-- PARK_SWAP_TIMEOUT (R98). Makes a block parked 4 microseconds eligible to be swapped off its core. -/
  | parkSwapTimeout (blk : Nat)
  /-- WAITT_WAKE (R295). Wakes WAITT lanes when the timebase reaches the deadline. -/
  | waittWake (blk : Nat) (grp : Nat) (path : Nat)
  /-- L2_REENCODE (R66). Re-encodes a line compressed when the slice is idle. -/
  | l2Reencode (line : Nat)
  /-- CLAMP_GRANT (R111). Grants an MCAS clamp on a line at its home slice in arrival order. -/
  | clampGrant (blk : Nat) (grp : Nat) (path : Nat)
  /-- LINE_MIGRATION (R73). Marks a line moving, copies it to the new home and marks it forwarded. -/
  | lineMigration (old : Nat) (new : Nat)
  /-- MIGRATION_FINISH (R73). Rewrites the entries, makes a shootdown and releases the old page. -/
  | migrationFinish (ctx : Nat) (va : BitVec 64) (new : Nat)
  /-- FORWARDED_ACCESS (R74). Performs once at the new home an access forwarded from the old home. -/
  | forwardedAccess (idx : Nat)
  /-- SHOOTDOWN (R59). Drops named translations on every die and waits for accesses through them. -/
  | shootdown (ctx : Nat) (va : BitVec 64) (size : Nat) (pages : Nat)
  /-- HOST_SNOOP (R70). Invalidates a coherence object's lines on a host or peer snoop and answers. -/
  | hostSnoop (line : Nat) (own : Bool)
  /-- OBJECT_DECLARE (R71). Declares a coherence object from a shape record. -/
  | objectDeclare (q : Nat) (ctx : Nat) (va : BitVec 64)
  /-- OBJECT_SET_STATE (R71). Moves a coherence object to device-only, shared or host-owned. -/
  | objectSetState (q : Nat) (ctx : Nat) (va : BitVec 64)
  /-- OBJECT_REMOVE (R71). Writes back a coherence object's dirty lines and frees its entries. -/
  | objectRemove (q : Nat) (ctx : Nat) (va : BitVec 64)
  /-- L2_DOMAIN_RESET (R76). Puts a die's L2 domain in reset, invalidating replicas and freeing monitors. -/
  | l2DomainReset (die : Nat)
  /-- CORE_DOMAIN_RESET (R75). Puts a die's cores in reset while its memory stays reachable. -/
  | coreDomainReset (die : Nat)
  /-- COPY_COMMAND_START (R125). Starts a queued copy command on its engine once START has passed. -/
  | copyCommandStart (cmd : Nat)
  /-- COPY_ELEMENT_WRITE (R120). Reads and writes the next element at home, revalidating at page boundaries. -/
  | copyElementWrite (cmd : Nat)
  /-- ENGINE_SHOOTDOWN_RESUME (R133). Resumes an engine paused at a page boundary once a shootdown completes. -/
  | engineShootdownResume (cmd : Nat)
  /-- COPY_COMPLETE (R125). Writes the final mirror and flag and completes the command. -/
  | copyComplete (cmd : Nat)
  /-- COMPLETION_QUEUE_PUSH (R125). Pushes a completion word into the group's completion queue when it has room. -/
  | completionQueuePush (cmd : Nat)
  /-- STREAM_GATHER_PREFETCH (R142). Reads indices and elements of a gather or fibre stream into its entries. -/
  | streamGatherPrefetch (blk : Nat) (grp : Nat) (q : Nat)
  /-- STREAM_SCATTER_WRITE (R142). Writes a pushed scatter entry's elements in ascending index order. -/
  | streamScatterWrite (blk : Nat) (grp : Nat) (q : Nat)
  /-- MATRIX_COMMAND_START (R241). Starts the matrix queue's head command on its array. -/
  | matrixCommandStart (core : Nat)
  /-- MMA_K_BLOCK (R239). Pops one K block of slices and forms the exact block products. -/
  | mmaKBlock (core : Nat)
  /-- MMA_RETIRE (R239). Rounds the partials and frees the arrays. -/
  | mmaRetire (core : Nat)
  /-- MATRIX_MERGE (R240). Merges a partial into its accumulator element at home with one RNE rounding. -/
  | matrixMerge (cmd : Nat) (elem : Nat)
  /-- MATRIX_COMMAND_COMPLETE (R242). Completes a matrix command and pushes its completion word. -/
  | matrixCommandComplete (cmd : Nat)
  /-- MATRIX_STATE_SAVE (R230). Saves another context's leftover matrix state to free a core pair. -/
  | matrixStateSave (core : Nat)
  /-- MATRIX_STATE_RESTORE (R230). Restores a context's saved matrix state before placing its block on the pair. -/
  | matrixStateRestore (core : Nat) (ctx : Nat)
  /-- BARRIER_WATCHDOG_EXPIRY (R277). Raises a barrier timeout on every group waiting at an unfinished barrier. -/
  | barrierWatchdogExpiry (inst : Nat)
  /-- QUIESCE_SWEEP (R279). Sums the phase counters over every node for the diagonal check. -/
  | quiesceSweep (grid : Nat) (phase : Nat)
  /-- KERNEL_WATCHDOG_EXPIRY (R312). Raises class 9 on every resident group of a grid whose time reached KWD. -/
  | kernelWatchdogExpiry (grid : Nat)
  /-- PACKET_LAUNCH (R284). Reads and checks a launch record from a user queue packet. -/
  | packetLaunch (q : Nat)
  /-- PACKET_WAIT (R281). Takes a wait packet once the word at ADDR is at least VALUE. -/
  | packetWait (q : Nat)
  /-- PACKET_SIGNAL (R281). Stores VALUE at ADDR as a system-scope release. -/
  | packetSignal (q : Nat)
  /-- LAUNCH_ACCEPT (R285). Accepts a launch once START has passed and BARRIER is met, prefetching parameters. -/
  | launchAccept (q : Nat)
  /-- QUEUE_SLOT_MAP (R282). Maps a waiting user queue onto a hardware queue slot. -/
  | queueSlotMap (q : Nat) (slot : Nat)
  /-- SLOT_TIME_EXPIRY (R282). Gives up a slot after 100 microseconds to a waiting queue of its class. -/
  | slotTimeExpiry (slot : Nat)
  /-- SLOT_REMAP_BEFORE_START (R285). Maps a queue again 1 microsecond before its head launch's START. -/
  | slotRemapBeforeStart (q : Nat) (slot : Nat)
  /-- LEAF_SCAN (R170). Scans the tree and numbers one block per leaf with an active bit. -/
  | leafScan (grid : Nat)
  /-- BLOCK_START (R288). Places a block on a core and starts its groups. -/
  | blockStart (grid : Nat) (core : Nat)
  /-- PRIORITY_WAIT_TIMEOUT (R283). Pre-empts lower-class blocks after a higher-class block waits 100 microseconds. -/
  | priorityWaitTimeout (grid : Nat)
  /-- GRID_COMPLETE (R286). Releases a finished grid's writes at system scope and stores SIGVAL. -/
  | gridComplete (grid : Nat)
  /-- RQ_BATCH_START (R290). Takes a batch of records, sorts it and starts a consumer block. -/
  | rqBatchStart (grid : Nat) (core : Nat)
  /-- RQ_FLUSH_EXPIRY (R290). Starts a partial batch once its oldest record has waited FLUSH ns. -/
  | rqFlushExpiry (grid : Nat) (core : Nat)
  /-- PREEMPT_CONTEXT (R324). Stops a context's units at their stop points and saves its state. -/
  | preemptContext (ctx : Nat)
  /-- BLOCK_SWAP (R98). Swaps a parked block off its core, keeping its monitor entries. -/
  | blockSwap (blk : Nat)
  /-- BLOCK_RESUME (R326). Restores a saved block on a core and continues its lanes. -/
  | blockResume (blk : Nat) (core : Nat)
  /-- COW_SERVICE (R313). Takes a pool page, copies the old page, rewrites the entries and shoots down. -/
  | cowService (idx : Nat)
  /-- COW_REISSUE (R313). Issues the faulting word again once the shootdown completes. -/
  | cowReissue (idx : Nat)
  /-- TERMINATE_CONTEXT (R310). Stops and frees a context after a fatal fault without touching others. -/
  | terminateContext (ctx : Nat)
  /-- COVERAGE_TAKE_PRIMITIVE (R339). Takes the least head primitive once every mark covers it and rasterises it. -/
  | coverageTakePrimitive (frame : Nat) (die : Nat)
  /-- PIXEL_GROUP_START (R340). Starts a pixel group of covered quads running the PREC kernel. -/
  | pixelGroupStart (frame : Nat) (die : Nat) (core : Nat)
  /-- TILE_FLUSH (R341). Writes a resident tile to the spill area to free a buffer. -/
  | tileFlush (frame : Nat) (die : Nat)
  /-- ORDERED_BLEND_APPLY (R343). Applies a primitive's fragments in sequence order with depth test and blend. -/
  | orderedBlendApply (frame : Nat) (die : Nat) (tile : Nat)
  /-- FRAME_WRITEBACK (R344). Writes an owner's touched tiles back to COLOR and DEPTH at frame end. -/
  | frameWriteback (frame : Nat) (die : Nat)
  /-- PARTITION_CREATE (R346). Creates a partition with its cores, region sets, windows and slots. -/
  | partitionCreate (part : Nat) (cfg : PartCfg)
  /-- PARTITION_DESTROY (R346). Destroys a partition. -/
  | partitionDestroy (part : Nat)
  /-- WINDOW_ASSIGN (R346). Adds or removes a host or peer window of a partition. -/
  | windowAssign (part : Nat) (add : Bool) (win : Window)
  /-- VF_BIND (R346). Binds a virtual function to a partition. -/
  | vfBind (vf : Nat) (part : Nat)
  /-- CONTEXT_CREATE (R347). Creates a context with its address-space number and system registers. -/
  | contextCreate (vf : Nat) (cfg : CtxCfg)
  /-- QUEUE_RESTART (R280). Restarts a stopped user queue at the host driver's request. -/
  | queueRestart (q : Nat)
  /-- COWPOOL_ADD_PAGES (R356). Adds pages to a copy-on-write pool list between services. -/
  | cowpoolAddPages (ctx : Nat) (size : Nat) (pages : List Nat)
  /-- SNAPSHOT_CONFIGURE (R352). Configures a snapshot set's sources. -/
  | snapshotConfigure (ctx : Nat) (set : Nat) (cfg : SnapCfg)
  /-- SNAPSHOT_TIME_MATCH (R352). Fires a snapshot trigger when the timebase matches. -/
  | snapshotTimeMatch (ctx : Nat) (set : Nat)
  /-- SNAPSHOT_READ_REARM (R352). Reads a latched snapshot set and rearms it. -/
  | snapshotReadRearm (ctx : Nat) (set : Nat)
  /-- MONITOR_HISTOGRAM_RESET (R353). Resets a latency or level monitor. -/
  | monitorHistogramReset (mon : Nat)
  /-- ERROR_COUNTER_READ (R355). Returns a soft-error counter to the host driver. -/
  | errorCounterRead (ctr : Nat)
  /-- ERROR_COUNTER_CLEAR (R355). Clears a soft-error counter. -/
  | errorCounterClear (ctr : Nat)
  /-- ATTESTATION_REPORT (R349). Signs a report of the nonce, measurements and partition configuration. -/
  | attestationReport (part : Nat) (nonce : List (BitVec 8))
  /-- CERTIFICATE_CHAIN_READ (R349). Returns the identity key's certificate chain over CXL.io. -/
  | certificateChainRead
  /-- POWER_GOOD (R350). Runs bring-up in order from firmware verification to Perram training. -/
  | powerGood (boot : BootCfg)
  /-- POWER_REMOVE (R351). Loses every memory, register and counter. -/
  | powerRemove
  /-- SOFT_ERROR (R328). Corrects an error or poisons the granule or entry. -/
  | softError (err : SoftErr)
  /-- PATROL_SCRUB (R328). Scrubs HBM4 and corrects errors found. -/
  | patrolScrub (stack : Nat) (corrected : Nat)
  /-- L2_DOMAIN_OUT_OF_RESET (R76). A shader die's L2 domain leaves reset, so accesses whose home lies there stop raising home unreachable. -/
  | l2DomainOutOfReset (die : Nat)
  /-- CORE_DOMAIN_OUT_OF_RESET (R75). A shader die's core domain leaves reset and its cores can again take blocks. -/
  | coreDomainOutOfReset (die : Nat)
  /-- HOST_REGISTER_WRITE (R318). The host driver writes a P system register of a context, such as CTL, TBR, FREC, SAVE or COWPOOL. -/
  | hostRegisterWrite (ctx : Nat) (reg : Nat) (val : BitVec 64)
  /-- HOST_OR_PEER_ACCESS (R348). A load, store or atomic arriving from the host over CXL.mem or from a Perram peer is performed at this device's home slice or memory controller. -/
  | hostOrPeerAccess (acc : ExtAccess)
  deriving DecidableEq, Repr

end Sys2Proof
end

