-- ==== Sys2Proof/Machine/State.lean ====
section
/-!
DEFINITION. The state of the part as plain data: everything the spec gives the machine, each field with the rule
that names it; the reasons a step can stop; and the state at power-on, before bring-up has run.
Lists that only grow (blocks, grids, contexts, commands, queues, frames) name their members by position.
-/

namespace Sys2Proof.Machine

/-! ### A sparse map with a default -/

/-- A map from natural numbers that lists only what differs from the default of its type. -/
abbrev SMap (α : Type) := List (Nat × α)

/-! ### Faults -/

/-- A fault as the faulting word raises it (spec/19 R303, R308, R309). -/
structure Flt where
  cls : Nat
  cause : Nat
  unit : Nat := 0
  lane : Nat := 255
  index : Nat := 0
  addr : Word := 0
  detail : Word := 0
  detail2 : Word := 0
  /-- PC of the record where it is not the faulting word (an illegal clause, spec/19 R307) -/
  pcAt : Option Word := none
  /-- where the leaf of a copy-on-write page lies (spec/19 R313) -/
  leafAt : Nat := 0
  deriving DecidableEq, Repr, Inhabited

/-- A captured fault: what the fault record holds (spec/19 R307). -/
structure FaultRec where
  flt : Flt
  core : Nat
  group : Nat
  pc : Word
  x : Nat
  y : Nat
  z : Nat
  cluster : Nat
  word : Code
  pfx : Code
  launch : Word
  time : Word
  deriving DecidableEq, Repr, Inhabited

/-- The kind of an access (spec/19 R309). -/
inductive Acc where
  | load | store | atomic | fetch | walkRead | walkWrite | walkAtomic | engRead | engWrite | mcas
  deriving DecidableEq, Repr, Inhabited

/-! ### Address translation -/

/-- A cached leaf (spec/03 R58): the tag (partition and address-space number), the page it translates, the leaf
entry and where the walker found it. -/
structure TlbEntry where
  part : Nat
  asn : Nat
  vbase : Nat
  size : Nat
  pte : Nat
  at_ : Nat
  deriving DecidableEq, Repr, Inhabited

/-- A cached table pointer (spec/03 R58). -/
structure WalkEntry where
  part : Nat
  asn : Nat
  level : Nat
  vpfx : Nat
  table : Nat
  deriving DecidableEq, Repr, Inhabited

/-- Who makes an access: a core of a die, or a die's engine or walker, for a context. The model's own grouping. -/
structure Ag where
  core : Option Nat
  die : Nat
  ctx : Nat
  deriving DecidableEq, Repr, Inhabited

/-- A translated access: the physical address and the leaf. -/
structure Tr where
  pa : Nat
  pte : Nat
  at_ : Nat
  vbase : Nat
  span : Nat
  deriving DecidableEq, Repr, Inhabited

/-- A shootdown started and not completed (spec/03 R59). -/
structure Shoot where
  part : Nat
  asn : Nat
  lo : Nat
  hi : Nat
  deriving DecidableEq, Repr, Inhabited

/-! ### Lines -/

/-- A whole 128-byte line held by an L1 (spec/03 R62). -/
structure Line where
  line : Nat
  data : BitVec 1024
  /-- granules that came poisoned (spec/19 R329) -/
  pz : BitVec 16
  deriving DecidableEq, Repr, Inhabited

/-- A whole 128-byte line held as a replica (spec/03 R63, R64). It takes a slot of its die's L2 (log 108): the eviction priority
it was allocated with, and when it was last used. -/
structure Replica where
  line : Nat
  data : BitVec 1024
  gen : Nat
  pz : BitVec 16
  evp : Nat
  used : Nat
  deriving DecidableEq, Repr, Inhabited

/-- How the home slice holds a line (spec/03 R65). -/
inductive Enc where
  | whole | zero | b8d1 | b4d1 | b8d2
  deriving DecidableEq, Repr, Inhabited

/-- What a tag of a slice's set names: a home line, or a replica (log 108), with the halves of slots it takes. -/
structure Tag where
  rep : Bool
  line : Nat
  halves : Nat
  evp : Nat
  used : Nat
  deriving DecidableEq, Repr, Inhabited

/-- A line held at its home slice (spec/03 R65 to R67). -/
structure HomeLine where
  line : Nat
  /-- its page has CMP = 1 -/
  cmp : Bool
  enc : Enc
  dirty : Bool
  evp : Nat
  /-- when it was last used: greater is later, replicas counted too -/
  used : Nat
  deriving DecidableEq, Repr, Inhabited

/-- One entry of a core's write-combining buffer (spec/03 R68). -/
structure WcEntry where
  line : Nat
  data : BitVec 1024
  mask : BitVec 128
  /-- the leaf it was written through, for its attributes -/
  pte : Nat
  groups : List (Nat × Nat)
  last : Word
  /-- granules that one of its stores covered whole (spec/19 R329) -/
  whole : BitVec 16
  deriving DecidableEq, Repr, Inhabited

/-- A store on its way to the home of its line (spec/03 R63). -/
structure Fwd where
  line : Nat
  data : BitVec 1024
  mask : BitVec 128
  pte : Nat
  groups : List (Nat × Nat)
  /-- the core it was made on -/
  core : Nat
  /-- granules that one store of it covered whole (spec/19 R329) -/
  whole : BitVec 16
  deriving DecidableEq, Repr, Inhabited

/-- One condition monitor entry (spec/03 R69). -/
structure Monitor where
  pa : Nat
  cond : BitVec 3
  cmp : Word
  mask : Word
  blk : Nat
  grp : Nat
  lanes : BitVec 32
  deriving DecidableEq, Repr, Inhabited

/-- A clamp on a line, granted or requested, in order of arrival (spec/05 R111). -/
structure Clamp where
  line : Nat
  blk : Nat
  grp : Nat
  lanes : BitVec 32
  granted : Bool
  deriving DecidableEq, Repr, Inhabited

/-- One entry of an MCAS, translated (spec/05 R106, R109): width in bytes, expected and new values. -/
structure McasEntry where
  va : Word
  bytes : Nat
  expected : Nat
  new : Nat
  tr : Tr
  deriving DecidableEq, Repr, Inhabited

/-- A line under migration: moving, then forwarded (spec/03 R73). -/
structure Migr where
  old : Nat
  new : Nat
  forwarded : Bool
  deriving DecidableEq, Repr, Inhabited

/-- A coherence object (spec/03 R70, R71); its lines are the rows from `first`. State: 0 device-only, 1 shared, 2 host-owned. -/
structure CohObj where
  ctx : Nat
  handle : Nat
  first : Nat
  rows : Nat
  rowLines : Nat
  strideLines : Nat
  st : Nat
  deriving DecidableEq, Repr, Inhabited

/-! ### Prefix words -/

/-- The fields of a prefix word (spec/02 R31). -/
structure Pfx where
  mask : Nat
  zm : Bool
  rm : Nat
  op4 : Nat
  sel : Nat
  scope : Nat
  ord : Nat
  deriving DecidableEq, Repr, Inhabited

/-- Which fields of a prefix word apply to an instruction (spec/02 R32). -/
structure PfxUse where
  mask : Bool := false
  zm : Bool := false
  rm : Bool := false
  op4 : Bool := false
  sel : Bool := false
  mem : Bool := false
  deriving DecidableEq, Repr, Inhabited

/-! ### Paths and groups -/

/-- A clause being issued (spec/02 R24 to R26): its header's address and word, its words, and whether its
conditions have held. -/
structure Clause where
  header : Word
  hdr : Code
  words : List Code
  ready : Bool
  deriving DecidableEq, Repr, Inhabited

/-- A parked WAITCMP (spec/04 R97): `got` is the value of the write or poll that made the condition true. -/
structure CmpWait where
  deadline : Option Nat
  last : Word
  pa : Nat
  cl : Nat
  cond : BitVec 3
  cmp : Word
  mask : Word
  polling : Bool
  got : Option Word
  since : Word
  deriving DecidableEq, Repr, Inhabited

/-- An MCAS event asked for (spec/05 R109 to R114): its entries, where the observed values of an event that fails go, and
once the event has been performed what it observed and its result word. -/
structure McasSt where
  entries : List McasEntry
  wbo : List Tr
  obs : Option (List Nat)
  result : Word
  deriving DecidableEq, Repr, Inhabited

/-- Why a VINS gives a slot back (spec/05 R118, R119): having lost the race, with the root table full, or before a fault. -/
inductive VinsWhy where
  | lost | full
  | fault (f : Flt)
  deriving DecidableEq, Repr, Inhabited

/-- What a lane of a VINS inserts and where (spec/05 R118): kind 0 is an upper node, 1 a lower node, 2 a leaf; the node below which
it is missing, or the root entry; the mask dword read there. -/
structure VinsPlace where
  kind : Nat
  node : Word
  entry : Nat
  m : Nat
  deriving DecidableEq, Repr, Inhabited

/-- Where a lane of a VINS stands (spec/05 R118, R119). -/
inductive VinsStage where
  | look
  /-- below a node found or inserted: 1 an upper node, 2 a lower node -/
  | under (kind node : Nat)
  | reserve (p : VinsPlace)
  | fill (p : VinsPlace) (slot : Nat)
  | insert (p : VinsPlace) (slot : Nat)
  /-- the inserting event failed: its place is read again -/
  | again (p : VinsPlace) (slot : Nat)
  | giveBack (p : VinsPlace) (slot : Nat) (why : VinsWhy)
  /-- what another agent has inserted is read, the slot having gone back -/
  | won (p : VinsPlace)
  | report (f : Flt)
  deriving DecidableEq, Repr, Inhabited

/-- Progress of a VINS (spec/05 R118): the tree record as it read it, the lanes it has done, the stage of the one at work, the MCAS
event it asks for with the slot that reserves, and the results of the lanes before it: lane, address, result word. -/
structure VinsSt where
  tree : List Nat
  lane : Nat
  stage : VinsStage
  op : Option (Nat × McasSt)
  results : List (Nat × Word × Word)
  deriving DecidableEq, Repr, Inhabited

/-- Why a path waits at its word (spec/02 R30, spec/13 R264). -/
inductive Wait where
  /-- the word issues again when its queue, batch, tag, room or drain condition is met -/
  | retry
  | cmp (w : CmpWait)
  | time (deadline : Nat)
  | bar
  | barc
  | quiesce (phase : Nat)
  /-- a copy-on-write fault is being served (spec/19 R313) -/
  | service (idx : Nat)
  | vins (v : VinsSt)
  /-- an MCAS holds or asks for clamps, or has its observed values still to store -/
  | mcas (m : McasSt)
  deriving DecidableEq, Repr, Inhabited

/-- One path of a group: the lanes that stand at one pc, which is the group's part of an entry of the issue
table (spec/13 R262 to R264). -/
structure Path where
  lanes : BitVec 32
  pc : Word
  cl : Option Clause := none
  wait : Option Wait := none
  since : Word := 0
  ctr : Nat := 0
  yieldAt : Option Word := none
  /-- when its wait counter reached the fairness timer, in cycles of its core (spec/13 R264) -/
  fair : Option Nat := none
  stopped : Bool := false
  /-- it ran when its block was swapped off its core (spec/04 R98) -/
  paused : Bool := false
  /-- the entry of the core's issue table that it stands in (spec/13 R262) -/
  entry : Option Nat := none
  /-- the entry that it has left for another word, until it is seated again -/
  left : Option Nat := none
  deriving DecidableEq, Repr, Inhabited

/-- One buffered entry of a stream (spec/06 R143): its lanes' values, or the fault its read met. -/
inductive StreamEntry where
  | vals (l : List Word)
  | flt (f : Flt)
  deriving DecidableEq, Repr, Inhabited

/-- One level of a fibre walk in progress (spec/06 R144, R145): the parent position, the next child, the bound, what was
read for the current child (a bitmap dword and base, or a run's start, length and offset), and its coordinate. -/
structure WalkFrame where
  p : Nat
  cur : Nat
  hi : Nat
  base : Nat
  word : Nat
  start : Nat
  len : Nat
  off : Nat
  coord : Nat
  deriving DecidableEq, Repr, Inhabited

/-- A bound stream register (spec/06 R140 to R145). `dir` is fixed by the first pop (false) or push (true). -/
structure Stream where
  base : Word
  index : Word
  count : Nat
  mode : Nat
  esz : Nat
  ch : Nat
  isz : Nat
  dir : Option Bool
  pops : Nat
  pushes : Nat
  buf : List StreamEntry
  /-- lanes read of the entry being fetched; the format record read and the levels of the walk, outermost first -/
  part : List Word
  fmt : List Nat
  frames : List WalkFrame
  /-- fibre: whether this register yields coordinates, and whether its walk has ended -/
  coord : Bool
  ended : Bool
  /-- the group's number of this binding, so that pushes of an earlier binding stay apart -/
  bind : Nat
  deriving DecidableEq, Repr, Inhabited

/-- The pixel of a lane of a pixel group and what its fragment has recorded (spec/21 R342). -/
structure Frag where
  colour : Option (BitVec 32)
  killed : Bool
  depth : Option (BitVec 32)
  deriving DecidableEq, Repr, Inhabited

/-- One group (spec/09 R186, spec/13 R261): registers as one list of 32 lane values per vector register. -/
structure Group where
  vregs : List (List Word)
  sregs : List Word
  kregs : List (BitVec 256)
  lr : List Word
  epc : List Word
  hscr : List Word
  handler : BitVec 32
  cause : Word
  faddr : Word
  /-- of each thread, the clause its last trap was taken in, and the trapping word (spec/19 R316) -/
  traps : List (Option (Clause × Word))
  /-- lane positions that hold a thread; helper lanes; threads that have executed EXIT -/
  present : BitVec 32
  helper : BitVec 32
  exited : BitVec 32
  paths : List Path
  /-- QUIESCE words each thread has issued on each phase, phase-major (spec/13 R278) -/
  qcount : List (List Nat)
  /-- batch counter of each thread, its open copies, and the sealed batches (lane, number, commands) (spec/06 R136) -/
  batch : List Nat
  opens : List (List Nat)
  sealed_ : List (Nat × Nat × List Nat)
  streams : List (Option Stream)
  binds : Nat
  /-- completion queues q12 to q15 (spec/06 R138) -/
  cqs : List (List Word)
  records : List Word
  /-- pending attributes of each lane, eight slots of three FP32 patterns (spec/21 R337) -/
  attrs : List (List (BitVec 32 × BitVec 32 × BitVec 32))
  frags : List Frag
  /-- discarded stores owed a home-unreachable fault: its DETAIL (spec/03 R76) -/
  owed : Option Nat
  /-- poisoned register entries: operand code and lane (lane 32 for a uniform or mask register) (spec/19 R329) -/
  poison : List (Nat × Nat)
  deriving DecidableEq, Repr, Inhabited

/-! ### Blocks and grids -/

/-- A waiting or issued dependency-table task (spec/11 R246). -/
structure Task where
  rec_ : Word
  word : Code
  out : Nat
  tag : Nat
  ins : Word
  av : List Word
  bv : Word
  grp : Nat
  lanes : BitVec 32
  /-- the order in which it became ready (spec/11 R246) -/
  ready : Option Nat
  issued : Bool
  done : Bool
  deriving DecidableEq, Repr, Inhabited

/-- A primitive as a bin entry holds it (spec/21 R335): nine FP32 patterns and eight attribute slots. -/
structure Prim where
  seq : Nat
  /-- the producer whose bin it stood in (spec/21 R344) -/
  producer : Nat
  pos : List (BitVec 32)
  attrs : List (BitVec 32 × BitVec 32 × BitVec 32)
  deriving DecidableEq, Repr, Inhabited

/-- What a pixel group shades (spec/21 R340): frame, die, tile, primitive, pixel and covered samples of each lane. -/
structure PixelInfo where
  frame : Nat
  die : Nat
  tx : Nat
  ty : Nat
  prim : Prim
  px : List (Nat × Nat)
  cov : List (BitVec 8)
  deriving DecidableEq, Repr, Inhabited

/-- One block (spec/13 R261, R275; spec/14 R288, R290). -/
structure Block where
  grid : Nat
  ctx : Nat
  number : Nat
  x : Nat
  y : Nat
  z : Nat
  cluster : Nat
  rank : Nat
  /-- %core of the core it is resident on; none while saved (spec/19 R326) -/
  core : Option Nat
  /-- the core it was last resident on: its cluster and its core's matrix state are placed by it (spec/11 R229, R230) -/
  last : Nat
  ended : Bool
  /-- parked long enough to be swapped off (spec/04 R98) -/
  swapOk : Bool
  groups : List Group
  leaf : Word
  leafOrg : Word
  scratch : List Host.Cell
  scratchPoison : List Nat
  scratchSize : Nat
  barArr : List Nat
  barInst : Nat
  barcArr : List Nat
  barcInst : Nat
  counts : List Nat
  tasks : List Task
  /-- records held: queue address, first record number, how many (spec/14 R289) -/
  held : Option (Word × List Nat)
  pixel : Option PixelInfo
  /-- since when it has waited, saved and ready to go on, for a core (spec/14 R283) -/
  waitSince : Option Word := none
  deriving DecidableEq, Repr, Inhabited

/-- A launch record (spec/14 R284). -/
structure LaunchRec where
  kernel : Word
  gx : Nat
  gy : Nat
  gz : Nat
  block : Nat
  cluster : Nat
  vregs : Nat
  uregs : Nat
  scratch : Nat
  mode : Nat
  prio : Nat
  phases : BitVec 8
  part : Nat
  target : Nat
  plines : Nat
  slots : List Code
  params : Word
  source : Word
  start : Word
  signal : Word
  sigval : Word
  rq0 : Word
  rq1 : Word
  aff : Nat
  adim : Nat
  abase : Word
  asx : Word
  asy : Word
  asz : Word
  /-- every reserved byte is zero -/
  clean : Bool
  deriving DecidableEq, Repr, Inhabited

/-- An accepted grid (spec/14 R285, R286). -/
structure Grid where
  ctx : Nat
  recVa : Word
  lrec : LaunchRec
  queue : Option Nat
  /-- the leaf scan has been made (spec/07 R170): leaf addresses and origins in block order -/
  scanned : Bool
  leaves : List (Word × Word)
  next : Nat
  ended : Nat
  done : Bool
  waitSince : Option Word
  /-- grid time in ns for the kernel watchdog (spec/19 R312) -/
  ns : Nat
  /-- QUIESCE instance of each phase and the first sweep of a pair (spec/13 R279) -/
  qInst : List Nat
  qSweep : List (Option (Nat × Nat))
  /-- mode 2: how far pushes had come, and when that was first so (spec/14 R290) -/
  seen : List (Nat × Word)
  deriving DecidableEq, Repr, Inhabited

/-- The watchdog of a barrier instance (spec/13 R277, spec/20 R330): kind 0 BAR, 1 BARC, 2 QUIESCE; `key` is the
block, the cluster number or the phase. -/
structure BarWatch where
  kind : Nat
  grid : Nat
  key : Nat
  inst : Nat
  limit : Nat
  ns : Nat
  /-- when it reached its limit (spec/20 R331) -/
  hit : Option Word := none
  /-- who waited then: block, group and lanes; and the groups of each block that had arrived and exited, as bits -/
  waits : List (Nat × Nat × BitVec 32) := []
  masks : List (Nat × Nat × Nat) := []
  /-- its faults have been raised -/
  raised : Bool := false
  deriving DecidableEq, Repr, Inhabited

/-! ### Engines -/

/-- The engine that runs a copy command (spec/06 R120). -/
inductive Engine where
  | chan (core ch : Nat)
  | bulk (die : Nat)
  | halo (die : Nat)
  deriving DecidableEq, Repr, Inhabited

inductive CopyKind where
  | cpyb | cpyt | cpyh | cpyc | scatter
  deriving DecidableEq, Repr, Inhabited

/-- Where a command stands (spec/06 R125, R134, R135). `stopped` was running when its block was saved; `pushing` waits for room in its
completion queue. -/
inductive CmdStatus where
  | queued | running | stopped | pushing | done
  deriving DecidableEq, Repr, Inhabited

/-- A copy command or scatter push (spec/06 R122, R125, R142). -/
structure Cmd where
  kind : CopyKind
  ctx : Nat
  blk : Nat
  grp : Nat
  lanes : BitVec 32
  core : Nat
  eng : Engine
  descAt : Word
  src : Word
  dst : Word
  shape : Word
  aux : Word
  scale : Word
  fen : Bool
  phase : Nat
  esz : Nat
  flag : Word
  wpmo : Int
  tag : Nat
  fval : Nat
  start : Word
  q : Nat
  slot : Code
  gran : Nat
  status : CmdStatus
  /-- 0, or the cause of R134 -/
  err : Nat
  flt : Flt
  raised : Bool
  pos : Nat
  wp : Nat
  mirrored : Nat
  /-- what its record or array held: strides and order, or counts -/
  recd : List Int
  /-- bytes still to write of the element at `pos`: how many, their value, and the page of the last of them -/
  rest : Option (Nat × Nat × Tr)
  /-- scatter: the values pushed and the number of the push; for CPYT the slice being built -/
  vals : List Word
  /-- lanes whose elements a scatter push consumes without writing (helper lanes) -/
  skip : BitVec 32
  /-- the source and destination pages it has entered (spec/06 R133) -/
  srcPg : Option Tr
  dstPg : Option Tr
  paused : Bool
  task : Option Nat
  deriving DecidableEq, Repr, Inhabited

/-- A slice of a feed FIFO (spec/11 R233, R234): its tag (width, window), 8·m mantissa bytes a row, and the row
exponents, which stand for its part of the scale memory. -/
structure Slice where
  m : Nat
  window : Nat
  rows : List (List Byte)
  exps : List Nat
  poisoned : Bool
  ctx : Nat
  deriving DecidableEq, Repr, Inhabited

/-- A slice being built by QPUSH (spec/11 R236). -/
structure PartSlice where
  fslot : Nat
  m : Nat
  window : Nat
  pushes : List (List Word)
  exps : List Nat
  ctx : Nat
  deriving DecidableEq, Repr, Inhabited

inductive MatKind where
  | mma | mma1 | mzero | mout
  deriving DecidableEq, Repr, Inhabited

/-- Where a matrix command stands (spec/11 R239, R242). -/
inductive MatStatus where
  | queued | consuming | merging | pushing | done
  deriving DecidableEq, Repr, Inhabited

/-- A matrix command (spec/11 R237 to R244). `kblocks` are the slices it has consumed, in order. -/
structure MatCmd where
  kind : MatKind
  ctx : Nat
  blk : Nat
  grp : Nat
  lanes : BitVec 32
  core : Nat
  q : Nat
  slot : Code
  split : Nat
  cAddr : Word
  ctl : Word
  dst : Word
  sdst : Word
  tag : Nat
  status : MatStatus
  err : Nat
  flt : Flt
  raised : Bool
  kblocks : List (Slice × Option Slice × Slice)
  partials : List (BitVec 32)
  merged : List Nat
  wp : Nat
  task : Option Nat
  recAt : Word
  deriving DecidableEq, Repr, Inhabited

/-- A core's matrix state (spec/11 R230, R241). -/
structure MatState where
  q8 : List Slice
  q9 : List Slice
  part8 : Option PartSlice
  part9 : Option PartSlice
  queue : List Nat
  array : Option Nat
  ctx : Option Nat
  deriving DecidableEq, Repr, Inhabited

/-- One entry of a walker's leaf cache (spec/07 R157). -/
structure LeafEntry where
  ctx : Nat
  tree : Word
  org : Word
  addr : Word
  deriving DecidableEq, Repr, Inhabited

/-- What a core holds (spec/00 R2). -/
structure Core where
  wc : List WcEntry
  l1 : List Line
  tlb : List TlbEntry
  leaf : List LeafEntry
  leafGrid : Option Nat
  mat : MatState
  /-- the last command each channel completed: channel, context, completion word (spec/06 R132) -/
  lastDone : List (Nat × Nat × Word)
  deriving DecidableEq, Repr, Inhabited

/-- What a shader die holds beside its cores. -/
structure Die where
  gen : BitVec 16
  replicas : List Replica
  tlb : List TlbEntry
  walk : List WalkEntry
  l2Reset : Bool
  coreReset : Bool
  enable : BitVec 108
  deriving DecidableEq, Repr, Inhabited

/-- A node that counts messages for the diagonal check (spec/13 R279). -/
inductive Node where
  | core (c : Nat)
  | chan (c ch : Nat)
  | bulk (die : Nat)
  | halo (die : Nat)
  | port (die : Nat)
  | cover (die : Nat)
  deriving DecidableEq, Repr, Inhabited

structure Counter where
  node : Node
  ctx : Nat
  phase : Nat
  sent : Word
  recv : Word
  deriving DecidableEq, Repr, Inhabited

/-! ### Contexts, partitions, queues -/

/-- A latched snapshot (spec/22 R352). -/
structure Latch where
  time : Word
  seq : Nat
  kind : Nat
  tag : BitVec 16
  vals : List Word
  deriving DecidableEq, Repr, Inhabited

structure SnapSet where
  cfg : Option SnapCfg
  armed : Bool
  latched : Option Latch
  missed : Nat
  deriving DecidableEq, Repr, Inhabited

/-- A context: its system registers (spec/19 R318), its captured fault (R307, R311) and its observation (spec/22 R352, R354). -/
structure Ctx where
  part : Nat
  asn : Nat
  fpcr : Word
  tvec : Word
  fair : Word
  barwd : Word
  kwd : Word
  ctl : Word
  tbr : Word
  frec : Word
  save : Word
  cowpool : Word
  pmc : List Word
  pmsel : List Word
  fault : Option FaultRec
  more : Nat
  terminated : Bool
  /-- the context ended without a fault record (spec/19 R307): the CODE reported through MMIO -/
  noRecord : Option Word
  intr : Nat
  handle : Nat
  snaps : List SnapSet
  snapSeq : Nat
  preempted : Bool
  deriving DecidableEq, Repr, Inhabited

/-- A partition (spec/22 R346). -/
structure Part where
  live : Bool
  sites : List (BitVec 120)
  sets : BitVec 128
  windows : List Window
  slots : List Nat
  deriving DecidableEq, Repr, Inhabited

/-- A user queue mapped for a context (spec/14 R280 to R282). `pending` is a launch whose record has been checked
and which waits for START or BARRIER. -/
structure UQueue where
  ctx : Nat
  va : Word
  stopped : Bool
  slot : Option Nat
  waitSince : Option Word
  pending : Option (Word × LaunchRec)
  grids : List Nat
  deriving DecidableEq, Repr, Inhabited

/-- A hardware queue slot (spec/14 R282). -/
structure Slot where
  q : Option Nat
  ns : Nat
  deriving DecidableEq, Repr, Inhabited

/-- A copy-on-write fault in service (spec/19 R313, R314): the leaf, and the shootdown that must complete. -/
structure CowSvc where
  ctx : Nat
  /-- the faulting die, whose fault microcontroller serves it -/
  die : Nat
  blk : Nat
  grp : Nat
  lanes : BitVec 32
  /-- the fault, which becomes fatal when the page pool is empty -/
  flt : Flt
  served : Bool
  closed : Bool
  /-- an engine command, a matrix command, or a task of the block, instead of a group -/
  cmd : Option Nat
  mat : Option Nat
  task : Option Nat := none
  deriving DecidableEq, Repr, Inhabited

/-! ### Rendering -/

/-- A render-target descriptor (spec/21 R333). -/
structure Target where
  color : Word
  depth : Word
  width : Nat
  height : Nat
  samples : Nat
  colfmt : Nat
  blend : Nat
  depthctl : Nat
  pat : Nat
  phase : Nat
  nprod : Nat
  bincap : Nat
  bins : Word
  spill : Word
  prec : Word
  deriving DecidableEq, Repr, Inhabited

/-- A resident tile (spec/21 R339): colour and depth of each sample, and when the die's unit last used it: greater is later. -/
structure Tile where
  tx : Nat
  ty : Nat
  colour : List (BitVec 32)
  depth : List (BitVec 32)
  used : Nat
  deriving DecidableEq, Repr, Inhabited

/-- A fragment handed to the ordered-blend unit (spec/21 R343). -/
structure FragOut where
  x : Nat
  y : Nat
  cov : BitVec 8
  colour : BitVec 32
  depth : Option (BitVec 32)
  deriving DecidableEq, Repr, Inhabited

/-- A primitive's work on one tile: quads not yet started (origin and covered samples of the four pixels), pixel
groups running, fragments of ended groups. -/
structure TileWork where
  prim : Prim
  tx : Nat
  ty : Nat
  quads : List (Nat × Nat × List (BitVec 8))
  running : List Nat
  frags : List FragOut
  deriving DecidableEq, Repr, Inhabited

/-- What the coverage and ordered-blend units of one die hold for one frame (spec/21 R339 to R344). -/
structure Cover where
  die : Nat
  tiles : List Tile
  spilled : List (Nat × Nat)
  touched : List (Nat × Nat)
  work : List TileWork
  taken : Nat
  applied : Nat
  written : Bool
  /-- since when its next pixel group has waited for a core (spec/14 R283) -/
  waitSince : Option Word := none
  deriving DecidableEq, Repr, Inhabited

/-- A frame of a render target (spec/21 R333). -/
structure Frame where
  ctx : Nat
  descAt : Word
  target : Target
  grid : Nat
  covers : List Cover
  closed : Bool
  deriving DecidableEq, Repr, Inhabited

/-! ### The device -/

/-- A latency or level monitor (spec/22 R353); no minimum or maximum before the first sample. -/
structure Hist where
  min : Option Nat
  max : Option Nat
  buckets : List Nat
  deriving DecidableEq, Repr, Inhabited

/-- The issue in progress: who issues, which word, under which prefix word (spec/02 R31). -/
structure Cur where
  blk : Nat
  grp : Nat
  path : Nat
  word : Code
  pfx : Option Code
  deriving DecidableEq, Repr, Inhabited

/-- What the host driver reads of the part in MMIO space: a die's enable bitmap (spec/00 R3), the counts of a context's page pool
(spec/19 R356), the READ of a stopped queue (spec/14 R280), the CODE of a context that ended without a record (spec/19
R307), a monitor (spec/22 R353), a context's performance counters (spec/22 R354). -/
inductive HostRead where
  | enable (die : Nat)
  | pool (ctx : Nat)
  | stopped (q : Nat)
  | ended (ctx : Nat)
  | monitor (mon : Nat)
  | counters (ctx : Nat)
  deriving DecidableEq, Repr, Inhabited

/-- One move of the agenda: which agent acts next. The model's own, not the spec's (log 1). -/
inductive Move where
  /-- the path issues its next word -/
  | issue (blk grp path : Nat)
  /-- one of the part's steps that no word encodes -/
  | event (i : Instr)
  /-- `ns` nanoseconds pass -/
  | tick (ns : Nat)
  /-- a line leaves an L1, a replica leaves a die -/
  | evictL1 (core line : Nat)
  | evictReplica (die line : Nat)
  /-- a translation leaves a core TLB and a die TLB; walk cache entries leave -/
  | evictTlb (core vbase : Nat)
  /-- a monitor of R353 samples a value -/
  | sample (mon value : Nat)
  /-- the host driver reads -/
  | hostRead (r : HostRead)
  deriving DecidableEq, Repr, Inhabited

/-- The state of the part. -/
structure State where
  /-- the agenda, the counters of the free values, and the issue in progress (log 1) -/
  moves : List Move
  drawCtr : Nat
  freeCtr : Nat
  cur : Cur
  /-- memory by 56-bit physical address (spec/03 R53), as it stands at its home -/
  mem : List Host.Cell
  /-- poisoned granules: address divided by 8 (spec/19 R329) -/
  poison : List Nat
  /-- timebase in ns (spec/00 R4) -/
  time : Word
  /-- bring-up step reached, recovery, failed dies (spec/22 R350) -/
  power : Nat
  recovery : Bool
  failed : BitVec 4
  linkUp : Bool
  /-- measurements and rollback counter (spec/22 R349) -/
  measured : List (BitVec 512)
  rollback : Nat
  /-- the vendor key hash in fuses (spec/22 R349) -/
  vendorKey : BitVec 512
  peers : List Nat
  /-- what the last host read answered (spec/22): words on their way out of the part -/
  reply : List Word
  spread : BitVec 128
  parts : SMap Part
  vfs : SMap Nat
  ctxs : List Ctx
  queues : List UQueue
  slots : SMap Slot
  dies : SMap Die
  cores : SMap Core
  l2 : List HomeLine
  fwd : List Fwd
  monitors : List Monitor
  clamps : List Clamp
  migrs : List Migr
  objs : List CohObj
  /-- implicit objects that are not device-only: 1 GiB region of local memory, state (spec/03 R70) -/
  implicit : SMap Nat
  shoots : List Shoot
  grids : List Grid
  blocks : List Block
  bars : List BarWatch
  counters : List Counter
  cmds : List Cmd
  mats : List MatCmd
  /-- matrix state saved with its context: context, core, state (spec/11 R230) -/
  savedMat : List (Nat × Nat × MatState)
  cows : List CowSvc
  frames : List Frame
  hists : SMap Hist
  /-- soft-error counters, in the order of spec/22 R355: 0-7 and 8-15 by stack, then by die -/
  errs : SMap (BitVec 32)
  deriving DecidableEq, Repr, Inhabited

/-! ### Reasons a step can stop -/

/-- Why the machine stops with a fault of the MODEL. A fault of the part is a next state (spec/19): it is taken. -/
inductive Fault where
  /-- exec is asked of a state whose `cur` names no block, group or path, or a block whose context or grid does not exist:
  no word is being issued. Raised by every
  instruction word; no run reaches such a state. Safe: it issues nothing. -/
  | noIssuer
  deriving DecidableEq, Repr, Inhabited

/-- Why the machine gives an instruction no meaning. -/
inductive Refusal where
  /-- the instruction has no meaning in this model yet. Safe. -/
  | notModelled (mnemonic : String)
  deriving DecidableEq, Repr, Inhabited

/-- What ends a meaning early. -/
inductive Exc where
  /-- the word raises a fault of the part -/
  | fault (f : Flt)
  /-- the word waits and may be pre-empted there (spec/02 R30) -/
  | wait
  /-- the access must wait at its home (a clamp, a moving line); nothing has happened yet -/
  | hold
  /-- the model stops -/
  | stop (f : Fault)
  deriving DecidableEq, Repr, Inhabited

/-! ### Values before anything has happened -/

/-- A core at power-on: everything empty. -/
def Core.empty : Core :=
  ⟨[], [], [], [], none, ⟨[], [], none, none, [], none, none⟩, []⟩

/-- A die at power-on: both reset domains in reset until bring-up releases them (spec/22 R350, log 2). -/
def Die.empty : Die := ⟨0, [], [], [], true, true, 0⟩

/-- The part at power-on, before bring-up: no memory listed, nothing created, nothing resident (log 2). -/
def State.reset : State where
  moves := []
  drawCtr := 0
  freeCtr := 0
  cur := ⟨0, 0, 0, 0, none⟩
  mem := []
  poison := []
  time := 0
  power := 0
  recovery := false
  failed := 0
  linkUp := false
  measured := []
  rollback := 0
  vendorKey := 0
  peers := []
  reply := []
  spread := 0
  parts := []
  vfs := []
  ctxs := []
  queues := []
  slots := []
  dies := []
  cores := []
  l2 := []
  fwd := []
  monitors := []
  clamps := []
  migrs := []
  objs := []
  implicit := []
  shoots := []
  grids := []
  blocks := []
  bars := []
  counters := []
  cmds := []
  mats := []
  savedMat := []
  cows := []
  frames := []
  hists := []
  errs := []

end Sys2Proof.Machine
end

