-- ==== Sys2Proof/Config.lean ====
section
/-!
DEFINITION. What an implementation fixes and what the spec leaves open. The free values are opaque: nothing in
Lean can compute one or prove a value of one (log 1, 5, 6, 7).
-/

namespace Sys2Proof.Config

open Sys2Proof.Machine

/-- The functions of OP6 0x11 to 0x13 (spec/10 R226). -/
inductive SpecialFn where
  | exp2 | log2 | rcp | rsq | sin | cos | sinpi | cospi | tanh | erf
  deriving DecidableEq, Repr

/-- The agent that acts next when the agenda is empty (log 1). -/
opaque nextMove : Nat → Move

/-- Which pattern within its bound a special function returns where R227 names no exact result, for a non-negative operand of an odd
or even function; the operand and result are patterns of the type `ty` (spec/10 R226, log 5). -/
opaque special : SpecialFn → Nat → Nat → Nat

/-- Which entry of a replicated run translates an access when the entries differ (spec/03 R56, log 6). -/
opaque runPick : Nat → Nat

/-- The signature over an attestation report, and the identity key's certificate chain (spec/22 R349, log 7). -/
opaque signature : List Word → List Word

opaque certChain : List Word

/-- A signature over an image's digest verifies with the key of this hash: ECDSA P-521 (spec/22 R349, log 107). -/
opaque ecdsa (key digest : BitVec 512) (sig : List Word) : Bool

/-- The dwords of an image of saved state: how far each stands from SAVE, and its value (spec/19 R325, log 35). -/
opaque saveImage : Nat → List (Nat × Nat)

/-- A word the spec leaves open (log 8). -/
opaque freeWord : Nat → Word

/-- The set of its slice that a line takes; it counts modulo the sets (spec/03 R65, log 20). -/
opaque l2Set : Nat → Nat

/-- The set of its die's TLB that a translation takes; it counts modulo the sets (spec/03 R58, log 109). -/
opaque tlbSet : TlbEntry → Nat

/-- How far a core stands from a slice of its die: AFF 2 prefers the nearest (spec/14 R288, log 34). -/
opaque distance : Nat → Nat → Nat

/-! Lengths that the spec gives: copy queues and die queues (spec/06 R120), the matrix queue (spec/11 R238) and feed FIFO
(R233), the monitor table and clamp buffers of a slice (spec/03 R69, spec/05 R111), the write-combining buffer (spec/03 R68),
the sets and slots of a slice (R65), waiting tasks (spec/11 R246), translation caches (spec/03 R59), the leaf cache (spec/07
R157), resident tiles (spec/21 R339). -/

def chanQueue : Nat := 8
def dieQueue : Nat := 256
def haloQueue : Nat := 64
def haloRun : Nat := 4
def bulkEngines : Nat := 16
def matQueue : Nat := 4
def fifoEntries : Nat := 256
def monitorEntries : Nat := 1024
def clampBuffers : Nat := 16
def wcEntries : Nat := 4
def l2Sets : Nat := 1536
def l2Slots : Nat := 16
def waitingTasks : Nat := 64
def coreTlb : Nat := 64
def dieTlbSets : Nat := 1024
def dieTlbWays : Nat := 8
def walkEntries : Nat := 512
def leafEntries : Nat := 512
def residentTiles : Nat := 16

end Sys2Proof.Config
end

