-- ==== Sys2Proof/Machine/Monad.lean ====
section
/-!
DEFINITION. How a meaning runs (a state, an early end, or a fault of the part), and the named operations over
blocks, groups, paths and registers.
-/

namespace Sys2Proof.Machine

open Host

/-- A meaning: it may change the state, or end early with the state as it was. -/
abbrev M := StateT State (Except Exc)

/-! ### Sparse maps -/

def SMap.find? {α : Type} (m : SMap α) (k : Nat) : Option α :=
  match m with
  | [] => none
  | (i, a) :: r => if i = k then some a else SMap.find? r k

def SMap.getD {α : Type} (m : SMap α) (k : Nat) (d : α) : α := (SMap.find? m k).getD d

def SMap.put {α : Type} (m : SMap α) (k : Nat) (a : α) : SMap α :=
  match m with
  | [] => [(k, a)]
  | (i, b) :: r => if i = k then (k, a) :: r else (i, b) :: SMap.put r k a

/-! ### Ending a meaning early -/

/-- The fault of a class and a sub-cause (spec/19 R308). -/
def flt (cls cause : Nat) : Flt := { cls := cls, cause := cause }

/-- Illegal instruction, with a sub-cause of R308: 1 encoding, 2 prefix word, 3 operand, 4 descriptor, 5 format slot,
6 tree, 7 tag, 8 record queue, 9 stream format, 10 control core, 11 not in handler. -/
def illegal (cause : Nat) : Flt := flt 4 cause

def raise {α : Type} (f : Flt) : M α := throw (.fault f)

def check (b : Bool) (f : Flt) : M Unit := if b then pure () else throw (.fault f)

/-- A step that no word encodes happens only when it can: otherwise nothing happens. -/
def need (b : Bool) : M Unit := if b then pure () else throw .hold

def needSome {α : Type} (o : Option α) : M α :=
  match o with
  | some a => pure a
  | none => throw .hold

def wait {α : Type} : M α := throw .wait

def hold {α : Type} : M α := throw .hold

/-- Run a part that may fault, and answer the fault instead of raising it; its changes are then undone. -/
def catchFlt {α : Type} (m : M α) : M (Except Flt α) := fun s =>
  match m s with
  | .ok (a, t) => .ok (.ok a, t)
  | .error (.fault f) => .ok (.error f, s)
  | .error e => .error e

/-- Do something for each member of a list, in order. -/
def each {α : Type} (l : List α) (f : α → M Unit) : M Unit :=
  match l with
  | [] => pure ()
  | a :: r => do f a; each r f

/-- Collect answers over a list, in order. -/
def collect {α β : Type} (l : List α) (f : α → M β) : M (List β) :=
  match l with
  | [] => pure []
  | a :: r => do
    let b ← f a
    let bs ← collect r f
    pure (b :: bs)

/-! ### Blocks, groups, paths -/

def State.blkAt (s : State) (b : Nat) : Option Block := s.blocks[b]?

def State.grpAt (s : State) (b g : Nat) : Option Group := (s.blkAt b).bind (fun k => k.groups[g]?)

def State.pathAt (s : State) (b g p : Nat) : Option Path := (s.grpAt b g).bind (fun k => k.paths[p]?)

def State.modBlk (s : State) (b : Nat) (f : Block → Block) : State :=
  { s with blocks := s.blocks.modify b f }

def State.modGrp (s : State) (b g : Nat) (f : Group → Group) : State :=
  s.modBlk b (fun k => { k with groups := k.groups.modify g f })

def State.modPath (s : State) (b g p : Nat) (f : Path → Path) : State :=
  s.modGrp b g (fun k => { k with paths := k.paths.modify p f })

def State.ctxAt (s : State) (c : Nat) : Option Ctx := s.ctxs[c]?

def State.modCtx (s : State) (c : Nat) (f : Ctx → Ctx) : State :=
  { s with ctxs := s.ctxs.modify c f }

def State.modGrid (s : State) (g : Nat) (f : Grid → Grid) : State :=
  { s with grids := s.grids.modify g f }

def State.modCmd (s : State) (c : Nat) (f : Cmd → Cmd) : State :=
  { s with cmds := s.cmds.modify c f }

def State.modMat (s : State) (c : Nat) (f : MatCmd → MatCmd) : State :=
  { s with mats := s.mats.modify c f }

def State.cmd? (s : State) (i : Nat) : Option Cmd := s.cmds[i]?

def State.mat? (s : State) (i : Nat) : Option MatCmd := s.mats[i]?

def State.grid? (s : State) (i : Nat) : Option Grid := s.grids[i]?

def State.coreAt (s : State) (c : Nat) : Core := s.cores.getD c Core.empty

def State.modCore (s : State) (c : Nat) (f : Core → Core) : State :=
  { s with cores := s.cores.put c (f (s.coreAt c)) }

def State.dieAt (s : State) (d : Nat) : Die := s.dies.getD d Die.empty

def State.modDie (s : State) (d : Nat) (f : Die → Die) : State :=
  { s with dies := s.dies.put d (f (s.dieAt d)) }

/-! ### The issue in progress -/

def curBlk : M Block := do
  let s ← get
  match s.blkAt s.cur.blk with
  | some b => pure b
  | none => throw (.stop .noIssuer)

def curGrp : M Group := do
  let s ← get
  match s.grpAt s.cur.blk s.cur.grp with
  | some g => pure g
  | none => throw (.stop .noIssuer)

def curPath : M Path := do
  let s ← get
  match s.pathAt s.cur.blk s.cur.grp s.cur.path with
  | some p => pure p
  | none => throw (.stop .noIssuer)

def modCurBlk (f : Block → Block) : M Unit := modify fun s => s.modBlk s.cur.blk f

def modCurGrp (f : Group → Group) : M Unit := modify fun s => s.modGrp s.cur.blk s.cur.grp f

def modCurPath (f : Path → Path) : M Unit := modify fun s => s.modPath s.cur.blk s.cur.grp s.cur.path f

/-- The lanes active on the issuing path (spec/13 R263). -/
def lanes : M (BitVec 32) := do
  let p ← curPath
  pure p.lanes

/-- Every active lane of the issuing group's path is a helper lane (spec/13 R267). -/
def onlyHelpers : M Bool := do
  let p ← curPath
  let g ← curGrp
  pure (p.lanes &&& ~~~ g.helper == 0)

def curCtx : M Ctx := do
  let b ← curBlk
  let s ← get
  match s.ctxAt b.ctx with
  | some c => pure c
  | none => throw (.stop .noIssuer)

def curGrid : M Grid := do
  let b ← curBlk
  let s ← get
  match s.grids[b.grid]? with
  | some g => pure g
  | none => throw (.stop .noIssuer)

/-- The cluster of %cluster; a pixel group stands at coordinates 0 of a grid of none, which R210 puts into cluster 0 (log 97). -/
def Block.clusterNo (b : Block) : Nat := if b.pixel.isSome then 0 else b.cluster

/-- %core of the core the issuing block is resident on (spec/09 R210). -/
def curCore : M Nat := do
  let b ← curBlk
  match b.core with
  | some c => pure c
  | none => throw (.stop .noIssuer)

/-- A core is a control core when its site is 112 to 119 (spec/09 R210). -/
def isControl (core : Nat) : Bool := 112 ≤ core % 128

def dieOf (core : Nat) : Nat := core / 128

/-- Lanes of the issuing path. -/
def State.curLanes (s : State) : BitVec 32 :=
  ((s.pathAt s.cur.blk s.cur.grp s.cur.path).map (·.lanes)).getD 0

/-- No word is being issued: the step is one that no word encodes. -/
def Cur.none : Cur := ⟨0, 0, 2 ^ 32, 0, Option.none⟩

/-- Is this clamp the issuing path's? -/
def State.ownClamp (s : State) (c : Clamp) : Bool :=
  decide (c.blk = s.cur.blk ∧ c.grp = s.cur.grp ∧ c.lanes = s.curLanes)

/-! ### Lane lists -/

/-- Lane numbers 0 to 31, in order. -/
def laneIds : List Nat := List.range 32

def lanesOf (m : BitVec 32) : List Nat := laneIds.filter (fun l => m.getLsbD l)

def lowestLane (m : BitVec 32) : Nat := ((lanesOf m).head?).getD 255

/-! ### Vector, uniform and mask registers (spec/09 R186) -/

/-- A vector register: its 32 lane values. -/
def Group.vreg (g : Group) (r : Nat) : List Word := (g.vregs[r]?).getD (List.replicate 32 0)

/-- A uniform register; s0 reads as zero. -/
def Group.sreg (g : Group) (n : Nat) : Word := if n = 0 then 0 else (g.sregs[n]?).getD 0

/-- A mask register; k0 reads as all ones. -/
def Group.kreg (g : Group) (n : Nat) : BitVec 256 := if n = 0 then BitVec.allOnes 256 else (g.kregs[n]?).getD 0

def Group.setVreg (g : Group) (r : Nat) (v : List Word) : Group := { g with vregs := g.vregs.set r v }

/-- Writing s0 has no effect. -/
def Group.setSreg (g : Group) (n : Nat) (v : Word) : Group :=
  if n = 0 then g else { g with sregs := g.sregs.set n v }

/-- Writing k0 has no effect. -/
def Group.setKreg (g : Group) (n : Nat) (v : BitVec 256) : Group :=
  if n = 0 then g else { g with kregs := g.kregs.set n v }

/-- One lane of a vector register. -/
def laneOf (v : List Word) (l : Nat) : Word := (v[l]?).getD 0

/-! ### Performance counters (spec/22 R354) -/

/-- Add to every counter of the context that counts this event on this die. -/
def Ctx.bump (c : Ctx) (event amount die : Nat) : Ctx :=
  { c with
    pmc := (c.pmc.zip c.pmsel).map fun (v, sel) =>
      let dies := fld 23 20 sel.toNat
      if fld 16 16 sel.toNat = 1 ∧ fld 15 0 sel.toNat = event ∧ (dies = 0 ∨ dies.testBit die) then
        v + BitVec.ofNat 64 amount else v }

/-- A context has work resident (DESIGN CHOICE, log 135: R354 does not say what counts): it is not saved, and a block of it stands on a
core, an engine carries out a command of it, a core holds a matrix command of it, or a frame of it is open. -/
def State.hasWork (s : State) (ctx : Nat) : Bool :=
  !((s.ctxAt ctx).map (·.preempted)).getD true
    && (s.blocks.any (fun b => decide (b.ctx = ctx) && b.core.isSome && !b.ended)
      || s.cmds.any (fun c => decide (c.ctx = ctx) && decide (c.status = .running))
      || s.mats.any (fun c => decide (c.ctx = ctx) && decide (c.status ≠ .done)
          && !s.savedMat.any (fun x => decide (x.1 = ctx ∧ x.2.1 = c.core)))
      || s.frames.any (fun f => decide (f.ctx = ctx) && !f.closed))

/-- Count an event of a context's agent on a die: only while the context has work resident (spec/22 R354). -/
def State.bumped (s : State) (ctx event amount die : Nat) : State :=
  if s.hasWork ctx then s.modCtx ctx (fun c => c.bump event amount die) else s

def bump (ctx event amount die : Nat) : M Unit := modify fun s => s.bumped ctx event amount die

/-- Count an event of the issuing context on the issuing die. -/
def bumpCur (event amount : Nat) : M Unit := do
  let b ← curBlk
  let c ← curCore
  bump b.ctx event amount (dieOf c)

/-! ### Engines (spec/06 R120, spec/19 R308) -/

def Engine.die (e : Engine) : Nat :=
  match e with
  | .chan core _ => dieOf core
  | .bulk d => d
  | .halo d => d

/-- UNIT of R308. -/
def Engine.unit (e : Engine) : Nat :=
  match e with
  | .chan _ _ => 1
  | .bulk _ => 2
  | .halo _ => 3

/-- The channel, as INDEX of R308. -/
def Engine.index (e : Engine) : Nat :=
  match e with
  | .chan _ ch => ch
  | .bulk _ => 0
  | .halo _ => 0

def Engine.node (e : Engine) : Node :=
  match e with
  | .chan c ch => .chan c ch
  | .bulk d => .bulk d
  | .halo d => .halo d

/-! ### Counters of the diagonal check (R146, spec/13 R279) -/

def Counter.is (c : Counter) (n : Node) (ctx phase : Nat) : Bool := decide (c.node = n ∧ c.ctx = ctx ∧ c.phase = phase)

def State.counterOf (s : State) (n : Node) (ctx phase : Nat) : Counter :=
  (s.counters.find? (fun c => c.is n ctx phase)).getD ⟨n, ctx, phase, 0, 0⟩

/-- Count messages sent and received at a node. -/
def State.count (s : State) (n : Node) (ctx phase : Nat) (sent recv : Nat) : State :=
  let c := s.counterOf n ctx phase
  { s with
    counters := s.counters.filter (fun x => !x.is n ctx phase)
      ++ [{ c with sent := c.sent + BitVec.ofNat 64 sent, recv := c.recv + BitVec.ofNat 64 recv }] }

/-- A crossing of a die port, from one die to another. -/
def State.crossing (s : State) (src dst ctx phase : Nat) : State :=
  if src = dst then s else (s.count (.port src) ctx phase 1 0).count (.port dst) ctx phase 0 1

/-! ### Free values -/

/-- A word nothing constrains (log 8). -/
def freeWord : M Word := do
  let s ← get
  set { s with freeCtr := s.freeCtr + 1 }
  pure (Config.freeWord s.freeCtr)

/-! ### Moving to the next word -/

/-- Address of the word after a unit of `n` words. -/
def wordAfter (pc : Word) (n : Nat) : Word := pc + BitVec.ofNat 64 (4 * n)

/-- Words of the unit in progress: the instruction and its prefix word (spec/02 R31). -/
def Cur.size (c : Cur) : Nat := if c.pfx.isSome then 2 else 1

/-- Address of the instruction word itself, after its prefix word. -/
def Cur.wordPc (c : Cur) (p : Path) : Word := if c.pfx.isSome then p.pc + 4 else p.pc

/-- Address just past a clause: its header and its words (spec/02 R23). -/
def Clause.after (c : Clause) : Word := wordAfter c.header (1 + c.words.length)

/-- Where a path stands after its unit: the next word of the clause, or the header after the clause, which must
be fetched (spec/02 R23, R29). -/
def Path.step (p : Path) (size : Nat) : Path :=
  let pc := wordAfter p.pc size
  match p.cl with
  | some c =>
    if pc = c.after then { p with pc := pc, cl := none, wait := none, entry := none, left := p.entry }
    else { p with pc := pc, wait := none }
  | none => { p with pc := pc, wait := none }

/-- A path at a clause header can be joined; a stopped or waiting one cannot. -/
def Path.atHeader (p : Path) : Bool :=
  !p.stopped && p.wait.isNone && (match p.cl with
    | none => true
    | some c => !c.ready)

/-- The later of two times of a YIELD. -/
def laterYield (a b : Option Word) : Option Word :=
  match a, b with
  | some t, some u => some (if t.toNat < u.toNat then u else t)
  | some t, none => some t
  | none, u => u

/-- Put a path into a list of paths: it joins the path that stands at the same header in the same entry of the issue table, or
like it in none yet. Lanes that have yielded keep the mark (spec/13 R273). -/
def joinPath (l : List Path) (p : Path) : List Path :=
  match l with
  | [] => [p]
  | q :: r =>
    if q.atHeader && p.atHeader && decide (q.pc = p.pc ∧ q.entry = p.entry) then
      { q with lanes := q.lanes ||| p.lanes, yieldAt := laterYield q.yieldAt p.yieldAt, left := q.left.or p.left } :: r
    else q :: joinPath r p

/-- The path has issued its unit: it stands at the next word, or at a header, where it enters the issue table anew. -/
def Group.advance (g : Group) (path size : Nat) : Group :=
  let l := g.paths.modify path (fun p => p.step size)
  { g with paths := match l[path]? with
      | some p => if p.cl.isNone then l.foldl joinPath [] else l
      | none => l }

/-- The unit has issued: the path stands at the next word. -/
def retire : M Unit := do
  let s ← get
  modCurGrp (fun g => g.advance s.cur.path s.cur.size)

/-- A parked WAITCMP holds no entry of the issue table (spec/04 R98). -/
def Wait.keepsEntry (w : Wait) : Bool :=
  match w with
  | .cmp _ => false
  | _ => true

/-- Leave the path waiting at its word, with a reason (spec/02 R30). -/
def park (w : Wait) : M Unit := do
  let s ← get
  modCurPath fun p =>
    { p with
      wait := some w, since := if p.wait.isSome then p.since else s.time
      entry := if w.keepsEntry then p.entry else none }

end Sys2Proof.Machine
end

