-- ==== Sys2Proof/Machine/Memory.lean ====
section
/-!
DEFINITION. Memory in its canonical form; homes of lines; address translation; the caches between a core and a
line's home; performing stores, loads and atomics; releases and acquires (spec/03, spec/04 R77 to R103, spec/12).
-/

namespace Sys2Proof.Machine

open Host

/-! ### Bytes in canonical form: addresses strictly rising, no byte that an unlisted address reads as (log 3) -/

/-- What an address that is not listed reads as (spec/22 R350 step 4 for local memory; log 3 for the rest). -/
def unlisted : Byte := 0

def getByte (m : List Cell) (a : Nat) : Byte :=
  match m with
  | [] => unlisted
  | (c, d) :: r => if c = a then d else getByte r a

def putByte (m : List Cell) (a : Nat) (b : Byte) : List Cell :=
  match m with
  | [] => if b = unlisted then [] else [(a, b)]
  | (c, d) :: r =>
    if a < c then (if b = unlisted then (c, d) :: r else (a, b) :: (c, d) :: r)
    else if a = c then (if b = unlisted then r else (a, b) :: r)
    else (c, d) :: putByte r a b

/-- The canonical form from an address on. -/
def Memory.wfFrom (lo : Nat) (m : List Cell) : Bool :=
  match m with
  | [] => true
  | (a, b) :: r => decide (lo ≤ a) && decide (b ≠ unlisted) && Memory.wfFrom (a + 1) r

/-- Memory is in its canonical form. -/
def Memory.wf (m : List Cell) : Bool := Memory.wfFrom 0 m

/-- `n` bytes from `a`, little-endian. -/
def getBytes (m : List Cell) (a : Nat) (n : Nat) : Nat :=
  match n with
  | 0 => 0
  | k + 1 => (getByte m a).toNat + 256 * getBytes m (a + 1) k

/-- Write the low `n` bytes of a value from `a`, little-endian. -/
def putBytes (m : List Cell) (a : Nat) (n : Nat) (v : Nat) : List Cell :=
  match n with
  | 0 => m
  | k + 1 => putBytes (putByte m a (BitVec.ofNat 8 v)) (a + 1) k (v / 256)

/-- The 128 bytes of a line. -/
def lineOf (m : List Cell) (line : Nat) : Nat :=
  match m with
  | [] => 0
  | (a, b) :: r => if a / 128 = line then b.toNat * 256 ^ (a % 128) + lineOf r line else lineOf r line

/-- Write the masked bytes of a line, from byte `i` on, `n` of them. -/
def putMasked (m : List Cell) (line : Nat) (data mask : Nat) (i n : Nat) : List Cell :=
  match n with
  | 0 => m
  | k + 1 =>
    let m' := if mask.testBit i then putByte m (128 * line + i) (BitVec.ofNat 8 (data / 256 ^ i)) else m
    putMasked m' line data mask (i + 1) k

/-- Replace the masked bytes of a 128-byte line. -/
def mergeLine (old new mask : Nat) : Nat :=
  (List.range 128).foldl
    (fun acc i => acc + (if mask.testBit i then new / 256 ^ i % 256 else old / 256 ^ i % 256) * 256 ^ i) 0

/-- A store of `n` bytes at byte `o` of a line, as data and mask. -/
def spanData (o n v : Nat) : BitVec 1024 := BitVec.ofNat 1024 (v % 256 ^ n * 256 ^ o)

def spanMask (o n : Nat) : BitVec 128 := BitVec.ofNat 128 ((2 ^ n - 1) * 2 ^ o)

/-- `n` bytes at byte `o` of a line's data. -/
def spanOf (data : Nat) (o n : Nat) : Nat := data / 256 ^ o % 256 ^ n

/-! ### Where a line lives (spec/03 R53, R60, R61) -/

def regionOf (pa : Nat) : Nat := fld 55 54 pa

/-- PA[53:7] folded to 30 bits, for a host or peer line. -/
def foldLine (pa : Nat) : Nat := Nat.xor (fld 36 7 pa) (fld 53 37 pa)

/-- XOR of the twelve 2-bit fields of PA[35:12]. -/
def spreadFold (pa : Nat) : Nat :=
  (List.range 12).foldl (fun f i => Nat.xor f (fld (13 + 2 * i) (12 + 2 * i) pa)) 0

def State.storageDie (s : State) (pa : Nat) : Nat :=
  if regionOf pa = 0 then
    if s.spread.getLsbD (fld 36 30 pa) then Nat.xor (fld 38 37 pa) (spreadFold pa) else fld 38 37 pa
  else foldLine pa % 4

def State.stackOf (s : State) (pa : Nat) : Nat :=
  2 * s.storageDie pa + Nat.xor (Nat.xor (fld 12 12 pa) (fld 21 21 pa)) (fld 30 30 pa)

def sliceOf (pa : Nat) : Nat :=
  let line := if regionOf pa = 0 then fld 36 7 pa else foldLine pa
  Nat.xor (Nat.xor line (line / 2 ^ 10)) (line / 2 ^ 20) % 48

def State.lineDie (s : State) (line : Nat) : Nat := s.storageDie (128 * line)

/-! ### Coherence objects (spec/03 R70, R71) -/

def CohObj.has (o : CohObj) (line : Nat) : Bool :=
  decide (o.first ≤ line) && decide ((line - o.first) / o.strideLines < o.rows)
    && decide ((line - o.first) % o.strideLines < o.rowLines)

def State.objOf (s : State) (line : Nat) : Option CohObj := s.objs.find? (fun o => o.has line)

/-- The cache level an access acts at: host and peer lines outside every object act as CL 2, whatever the page says
(spec/03 R70). -/
def State.effCl (s : State) (pa pte : Nat) : Nat :=
  if regionOf pa ≠ 0 ∧ (s.objOf (pa / 128)).isNone then 2 else fld 9 8 pte

/-! ### Ownership (spec/03 R53) -/

def inWindow (w : Window) (pa : Nat) : Bool :=
  match w.peer with
  | none => decide (regionOf pa = 1) && decide (w.base ≤ fld 53 0 pa) && decide (fld 53 0 pa < w.base + w.size)
  | some d => decide (regionOf pa = 2) && decide (fld 53 40 pa = d) && decide (w.base ≤ fld 39 0 pa)
      && decide (fld 39 0 pa < w.base + w.size)

def Part.owns (p : Part) (pa : Nat) : Bool :=
  if regionOf pa = 0 then decide (fld 53 39 pa = 0) && p.sets.getLsbD (fld 36 30 pa)
  else p.windows.any (fun w => inWindow w pa)

def State.partOf (s : State) (ctx : Nat) : Nat := ((s.ctxAt ctx).map (·.part)).getD 0

def State.owns (s : State) (ctx pa : Nat) : Bool :=
  match s.parts.find? (s.partOf ctx) with
  | some p => p.owns pa
  | none => false

/-! ### Poison (spec/19 R329) -/

/-- The first poisoned granule among `n` bytes at `pa`. -/
def State.poisonIn (s : State) (pa n : Nat) : Option Nat :=
  s.poison.find? (fun g => decide (pa / 8 ≤ g) && decide (g ≤ (pa + n - 1) / 8))

/-- Poisoned granules of a line, as bits. -/
def State.linePoison (s : State) (line : Nat) : BitVec 16 :=
  s.poison.foldl (fun m g => if g / 16 = line then m ||| BitVec.ofNat 16 (2 ^ (g % 16)) else m) 0

/-- Granules wholly written by a byte mask. -/
def fullGranules (mask : Nat) : List Nat := (List.range 16).filter (fun i => fld (8 * i + 7) (8 * i) mask = 255)

/-- Those granules as bits: the ones whose poison one store clears (spec/19 R329). -/
def wholeOf (mask : BitVec 128) : BitVec 16 :=
  (fullGranules mask.toNat).foldl (fun m i => m ||| BitVec.ofNat 16 (2 ^ i)) (0 : BitVec 16)

def poisonFlt (pa : Nat) (reg : Nat) : Flt :=
  { cls := 10, cause := 0, detail := BitVec.ofNat 64 pa, detail2 := BitVec.ofNat 64 reg }

/-! ### Faults of an access (spec/19 R308, R309) -/

def Acc.code (a : Acc) : Nat :=
  match a with
  | .load => 0
  | .store => 1
  | .atomic => 2
  | .fetch => 3
  | .walkRead => 4
  | .walkWrite => 4
  | .walkAtomic => 4
  | .engRead => 5
  | .engWrite => 6
  | .mcas => 7

def Acc.reads (a : Acc) : Bool :=
  match a with
  | .load => true
  | .atomic => true
  | .walkRead => true
  | .walkAtomic => true
  | .engRead => true
  | .mcas => true
  | .store => false
  | .fetch => false
  | .walkWrite => false
  | .engWrite => false

def Acc.writes (a : Acc) : Bool :=
  match a with
  | .store => true
  | .atomic => true
  | .walkWrite => true
  | .walkAtomic => true
  | .engWrite => true
  | .mcas => true
  | .load => false
  | .fetch => false
  | .walkRead => false
  | .engRead => false

/-- A fault of an access: class, cause, address, access kind and leaf. -/
def accFlt (cls cause : Nat) (acc : Acc) (va : Word) (pte : Nat) : Flt :=
  { cls := cls, cause := cause, addr := va, detail := BitVec.ofNat 64 acc.code, detail2 := BitVec.ofNat 64 pte }

/-- Change the fault a part raises. -/
def onFlt {α : Type} (f : Flt → Flt) (m : M α) : M α := fun s =>
  match m s with
  | .error (.fault x) => .error (.fault (f x))
  | r => r

/-- The virtual address of a translated access. -/
def Tr.va (t : Tr) : Word := BitVec.ofNat 64 (t.vbase + (t.pa - fld 59 16 t.pte * 4096))

/-- A poison or home-unreachable fault of an access names its address (spec/19 R307). -/
def atAddr {α : Type} (va : Word) (m : M α) : M α :=
  onFlt (fun f => if f.cls = 10 ∨ f.cls = 11 then { f with addr := va } else f) m

/-- A fault met in a lane names the lane (spec/19 R308). -/
def atLane {α : Type} (l : Nat) (m : M α) : M α := onFlt (fun f => { f with lane := l }) m

/-! ### The home of a line (spec/03 R62, R73, R76; spec/05 R114) -/

/-- Home-unreachable fault (class 11): DETAIL is the die, or 2^63 and the device number of a peer (spec/22 R348). -/
def unreachable (where_ : Nat) : Flt := { cls := 11, cause := 0, detail := BitVec.ofNat 64 where_ }

/-- Accesses to a line are performed at a slice of this device: all but those to a peer's line outside every object (spec/22 R348). -/
def State.atSlice (s : State) (line : Nat) : Bool := decide (regionOf (128 * line) ≠ 2) || (s.objOf line).isSome

/-- What cannot be reached of a line's home: a peer that does not answer (R348), or its die's L2 domain in reset (R76). A peer's
line outside every object is performed at the peer, whatever this device's domains do. -/
def State.homeGone (s : State) (line : Nat) : Option Nat :=
  if regionOf (128 * line) = 2 ∧ ¬ s.peers.contains (fld 53 40 (128 * line)) then some (2 ^ 63 + fld 53 40 (128 * line))
  else if (s.dieAt (s.lineDie line)).l2Reset ∧ s.atSlice line then some (s.lineDie line)
  else none

/-- Where an access arriving for a line is performed: a forwarded line passes to its new home (R73). -/
def State.resolve (s : State) (line : Nat) : Nat :=
  match s.migrs.find? (fun m => decide (m.old = line) && m.forwarded) with
  | some m => m.new
  | none => line

/-- The line that an access named whose home is now this one: a forwarded line's old address (R73). -/
def State.origin (s : State) (line : Nat) : Nat :=
  match s.migrs.find? (fun m => decide (m.new = line) && m.forwarded) with
  | some m => m.old
  | none => line

/-- The line is moving or forwarded (R73): no replica of it is installed. -/
def State.migrating (s : State) (line : Nat) : Bool := s.migrs.any (fun m => decide (m.old = line))

def State.moving (s : State) (line : Nat) : Bool := s.migrs.any (fun m => decide (m.old = line) && !m.forwarded)

/-- The line is clamped by an MCAS other than the issuing path's own. -/
def State.clamped (s : State) (line : Nat) : Bool :=
  s.clamps.any (fun c => decide (c.line = line) && c.granted && !s.ownClamp c)

/-- An access performed at home: the line where it is performed. It waits behind a clamp; a write waits while the
line is moving; it cannot reach an L2 domain in reset. -/
def atHome (line : Nat) (write : Bool) : M Nat := do
  let s ← get
  let l := s.resolve line
  match s.homeGone l with
  | some w => throw (.fault (unreachable w))
  | none => pure ()
  if s.clamped l || s.clamped line || (write && s.moving line) then hold
  pure l

/-! ### Encodings of a line at home (spec/03 R65) -/

/-- Elements of `w` bits are all within `d` signed bits of the first. -/
def deltasFit (data w d : Nat) : Bool :=
  let base := data % 2 ^ w
  (List.range (1024 / w)).all fun i =>
    let delta := toInt w (data / 2 ^ (w * i) % 2 ^ w + 2 ^ w - base)
    decide (-(2 ^ (d - 1) : Nat) ≤ delta) && decide (delta < (2 ^ (d - 1) : Nat))

def Enc.holds (e : Enc) (data : Nat) : Bool :=
  match e with
  | .whole => true
  | .zero => decide (data = 0)
  | .b8d1 => deltasFit data 64 8
  | .b4d1 => deltasFit data 32 8
  | .b8d2 => deltasFit data 64 16

/-- The first encoding of R65 that represents a line exactly. -/
def encode65 (data : Nat) : Enc :=
  if Enc.zero.holds data then .zero
  else if Enc.b8d1.holds data then .b8d1
  else if Enc.b4d1.holds data then .b4d1
  else if Enc.b8d2.holds data then .b8d2
  else .whole

/-- Halves of slots that a line takes: two whole, one encoded, none when it is zero. -/
def Enc.halves (e : Enc) : Nat :=
  match e with
  | .whole => 2
  | .zero => 0
  | .b8d1 => 1
  | .b4d1 => 1
  | .b8d2 => 1

/-! ### Replicas (spec/03 R63, R64) -/

def Die.replica (d : Die) (line : Nat) : Option Replica :=
  d.replicas.find? (fun r => decide (r.line = line) && decide (r.gen = d.gen.toNat))

def Die.dropReplica (d : Die) (line : Nat) : Die :=
  { d with replicas := d.replicas.filter (fun r => decide (r.line ≠ line)) }

/-- A replica enters its die's L2 in place of an older one of the line. It takes a slot of one of the die's slices, as the
model has it: spec/03 R63 gives replicas no place of their own (log 108). -/
def Die.putReplica (d : Die) (r : Replica) : Die := { d.dropReplica r.line with replicas := (d.dropReplica r.line).replicas ++ [r] }

/-- A replica has been used. -/
def Die.touchReplica (d : Die) (line use : Nat) : Die :=
  { d with replicas := d.replicas.map (fun r : Replica => if r.line = line then { r with used := use } else r) }

/-- Increment a die's replica generation; on wrap every replica goes first (R64). -/
def Die.nextGen (d : Die) : Die :=
  { d with gen := d.gen + 1, replicas := if d.gen = 0xFFFF then [] else d.replicas }

/-! ### Sets of a slice (spec/03 R65 to R67) -/

def HomeLine.tag (h : HomeLine) : Tag := ⟨false, h.line, h.enc.halves, h.evp, h.used⟩

/-- A replica is held whole (R65). -/
def Replica.tag (r : Replica) : Tag := ⟨true, r.line, 2, r.evp, r.used⟩

/-- Two lines take one set of a die's slices: the slice as R61 says, and the set, which is left open (log 20). -/
def sameSet (a b : Nat) : Bool :=
  decide (sliceOf (128 * a) = sliceOf (128 * b)) && decide (Config.l2Set a % Config.l2Sets = Config.l2Set b % Config.l2Sets)

/-- The tags of the set that a line takes in a die's slices. -/
def State.tagsIn (s : State) (die line : Nat) : List Tag :=
  (s.l2.filter (fun h => decide (s.lineDie h.line = die) && sameSet h.line line)).map HomeLine.tag
    ++ ((s.dieAt die).replicas.filter (fun r => sameSet r.line line)).map Replica.tag

/-- Tags fit in one set: two tags and two halves a slot. -/
def setFits (l : List Tag) : Bool :=
  decide (l.length ≤ 2 * Config.l2Slots)
    && decide (l.foldl (fun n t => n + t.halves) 0 ≤ 2 * Config.l2Slots)

/-- A home line that is clamped, moving, or named by a live monitor entry is no candidate (R67). -/
def State.pinned (s : State) (t : Tag) : Bool :=
  !t.rep && (s.clamps.any (fun c => c.granted && decide (c.line = t.line)) || s.moving t.line
    || s.monitors.any (fun m => decide (m.pa / 128 = t.line)))

/-- The order in which tags of a set leave: the lowest EVP, and of equals the least recently used. -/
def Tag.before (a b : Tag) : Bool := decide (a.evp < b.evp ∨ a.evp = b.evp ∧ a.used < b.used)

/-- The victim among the tags of a set. -/
def State.victim (s : State) (l : List Tag) : Option Tag :=
  match l.filter (fun t => !s.pinned t) with
  | [] => none
  | h :: r => some (r.foldl (fun b x => if x.before b then x else b) h)

/-- The tags of a set that leave when `t` joins it; none when it must wait for a candidate (R67). -/
def State.makeRoom (s : State) (t : Tag) (fuel : Nat) (l : List Tag) : Option (List Tag) :=
  if setFits (t :: l) then some []
  else
    match fuel, s.victim l with
    | k + 1, some v => (s.makeRoom t k (l.erase v)).map (v :: ·)
    | _, _ => none

/-- A tag leaves a die's slices. -/
def State.evict (die : Nat) (s : State) (t : Tag) : State :=
  if t.rep then s.modDie die (fun d => d.dropReplica t.line)
  else { s with l2 := s.l2.filter (fun h => decide (h.line ≠ t.line)) }

/-- The slices of a die with room for a tag in its set; none when it must wait. -/
def State.roomAt (s : State) (die : Nat) (t : Tag) : Option State :=
  if s.l2.length + (s.dieAt die).replicas.length < Config.l2Slots then some s
  else
    let others := (s.tagsIn die t.line).filter (fun x => x.rep != t.rep || x.line != t.line)
    (s.makeRoom t others.length others).map (fun gone => gone.foldl (State.evict die) s)

/-- The place in the order of use that comes after every use so far. -/
def State.nextUse (s : State) : Nat :=
  let top := s.l2.foldl (fun n h => max n h.used) 0
  s.dies.foldl (fun n x => x.2.replicas.foldl (fun n r => max n r.used) n) top + 1

/-- The slices with a home line as the most recently used of its set; none when it must wait. -/
def State.enter (s : State) (h : HomeLine) : Option State :=
  (s.roomAt (s.lineDie h.line) h.tag).map fun t =>
    { t with l2 := t.l2.filter (fun x => decide (x.line ≠ h.line)) ++ [{ h with used := t.nextUse }] }

/-- A line at its slice after a write: held whole once it no longer encodes (R66), dirty unless written through. -/
def HomeLine.written (now pte : Nat) (h : HomeLine) : HomeLine :=
  { h with enc := if h.enc = .whole then .whole else encode65 now, dirty := h.dirty || decide (fld 10 10 pte = 0) }

/-- A line that an access through the leaf `pte` allocates. -/
def newLine (line pte now : Nat) : HomeLine :=
  let cmp := fld 11 11 pte = 1
  ⟨line, cmp, if cmp then encode65 now else .whole, false, fld 13 12 pte, 0⟩

/-- The slices once a line that holds `now` has been read, or written, through the leaf `pte`: it is allocated unless it acts
as CL 2 or 3, and becomes the most recently used of its set (spec/03 R62, R65 to R67). None when it must wait. -/
def State.slices (s : State) (line pte now : Nat) (write : Bool) : Option State :=
  let upd := fun h : HomeLine => if write then h.written now pte else h
  match s.l2.find? (fun h => decide (h.line = line)) with
  | some h => s.enter (upd h)
  | none => if s.effCl (128 * line) pte < 2 then s.enter (upd (newLine line pte now)) else some s

/-- The slices once a line is held at a new home: it takes a slot of its new set as an allocation does (R65, R67, R73). -/
def State.rehome (s : State) (old new : Nat) : Option State :=
  let t := { s with l2 := s.l2.filter (fun h => decide (h.line ≠ old) && decide (h.line ≠ new)) }
  match s.l2.find? (fun h => decide (h.line = old)) with
  | some h => t.enter { h with line := new }
  | none => some t

/-- The leaf that a POL 2 access allocates through: EVP 0, whatever its page says (spec/03 R62, R67). -/
def polLeaf (pte pol : Nat) : Nat := if pol = 2 then pte - fld 13 12 pte * 2 ^ 12 else pte

/-- A read at home brings its line to the slice; the allocation waits while no line can leave (R67). -/
def allocate (line pte : Nat) : M Unit := do
  let s ← get
  match s.slices line pte (lineOf s.mem line) false with
  | some t => set t
  | none => hold

/-- Install a replica of a line in its die's L2, or write the one there; it waits while no line can leave its set (spec/03 R63,
R67, log 108). -/
def installReplica (die line pte : Nat) (data : BitVec 1024) (pz : BitVec 16) : M Unit := do
  let s ← get
  match s.roomAt die ⟨true, line, 2, fld 13 12 pte, 0⟩ with
  | some t => set (t.modDie die fun d => d.putReplica ⟨line, data, d.gen.toNat, pz, fld 13 12 pte, t.nextUse⟩)
  | none => hold

/-! ### Condition monitors (spec/03 R69, spec/04 R97) -/

/-- The integer conditions of R41 on `w`-bit values. -/
def holdsCond (cond : Nat) (w a b : Nat) : Bool :=
  match cond with
  | 0 => decide (a = b)
  | 1 => decide (a ≠ b)
  | 2 => decide (toInt w a < toInt w b)
  | 3 => decide (toInt w b ≤ toInt w a)
  | 4 => decide (a < b)
  | 5 => decide (b ≤ a)
  | 6 => decide (toInt w a ≤ toInt w b)
  | _ => decide (toInt w b < toInt w a)

/-- holds(x) of R97. -/
def cmpHolds (cond : BitVec 3) (cmp mask x : Word) : Bool :=
  holdsCond cond.toNat 64 (x &&& mask).toNat (cmp &&& mask).toNat

/-- What a read made for a wait shows: the last value, and the wait met when the condition holds. -/
def CmpWait.see (w : CmpWait) (x : Word) : CmpWait :=
  if cmpHolds w.cond w.cmp w.mask x then { w with last := x, got := some x } else { w with last := x }

def Monitor.onPath (m : Monitor) (x : Word) (p : Path) : Path :=
  match p.wait with
  | some (.cmp w) => if p.lanes = m.lanes ∧ w.got.isNone then { p with wait := some (.cmp (w.see x)) } else p
  | _ => p

/-- A word that a monitor entry cannot compare, since a granule of it is poisoned: its wait reads it again, which raises the
fault (spec/19 R329). -/
def Monitor.repoll (m : Monitor) (p : Path) : Path :=
  match p.wait with
  | some (.cmp w) => if p.lanes = m.lanes ∧ w.got.isNone then { p with wait := some (.cmp { w with polling := true }) } else p
  | _ => p

/-- Re-evaluate the entries of a line after a write performed at home; true entries are freed. -/
def State.reevaluate (s : State) (line : Nat) : State :=
  let hit := s.monitors.filter (fun m => decide (m.pa / 128 = line))
  let val := fun m : Monitor => BitVec.ofNat 64 (getBytes s.mem m.pa 8)
  let bad := fun m : Monitor => (s.poisonIn m.pa 8).isSome
  let s' := hit.foldl (fun t m =>
    t.modGrp m.blk m.grp (fun g => { g with paths := g.paths.map (if bad m then m.repoll else m.onPath (val m)) })) s
  { s' with monitors := s.monitors.filter fun m =>
      !(decide (m.pa / 128 = line) && (bad m || cmpHolds m.cond m.cmp m.mask (val m))) }

/-! ### A write performed at home -/

/-- A write of masked bytes performed at a line's home: memory, the poison of granules that one store covers whole, the line at its
slice (spec/03 R66), and its monitor entries (R69). -/
def State.putPart (s : State) (line : Nat) (data : BitVec 1024) (mask : BitVec 128) (pte : Nat) (whole : BitVec 16) : State :=
  let mem := putMasked s.mem line data.toNat mask.toNat 0 128
  let s := { s with mem := mem, poison := s.poison.filter (fun g => !(decide (g / 16 = line) && whole.getLsbD (g % 16))) }
  ((s.slices line pte (lineOf mem line) true).getD s).reevaluate line

/-- The same of one store. -/
def State.putLine (s : State) (line : Nat) (data : BitVec 1024) (mask : BitVec 128) (pte : Nat) : State :=
  s.putPart line data mask pte (wholeOf mask)

/-- A device write to an object of any state moves it to device-only (R71; for a host-owned object the spec says nothing, log
21). -/
def CohObj.written (line : Nat) (o : CohObj) : CohObj := if o.has line then { o with st := 0 } else o

/-- The coherence object that holds a line becomes device-only: a declared one, or the implicit one of a local line's 1 GiB
region (spec/03 R70, R71). An object lists a line that is being migrated by its old address until the migration is finished. -/
def State.toDevice (s : State) (line : Nat) : State :=
  let line := s.origin line
  { s with
    objs := s.objs.map (CohObj.written line)
    implicit := if regionOf (128 * line) = 0 ∧ (s.objOf line).isNone then
        s.implicit.filter (fun x => decide (x.1 ≠ line / 2 ^ 23)) else s.implicit }

/-- The same by the device, which brings the line's coherence object to device-only first (R71). -/
def State.putHome (s : State) (line : Nat) (data : BitVec 1024) (mask : BitVec 128) (pte : Nat) : State :=
  (s.toDevice line).putLine line data mask pte

/-- The line of a write that its slice cannot yet hold waits (R66, R67). -/
def roomFor (line : Nat) (data : BitVec 1024) (mask : BitVec 128) (pte : Nat) : M Unit := do
  let s ← get
  let now := mergeLine (lineOf s.mem line) data.toNat mask.toNat
  if (s.slices line pte now true).isNone then hold else pure ()

/-- Write at home once the slice has room. -/
def writeAt (line : Nat) (data : BitVec 1024) (mask : BitVec 128) (pte : Nat) : M Unit := do
  roomFor line data mask pte
  modify fun s => s.putHome line data mask pte

/-- The stores that one entry holds, written at home together. -/
def State.putStores (s : State) (line : Nat) (f : Fwd) : State := (s.toDevice line).putPart line f.data f.mask f.pte f.whole

/-- Write them once the slice has room. -/
def writeStores (line : Nat) (f : Fwd) : M Unit := do
  roomFor line f.data f.mask f.pte
  modify fun s => s.putStores line f

/-- The die a store on its way home was made on. -/
def Fwd.die (f : Fwd) : Nat := dieOf f.core

/-- Count, for a context's agent on a die, an access of `n` bytes performed at the home of the line `l` on another die, and its bytes
crossing the ports; one through a CL 3 page is performed at the memory controller, and at no slice (spec/22 R354, spec/03 R62). -/
def State.remote (s : State) (ctx die l n pte : Nat) : State :=
  if s.lineDie l = die then s
  else (if s.effCl (128 * l) pte = 3 then s else s.bumped ctx 6 1 die).bumped ctx 7 n die

/-- Bytes that a mask names. -/
def maskBytes (m : BitVec 128) : Nat := ((List.range 128).filter (fun i => m.getLsbD i)).length

/-- The contexts whose groups made a store of these groups. -/
def State.ctxsOf (s : State) (groups : List (Nat × Nat)) : List Nat :=
  (groups.filterMap (fun bg => (s.blkAt bg.1).map (·.ctx))).eraseDups

/-- Count a store performed at the home slice `l`. -/
def State.crossed (s : State) (f : Fwd) (l : Nat) : State :=
  (s.ctxsOf f.groups).foldl (fun t c => t.remote c f.die l (maskBytes f.mask) f.pte) s

/-- A store performed at home, waiting there as R114 and R73 say. A store that reaches an L2 domain in reset is
discarded, and its threads are owed the fault (R76). -/
def performStore (f : Fwd) : M Unit := do
  let s ← get
  match s.homeGone (s.resolve f.line) with
  | some w => set (f.groups.foldl (fun t bg => t.modGrp bg.1 bg.2 (fun g => { g with owed := g.owed.or (some w) })) s)
  | none => do
    let l ← atHome f.line true
    modify fun s => s.crossed f l
    writeStores l f

/-- Stores on their way home that must be performed for those a test picks: themselves, and each earlier one of the same die
to a line of theirs, which none overtakes (spec/12 R258); and those that stay. -/
def dueOf (pick : Fwd → Bool) (l : List Fwd) : List Fwd × List Fwd :=
  match l with
  | [] => ([], [])
  | f :: r =>
    let x := dueOf pick r
    if pick f || r.any (fun g => pick g && decide (g.die = f.die ∧ g.line = f.line)) then (f :: x.1, x.2) else (x.1, f :: x.2)

/-- Perform in order the stores on their way home that a test picks. -/
def flushFwd (pick : Fwd → Bool) : M Unit := do
  let s ← get
  let x := dueOf pick s.fwd
  set { s with fwd := x.2 }
  each x.1 performStore

/-! ### A line as its home and as its die's L2 hold it (spec/03 R63) -/

/-- The line as its home holds it, with its poisoned granules; `n` of its bytes go to the agent. -/
def homeLine (ag : Ag) (line pte n : Nat) : M (Nat × BitVec 16) := do
  let l ← atHome line false
  allocate l pte
  modify fun s => s.remote ag.ctx ag.die l n pte
  let s ← get
  pure (lineOf s.mem l, s.linePoison l)

/-- The line as the die's L2 holds it: at home, or a replica of the current generation, fetched and installed when
there is none (R63), after the die's own stores that only the home takes. A line under migration installs no replica (R73). -/
def dieLine (ag : Ag) (line pte : Nat) : M (Nat × BitVec 16) := do
  let own := fun f : Fwd => decide (f.die = ag.die) && decide (f.line = line)
  let s ← get
  flushFwd (fun f => own f && decide (2 ≤ s.effCl (128 * line) f.pte))
  let s ← get
  if s.lineDie line = ag.die then do
    flushFwd own
    homeLine ag line pte 128
  else
    match (s.dieAt ag.die).replica line with
    | some r => do
      bump ag.ctx 5 1 ag.die
      modify fun s => s.modDie ag.die fun d => d.touchReplica line s.nextUse
      pure (r.data.toNat, r.pz)
    | none => do
      flushFwd own
      let (d, pz) ← homeLine ag line pte 128
      if !s.migrating line then installReplica ag.die line pte (BitVec.ofNat 1024 d) pz
      pure (d, pz)

/-- An engine of the die has read a line at its home: the die's L2 keeps a replica of it as of a line that a core loads (R63),
unless it holds one, or a store of the die's own that the home has not yet taken. -/
def keepReplica (ag : Ag) (tr : Tr) : M Unit := do
  let s ← get
  let line := tr.pa / 128
  if s.effCl tr.pa tr.pte < 2 ∧ s.lineDie line ≠ ag.die ∧ ¬ s.migrating line ∧ ((s.dieAt ag.die).replica line).isNone
      ∧ ¬ s.fwd.any (fun f => decide (f.die = ag.die) && decide (f.line = line)) then
    installReplica ag.die line tr.pte (BitVec.ofNat 1024 (lineOf s.mem line)) (s.linePoison line)

/-! ### The write-combining buffer (spec/03 R68) -/

/-- Drain one entry to the die's L2: performed at home when the line is homed on this die, after the die's earlier stores
to it, else written into the replica and forwarded (R63). -/
def drainEntry (core : Nat) (e : WcEntry) : M Unit := do
  let die := dieOf core
  modify fun s => s.modCore core fun c => { c with wc := c.wc.filter (fun x => decide (x.line ≠ e.line)) }
  let s ← get
  let f : Fwd := ⟨e.line, e.data, e.mask, e.pte, e.groups, core, e.whole⟩
  if s.lineDie (s.resolve e.line) = die then do
    flushFwd (fun x => decide (x.die = die) && decide (x.line = e.line))
    performStore f
  else if (s.homeGone (s.resolve e.line)).isSome then performStore f
  else do
    let (d, pz) ← dieLine ⟨some core, die, ((s.ctxsOf e.groups).head?).getD 0⟩ e.line e.pte
    modify fun s => { s with fwd := s.fwd ++ [f] }
    if !s.migrating e.line then
      installReplica die e.line e.pte (BitVec.ofNat 1024 (mergeLine d e.data.toNat e.mask.toNat)) (pz &&& ~~~ e.whole)

/-- Drain, oldest first, the entries of a core that a test picks. -/
def drainCore (core : Nat) (pick : WcEntry → Bool) : M Unit := do
  let s ← get
  each ((s.coreAt core).wc.filter pick) (drainEntry core)

def drainLine (core line : Nat) : M Unit := drainCore core (fun e => decide (e.line = line))

def drainGroup (core blk grp : Nat) : M Unit := drainCore core (fun e => e.groups.contains (blk, grp))

/-- Bytes of a line still in the core's write-combining buffer, merged over what lies below. -/
def Core.merged (c : Core) (line d : Nat) : Nat :=
  match c.wc.find? (fun e => decide (e.line = line)) with
  | some e => mergeLine d e.data.toNat e.mask.toNat
  | none => d

/-- A store in the core's write-combining buffer that covers a granule of the line whole clears its poison (spec/19 R329). -/
def Core.unpoisoned (c : Core) (line : Nat) (pz : BitVec 16) : BitVec 16 :=
  match c.wc.find? (fun e => decide (e.line = line)) with
  | some e => pz &&& ~~~ e.whole
  | none => pz

/-- Lines the core's L1 has room for: 512 in each of the eight SRAM units that no resident block's scratchpad holds (spec/09
R188). -/
def State.l1Room (s : State) (core : Nat) : Nat :=
  512 * (8 - s.blocks.foldl (fun n b => if b.core = some core ∧ ¬ b.ended then n + b.scratchSize / 65536 else n) 0)

/-- The oldest lines leave an L1 that holds more than it has room for. -/
def State.trimL1 (s : State) (core : Nat) : State :=
  s.modCore core fun c => { c with l1 := c.l1.drop (c.l1.length - s.l1Room core) }

def Core.dropL1 (c : Core) (line : Nat) : Core := { c with l1 := c.l1.filter (fun r => decide (r.line ≠ line)) }

/-! ### Loads (spec/03 R62, spec/04 R82, R84) -/

/-- A load whose bytes touch a poisoned granule of its line raises the poison fault (spec/19 R329). -/
def checkPoison (pz : BitVec 16) (line o n : Nat) : M Unit :=
  match (List.range 16).find? (fun i => pz.getLsbD i && decide (o / 8 ≤ i) && decide (i ≤ (o + n - 1) / 8)) with
  | some i => raise (poisonFlt (128 * line + 8 * i) 0)
  | none => pure ()

/-- The issuing core's and die's own copies of a line go, their stores to it having been performed: what the agent's die reads
next is no older than the home's (spec/03 R63, spec/12 R252). -/
def ownCopies (ag : Ag) (line : Nat) : M Unit := do
  match ag.core with
  | some c => drainLine c line
  | none => pure ()
  flushFwd (fun f => decide (f.die = ag.die) && decide (f.line = line))
  match ag.core with
  | some c => modify fun s => s.modCore c (fun k => k.dropL1 line)
  | none => pure ()
  modify fun s => s.modDie ag.die (fun d => d.dropReplica line)

/-- A number below `n` that nothing constrains (log 8). -/
def freeBelow (n : Nat) : M Nat := do
  let s ← get
  set { s with freeCtr := s.freeCtr + 1 }
  pure ((Config.freeWord s.freeCtr).toNat % n)

/-- Some stores of other cores on their way to a line, the first ones of the list, arrive between two events at its memory
controller (spec/04 R80). -/
def arrivals (line : Nat) : M Unit := do
  let s ← get
  let l := s.fwd.filter (fun f => decide (f.line = line))
  if l.isEmpty then pure ()
  else do
    let k ← freeBelow (l.length + 1)
    let now := l.take k
    flushFwd (fun f => now.contains f)

/-- A load performed at the line's home after the core's own stores to the line; no copy of it stays in the core or its die's
replicas. Sixteen bytes of a CL 3 page are read as two events, the lower first (spec/04 R80). -/
def loadHome (ag : Ag) (tr : Tr) (n : Nat) : M Nat := atAddr tr.va do
  let line := tr.pa / 128
  ownCopies ag line
  let s ← get
  let twice := decide (n = 16 ∧ s.effCl tr.pa tr.pte = 3)
  let (d, pz) ← homeLine ag line tr.pte (if twice then 8 else n)
  checkPoison pz line (tr.pa % 128) n
  if twice then do
    arrivals line
    let (d', pz') ← homeLine ag line tr.pte 8
    checkPoison pz' line (tr.pa % 128 + 8) 8
    pure (spanOf d (tr.pa % 128) 8 + 2 ^ 64 * spanOf d' (tr.pa % 128 + 8) 8)
  else pure (spanOf d (tr.pa % 128) n)

/-- A relaxed load by a core, at the place its page and POL give (R62). -/
def loadCore (core ctx : Nat) (tr : Tr) (n pol : Nat) : M Nat := atAddr tr.va do
  let s ← get
  let ag : Ag := ⟨some core, dieOf core, ctx⟩
  let line := tr.pa / 128
  let o := tr.pa % 128
  let cl := s.effCl tr.pa tr.pte
  let own := s.coreAt core
  if 2 ≤ cl then loadHome ag tr n
  else if cl = 0 ∧ pol = 0 then
    match own.l1.find? (fun r => decide (r.line = line)) with
    | some r => do
      checkPoison (own.unpoisoned line r.pz) line o n
      pure (spanOf (own.merged line r.data.toNat) o n)
    | none => do
      bump ctx 4 1 ag.die
      let (d, pz) ← dieLine ag line tr.pte
      let pz := own.unpoisoned line pz
      modify fun s => (s.modCore core fun c =>
        { c with l1 := c.l1 ++ [⟨line, BitVec.ofNat 1024 (c.merged line d), pz⟩] }).trimL1 core
      checkPoison pz line o n
      pure (spanOf (own.merged line d) o n)
  else do
    modify fun s => s.modCore core (fun c => c.dropL1 line)
    let (d, pz) ← dieLine ag line (polLeaf tr.pte pol)
    checkPoison (own.unpoisoned line pz) line o n
    pure (spanOf (own.merged line d) o n)

/-! ### Stores (spec/03 R68, spec/04 R83, R84) -/

/-- A store by a core: into the write-combining buffer after updating any L1 copy (CL 0 and 1), or straight on its
way home (CL 2 and 3), 16 bytes of a CL 3 page as two events, the lower first (spec/04 R80). -/
def storeCore (core blk grp : Nat) (tr : Tr) (n v pol : Nat) : M Unit := do
  let line := tr.pa / 128
  let pte := polLeaf tr.pte pol
  let data := spanData (tr.pa % 128) n v
  let mask := spanMask (tr.pa % 128) n
  let clear := wholeOf mask
  modify fun s => s.modCore core fun c =>
    { c with l1 := c.l1.map fun r =>
        if r.line = line then
          { r with data := BitVec.ofNat 1024 (mergeLine r.data.toNat data.toNat mask.toNat), pz := r.pz &&& ~~~ clear }
        else r }
  let s ← get
  if 2 ≤ s.effCl tr.pa tr.pte then do
    drainLine core line
    modify fun s => s.modDie (dieOf core) (fun d => d.dropReplica line)
    let part := fun m : BitVec 128 => (⟨line, data, m, pte, [(blk, grp)], core, wholeOf m⟩ : Fwd)
    let half := fun k : Nat => part (spanMask (tr.pa % 128 + 8 * k) 8)
    let parts := if n = 16 ∧ s.effCl tr.pa tr.pte = 3 then [half 0, half 1] else [part mask]
    modify fun s => { s with fwd := s.fwd ++ parts }
  else do
    let c := s.coreAt core
    match c.wc.find? (fun e => decide (e.line = line)) with
    | some e => do
      let e' : WcEntry := ⟨line, BitVec.ofNat 1024 (mergeLine e.data.toNat data.toNat mask.toNat), e.mask ||| mask,
        pte, if e.groups.contains (blk, grp) then e.groups else e.groups ++ [(blk, grp)], s.time, e.whole ||| clear⟩
      modify fun s => s.modCore core fun c => { c with wc := c.wc.map (fun x => if x.line = line then e' else x) }
      if e'.mask = BitVec.allOnes 128 then drainLine core line
    | none => do
      if Config.wcEntries ≤ c.wc.length then
        match c.wc.head? with
        | some o => drainEntry core o
        | none => pure ()
      let e : WcEntry := ⟨line, data, mask, pte, [(blk, grp)], s.time, clear⟩
      modify fun s => s.modCore core fun c => { c with wc := c.wc ++ [e] }
      if e.mask = BitVec.allOnes 128 then drainLine core line

/-! ### Read-modify-write and reads at home (spec/04 R88, spec/12 R252) -/

/-- One read-modify-write event of `n` bytes at home: `f` gives the new value, or none to store nothing. The slice first holds
a host or peer line exclusively through its coherence object (spec/04 R88). -/
def atomicHome (ag : Ag) (tr : Tr) (n : Nat) (f : Nat → Option Nat) : M Nat := atAddr tr.va do
  let line := tr.pa / 128
  ownCopies ag line
  let l ← atHome line true
  let s ← get
  match s.poisonIn (128 * l) 128 with
  | some g => raise (poisonFlt (8 * g) 0)
  | none => pure ()
  if regionOf tr.pa ≠ 0 then modify fun s => s.toDevice l
  allocate l tr.pte
  let old := getBytes s.mem (128 * l + tr.pa % 128) n
  modify fun s => s.remote ag.ctx ag.die l n tr.pte
  match f old with
  | some new => writeAt l (spanData (tr.pa % 128) n new) (spanMask (tr.pa % 128) n) tr.pte
  | none => pure ()
  pure old

/-- A write performed at home by an engine, a walker, the scheduler or a matrix merge. -/
def writeHome (ag : Ag) (tr : Tr) (n v : Nat) : M Unit := atAddr tr.va do
  let line := tr.pa / 128
  match ag.core with
  | some c => drainLine c line
  | none => pure ()
  flushFwd (fun f => decide (f.die = ag.die) && decide (f.line = line))
  let l ← atHome line true
  modify fun s => s.remote ag.ctx ag.die l n tr.pte
  writeAt l (spanData (tr.pa % 128) n v) (spanMask (tr.pa % 128) n) tr.pte

/-! ### Releases and acquires (spec/04 R101, spec/12 R259) -/

/-- Place the earlier writes of a group where a release of this scope needs them: 0, 1 nothing; 2 out of the write-combining
buffer; 3, 4 in the die's L2, at home for stores that no replica takes; 5 to 7 home. A discarded store is owed its fault here (spec/03 R76). -/
def releaseFor (core blk grp scope : Nat) : M Unit := do
  if scope < 2 then pure ()
  else do
    drainGroup core blk grp
    let s ← get
    flushFwd (fun f => f.groups.contains (blk, grp) &&
      (decide (5 ≤ scope) || decide (3 ≤ scope ∧ (2 ≤ s.effCl (128 * f.line) f.pte ∨ s.migrating f.line))))
    let s ← get
    match (s.grpAt blk grp).bind (·.owed) with
    | some d => raise (unreachable d)
    | none => pure ()

def clearL1 (core : Nat) : M Unit := modify fun s => s.modCore core (fun c => { c with l1 := [] })

/-- What an acquire of this scope does before any later access: 3, 4 the core's L1 goes; 5 to 7 also the die's
replica generation moves on (R101). -/
def acquireFor (core scope : Nat) : M Unit := do
  if scope < 3 then pure ()
  else do
    clearL1 core
    if 5 ≤ scope then modify fun s => s.modDie (dieOf core) Die.nextGen

/-- The remote side of a SCOPE 7 acquire: the named core's entries drain, its accepted writes are performed at home,
and its L1 goes (R259). -/
def promote (target : Nat) : M Unit := do
  drainCore target (fun _ => true)
  flushFwd (fun f => decide (f.core = target))
  clearL1 target

/-! ### Address translation (spec/03 R52 to R58) -/

/-- Bits 63:57 equal bit 56 (R52). -/
def canonical (va : Word) : Bool := fld 63 56 va.toNat = 0 || fld 63 56 va.toNat = 255

/-- The index of an address in a table of this level (R54). -/
def tableIdx (level : Nat) (va : Nat) : Nat := fld (21 + 10 * level) (12 + 10 * level) (va % 2 ^ 57)

def pageBytes (n : Nat) : Nat := 4096 * 4 ^ n

/-- A leaf that breaks R56 at this level. -/
def leafMalformed (level pte : Nat) : Bool :=
  let n := fld 63 60 pte
  let pa := fld 59 16 pte * 4096
  let cl := fld 9 8 pte
  decide (3 ≤ level) || decide (12 ≤ n) || decide (n / 5 ≠ level) || decide (pa % pageBytes n ≠ 0)
    || decide (fld 14 14 pte = 1 ∧ fld 3 3 pte = 1)
    || decide (fld 15 15 pte = 1 ∧ (2 ≤ cl ∨ fld 11 11 pte = 1))
    || decide (fld 11 11 pte = 1 ∧ 2 ≤ cl)
    || decide (regionOf pa = 3) || decide (regionOf pa = 0 ∧ fld 53 39 pa ≠ 0)

def pointerMalformed (level pte : Nat) : Bool :=
  decide (level = 0) || decide (fld 63 60 pte ≠ 0) || decide (fld 15 2 pte ≠ 0) || decide (fld 59 16 pte % 2 ≠ 0)

/-- Read an entry at its home. -/
def readPte (at_ : Nat) : M Nat := do
  let l ← atHome (at_ / 128) false
  let s ← get
  match s.poisonIn (128 * l + at_ % 128) 8 with
  | some g => raise (poisonFlt (8 * g) 0)
  | none => pure (getBytes s.mem (128 * l + at_ % 128) 8)

/-- The 8 bytes of an entry as its line's home holds them, which may be a new home (R73). -/
def State.pteAt (s : State) (at_ : Nat) : Nat := getBytes s.mem (128 * s.resolve (at_ / 128) + at_ % 128) 8

/-- The walker's atomic OR into an entry (R57); an entry that has the bits already is not written. -/
def orPte (at_ : Nat) (bits : Nat) : M Unit := do
  let old ← readPte at_
  if Nat.lor old bits = old then pure ()
  else do
    let l ← atHome (at_ / 128) true
    writeAt l (spanData (at_ % 128) 8 (Nat.lor old bits)) (spanMask (at_ % 128) 8) 0x200

/-- Do the entries of a replicated run agree, A and D apart? -/
def sameRun (pte : Nat) (l : List Nat) : Bool :=
  l.all fun q => fld 63 8 q = fld 63 8 pte && fld 5 0 q = fld 5 0 pte

/-- The entry through which the walker translates: any of a run whose entries differ (R56, log 6). -/
def pickRun (at_ pte : Nat) : M (Nat × Nat) := do
  let n := 4 ^ (fld 63 60 pte % 5)
  if n = 1 then pure (at_, pte)
  else do
    let base := at_ - 8 * (at_ / 8 % n)
    let s ← get
    if sameRun pte ((List.range n).map fun i => s.pteAt (base + 8 * i)) then pure (at_, pte)
    else do
      set { s with freeCtr := s.freeCtr + 1 }
      let pick := base + 8 * (Config.runPick s.freeCtr % n)
      let pte' ← readPte pick
      pure (pick, pte')

/-- A leaf of a size that its level holds, which may be one of a run (R55, R56). -/
def sizedFor (level pte : Nat) : Bool := decide (level < 3 ∧ fld 63 60 pte < 12 ∧ fld 63 60 pte / 5 = level)

/-- Walk from a table of this level: the leaf's address and value, its level, and the pointers passed. -/
def walkFrom (va : Word) (acc : Acc) (level table : Nat) (seen : List (Nat × Nat)) : M (Nat × Nat × Nat × List (Nat × Nat)) := do
  let at0 := table + 8 * tableIdx level va.toNat
  let pte0 ← readPte at0
  let (at_, pte) ← if fld 1 0 pte0 = 1 && sizedFor level pte0 then pickRun at0 pte0 else pure (at0, pte0)
  if fld 0 0 pte = 0 then raise (accFlt 1 1 acc va 0)
  else if fld 1 1 pte = 1 then
    if pointerMalformed level pte then raise (accFlt 1 2 acc va 0)
    else
      match level with
      | 0 => raise (accFlt 1 2 acc va 0)
      | k + 1 => walkFrom va acc k (fld 59 16 pte * 4096) (seen ++ [(k + 1, fld 59 16 pte * 4096)])
  else if leafMalformed level pte then raise (accFlt 1 2 acc va pte)
  else pure (at_, pte, level, seen)

/-- Table pointers of this address already in the walk cache, the deepest one: level and table below it. -/
def cachedTable (l : List WalkEntry) (part asn va : Nat) : Option (Nat × Nat) :=
  let hit := fun lv => l.find? fun w => decide (w.part = part ∧ w.asn = asn ∧ w.level = lv)
    && decide (w.vpfx = va % 2 ^ 57 / 2 ^ (12 + 10 * lv))
  match hit 1 with
  | some w => some (0, w.table)
  | none => match hit 2 with
    | some w => some (1, w.table)
    | none => match hit 3 with
      | some w => some (2, w.table)
      | none => (hit 4).map (fun w => (3, w.table))

/-- Load an entry into a die TLB of 8 ways a set: the oldest of a full set leaves (R58, log 109). -/
def Die.fillTlb (d : Die) (e : TlbEntry) : Die :=
  let rest := d.tlb.filter (fun x => decide (x.part ≠ e.part ∨ x.asn ≠ e.asn ∨ x.vbase ≠ e.vbase))
  if rest.length < Config.dieTlbWays then { d with tlb := rest ++ [e] }
  else
    let set_ := rest.filter (fun x => decide (Config.tlbSet x % Config.dieTlbSets = Config.tlbSet e % Config.dieTlbSets))
    if set_.length < Config.dieTlbWays then { d with tlb := rest ++ [e] }
    else { d with tlb := rest.filter (fun x => decide (some x ≠ set_.head?)) ++ [e] }

/-- Walk the context's tables (R54, R56, R57), set A, and D for a write the leaf permits, and fill the caches (R58). -/
def walk (ag : Ag) (va : Word) (acc : Acc) : M TlbEntry := do
  let s ← get
  match s.ctxAt ag.ctx with
  | none => throw .hold
  | some c => do
    let start := (cachedTable (s.dieAt ag.die).walk c.part c.asn va.toNat).getD (4, fld 55 12 c.tbr.toNat * 4096)
    let (at_, pte, _, seen) ← walkFrom va acc start.1 start.2 []
    let dirty := acc.writes && fld 3 3 pte = 1
    let bits := if dirty then 0xC0 else 0x40
    orPte at_ bits
    let n := fld 63 60 pte
    let e : TlbEntry := ⟨c.part, c.asn, va.toNat - va.toNat % pageBytes n, pageBytes n, Nat.lor pte bits, at_⟩
    modify fun s => s.modDie ag.die fun d =>
      { d.fillTlb e with
        walk := (d.walk ++ seen.map (fun (p : Nat × Nat) =>
            (⟨c.part, c.asn, p.1, va.toNat % 2 ^ 57 / 2 ^ (12 + 10 * p.1), p.2⟩ : WalkEntry))).drop
          (d.walk.length + seen.length - Config.walkEntries) }
    pure e

def TlbEntry.hits (e : TlbEntry) (c : Ctx) (va : Nat) : Bool :=
  decide (e.part = c.part ∧ e.asn = c.asn) && decide (e.vbase ≤ va ∧ va < e.vbase + e.size)

/-- Load an entry into a core TLB of 64 entries, whose oldest leaves (R58, log 109). -/
def Core.fillTlb (c : Core) (e : TlbEntry) : Core :=
  let l := c.tlb.filter (fun x => decide (x.part ≠ e.part ∨ x.asn ≠ e.asn ∨ x.vbase ≠ e.vbase)) ++ [e]
  { c with tlb := l.drop (l.length - Config.coreTlb) }

/-- The translation of an address, from the core TLB, the die TLB or a walk (R58). A first write through an entry
loaded with D = 0 walks again (R57). -/
def findLeaf (ag : Ag) (va : Word) (acc : Acc) : M TlbEntry := do
  let s ← get
  match s.ctxAt ag.ctx with
  | none => throw .hold
  | some c => do
    let usable := fun e : TlbEntry => e.hits c va.toNat
      && !(acc.writes && fld 3 3 e.pte = 1 && fld 7 7 e.pte = 0)
    match (ag.core.bind fun k => (s.coreAt k).tlb.find? usable) with
    | some e => pure e
    | none => do
      let e ← match (s.dieAt ag.die).tlb.find? usable with
        | some e => pure e
        | none => walk ag va acc
      match ag.core with
      | some k => modify fun s => s.modCore k (fun c => c.fillTlb e)
      | none => pure ()
      pure e

/-- Does the leaf permit the access (R57)? -/
def permits (pte : Nat) (acc : Acc) : Option Nat :=
  let r := fld 2 2 pte = 1
  let w := fld 3 3 pte = 1 ∨ fld 14 14 pte = 1
  let x := fld 4 4 pte = 1 ∧ fld 9 8 pte < 2
  if acc = .fetch then (if x then none else some 3)
  else if acc.reads ∧ ¬ r then some 1
  else if acc.writes ∧ ¬ w then some 2
  else none

/-! ### Copy-on-write services (spec/19 R313, R314) -/

/-- The faulting address, the leaf found there, and where it lies. -/
def CowSvc.va (w : CowSvc) : Word := w.flt.addr
def CowSvc.pte (w : CowSvc) : Nat := w.flt.detail2.toNat
def CowSvc.at_ (w : CowSvc) : Nat := w.flt.leafAt

def CowSvc.size (w : CowSvc) : Nat := pageBytes (fld 63 60 w.pte)

/-- First address of the page. -/
def CowSvc.base (w : CowSvc) : Nat := w.va.toNat - w.va.toNat % w.size

/-- The shootdown that a service makes. -/
def State.cowShoot (s : State) (w : CowSvc) : Shoot :=
  match s.ctxAt w.ctx with
  | some c => ⟨c.part, c.asn, w.base, w.base + w.size⟩
  | none => ⟨0, 0, 0, 0⟩

/-- A page whose new entries are written takes no write before the shootdown of the old ones completes (R314). -/
def State.cowHeld (s : State) (ctx : Nat) (va : Word) : Bool :=
  s.cows.any fun w =>
    w.served && !w.closed && decide (w.ctx = ctx ∧ w.base ≤ va.toNat ∧ va.toNat < w.base + w.size)
      && s.shoots.contains (s.cowShoot w)

/-- TRANSLATE an access and check it against its leaf and its partition (R52 to R57); a write to a copy-on-write page
raises the copy-on-write fault. Of several checks that fail the first reports: the right to read, to write, the partition, then
copy-on-write (DESIGN CHOICE, log 128). A leaf of which only a part lies in ranges of the partition is judged by the address that is
accessed (DESIGN CHOICE, log 129). -/
def translate (ag : Ag) (va : Word) (acc : Acc) : M Tr := atAddr va do
  if !canonical va then raise (accFlt 1 3 acc va 0)
  else do
    let e ← findLeaf ag va acc
    match permits e.pte acc with
    | some cause => raise (accFlt 2 cause acc va e.pte)
    | none => do
      let pa := fld 59 16 e.pte * 4096 + (va.toNat - e.vbase)
      let s ← get
      if acc.writes && s.cowHeld ag.ctx va then hold
      if !s.owns ag.ctx pa then raise (accFlt 2 4 acc va e.pte)
      else if acc.writes ∧ fld 14 14 e.pte = 1 then
        raise { accFlt 3 0 acc va e.pte with leafAt := e.at_ }
      else pure ⟨pa, e.pte, e.at_, e.vbase, e.size⟩

/-- Where an address of a context lies, as its tables stand. -/
def State.physOf (s : State) (ctx : Nat) (va : Word) : Option Nat :=
  match s.ctxAt ctx with
  | none => none
  | some c =>
    match walkFrom va .load 4 (fld 55 12 c.tbr.toNat * 4096) [] s with
    | .ok ((_, pte, _, _), _) => some (fld 59 16 pte * 4096 + va.toNat % pageBytes (fld 63 60 pte))
    | .error _ => none

/-- Two addresses name one place. -/
def State.samePlace (s : State) (c : Nat) (a : Word) (d : Nat) (b : Word) : Bool :=
  decide (c = d ∧ a = b) || (match s.physOf c a, s.physOf d b with
    | some x, some y => decide (x = y)
    | _, _ => false)

/-- The pages a shootdown names: from `lo` to `hi` of one address space. -/
def TlbEntry.inside (e : TlbEntry) (sh : Shoot) : Bool :=
  decide (e.part = sh.part ∧ e.asn = sh.asn) && decide (e.vbase < sh.hi ∧ sh.lo < e.vbase + e.size)

def WalkEntry.inside (e : WalkEntry) (sh : Shoot) : Bool :=
  let lo := sh.lo % 2 ^ 57
  decide (e.part = sh.part ∧ e.asn = sh.asn)
    && decide (e.vpfx * 2 ^ (12 + 10 * e.level) < lo + (sh.hi - sh.lo) ∧ lo < (e.vpfx + 1) * 2 ^ (12 + 10 * e.level))

/-- Drop the named translations from every core TLB, die TLB and walk cache; `glob` also the global ones. -/
def State.dropTlb (s : State) (sh : Shoot) (glob : Bool) : State :=
  let keep := fun e : TlbEntry => !(e.inside sh) || (!glob && decide (fld 5 5 e.pte = 1))
  { s with
    cores := s.cores.map (fun p => (p.1, { p.2 with tlb := p.2.tlb.filter keep }))
    dies := s.dies.map (fun p =>
      (p.1, { p.2 with tlb := p.2.tlb.filter keep, walk := p.2.walk.filter (fun w => !w.inside sh) })) }

/-- Every access already translated is performed: every buffered store goes home (R59). -/
def settleStores : M Unit := do
  let s ← get
  each s.cores (fun (k, _) => drainCore k (fun _ => true))
  flushFwd (fun _ => true)

/-- The MCAS event that a path asks for. -/
def Path.mcasOp (p : Path) : Option McasSt :=
  match p.wait with
  | some (.mcas m) => some m
  | some (.vins v) => v.op.map (·.2)
  | _ => none

/-- Blocks of an address space. -/
def State.inSpace (s : State) (sh : Shoot) (b : Block) : Bool :=
  match s.ctxAt b.ctx with
  | some k => decide (k.part = sh.part ∧ k.asn = sh.asn)
  | none => false

/-- An MCAS that asks for a page which a shootdown covers, or is to store its observed values there. -/
def Path.asksFor (sh : Shoot) (p : Path) : Bool :=
  match p.mcasOp with
  | some m => m.obs.isNone && (m.entries.map (fun e => e.va.toNat) ++ m.wbo.map (fun t => t.va.toNat)).any
      (fun a => decide (sh.lo ≤ a ∧ a < sh.hi))
  | none => false

/-- The MCASs that a shootdown starts again, with the context and the die of each. -/
def State.restarts (s : State) (sh : Shoot) : List (Nat × Nat) :=
  (s.blocks.mapIdx fun bi b =>
    if s.inSpace sh b then
      (b.groups.mapIdx fun gi g => (g.paths.filter fun p => p.asksFor sh
        && s.clamps.any (fun c => decide (c.blk = bi ∧ c.grp = gi ∧ c.lanes = p.lanes))).map
          (fun _ => (b.ctx, dieOf (b.core.getD b.last)))).flatten
    else []).flatten

/-- An MCAS without its first grant retranslates after a shootdown of its pages and starts its clamps again (spec/05 R114), which
counts as a restart (spec/22 R354). -/
def State.replan (s : State) (sh : Shoot) : State :=
  let s := (s.restarts sh).foldl (fun s x => s.bumped x.1 9 1 x.2) s
  let asks := fun c : Clamp => match s.blkAt c.blk, s.grpAt c.blk c.grp with
    | some b, some g => s.inSpace sh b && g.paths.any (fun p => decide (p.lanes = c.lanes) && p.asksFor sh)
    | _, _ => false
  let again := fun p : Path => match p.wait with
    | some (.mcas _) => if p.asksFor sh then { p with wait := none } else p
    | _ => p
  { s with
    clamps := s.clamps.filter (fun c => !asks c)
    blocks := s.blocks.map (fun b : Block =>
      if s.inSpace sh b then { b with groups := b.groups.map (fun g : Group => { g with paths := g.paths.map again }) } else b) }

/-- A shootdown waits for commands that have not left their pages (R59, spec/06 R133), and for an MCAS of the address
space that holds a clamp (spec/05 R114) or has observed values to store. -/
def State.shootBlocked (s : State) (sh : Shoot) : Bool :=
  (s.cmds.any fun c =>
    decide (c.status = .running) && decide (s.partOf c.ctx = sh.part)
      && decide (((s.ctxAt c.ctx).map (·.asn)) = some sh.asn) && (c.srcPg.isSome || c.dstPg.isSome) && !c.paused)
    || s.clamps.any (fun c => c.granted && ((s.blkAt c.blk).map (s.inSpace sh)).getD false)
    || s.blocks.any (fun b => s.inSpace sh b && b.groups.any (fun g => g.paths.any (fun p =>
      (p.mcasOp.bind (·.obs)).isSome)))

/-! ### The scratchpad (spec/04 R85) -/

def scratchGet (b : Block) (o n : Nat) : Nat := getBytes b.scratch o n

end Sys2Proof.Machine
end

