-- ==== Sys2Proof/Machine/Ops.lean ====
section
/-!
DEFINITION. Fetching and checking a clause (spec/02 R26, R27, R29), moving lanes to new addresses (spec/13 R263), and
TAKING A FAULT, one shared operation (spec/19 R303, R304, R307, R311, R313, R315), with the return from a trap beside
it (R316).
-/

namespace Sys2Proof.Machine

open Host

/-! ### Clauses (spec/02 R24, R26, R27) -/

/-- The class of an OP6: 1 to 6 as CLASS names them, 7 control, 0 none (a reserved OP6, a prefix, a header). -/
def opClass (op6 : Nat) : Nat :=
  if op6 ≤ 0x19 then 1
  else if op6 ≤ 0x20 then 2
  else if op6 ≤ 0x29 then 3
  else if op6 = 0x2A then 0
  else if op6 ≤ 0x2D then 4
  else if op6 ≤ 0x2F then 3
  else if op6 = 0x30 then 0
  else if op6 ≤ 0x32 then 4
  else if op6 ≤ 0x37 then 7
  else if op6 ≤ 0x39 then 5
  else if op6 ≤ 0x3B then 6
  else 0

/-- A word that may stand only last: a control instruction or ERET (R27, R49). -/
def endsClause (w : Nat) : Bool := opClass (fld 31 26 w) = 7 || (fld 31 26 w = 0x3A && fld 1 0 w = 3)

/-- Does a clause of this CLASS accept the word's class? -/
def classAccepts (cls w : Nat) : Bool :=
  cls = 0 || endsClause w || opClass (fld 31 26 w) = 0 || opClass (fld 31 26 w) = cls

def isPrefixWord (w : Nat) : Bool := fld 31 26 w = 0x3C

/-- The class question for a prefix is that of the first word after it that is no prefix. -/
def prefixAccepted (cls : Nat) (rest : List Nat) : Bool :=
  match rest with
  | [] => true
  | w :: r => if isPrefixWord w then prefixAccepted cls r else classAccepts cls w

/-- Does a word, with the words after it, pass R26? -/
def wordPasses (cls w : Nat) (rest : List Nat) : Bool :=
  if fld 31 26 w = 0x3D then false
  else if isPrefixWord w then !rest.isEmpty && prefixAccepted cls rest
  else (rest.isEmpty || !endsClause w) && classAccepts cls w

/-- Word offset of the first offending word of a clause, the header being 0. -/
def firstBad (cls : Nat) (i : Nat) (ws : List Nat) : Option Nat :=
  match ws with
  | [] => none
  | w :: r => if wordPasses cls w r then firstBad cls (i + 1) r else some i

/-- A header that R26 rejects. -/
def headerBad (h : Nat) : Bool :=
  fld 31 26 h ≠ 0x3D || fld 25 16 h ≠ 0 || fld 7 7 h ≠ 0 || fld 6 4 h = 7 || fld 3 0 h = 0

/-- Illegal clause (class 5): the header that failed and the offset of the first offending word. -/
def illegalClause (header : Word) (off : Nat) : Flt := { cls := 5, cause := 0, index := off, pcAt := some header }

/-! ### Fetching -/

/-- One code word, through the die's L2 (spec/02 R23, spec/03 R57). -/
def fetchCode (ag : Ag) (va : Word) : M Nat := do
  let tr ← translate ag va .fetch
  atAddr va (do
    let (d, pz) ← dieLine ag (tr.pa / 128) tr.pte
    checkPoison pz (tr.pa / 128) (tr.pa % 128) 4
    pure (spanOf d (tr.pa % 128) 4))

/-- FETCH a clause at an address and check it as a whole (R26, R29). -/
def fetchClause (ag : Ag) (pc : Word) : M Clause := do
  check (fld 1 0 pc.toNat = 0) (accFlt 6 0 .fetch pc 0)
  let h ← fetchCode ag pc
  if headerBad h then raise (illegalClause pc 0)
  else do
    let ws ← collect (List.range (fld 3 0 h)) (fun i => fetchCode ag (wordAfter pc (i + 1)))
    match firstBad (fld 6 4 h) 1 ws with
    | some off => raise (illegalClause pc off)
    | none => pure ⟨pc, BitVec.ofNat 32 h, ws.map (BitVec.ofNat 32), false⟩

/-- The agent of the issuing core. -/
def curAg : M Ag := do
  let b ← curBlk
  let c ← curCore
  pure ⟨some c, dieOf c, b.ctx⟩

/-- Check a branch target (R29): an access fault names the target. -/
def checkTarget (pc : Word) : M Unit := do
  let ag ← curAg
  let _ ← onFlt (fun f => if f.cls = 5 then f else { f with addr := pc }) (fetchClause ag pc)
  pure ()

/-! ### Moving lanes (spec/13 R263) -/

/-- Distinct values of a list, in order of first appearance. -/
def distinct (l : List Word) : List Word := l.foldl (fun acc x => if acc.contains x then acc else acc ++ [x]) []

/-- The lanes whose target is `t`. -/
def lanesAt (m : BitVec 32) (tgt : Nat → Word) (t : Word) : BitVec 32 :=
  (lanesOf m).foldl (fun acc l => if tgt l = t then acc ||| BitVec.ofNat 32 (2 ^ l) else acc) 0

/-- Send each active lane of the issuing path to its own address; lanes that agree stay together, and lanes that meet
a path at the same header join it. -/
def moveLanes (tgt : Nat → Word) : M Unit := do
  let p ← curPath
  let s ← get
  let parts := (distinct ((lanesOf p.lanes).map tgt)).map fun t =>
    ({ lanes := lanesAt p.lanes tgt t, pc := t, ctr := p.ctr, fair := p.fair, yieldAt := p.yieldAt, left := p.entry } : Path)
  modCurGrp fun g =>
    { g with paths := parts.foldl joinPath (g.paths.eraseIdx s.cur.path) }

/-- The lanes go to the next clause header (spec/13 R273, R274): every control word stands last. -/
def toNextHeader : M Unit := do
  let p ← curPath
  let s ← get
  let n := wordAfter p.pc s.cur.size
  moveLanes (fun _ => n)

/-! ### The issue table (spec/13 R262, R263) -/

/-- Every lane position of the quads that hold some of these lanes. -/
def quadsOf (m : BitVec 32) : BitVec 32 :=
  (List.range 8).foldl (fun acc q =>
    if fld (4 * q + 3) (4 * q) m.toNat = 0 then acc else acc ||| BitVec.ofNat 32 (15 * 2 ^ (4 * q))) 0

/-- The paths on a core: block, group, place in the group, path. -/
def State.corePaths (s : State) (core : Nat) : List (Nat × Nat × Nat × Path) :=
  (s.blocks.mapIdx fun bi b =>
    if b.core = some core ∧ ¬ b.ended then
      (b.groups.mapIdx fun gi g => g.paths.mapIdx fun pi p => (bi, gi, pi, p)).flatten
    else []).flatten

/-- Entries of a core's table: 32 on a control core (R268). -/
def tableSize (core : Nat) : Nat := if isControl core then 32 else 128

/-- Entries that are taken, those among them that their members have just left. -/
def entriesOf (l : List (Nat × Nat × Nat × Path)) : List Nat :=
  l.foldl (fun acc x => match x.2.2.2.entry.or x.2.2.2.left with
    | some e => if acc.contains e then acc else acc ++ [e]
    | none => acc) []

/-- Entries that are free, lowest first. -/
def State.freeEntries (s : State) (core : Nat) : List Nat :=
  let used := entriesOf (s.corePaths core)
  (List.range (tableSize core)).filter (fun i => !used.contains i)

/-- What a path shares with the rest of its issue set: the entry, the clause they issue and the word they stand at. -/
def Path.setKey (p : Path) : Option (Nat × Word × Word) :=
  match p.entry, p.cl with
  | some e, some c => if c.ready && !p.stopped then some (e, c.header, p.pc) else none
  | _, _ => none

/-- What a path at a fetched header that has not begun shares with the other members of its entry. -/
def Path.headKey (p : Path) : Option (Nat × Word) :=
  match p.entry, p.cl with
  | some e, some c => if !c.ready && !p.stopped && p.wait.isNone then some (e, p.pc) else none
  | _, _ => none

def State.gridOfBlk (s : State) (blk : Nat) : Option Nat := (s.blkAt blk).map (·.grid)

/-- Paths of the other groups on the core that a test picks, of the same launch. -/
def State.othersOn (s : State) (blk grp : Nat) (pick : Path → Bool) : List (Nat × Nat × Nat × Path) :=
  match (s.blkAt blk).bind (·.core) with
  | some core => (s.corePaths core).filter fun x =>
      decide ((x.1, x.2.1) ≠ (blk, grp)) && decide (s.gridOfBlk x.1 = s.gridOfBlk blk) && pick x.2.2.2
  | none => []

/-- The other members of a path's issue set. -/
def State.fellows (s : State) (blk grp : Nat) (p : Path) : List (Nat × Nat × Nat × Path) :=
  match p.setKey with
  | some k => s.othersOn blk grp (fun q => decide (q.setKey = some k))
  | none => []

/-- Members of an entry among the paths on a core. -/
def membersOf (l : List (Nat × Nat × Nat × Path)) (e : Nat) : List (Nat × Nat × Nat × Path) :=
  l.filter (fun x => decide (x.2.2.2.entry = some e))

/-- A member of an entry that stands at a header, of the launch that a block belongs to. -/
def State.standsAt (s : State) (l : List (Nat × Nat × Nat × Path)) (blk : Nat) (pc : Word) (e : Nat) : Option Path :=
  ((membersOf l e).find? fun x =>
    x.2.2.2.atHeader && decide (x.2.2.2.pc = pc ∧ s.gridOfBlk x.1 = s.gridOfBlk blk)).map (·.2.2.2)

/-- Lane positions of the quads of other groups in an entry. -/
def quadsTaken (l : List (Nat × Nat × Nat × Path)) (blk grp e : Nat) : BitVec 32 :=
  ((membersOf l e).filter (fun x => decide ((x.1, x.2.1) ≠ (blk, grp)))).foldl (fun m x => m ||| quadsOf x.2.2.2.lanes) 0

/-- Lane positions of the quads that a group has in an entry. -/
def quadsIn (l : List (Nat × Nat × Nat × Path)) (blk grp e : Nat) : BitVec 32 :=
  ((membersOf l e).filter (fun x => decide ((x.1, x.2.1) = (blk, grp)))).foldl (fun m x => m ||| quadsOf x.2.2.2.lanes) 0

/-- Quads of a path join an entry that stands at its pc, with the entry's wait counter and the clause fetched for it: what is left of
its lanes, and what has joined so far. -/
def Path.joinEntry (p : Path) (x : BitVec 32 × List Path) (e : Nat) (q : Path) (quads : BitVec 32) : BitVec 32 × List Path :=
  let m := x.1 &&& quads
  if m = 0 then x
  else (x.1 &&& ~~~ m, x.2 ++ [{ p with lanes := m, entry := some e, left := none, ctr := q.ctr, fair := q.fair, cl := q.cl }])

/-- The entry of its own that a path takes: the one it has just left, unless a member of it is there still, or the lowest that is
free (R263). -/
def State.ownEntry (s : State) (core : Nat) (p : Path) : Option Nat :=
  (p.left.filter (fun e => (membersOf (s.corePaths core) e).isEmpty)).or (s.freeEntries core).head?

/-- Where the lanes of a path go that is in no entry (R263). From a header they go quad by quad into the entries that stand there: first
where other lanes of the quad are, then where no other group holds the quad position. What is left goes into an entry of its own, or
while none is free into none. -/
def State.pieces (s : State) (core blk grp : Nat) (p : Path) : List Path :=
  let l := s.corePaths core
  let here := if p.atHeader then (List.range (tableSize core)).filterMap (fun e => (s.standsAt l blk p.pc e).map (fun q => (e, q)))
    else []
  let x := here.foldl (fun x (y : Nat × Path) => p.joinEntry x y.1 y.2 (quadsIn l blk grp y.1)) (p.lanes, [])
  let x := here.foldl (fun x (y : Nat × Path) => p.joinEntry x y.1 y.2 (~~~ quadsTaken l blk grp y.1)) x
  if x.1 = 0 then x.2 else x.2 ++ [{ p with lanes := x.1, entry := s.ownEntry core p, left := none }]

/-- Place the lanes of one path that is in no entry: its block, its group and its lanes. -/
def State.placePath (s : State) (x : Nat × Nat × BitVec 32) : State :=
  match (s.blkAt x.1).bind (·.core), s.grpAt x.1 x.2.1 with
  | some core, some g =>
    match g.paths.findIdx? (fun p => decide (p.lanes = x.2.2) && p.entry.isNone) with
    | some i =>
      let ps := s.pieces core x.1 x.2.1 ((g.paths[i]?).getD { lanes := 0, pc := 0 })
      s.modGrp x.1 x.2.1 (fun g => { g with paths := ps.foldl joinPath (g.paths.eraseIdx i) })
    | none => s
  | _, _ => s

/-- Groups on cores, each with its block and core. -/
def State.seatedGroups (s : State) : List (Nat × Nat × Nat × Group) :=
  (s.blocks.mapIdx fun bi b =>
    match b.core with
    | some c => if b.ended then [] else b.groups.mapIdx fun gi g => (bi, gi, c, g)
    | none => []).flatten

/-- Paths of those groups that a test picks. -/
def State.pathsThat (s : State) (pick : Path → Bool) : List (Nat × Nat × BitVec 32) :=
  (s.seatedGroups.map fun x => (x.2.2.2.paths.filter pick).map (fun p => (x.1, x.2.1, p.lanes))).flatten

/-- A path that needs an entry: no fault has stopped it, and it is not parked in a WAITCMP (spec/04 R98). -/
def Path.needsEntry (p : Path) : Bool :=
  p.entry.isNone && !p.stopped && (match p.wait with
    | some (.cmp _) => false
    | _ => true)

/-- A group that holds no entry, with the lanes of the first path that needs one. -/
def Group.seatless (g : Group) : Option (BitVec 32) :=
  if g.paths.any (·.entry.isSome) then none else (g.paths.find? (·.needsEntry)).map (·.lanes)

/-- Entries of a core without which every group in them would still hold one; those that stand at a header first. -/
def State.spareEntries (s : State) (core : Nat) : List Nat :=
  let l := s.corePaths core
  let spare := (entriesOf l).filter fun e => (membersOf l e).all fun x =>
    l.any (fun y => decide ((y.1, y.2.1) = (x.1, x.2.1)) && (match y.2.2.2.entry with
      | some k => decide (k ≠ e)
      | none => false))
  let first := fun e => (membersOf l e).all (fun x => x.2.2.2.atHeader)
  spare.filter first ++ spare.filter (fun e => !first e)

/-- The members of an entry give it up: their lanes wait until an entry frees. -/
def State.vacate (s : State) (core e : Nat) : State :=
  (membersOf (s.corePaths core) e).foldl (fun s x => s.modPath x.1 x.2.1 x.2.2.1 (fun p => { p with entry := none })) s

/-- A group that holds no entry is given one: where none is free, one of a group that holds several (R262, log 24). -/
def State.seatGroup (s : State) (x : Nat × Nat × Nat × Group) : State :=
  match (s.grpAt x.1 x.2.1).bind (·.seatless) with
  | none => s
  | some m =>
    let s := if (s.freeEntries x.2.2.1).isEmpty then ((s.spareEntries x.2.2.1).head?.map (s.vacate x.2.2.1)).getD s else s
    s.placePath (x.1, x.2.1, m)

/-- The issue table after a move (R262, R263): what has left an entry for another word is seated first, then each group that holds no
entry, then what waits at a header for one. -/
def State.settle (s : State) : State :=
  let s := (s.pathsThat (fun p => p.entry.isNone && p.left.isSome)).foldl State.placePath s
  let s := s.seatedGroups.foldl State.seatGroup s
  (s.pathsThat (fun p => p.entry.isNone && p.atHeader)).foldl State.placePath s

/-! ### Taking a fault -/

/-- Fill a fault out into what the record holds, from the issue in progress (spec/19 R307). -/
def faultRec (f : Flt) (s : State) : FaultRec :=
  let b := s.blkAt s.cur.blk
  let g := b.bind (fun k => s.grids[k.grid]?)
  { flt := f
    core := (b.bind (·.core)).getD 0
    group := s.cur.grp
    pc := f.pcAt.getD (((s.pathAt s.cur.blk s.cur.grp s.cur.path).map (·.pc)).getD 0)
    x := (b.map (·.x)).getD 0
    y := (b.map (·.y)).getD 0
    z := (b.map (·.z)).getD 0
    cluster := (b.map (·.clusterNo)).getD 0
    word := s.cur.word
    pfx := s.cur.pfx.getD 0
    launch := (g.map (·.recVa)).getD 0
    time := s.time }

/-- CODE of a captured fault (spec/19 R308). -/
def FaultRec.code (r : FaultRec) : Word :=
  BitVec.ofNat 64
    (r.flt.cls * 2 ^ 56 + r.flt.cause % 256 * 2 ^ 48 + r.flt.unit % 256 * 2 ^ 40 + r.flt.lane % 256 * 2 ^ 32
      + r.core % 2 ^ 16 * 2 ^ 16 + r.group % 256 * 2 ^ 8 + r.flt.index % 256)

/-- Capture a fatal fault: the first one is what the record will describe, each later one adds 1 to MORE (spec/19
R311). Termination itself is the step TERMINATE_CONTEXT (R310). -/
def State.capture (s : State) (ctx : Nat) (r : FaultRec) : State :=
  s.modCtx ctx fun c =>
    match c.fault with
    | none => { c with fault := some r }
    | some _ => { c with more := c.more + 1 }

/-- Stop the issuing path where it stands (spec/19 R304). -/
def State.stopCur (s : State) : State :=
  s.modPath s.cur.blk s.cur.grp s.cur.path fun p => { p with stopped := true }

def State.curCtxNo (s : State) : Nat := ((s.blkAt s.cur.blk).map (·.ctx)).getD 0

/-- The stopped copy command of some lanes of a group whose fault this is (spec/06 R134). -/
def Cmd.owes (c : Cmd) (blk grp : Nat) (m : BitVec 32) (f : Flt) : Bool :=
  decide (c.err ≠ 0 ∧ c.raised = false ∧ c.status = .done ∧ c.eng.unit = f.unit ∧ c.descAt = f.detail2)
    && decide (c.blk = blk ∧ c.grp = grp ∧ (c.lanes &&& m ≠ 0 ∨ c.task.isSome))

/-- The stopped matrix command of a group whose fault this is (spec/11 R242). -/
def MatCmd.owes (c : MatCmd) (blk grp : Nat) (f : Flt) : Bool :=
  decide (c.err ≠ 0 ∧ c.raised = false ∧ c.status = .done ∧ c.recAt = f.detail2) && decide (c.blk = blk ∧ c.grp = grp)

/-- The fault of a stopped matrix command is raised once. -/
def State.markMat (s : State) (f : Flt) : State :=
  match s.mats.findIdx? (fun c => c.owes s.cur.blk s.cur.grp f) with
  | some i => s.modMat i (fun c => { c with raised := true })
  | none => s

/-- The fault of a stopped copy command is raised once, and the command then counts as received (spec/06 R146). -/
def State.markRaised (s : State) (f : Flt) : State :=
  match s.cmds.findIdx? (fun c => c.owes s.cur.blk s.cur.grp s.curLanes f) with
  | some i =>
    let s := match s.cmds[i]? with
      | some c => if decide (c.kind = CopyKind.scatter) then s else s.count c.eng.node c.ctx c.phase 0 1
      | none => s
    s.modCmd i (fun c => { c with raised := true })
  | none => s

/-- An MCAS that faults holds no clamp and asks for none (spec/05 R114, R115). -/
def State.dropClamps (s : State) : State := { s with clamps := s.clamps.filter (fun c => !s.ownClamp c) }

/-- A fatal fault of the issuing path: it stops, and the context captures the fault (spec/19 R303, R310, R311). -/
def State.fatal (s : State) (f : Flt) : State :=
  let s := s.capture s.curCtxNo (faultRec f s)
  (if 1 ≤ f.unit ∧ f.unit ≤ 3 then s.markRaised f else if f.unit = 4 then s.markMat f else s).stopCur

/-- Write a value into the lanes of a per-thread list. -/
def setLanes {α : Type} (l : List α) (m : BitVec 32) (v : α) : List α :=
  l.mapIdx fun i a => if m.getLsbD i then v else a

/-- Deliver a trap to the context's handler: EPC, handler mode and pc of each lane of the path, CAUSE and FADDR of
the group (spec/19 R315). The path then stands at TVEC, a header to be fetched. -/
def State.deliver (s : State) (f : Flt) (tvec resume : Word) : State :=
  let m := s.curLanes
  let r := faultRec f s
  let trapped := (s.pathAt s.cur.blk s.cur.grp s.cur.path).bind fun p => p.cl.map fun c => (c, p.pc)
  s.modGrp s.cur.blk s.cur.grp fun g =>
    { g with
      epc := setLanes g.epc m resume
      handler := g.handler ||| m
      cause := r.code
      faddr := f.addr
      traps := setLanes g.traps m trapped
      paths := (g.paths.modify s.cur.path fun p =>
        { p with pc := tvec, cl := none, wait := none, entry := none, left := p.entry }).foldl joinPath [] }

/-- The context of the issue in progress. -/
def State.curCtx? (s : State) : Option Ctx := s.ctxAt s.curCtxNo

/-- OR the flags an instruction raises into FLG of FPCR, bits 12:8 (spec/19 R320). -/
def Ctx.orFlags (c : Ctx) (fl : Nat) : Ctx :=
  { c with fpcr := c.fpcr ||| BitVec.ofNat 64 (fl % 32 * 256) }

/-- Lanes whose trap cannot be delivered: no handler, or already in handler mode (R315). -/
def State.noHandler (s : State) : Bool :=
  match s.curCtx?, s.grpAt s.cur.blk s.cur.grp with
  | some c, some g => decide (c.tvec = 0) || decide (g.handler &&& s.curLanes ≠ 0)
  | _, _ => true

/-- Set A of the leaf of a write that meets a copy-on-write page (spec/03 R57). -/
def State.setA (s : State) (at_ : Nat) : State :=
  match (orPte at_ 0x40).run s with
  | .ok (_, t) => t
  | .error _ => s

/-- Put a copy-on-write fault in service. The write is not performed through the old entry, whose A bit alone is set (spec/03
R57). -/
def State.serve (s : State) (w : CowSvc) : State :=
  let s := s.setA w.at_
  { s with cows := s.cows ++ [w] }

/-- The die of the core a block is resident on. -/
def State.dieOfBlk (s : State) (blk : Nat) : Nat := dieOf (((s.blkAt blk).bind (·.core)).getD 0)

/-- The issuing path's copy-on-write fault is served: it stops at the word until it is issued again (R313, R314). -/
def State.beginCow (s : State) (f : Flt) : State :=
  let n := s.cows.length
  let s := s.serve ⟨s.curCtxNo, s.dieOfBlk s.cur.blk, s.cur.blk, s.cur.grp, s.curLanes, f, false, false, none, none, none⟩
  s.modPath s.cur.blk s.cur.grp s.cur.path fun p => { p with wait := some (.service n), since := s.time }

/-- TAKING A FAULT of the part (R303): a copy-on-write fault is put in service (R313); a floating-point trap or a
TRAP is delivered when a handler is set and the threads are not in handler mode, after TVEC has been checked as a
branch target, whose own fault is fatal (R315): while that check must wait, at a clamped line or for room in a slice, nothing
happens yet. Every other fault is fatal (R310). A trapping instruction ORs its flags into FLG first (R320). -/
def takeFault (f : Flt) (s0 : State) : State :=
  let s := s0.dropClamps
  if f.cls = 3 ∧ f.cause = 0 then s.beginCow f
  else if f.cls = 12 ∨ f.cls = 13 then
    let s := if f.cls = 12 then s.modCtx s.curCtxNo (fun c => c.orFlags f.detail.toNat) else s
    if s.noHandler then s.fatal f
    else
      let tvec := ((s.curCtx?).map (·.tvec)).getD 0
      match (checkTarget tvec).run s with
      | .error (.fault f') => s.fatal f'
      | .error _ => s0
      | .ok _ =>
        let pc := ((s.pathAt s.cur.blk s.cur.grp s.cur.path).map (·.pc)).getD 0
        let resume := if f.cls = 12 then pc else wordAfter pc s.cur.size
        s.deliver f tvec resume
  else s.fatal f

/-- A waiting word leaves its path waiting; nothing else has changed (spec/02 R30). -/
def State.parkRetry (s : State) : State :=
  s.modPath s.cur.blk s.cur.grp s.cur.path fun p =>
    match p.wait with
    | some _ => p
    | none => { p with wait := some .retry, since := s.time }

/-- The outcome of an instruction word: its effect; or the fault it raises, taken from the state before it, so that
the fault is precise (R304); or a wait at the word (spec/02 R30); or nothing yet, when the access must wait at its
home. -/
def runWord (m : M Unit) (s : State) : Outcome State Fault Refusal :=
  match m s with
  | .ok (_, t) => .next t
  | .error (.fault f) => .next (takeFault f s)
  | .error .wait => .next s.parkRetry
  | .error .hold => .next s
  | .error (.stop f) => .fault f

/-- The outcome of a step that no word encodes: when it cannot happen, nothing happens. -/
def runEvent (m : M Unit) (s : State) : Outcome State Fault Refusal :=
  match m { s with cur := Cur.none } with
  | .ok (_, t) => .next t
  | .error (.stop f) => .fault f
  | .error _ => .next s

end Sys2Proof.Machine
end

