-- ==== Sys2Proof/Machine/Operands.lean ====
section
/-!
DEFINITION. Operand forms: prefix words and the fields that apply (spec/02 R31 to R37), the 7-bit operand space and
allocations (R38), the packing of sub-elements (R39, spec/09 R190), masks (R33, R192) and the shared vector effect
(R193); the shared forms of uniform instructions (R207).
-/

namespace Sys2Proof.Machine

open Host

/-! ### Prefix words -/

/-- The fields an instruction without a prefix word has (R32). -/
def Pfx.neutral : Pfx := ⟨0, false, 5, 0x7F, 0, 5, 0⟩

def Pfx.ofCode (w : Nat) : Pfx :=
  ⟨fld 25 22 w, fld 21 21 w = 1, fld 20 18 w, fld 17 11 w, fld 10 7 w, fld 6 4 w, fld 3 2 w⟩

/-- A prefix word that is wrong before any instruction (R31, R34). -/
def pfxBad (w : Nat) : Bool := fld 1 0 w ≠ 0 || 6 ≤ fld 20 18 w || (1 ≤ fld 10 7 w && fld 10 7 w ≤ 7)

/-- Fields that do not apply must be neutral (R32). -/
def Pfx.fits (p : Pfx) (u : PfxUse) : Bool :=
  (u.mask || p.mask = 0) && (u.zm || p.zm = false) && (u.rm || p.rm = 5) && (u.op4 || p.op4 = 0x7F)
    && (u.sel || p.sel = 0) && (u.mem || (p.scope = 5 && p.ord = 0))

/-- The prefix fields of the word in progress, of which an instruction accepts some. -/
def getPfx (u : PfxUse) : M Pfx := do
  let s ← get
  match s.cur.pfx with
  | none => pure Pfx.neutral
  | some w => do
    check (!pfxBad w.toNat) (illegal 2)
    let p := Pfx.ofCode w.toNat
    check (p.fits u) (illegal 2)
    pure p

/-- The instruction takes no prefix field. -/
def noPfx : M Unit := do
  let _ ← getPfx {}
  pure ()

/-! ### Types (R39) -/

/-- The matrix engine, the coverage unit and the block conversions are those of shader cores (spec/02 R49). -/
def onShaderCore : M Unit := do
  let c ← curCore
  check (!isControl c) (illegal 10)

/-- Width of a sub-element of a type. -/
def tyWidth (ty : Nat) : Nat :=
  match ty with
  | 0 => 8
  | 1 => 16
  | 2 => 32
  | 3 => 64
  | 4 => 16
  | 5 => 16
  | 6 => 32
  | _ => 64

/-- Sub-elements of a register. -/
def tyCount (ty : Nat) : Nat := 64 / tyWidth ty

/-- A type the instruction does not accept is an illegal instruction. -/
def needTy (ty : BitVec 3) (l : List Nat) : M Unit := check (l.contains ty.toNat) (illegal 1)

def intTypes : List Nat := [0, 1, 2, 3]
def fpTypes : List Nat := [4, 5, 6, 7]
def allTypes : List Nat := [0, 1, 2, 3, 4, 5, 6, 7]

/-- Sub-element `j` of width `w`. -/
def elem (w j : Nat) (x : Word) : Nat := x.toNat / 2 ^ (w * j) % 2 ^ w

/-- Sub-elements of width `w` put together, the first lowest. -/
def packNat (w : Nat) (l : List Nat) : Nat :=
  match l with
  | [] => 0
  | x :: r => x % 2 ^ w + 2 ^ w * packNat w r

def packElems (w : Nat) (l : List Nat) : Word := BitVec.ofNat 64 (packNat w l)

/-! ### Operand codes (R38) -/

/-- Vector registers a thread is allocated and uniform registers a group declares. -/
def allocation : M (Nat × Nat) := do
  let g ← curGrid
  pure (g.lrec.vregs, g.lrec.uregs)

def isVec (code : BitVec 7) : Bool := code.toNat < 96

/-- A vector operand, within the allocation. -/
def needVec (code : BitVec 7) : M Nat := do
  let (nv, _) ← allocation
  check (decide (code.toNat < 96) && decide (code.toNat < nv)) (illegal 3)
  pure code.toNat

/-- A uniform operand, within the declared uniforms: its number. -/
def needUni (code : BitVec 7) : M Nat := do
  let (_, nu) ← allocation
  check (decide (96 ≤ code.toNat) && decide (code.toNat - 96 < nu)) (illegal 3)
  pure (code.toNat - 96)

/-- An operand that may be either. -/
def needAny (code : BitVec 7) : M Unit := do
  if isVec code then do
    let _ ← needVec code
    pure ()
  else do
    let _ ← needUni code
    pure ()

/-- A field that names a mask or a queue register holds it in its low four bits (R38). -/
def needLow4 (code : BitVec 7) : M Nat := do
  check (decide (code.toNat < 16)) (illegal 1)
  pure code.toNat

/-- The operand code of mask register k in the list of poisoned entries. -/
def maskCode (k : Nat) : Nat := 128 + k

/-- Reading a poisoned register raises the poison fault of its lowest poisoned lane that is read (spec/19 R308, R329). -/
def checkReg (code : Nat) (m : BitVec 32) : M Unit := do
  let g ← curGrp
  match g.poison.filter (fun p => decide (p.1 = code) && (decide (p.2 = 32) || m.getLsbD p.2)) with
  | [] => pure ()
  | p :: r =>
    let l := r.foldl (fun a x => min a x.2) p.2
    raise { poisonFlt 0 1 with lane := if l = 32 then 255 else l }

/-- Read an operand in every lane of the group: a uniform register gives each lane the same value. -/
def readOp (code : BitVec 7) : M (List Word) := do
  needAny code
  let m ← lanes
  checkReg code.toNat m
  let g ← curGrp
  pure (if isVec code then g.vreg code.toNat else List.replicate 32 (g.sreg (code.toNat - 96)))

/-- Read a uniform operand. -/
def readUni (code : BitVec 7) : M Word := do
  let n ← needUni code
  checkReg code.toNat 0
  let g ← curGrp
  pure (g.sreg n)

/-- Read uniform register n+1 of a pair whose first is `code`, which must be even. -/
def readUniPair (code : BitVec 7) : M (Word × Word) := do
  check (code.toNat % 2 = 0) (illegal 3)
  let a ← readUni code
  let b ← readUni (code + 1)
  pure (a, b)

def readMask (k : Nat) : M (BitVec 256) := do
  checkReg (maskCode k) 0
  let g ← curGrp
  pure (g.kreg k)

/-- Writing a register entry replaces what was poisoned in it. -/
def Group.clean (g : Group) (code : Nat) (lane : Nat → Bool) : Group :=
  { g with poison := g.poison.filter (fun p => !(decide (p.1 = code) && lane p.2)) }

/-- Write a uniform register. -/
def writeUni (n : Nat) (v : Word) : M Unit :=
  modCurGrp fun g => (g.setSreg n v).clean (96 + n) (fun _ => true)

def writeMask (k : Nat) (v : BitVec 256) : M Unit :=
  modCurGrp fun g => (g.setKreg k v).clean (maskCode k) (fun _ => true)

/-- Write a vector register: `f` gives the value of a lane, or none to leave the lane as it is. -/
def writeVec (r : Nat) (f : Nat → Option Word) : M Unit :=
  modCurGrp fun g =>
    let old := g.vreg r
    (g.setVreg r (laneIds.map fun l => (f l).getD (laneOf old l))).clean r (fun l => (f l).isSome)

/-- Write a value into each active lane of a vector register. -/
def writeLanes (r : Nat) (f : Nat → Word) : M Unit := do
  let m ← lanes
  writeVec r (fun l => if m.getLsbD l then some (f l) else none)

/-! ### The shared vector effect (spec/09 R193) -/

/-- One lane: element `j` of the result and its flags where the mask bit is set; the old element, or zero, elsewhere. -/
def laneElems (w n : Nat) (mask : BitVec 256) (zm : Bool) (lane : Nat) (old : Word) (f : Nat → Nat × Nat) :
    List (Nat × Nat) :=
  (List.range n).map fun j =>
    if mask.getLsbD (lane * 8 + j) then f j else if zm then (0, 0) else (elem w j old, 0)

/-- The flags of a list of element results, ORed. -/
def orFlagsOf (l : List (Nat × Nat)) : Nat := l.foldl (fun a x => Nat.lor a x.2) 0

/-- The vector effect over the active lanes: the new register and the flags raised at enabled positions. -/
def vectorEffect (w n : Nat) (m : BitVec 32) (mask : BitVec 256) (zm : Bool) (old : List Word)
    (f : Nat → Nat → Nat × Nat) : List Word × Nat :=
  let per := laneIds.map fun l =>
    if m.getLsbD l then
      let es := laneElems w n mask zm l (laneOf old l) (f l)
      (packElems w (es.map (·.1)), orFlagsOf es)
    else (laneOf old l, 0)
  (per.map (·.1), per.foldl (fun a x => Nat.lor a x.2) 0)

/-- SEL = 8 + j makes every position read sub-element j of B, which the type must have (R36). -/
def selOk (sel n : Nat) : Bool := sel = 0 || decide (sel - 8 < n)

def selIndex (sel j : Nat) : Nat := if sel = 0 then j else sel - 8

/-- Does MASK set the sub-element 0 bit of this lane (R33)? -/
def laneOn (mask : BitVec 256) (l : Nat) : Bool := mask.getLsbD (l * 8)

/-- The lanes a per-lane instruction is enabled in: active, with the mask bit of sub-element 0 set. -/
def enabledLanes (m : BitVec 32) (mask : BitVec 256) : BitVec 32 :=
  (lanesOf m).foldl (fun acc l => if laneOn mask l then acc ||| BitVec.ofNat 32 (2 ^ l) else acc) 0

/-- Every position of a lane is written: by an enabled position, or by ZM. -/
def laneWritten (n : Nat) (mask : BitVec 256) (zm : Bool) (l : Nat) : Bool :=
  zm || (List.range n).all (fun j => mask.getLsbD (l * 8 + j))

/-- Write the new register of a vector instruction, of `n` positions a lane. A lane written whole loses its poison. -/
def putVector (r : Nat) (v : List Word) (m : BitVec 32) (n : Nat) (mask : BitVec 256) (zm : Bool) : M Unit :=
  modCurGrp fun g => (g.setVreg r v).clean r (fun l => m.getLsbD l && laneWritten n mask zm l)

/-! ### Uniform instructions (spec/09 R207) -/

/-- A uniform instruction over two uniform sources. -/
def uniform2 (d a b : BitVec 7) (f : Word → Word → Word) : M Unit := do
  noPfx
  let n ← needUni d
  let x ← readUni a
  let y ← readUni b
  writeUni n (f x y)
  retire

end Sys2Proof.Machine
end

