-- ==== Sys2Proof/Machine/Flags.lean ====
section
/-!
DEFINITION. The floating-point flags, their accumulation in FPCR and the floating-point trap (spec/08 R177, spec/09
R194, spec/19 R315, R320); the rounding mode an instruction uses (spec/02 R34).
-/

namespace Sys2Proof.Machine

/-- Flag bits in the order of FLG and TEN (spec/19 R320). -/
def fInvalid : Nat := 1
def fDivZero : Nat := 2
def fOverflow : Nat := 4
def fUnderflow : Nat := 8
def fInexact : Nat := 16

/-- The trap enables of FPCR, bits 20:16. -/
def trapEnables (fpcr : Word) : Nat := fld 20 16 fpcr.toNat

/-- The lowest of five bits that is set. -/
def lowestFlag (x : Nat) : Nat := ((List.range 5).find? (fun i => x.testBit i)).getD 0

/-- The floating-point trap (class 12): its cause is the lowest flag that trapped, DETAIL the flags raised. -/
def trapFlt (raised enabled : Nat) : Flt :=
  { cls := 12, cause := lowestFlag (Nat.land raised enabled), detail := BitVec.ofNat 64 raised }

/-- Raise an instruction's flags: a trap when an enabled one is among them, otherwise ORed into FLG (R194). -/
def raiseFlags (fl : Nat) : M Unit := do
  let c ← curCtx
  let b ← curBlk
  let ten := trapEnables c.fpcr
  if ten = 0 then modify fun s => s.modCtx b.ctx (fun c => c.orFlags fl)
  else if Nat.land fl ten = 0 then modify fun s => s.modCtx b.ctx (fun c => c.orFlags fl)
  else raise (trapFlt fl ten)

/-- The rounding mode of a prefix: 5 is the context's (R34). -/
def roundingMode (rm : Nat) : M Nat := do
  let c ← curCtx
  pure (if rm = 5 then fld 2 0 c.fpcr.toNat else rm)

end Sys2Proof.Machine
end

