-- ==== Sys2Proof/Machine/Float.lean ====
section
/-!
DEFINITION. The four IEEE formats and their exact arithmetic rounded once (spec/08 R171 to R177), and block floating
point (R178 to R180). Patterns are natural numbers; a finite value is a sign, a mantissa and a power of two.
-/

namespace Sys2Proof.Machine

/-! ### Formats (R171) -/

/-- Exponent and fraction bits of a format. -/
structure Fmt where
  e : Nat
  f : Nat
  deriving DecidableEq, Repr, Inhabited

def fp64 : Fmt := ⟨11, 52⟩
def fp32 : Fmt := ⟨8, 23⟩
def fp16 : Fmt := ⟨5, 10⟩
def bf16 : Fmt := ⟨8, 7⟩

/-- The format of a floating-point TY (spec/02 R39). -/
def fmtOf (ty : Nat) : Fmt :=
  match ty with
  | 4 => fp16
  | 5 => bf16
  | 6 => fp32
  | _ => fp64

def Fmt.width (t : Fmt) : Nat := 1 + t.e + t.f
def Fmt.bias (t : Fmt) : Int := (2 ^ (t.e - 1) : Nat) - 1
def Fmt.emin (t : Fmt) : Int := 1 - t.bias
def Fmt.infBits (t : Fmt) : Nat := (2 ^ t.e - 1) * 2 ^ t.f
def Fmt.signBit (t : Fmt) : Nat := 2 ^ (t.e + t.f)
def Fmt.canonNan (t : Fmt) : Nat := t.infBits + 2 ^ (t.f - 1)
def Fmt.maxFinite (t : Fmt) : Nat := t.infBits - 1

/-- Put a sign on a magnitude pattern. -/
def Fmt.signed (t : Fmt) (neg : Bool) (mag : Nat) : Nat := if neg then mag + t.signBit else mag

/-- What a pattern stands for: a NaN, an infinity, or ±mant·2^exp. -/
inductive FVal where
  | nan (signalling : Bool)
  | inf (neg : Bool)
  | fin (neg : Bool) (mant : Nat) (exp : Int)
  deriving DecidableEq, Repr, Inhabited

/-- Read a pattern. -/
def Fmt.read (t : Fmt) (x : Nat) : FVal :=
  let neg := x / t.signBit % 2 = 1
  let ex := x / 2 ^ t.f % 2 ^ t.e
  let fr := x % 2 ^ t.f
  if ex = 2 ^ t.e - 1 then
    if fr = 0 then .inf neg else .nan (decide (fr < 2 ^ (t.f - 1)))
  else if ex = 0 then .fin neg fr (t.emin - t.f)
  else .fin neg (2 ^ t.f + fr) (ex - t.bias - t.f)

/-! ### Rounding (R175, R177) -/

/-- Does rounding `r` with remainder `rem` of `2^sh` go up in magnitude? Modes: 0 RNE, 1 RTZ, 2 RDN, 3 RUP, 4 RNA. -/
def roundsUp (mode : Nat) (neg : Bool) (r rem sh : Nat) : Bool :=
  match mode with
  | 0 => decide (2 ^ sh < 2 * rem) || (decide (2 * rem = 2 ^ sh) && decide (r % 2 = 1))
  | 1 => false
  | 2 => neg && decide (rem ≠ 0)
  | 3 => !neg && decide (rem ≠ 0)
  | _ => decide (2 ^ sh ≤ 2 * rem) && decide (rem ≠ 0)

/-- Round mant·2^exp to a multiple of 2^q: the multiple, and whether anything was lost. -/
def roundAt (mode : Nat) (neg : Bool) (mant : Nat) (exp q : Int) : Nat × Bool :=
  if q ≤ exp then (mant * 2 ^ (exp - q).toNat, false)
  else
    let sh := (q - exp).toNat
    let r := mant / 2 ^ sh
    let rem := mant % 2 ^ sh
    (if roundsUp mode neg r rem sh then r + 1 else r, decide (rem ≠ 0))

/-- Overflow gives infinity or the largest finite value, by mode and sign (R175). -/
def Fmt.overflow (t : Fmt) (mode : Nat) (neg : Bool) : Nat :=
  let toInf := match mode with
    | 1 => false
    | 2 => neg
    | 3 => !neg
    | _ => true
  t.signed neg (if toInf then t.infBits else t.maxFinite)

/-- round_to of a nonzero ±mant·2^exp: the pattern and the flags raised (R175, R177). -/
def Fmt.round (t : Fmt) (mode : Nat) (neg : Bool) (mant : Nat) (exp : Int) : Nat × Nat :=
  if mant = 0 then (t.signed neg 0, 0)
  else
    let top : Int := exp + Nat.log2 mant
    let q : Int := (if top < t.emin then t.emin else top) - t.f
    let (r, lost) := roundAt mode neg mant exp q
    let mag := (q - (t.emin - t.f)).toNat * 2 ^ t.f + r
    if t.infBits ≤ mag then (t.overflow mode neg, fOverflow + fInexact)
    else
      let free := (roundAt mode neg mant exp (top - t.f)).1
      let tiny := decide (top < t.emin) && !(decide (top = t.emin - 1) && decide (free = 2 ^ (t.f + 1)))
      (t.signed neg mag, if lost then (if tiny then fUnderflow + fInexact else fInexact) else 0)

/-- The canonical NaN, with invalid when asked (R173). -/
def Fmt.nan (t : Fmt) (invalid : Bool) : Nat × Nat := (t.canonNan, if invalid then fInvalid else 0)

def FVal.isNan (v : FVal) : Bool :=
  match v with
  | .nan _ => true
  | _ => false

def FVal.isSnan (v : FVal) : Bool :=
  match v with
  | .nan s => s
  | _ => false

/-- Round the exact sum of two finite values; the sign of a zero sum is R176's. -/
def Fmt.sum (t : Fmt) (mode : Nat) (n1 : Bool) (m1 : Nat) (e1 : Int) (n2 : Bool) (m2 : Nat) (e2 : Int) : Nat × Nat :=
  let e := min e1 e2
  let a : Int := (m1 * 2 ^ (e1 - e).toNat : Nat)
  let b : Int := (m2 * 2 ^ (e2 - e).toNat : Nat)
  let s := (if n1 then -a else a) + (if n2 then -b else b)
  if s = 0 then
    let neg := if m1 = 0 ∧ m2 = 0 ∧ n1 = n2 then n1 else decide (mode = 2)
    (t.signed neg 0, 0)
  else t.round mode (decide (s < 0)) s.natAbs e

/-- a + b for values already read (R202). -/
def Fmt.addV (t : Fmt) (mode : Nat) (a b : FVal) : Nat × Nat :=
  match a, b with
  | .nan s, y => t.nan (s || y.isSnan)
  | x, .nan s => t.nan (s || x.isSnan)
  | .inf n1, .inf n2 => if n1 = n2 then (t.signed n1 t.infBits, 0) else t.nan true
  | .inf n, _ => (t.signed n t.infBits, 0)
  | _, .inf n => (t.signed n t.infBits, 0)
  | .fin n1 m1 e1, .fin n2 m2 e2 => t.sum mode n1 m1 e1 n2 m2 e2

def FVal.neg (v : FVal) : FVal :=
  match v with
  | .nan s => .nan s
  | .inf n => .inf (!n)
  | .fin n m e => .fin (!n) m e

def Fmt.add (t : Fmt) (mode a b : Nat) : Nat × Nat := t.addV mode (t.read a) (t.read b)
def Fmt.sub (t : Fmt) (mode a b : Nat) : Nat × Nat := t.addV mode (t.read a) (t.read b).neg

/-- a × b (R202). -/
def Fmt.mul (t : Fmt) (mode a b : Nat) : Nat × Nat :=
  match t.read a, t.read b with
  | .nan s, y => t.nan (s || y.isSnan)
  | x, .nan s => t.nan (s || x.isSnan)
  | .inf n1, .inf n2 => (t.signed (n1 != n2) t.infBits, 0)
  | .inf n1, .fin n2 m _ => if m = 0 then t.nan true else (t.signed (n1 != n2) t.infBits, 0)
  | .fin n1 m _, .inf n2 => if m = 0 then t.nan true else (t.signed (n1 != n2) t.infBits, 0)
  | .fin n1 m1 e1, .fin n2 m2 e2 => t.round mode (n1 != n2) (m1 * m2) (e1 + e2)

/-- a × b + c with one rounding; 0 × ∞ is invalid whatever c is (R202). -/
def Fmt.fma (t : Fmt) (mode a b c : Nat) : Nat × Nat :=
  let z := t.read c
  match t.read a, t.read b with
  | .nan s, y => t.nan (s || y.isSnan || z.isSnan)
  | x, .nan s => t.nan (s || x.isSnan || z.isSnan)
  | .inf n1, .inf n2 => t.addV mode (.inf (n1 != n2)) z
  | .inf n1, .fin n2 m _ => if m = 0 then t.nan true else t.addV mode (.inf (n1 != n2)) z
  | .fin n1 m _, .inf n2 => if m = 0 then t.nan true else t.addV mode (.inf (n1 != n2)) z
  | .fin n1 m1 e1, .fin n2 m2 e2 => t.addV mode (.fin (n1 != n2) (m1 * m2) (e1 + e2)) z

/-- a ÷ b of finite values, b nonzero: quotient bits beyond the precision, and a sticky bit. -/
def Fmt.quot (t : Fmt) (mode : Nat) (neg : Bool) (m1 : Nat) (e1 : Int) (m2 : Nat) (e2 : Int) : Nat × Nat :=
  let k := t.f + 3 + Nat.log2 m2 - Nat.log2 m1
  let num := m1 * 2 ^ k
  t.round mode neg (2 * (num / m2) + (if num % m2 = 0 then 0 else 1)) (e1 - e2 - k - 1)

def Fmt.div (t : Fmt) (mode a b : Nat) : Nat × Nat :=
  match t.read a, t.read b with
  | .nan s, y => t.nan (s || y.isSnan)
  | x, .nan s => t.nan (s || x.isSnan)
  | .inf _, .inf _ => t.nan true
  | .inf n1, .fin n2 _ _ => (t.signed (n1 != n2) t.infBits, 0)
  | .fin n1 _ _, .inf n2 => (t.signed (n1 != n2) 0, 0)
  | .fin n1 m1 e1, .fin n2 m2 e2 =>
    if m2 = 0 then
      if m1 = 0 then t.nan true else (t.signed (n1 != n2) t.infBits, fDivZero)
    else if m1 = 0 then (t.signed (n1 != n2) 0, 0)
    else t.quot mode (n1 != n2) m1 e1 m2 e2

/-- Integer square root, one bit at a time from bit `k - 1` down. -/
def isqrtFrom (k n acc : Nat) : Nat :=
  match k with
  | 0 => acc
  | j + 1 => isqrtFrom j n (if (acc + 2 ^ j) * (acc + 2 ^ j) ≤ n then acc + 2 ^ j else acc)

/-- The square root of a positive m·2^e, with a sticky bit. -/
def Fmt.rootV (t : Fmt) (mode m : Nat) (e : Int) : Nat × Nat :=
  let k := t.f + 4
  let m' := if e % 2 = 0 then m * 2 ^ (2 * k) else 2 * m * 2 ^ (2 * k)
  let e' : Int := (if e % 2 = 0 then e else e - 1) / 2 - k
  let r := isqrtFrom (Nat.log2 m' / 2 + 1) m' 0
  t.round mode false (2 * r + (if r * r = m' then 0 else 1)) (e' - 1)

def Fmt.sqrt (t : Fmt) (mode a : Nat) : Nat × Nat :=
  match t.read a with
  | .nan s => t.nan s
  | .inf n => if n then t.nan true else (t.infBits, 0)
  | .fin n m e => if m = 0 then (t.signed n 0, 0) else if n then t.nan true else t.rootV mode m e

/-! ### Comparisons, minimum and maximum (spec/02 R41, spec/09 R203) -/

/-- a < b for numbers, −0 below +0 when `zeros` is asked for. -/
def FVal.less (zeros : Bool) (a b : FVal) : Bool :=
  match a, b with
  | .nan _, _ => false
  | _, .nan _ => false
  | .inf n, .inf k => n && !k
  | .inf n, .fin _ _ _ => n
  | .fin _ _ _, .inf n => !n
  | .fin n1 m1 e1, .fin n2 m2 e2 =>
    let e := min e1 e2
    let x : Int := (m1 * 2 ^ (e1 - e).toNat : Nat)
    let y : Int := (m2 * 2 ^ (e2 - e).toNat : Nat)
    let x := if n1 then -x else x
    let y := if n2 then -y else y
    decide (x < y) || (zeros && decide (m1 = 0 ∧ m2 = 0) && n1 && !n2)

/-- The conditions of FCMP (R41). -/
def FVal.holds (cond : Nat) (a b : FVal) : Bool :=
  let un := a.isNan || b.isNan
  let lt := a.less false b
  let gt := b.less false a
  match cond with
  | 0 => !un && !lt && !gt
  | 1 => un || lt || gt
  | 2 => lt
  | 3 => !un && !lt
  | 4 => un
  | 5 => !un
  | 6 => !un && !gt
  | _ => gt

/-- Smaller (`big` false) or larger of two patterns; `num` prefers a number to a NaN. -/
def Fmt.pick (t : Fmt) (big num : Bool) (a b : Nat) : Nat × Nat :=
  let x := t.read a
  let y := t.read b
  let fl := if x.isSnan || y.isSnan then fInvalid else 0
  let v :=
    if x.isNan && y.isNan then t.canonNan
    else if x.isNan then (if num then b else t.canonNan)
    else if y.isNan then (if num then a else t.canonNan)
    else if big then (if x.less true y then b else a)
    else (if y.less true x then b else a)
  (v, fl)

/-- FCLASS: one bit set (R204). -/
def Fmt.classify (t : Fmt) (a : Nat) : Nat :=
  match t.read a with
  | .nan s => if s then 2 ^ 8 else 2 ^ 9
  | .inf n => if n then 2 ^ 0 else 2 ^ 7
  | .fin n m _ =>
    if m = 0 then (if n then 2 ^ 3 else 2 ^ 4)
    else if m < 2 ^ t.f then (if n then 2 ^ 2 else 2 ^ 5)
    else (if n then 2 ^ 1 else 2 ^ 6)

/-- FRND: to an integral value; inexact is not raised (R204). -/
def Fmt.integral (t : Fmt) (mode a : Nat) : Nat × Nat :=
  match t.read a with
  | .nan s => t.nan s
  | .inf _ => (a, 0)
  | .fin n m e =>
    let (r, _) := roundAt mode n m e 0
    if 0 ≤ e then (a, 0) else ((t.round 1 n r 0).1, 0)

/-- An exponent beyond ±20,000 takes every finite value of a format beyond its range, as ±20,000 does. -/
def nearExp (b : Int) : Int := if 20000 < b then 20000 else if b < -20000 then -20000 else b

/-- FSCALE: a × 2^b (R205). -/
def Fmt.scale (t : Fmt) (mode a : Nat) (b : Int) : Nat × Nat :=
  match t.read a with
  | .nan s => t.nan s
  | .inf _ => (a, 0)
  | .fin n m e => t.round mode n m (e + nearExp b)

/-- FLOGB: floor(log2 |a|) as an exact value (R205). -/
def Fmt.logb (t : Fmt) (a : Nat) : Nat × Nat :=
  match t.read a with
  | .nan s => t.nan s
  | .inf _ => (t.infBits, 0)
  | .fin _ m e =>
    if m = 0 then (t.signed true t.infBits, fDivZero)
    else
      let k : Int := e + Nat.log2 m
      ((t.round 0 (decide (k < 0)) k.natAbs 0).1, 0)

/-! ### Conversions (R174, spec/10) -/

/-- A value read in one format, rounded into another; a signalling NaN becomes canonical and raises invalid. -/
def Fmt.convert (t : Fmt) (mode : Nat) (v : FVal) : Nat × Nat :=
  match v with
  | .nan s => t.nan s
  | .inf n => (t.signed n t.infBits, 0)
  | .fin n m e => t.round mode n m e

/-- With SAT, a finite overflow becomes the largest finite value of its sign, in every mode (R181). -/
def Fmt.convertSat (t : Fmt) (mode : Nat) (sat : Bool) (v : FVal) : Nat × Nat :=
  let r := t.convert mode v
  match v with
  | .fin n _ _ => if sat && r.2.testBit 2 then (t.signed n t.maxFinite, r.2) else r
  | _ => r

/-- An integer rounded into a format. -/
def Fmt.ofInteger (t : Fmt) (mode : Nat) (x : Int) : Nat × Nat := t.round mode (decide (x < 0)) x.natAbs 0

/-- A value rounded to an integer: the integer, and whether anything was lost. -/
def roundInt (mode : Nat) (neg : Bool) (m : Nat) (e : Int) : Int × Bool :=
  let (r, lost) := roundAt mode neg m e 0
  (if neg then -(r : Int) else r, lost)

/-! ### Block floating point (R178 to R180) -/

/-- Element `i` of a block: its mantissa as an integer, from the block's bit string. -/
def bfpMant (m : Nat) (bits : Nat) (i : Nat) : Int := toInt m (bits / 2 ^ (m * i) % 2 ^ m)

/-- The value of a mantissa under a shared exponent; E = 0xFF is a NaN (R178). -/
def bfpVal (m ex : Nat) (mant : Int) : FVal :=
  if ex = 0xFF then .nan false
  else .fin (decide (mant < 0)) mant.natAbs ((ex : Int) - 127 - (m - 1))

/-- The largest exponent of a leading one among values, if any is nonzero. -/
def topExp (l : List FVal) : Option Int :=
  l.foldl (fun acc v =>
    match v with
    | .fin _ m e =>
      if m = 0 then acc
      else
        let k : Int := e + Nat.log2 m
        match acc with
        | none => some k
        | some a => some (max a k)
    | _ => acc) none

/-- bfp_encode (R180): mantissas, shared exponent and flags. -/
def bfpEncode (l : List FVal) (m rnd : Nat) (sat : Bool) : List Int × Nat × Nat :=
  let bad := l.any fun v => match v with
    | .fin _ _ _ => false
    | _ => true
  if bad then (l.map (fun _ => 0), 0xFF, fInvalid)
  else
    match topExp l with
    | none => (l.map (fun _ => 0), 0, 0)
    | some k =>
      let ex : Int := max 0 (min 254 (k + 128))
      let lo : Int := -(2 ^ (m - 1) : Nat)
      let hi : Int := (2 ^ (m - 1) : Nat) - 1
      let ys := l.map fun v => match v with
        | .fin n mm e => roundInt rnd n mm (e + ((m : Int) - 1) - (ex - 127))
        | _ => (0, false)
      let clamped := ys.any fun y => decide (hi < y.1 ∨ y.1 < lo)
      let lost := ys.any (·.2) || clamped
      (ys.map (fun y => max lo (min hi y.1)), ex.toNat,
        (if lost then fInexact else 0) + (if clamped && !sat then fOverflow else 0))

/-- The bit string of a block's mantissas (R178). -/
def bfpBits (m : Nat) (l : List Int) : Nat := packNat m (l.map (ofInt m))

end Sys2Proof.Machine
end

