-- ==== Sys2Proof/Machine/IntVec.lean ====
section
/-!
DEFINITION. The integer vector instructions, OP6 0x00 to 0x0B (spec/09 R195 to R200), over one shared effect.
-/

namespace Sys2Proof.Machine

open Host

/-! ### The element operations (R196, R197) on patterns of `w` bits -/

def satTo (w : Nat) (x : Int) : Nat :=
  let hi : Int := (2 ^ (w - 1) : Nat) - 1
  let lo : Int := -(2 ^ (w - 1) : Nat)
  ofInt w (max lo (min hi x))

def popCount (w x : Nat) : Nat := (List.range w).foldl (fun n i => if x.testBit i then n + 1 else n) 0

def leadingZeros (w x : Nat) : Nat := if x = 0 then w else w - 1 - Nat.log2 x

def bitReverse (w x : Nat) : Nat :=
  (List.range w).foldl (fun a i => if x.testBit i then a + 2 ^ (w - 1 - i) else a) 0

def shiftLeft (w a b : Nat) : Nat := if w ≤ b then 0 else a * 2 ^ b % 2 ^ w

def shiftRight (w a b : Nat) : Nat := if w ≤ b then 0 else a / 2 ^ b

def shiftArith (w a b : Nat) : Nat := ofInt w (toInt w a / (2 ^ (if w ≤ b then w else b) : Nat))

def rotateLeft (w a b : Nat) : Nat :=
  let k := b % w
  a * 2 ^ k % 2 ^ w + a / 2 ^ (w - k) % 2 ^ k

/-- BFX and BFXU: a field of `a` from bit off, of length len clipped to the element. -/
def bitField (signed : Bool) (w a off len : Nat) : Nat :=
  if w ≤ off ∨ len = 0 then 0
  else
    let n := min len (w - off)
    let x := a / 2 ^ off % 2 ^ n
    if signed then ofInt w (toInt n x) else x

/-- BFI: the low bits of `b` replace a field of `a` that `c` names. -/
def bitInsert (w a b c : Nat) : Nat :=
  let off := c % w
  let len := min (c / 2 ^ Nat.log2 w % (2 * w)) (w - off)
  a - a / 2 ^ off % 2 ^ len * 2 ^ off + b % 2 ^ len * 2 ^ off

/-! ### Shared effects -/

/-- An instruction of R195: TY of width `w`, an optional B and fourth operand, and one operation on elements. -/
def intBody (d a : BitVec 7) (b : Option (BitVec 7)) (w : Nat) (useC : Bool) (op : Nat → Nat → Nat → Nat) : M Unit := do
  let p ← getPfx { mask := true, zm := true, op4 := useC, sel := b.isSome }
  check (selOk p.sel (64 / w)) (illegal 2)
  check (!useC || p.op4 ≠ 0x7F) (illegal 2)
  let rd ← needVec d
  let la ← readOp a
  let lb ← match b with
    | some b => readOp b
    | none => pure la
  let lc ← if useC then readOp (BitVec.ofNat 7 p.op4) else pure la
  let k ← readMask p.mask
  let m ← lanes
  let g ← curGrp
  let (v, _) := vectorEffect w (64 / w) m k p.zm (g.vreg rd) fun l j =>
    (op (elem w j (laneOf la l)) (elem w (selIndex p.sel j) (laneOf lb l)) (elem w j (laneOf lc l)), 0)
  putVector rd v m (64 / w) k p.zm
  retire

def int2 (d a b : BitVec 7) (t : BitVec 2) (op : Nat → Nat → Nat → Nat) (s : State) : Outcome State Fault Refusal :=
  runWord (intBody d a (some b) (tyWidth t.toNat) false (fun x y _ => op (tyWidth t.toNat) x y)) s

def int1 (d a : BitVec 7) (t : BitVec 2) (op : Nat → Nat → Nat) (s : State) : Outcome State Fault Refusal :=
  runWord (intBody d a none (tyWidth t.toNat) false (fun x _ _ => op (tyWidth t.toNat) x)) s

def int3 (d a b : BitVec 7) (t : BitVec 2) (op : Nat → Nat → Nat → Nat → Nat) (s : State) : Outcome State Fault Refusal :=
  runWord (intBody d a (some b) (tyWidth t.toNat) true (op (tyWidth t.toNat))) s

/-- Bitwise operations accept every TY (R195). -/
def bit2 (d a b : BitVec 7) (t : BitVec 3) (op : Nat → Nat → Nat → Nat) (s : State) : Outcome State Fault Refusal :=
  runWord (intBody d a (some b) (tyWidth t.toNat) false (fun x y _ => op (tyWidth t.toNat) x y)) s

/-! ### 0x00 -/

def execIadd (d a b : BitVec 7) (t : BitVec 2) (s : State) : Outcome State Fault Refusal :=
  int2 d a b t (fun w x y => (x + y) % 2 ^ w) s

def execIsub (d a b : BitVec 7) (t : BitVec 2) (s : State) : Outcome State Fault Refusal :=
  int2 d a b t (fun w x y => (x + 2 ^ w - y) % 2 ^ w) s

def execIadds (d a b : BitVec 7) (t : BitVec 2) (s : State) : Outcome State Fault Refusal :=
  int2 d a b t (fun w x y => satTo w (toInt w x + toInt w y)) s

def execIsubs (d a b : BitVec 7) (t : BitVec 2) (s : State) : Outcome State Fault Refusal :=
  int2 d a b t (fun w x y => satTo w (toInt w x - toInt w y)) s

/-! ### 0x01 -/

def execImul (d a b : BitVec 7) (t : BitVec 2) (s : State) : Outcome State Fault Refusal :=
  int2 d a b t (fun w x y => x * y % 2 ^ w) s

/-- Bits 2w − 1 to w of the signed product. -/
def mulHighSigned (w x y : Nat) : Nat := ofInt w (toInt w x * toInt w y / (2 ^ w : Nat))

def execImulh (d a b : BitVec 7) (t : BitVec 2) (s : State) : Outcome State Fault Refusal :=
  int2 d a b t mulHighSigned s

def execImulhu (d a b : BitVec 7) (t : BitVec 2) (s : State) : Outcome State Fault Refusal :=
  int2 d a b t (fun w x y => x * y / 2 ^ w) s

def execImad (d a b : BitVec 7) (t : BitVec 2) (s : State) : Outcome State Fault Refusal :=
  int3 d a b t (fun w x y z => (x * y + z) % 2 ^ w) s

/-! ### 0x02 -/

def execImin (d a b : BitVec 7) (t : BitVec 2) (s : State) : Outcome State Fault Refusal :=
  int2 d a b t (fun w x y => if toInt w x ≤ toInt w y then x else y) s

def execImax (d a b : BitVec 7) (t : BitVec 2) (s : State) : Outcome State Fault Refusal :=
  int2 d a b t (fun w x y => if toInt w x ≤ toInt w y then y else x) s

def execIminu (d a b : BitVec 7) (t : BitVec 2) (s : State) : Outcome State Fault Refusal :=
  int2 d a b t (fun _ x y => if x ≤ y then x else y) s

def execImaxu (d a b : BitVec 7) (t : BitVec 2) (s : State) : Outcome State Fault Refusal :=
  int2 d a b t (fun _ x y => if x ≤ y then y else x) s

/-! ### 0x03 -/

def execIabs (d a : BitVec 7) (t : BitVec 2) (s : State) : Outcome State Fault Refusal :=
  int1 d a t (fun w x => ofInt w (toInt w x).natAbs) s

def execIneg (d a : BitVec 7) (t : BitVec 2) (s : State) : Outcome State Fault Refusal :=
  int1 d a t (fun w x => (2 ^ w - x) % 2 ^ w) s

def execPopc (d a : BitVec 7) (t : BitVec 2) (s : State) : Outcome State Fault Refusal :=
  int1 d a t popCount s

def execClz (d a : BitVec 7) (t : BitVec 2) (s : State) : Outcome State Fault Refusal :=
  int1 d a t leadingZeros s

/-! ### 0x04 -/

def execVand (d a b : BitVec 7) (t : BitVec 3) (s : State) : Outcome State Fault Refusal :=
  bit2 d a b t (fun _ x y => Nat.land x y) s

def execVor (d a b : BitVec 7) (t : BitVec 3) (s : State) : Outcome State Fault Refusal :=
  bit2 d a b t (fun _ x y => Nat.lor x y) s

def execVxor (d a b : BitVec 7) (t : BitVec 3) (s : State) : Outcome State Fault Refusal :=
  bit2 d a b t (fun _ x y => Nat.xor x y) s

def execVandn (d a b : BitVec 7) (t : BitVec 3) (s : State) : Outcome State Fault Refusal :=
  bit2 d a b t (fun w x y => Nat.land x (2 ^ w - 1 - y)) s

/-! ### 0x05 -/

def execShl (d a b : BitVec 7) (t : BitVec 2) (s : State) : Outcome State Fault Refusal := int2 d a b t shiftLeft s

def execShr (d a b : BitVec 7) (t : BitVec 2) (s : State) : Outcome State Fault Refusal := int2 d a b t shiftRight s

def execSar (d a b : BitVec 7) (t : BitVec 2) (s : State) : Outcome State Fault Refusal := int2 d a b t shiftArith s

def execRot (d a b : BitVec 7) (t : BitVec 2) (s : State) : Outcome State Fault Refusal := int2 d a b t rotateLeft s

/-! ### 0x06 -/

def execBfx (d a b : BitVec 7) (t : BitVec 2) (s : State) : Outcome State Fault Refusal := int3 d a b t (bitField true) s

def execBfxu (d a b : BitVec 7) (t : BitVec 2) (s : State) : Outcome State Fault Refusal := int3 d a b t (bitField false) s

def execBfi (d a b : BitVec 7) (t : BitVec 2) (s : State) : Outcome State Fault Refusal := int3 d a b t bitInsert s

def execBrev (d a : BitVec 7) (t : BitVec 2) (s : State) : Outcome State Fault Refusal := int1 d a t bitReverse s

/-! ### Compares into a mask (spec/02 R41, spec/09 R200) -/

/-- Combine an old mask bit with a condition: 0 set, 1 and, 2 or. -/
def maskBit (fn : Nat) (old r : Bool) : Bool :=
  match fn with
  | 0 => r
  | 1 => old && r
  | _ => old || r

/-- A mask built from its bits. -/
def maskOf (f : Nat → Bool) : BitVec 256 :=
  BitVec.ofNat 256 ((List.range 256).foldl (fun a i => if f i then a + 2 ^ i else a) 0)

/-- The new mask of a compare: enabled positions of active lanes take the condition, disabled ones keep their bit or
take 0 under ZM; every other bit is kept. -/
def compareMask (n : Nat) (m : BitVec 32) (mask old : BitVec 256) (zm : Bool) (fn : Nat) (r : Nat → Nat → Bool) : BitVec 256 :=
  maskOf fun i =>
    let l := i / 8
    let j := i % 8
    if m.getLsbD l && decide (j < n) then
      if mask.getLsbD i then maskBit fn (old.getLsbD i) (r l j) else if zm then false else old.getLsbD i
    else old.getLsbD i

/-- ICMP: `fn` combines, `cond` compares elements of width `w`. -/
def icmpBody (k : BitVec 4) (c : BitVec 3) (a b : BitVec 7) (w fn : Nat) : M Unit := do
  let p ← getPfx { mask := true, zm := true, sel := true }
  check (selOk p.sel (64 / w)) (illegal 2)
  let la ← readOp a
  let lb ← readOp b
  let mk ← readMask p.mask
  let old ← readMask k.toNat
  let m ← lanes
  writeMask k.toNat (compareMask (64 / w) m mk old p.zm fn fun l j =>
    holdsCond c.toNat w (elem w j (laneOf la l)) (elem w (selIndex p.sel j) (laneOf lb l)))
  retire

def execIcmpSet (k : BitVec 4) (c : BitVec 3) (a b : BitVec 7) (t : BitVec 2) (s : State) : Outcome State Fault Refusal :=
  runWord (icmpBody k c a b (tyWidth t.toNat) 0) s

def execIcmpAnd (k : BitVec 4) (c : BitVec 3) (a b : BitVec 7) (t : BitVec 2) (s : State) : Outcome State Fault Refusal :=
  runWord (icmpBody k c a b (tyWidth t.toNat) 1) s

def execIcmpOr (k : BitVec 4) (c : BitVec 3) (a b : BitVec 7) (t : BitVec 2) (s : State) : Outcome State Fault Refusal :=
  runWord (icmpBody k c a b (tyWidth t.toNat) 2) s

/-! ### 0x08 -/

def execSel (d a b : BitVec 7) (t : BitVec 3) (s : State) : Outcome State Fault Refusal :=
  runWord (intBody d a (some b) (tyWidth t.toNat) true (fun x y z => if z ≠ 0 then x else y)) s

def execMov (d a : BitVec 7) (t : BitVec 3) (s : State) : Outcome State Fault Refusal :=
  runWord (intBody d a none (tyWidth t.toNat) false (fun x _ _ => x)) s

/-- A vector instruction whose result is one 64-bit element per lane, governed by mask bit lane × 8. -/
def wholeBody (d : BitVec 7) (a : Option (BitVec 7)) (op : Word → Word) : M Unit := do
  let p ← getPfx { mask := true, zm := true }
  let rd ← needVec d
  let la ← match a with
    | some a => readOp a
    | none => pure []
  let k ← readMask p.mask
  let m ← lanes
  let g ← curGrp
  let (v, _) := vectorEffect 64 1 m k p.zm (g.vreg rd) (fun l _ => ((op (laneOf la l)).toNat, 0))
  putVector rd v m 1 k p.zm
  retire

/-- MOVS: TY 0 to 2 (R195, R196). -/
def execMovs (d a : BitVec 7) (t : BitVec 2) (s : State) : Outcome State Fault Refusal :=
  runWord (do
    check (t.toNat < 3) (illegal 1)
    let w := tyWidth t.toNat
    wholeBody d (some a) (fun x => BitVec.ofInt 64 (toInt w (elem w 0 x)))) s

/-! ### 0x09, 0x0A (R198) -/

def execIaddi (d a : BitVec 7) (i : BitVec 12) (s : State) : Outcome State Fault Refusal :=
  runWord (wholeBody d (some a) (fun x => x + i.signExtend 64)) s

/-- The element MOVI writes for a TY (R198). -/
def moviElem (ty : Nat) (imm : Nat) : Nat :=
  match ty with
  | 0 => imm % 256
  | 2 => ofInt 32 (toInt 16 imm)
  | 3 => ofInt 64 (toInt 16 imm)
  | 6 => imm * 2 ^ 16
  | 7 => imm * 2 ^ 48
  | _ => imm

def execMovi (d : BitVec 7) (t : BitVec 3) (i : BitVec 16) (s : State) : Outcome State Fault Refusal :=
  runWord (do
    check (t.toNat ≠ 0 || i.toNat < 256) (illegal 3)
    let p ← getPfx { mask := true, zm := true }
    let rd ← needVec d
    let k ← readMask p.mask
    let m ← lanes
    let g ← curGrp
    let w := tyWidth t.toNat
    let (v, _) := vectorEffect w (64 / w) m k p.zm (g.vreg rd) (fun _ _ => (moviElem t.toNat i.toNat, 0))
    putVector rd v m (64 / w) k p.zm
    retire) s

/-! ### 0x0B (R199) -/

/-- A rearrangement of the sub-elements of A and B: element `j` of `n` of width `w` from the two registers. -/
def arrangeBody (d a b : BitVec 7) (w n : Nat) (f : Word → Word → Nat → Nat) : M Unit := do
  let p ← getPfx { mask := true, zm := true }
  let rd ← needVec d
  let la ← readOp a
  let lb ← readOp b
  let k ← readMask p.mask
  let m ← lanes
  let g ← curGrp
  let (v, _) := vectorEffect w n m k p.zm (g.vreg rd) (fun l j => (f (laneOf la l) (laneOf lb l) j, 0))
  putVector rd v m n k p.zm
  retire

/-- Element `j` of UNZIP's source order: even elements of A, then of B. -/
def unzipElem (w n : Nat) (x y : Word) (j : Nat) : Nat :=
  if j < n / 2 then elem w (2 * j) x else elem w (2 * (j - n / 2)) y

def execZip (d a b : BitVec 7) (t : BitVec 3) (s : State) : Outcome State Fault Refusal :=
  runWord (do
    needTy t [0, 1, 2, 4, 5, 6]
    let w := tyWidth t.toNat
    arrangeBody d a b w (64 / w) (fun x y j => if j % 2 = 0 then elem w (j / 2) x else elem w (j / 2) y)) s

def execUnzip (d a b : BitVec 7) (t : BitVec 3) (s : State) : Outcome State Fault Refusal :=
  runWord (do
    needTy t [0, 1, 2, 4, 5, 6]
    let w := tyWidth t.toNat
    arrangeBody d a b w (64 / w) (unzipElem w (64 / w))) s

/-- PACKLO and PACKHI: half elements of A, then of B; `hi` takes the high halves. -/
def packElem (hi : Bool) (w : Nat) (x y : Word) (j : Nat) : Nat :=
  let n := 64 / w
  let e := if j < n then elem w j x else elem w (j - n) y
  if hi then e / 2 ^ (w / 2) else e % 2 ^ (w / 2)

def execPacklo (d a b : BitVec 7) (t : BitVec 2) (s : State) : Outcome State Fault Refusal :=
  runWord (do
    check (t.toNat ≠ 0) (illegal 1)
    let w := tyWidth t.toNat
    arrangeBody d a b (w / 2) (2 * (64 / w)) (packElem false w)) s

def execPackhi (d a b : BitVec 7) (t : BitVec 2) (s : State) : Outcome State Fault Refusal :=
  runWord (do
    check (t.toNat ≠ 0) (illegal 1)
    let w := tyWidth t.toNat
    arrangeBody d a b (w / 2) (2 * (64 / w)) (packElem true w)) s

end Sys2Proof.Machine
end

