-- ==== Sys2Proof/Machine/LoadStore.lean ====
section
/-!
DEFINITION. Loads and stores, OP6 0x21 to 0x26 (spec/04 R77 to R86), with the scope and order a prefix gives (spec/02
R37) and the checks every access obeys.
-/

namespace Sys2Proof.Machine

open Host

/-! ### Scope and order (spec/02 R37, spec/12 R259) -/

/-- The site a SCOPE 7 access names is owned by the context's partition. -/
def State.ownsSite (s : State) (ctx : Nat) (v : Word) : Bool :=
  match s.parts.find? (s.partOf ctx) with
  | some p => decide (v.toNat < 512) && decide (v.toNat % 128 < 120) && ((p.sites[v.toNat / 128]?).getD 0).getLsbD (v.toNat % 128)
  | none => false

/-- Check SCOPE and ORD against what an instruction accepts, and answer the core a remote scope names. `own4` says that
the instruction has a fourth operand of its own; `acc` is its access kind (spec/19 R309). -/
def memOrder (p : Pfx) (acc : Acc) (ords : List Nat) (remote own4 : Bool) : M (Option Nat) := do
  check (ords.contains p.ord) (illegal 2)
  if p.scope = 7 then do
    check (remote && (p.ord = 1 || p.ord = 3) && p.op4 ≠ 0x7F) (illegal 2)
    let v ← readUni (BitVec.ofNat 7 p.op4)
    let b ← curBlk
    let s ← get
    check (s.ownsSite b.ctx v) (accFlt 2 7 acc 0 0)
    pure (some v.toNat)
  else do
    check (own4 || p.op4 = 0x7F) (illegal 2)
    pure none

/-- The release part of an access: its thread's earlier writes go where the scope needs them. -/
def releaseCur (scope : Nat) : M Unit := do
  let s ← get
  let c ← curCore
  releaseFor c s.cur.blk s.cur.grp scope

/-- The acquire part, with the remote side first. -/
def acquireCur (scope : Nat) (target : Option Nat) : M Unit := do
  let c ← curCore
  match target with
  | some t => promote t
  | none => pure ()
  acquireFor c scope

/-- Release and acquire as ORD asks. -/
def orderCur (p : Pfx) (target : Option Nat) : M Unit := do
  if 2 ≤ p.ord then releaseCur p.scope
  if p.ord % 2 = 1 then acquireCur p.scope target

/-! ### Sizes and addresses (spec/02 R44, spec/04 R77) -/

def sizeBytes (sz : Nat) : Nat :=
  match sz with
  | 0 => 1
  | 1 => 1
  | 2 => 2
  | 3 => 2
  | 4 => 4
  | 5 => 4
  | 6 => 8
  | _ => 16

/-- A value read, extended to the register (R82): odd sizes below 6 sign-extend. -/
def extend (sz v : Nat) : Word :=
  if sz < 6 ∧ sz % 2 = 1 then BitVec.ofInt 64 (toInt (8 * sizeBytes sz) v) else BitVec.ofNat 64 v

/-- A + OFF7 × bytes. -/
def effAddr (a : Word) (o : BitVec 7) (n : Nat) : Word := a + o.signExtend 64 * BitVec.ofNat 64 n

/-- The 128-bit pair: D even, and D + 1 within the allocation (R44). -/
def needPair (d : BitVec 7) : M Unit := do
  check (d.toNat % 2 = 0) (illegal 3)
  needAny d
  check (d.toNat + 1 < 128) (illegal 3)
  needAny (d + 1)

/-- The home of a translated access answers (spec/03 R76). -/
def reach (tr : Tr) : M Unit := do
  let s ← get
  match s.homeGone (s.resolve (tr.pa / 128)) with
  | some w => raise { unreachable w with addr := tr.va }
  | none => pure ()

/-- An access that faults at the instruction when its home cannot be reached: all but a store, which is accepted (spec/03 R76). -/
def Acc.faultsAtOnce (a : Acc) : Bool := a.reads || decide (a = .walkWrite)

/-- An aligned, translated access that its home can serve; alignment first (R77, R78, spec/03 R76). -/
def checkedAccess (ag : Ag) (va : Word) (n : Nat) (acc : Acc) : M Tr := do
  check (va.toNat % n = 0) (accFlt 6 0 acc va 0)
  let tr ← translate ag va acc
  if acc.faultsAtOnce then reach tr
  pure tr

/-- Check every lane of a list, lowest first, before any access is performed (R78). -/
def checkLanes (ag : Ag) (ls : List Nat) (addr : Nat → Word) (n : Nat) (acc : Acc) : M (List (Nat × Tr)) :=
  collect ls fun l => do
    let tr ← atLane l (checkedAccess ag (addr l) n acc)
    pure (l, tr)

/-- Lanes of a vector memory instruction that access memory: enabled, and no helper where helpers make none (R79). -/
def accessLanes (mask : BitVec 256) (helpers : Bool) : M (List Nat) := do
  let m ← lanes
  let g ← curGrp
  pure ((lanesOf (enabledLanes m mask)).filter (fun l => helpers || !g.helper.getLsbD l))

/-- Write what a vector load read: enabled lanes take it, disabled ones keep or take zero under ZM (R82, R33). -/
def writeLoaded (r : Nat) (zm : Bool) (got : List (Nat × Word)) : M Unit := do
  let m ← lanes
  writeVec r fun l =>
    if !m.getLsbD l then none
    else match got.find? (fun x => x.1 = l) with
      | some x => some x.2
      | none => if zm then some 0 else none

/-- Low and high registers of what was read. -/
def writeSized (d : BitVec 7) (zm : Bool) (sz : Nat) (got : List (Nat × Nat)) : M Unit := do
  writeLoaded d.toNat zm (got.map (fun x => (x.1, extend sz x.2)))
  if sz = 7 then writeLoaded (d.toNat + 1) zm (got.map (fun x => (x.1, BitVec.ofNat 64 (x.2 / 2 ^ 64))))

/-! ### LD and ST (R82 to R84) -/

/-- One load by the issuing core, at home when it is an acquire at package scope or wider (spec/12 R260); its line is allocated
as POL says in either case (spec/03 R62). -/
def loadOne (p : Pfx) (tr : Tr) (n pol : Nat) : M Nat := do
  let ag ← curAg
  let c ← curCore
  if p.ord = 1 ∧ 5 ≤ p.scope then loadHome ag { tr with pte := polLeaf tr.pte pol } n else loadCore c ag.ctx tr n pol

/-- The loads of the lanes, in order; lanes that read the same address all take what the first of them read (R81). `seen` holds
the addresses read so far with their values. -/
def loadLanes (p : Pfx) (n pol : Nat) (trs : List (Nat × Tr)) (seen : List (Nat × Nat)) : M (List (Nat × Nat)) :=
  match trs with
  | [] => pure []
  | x :: r => do
    let v ← match seen.find? (fun y => decide (y.1 = x.2.pa)) with
      | some y => pure y.2
      | none => atLane x.1 (loadOne p x.2 n pol)
    let rest ← loadLanes p n pol r ((x.2.pa, v) :: seen)
    pure ((x.1, v) :: rest)

def execLd (d a : BitVec 7) (sz : BitVec 3) (pol : BitVec 2) (o : BitVec 7) (s : State) : Outcome State Fault Refusal :=
  runWord (do
    check (pol ≠ 3) (illegal 1)
    let p ← getPfx { mask := true, zm := true, op4 := true, mem := true }
    let _ ← needVec d
    if sz = 7 then needPair d
    let la ← readOp a
    let k ← readMask p.mask
    let target ← memOrder p .load [0, 1] true false
    let ag ← curAg
    let n := sizeBytes sz.toNat
    let ls ← accessLanes k true
    let trs ← checkLanes ag ls (fun l => effAddr (laneOf la l) o n) n .load
    orderCur p target
    let got ← loadLanes p n pol.toNat trs []
    writeSized d p.zm sz.toNat got
    retire) s

/-- What a store writes: the low bytes of D, or D then D + 1. -/
def storeData (d : BitVec 7) (sz : Nat) : M (Nat → Nat) := do
  let lo ← readOp d
  if sz = 7 then do
    let hi ← readOp (d + 1)
    pure (fun l => (laneOf lo l).toNat + 2 ^ 64 * (laneOf hi l).toNat)
  else pure (fun l => (laneOf lo l).toNat)

/-- A store size 1, 3 or 5 is illegal (R51). -/
def storeSizeOk (sz : Nat) : Bool := sz % 2 = 0 || sz = 7

def execSt (d a : BitVec 7) (sz : BitVec 3) (pol : BitVec 2) (o : BitVec 7) (s : State) : Outcome State Fault Refusal :=
  runWord (do
    check (pol ≠ 3 && storeSizeOk sz.toNat) (illegal 1)
    let p ← getPfx { mask := true, op4 := true, mem := true }
    needAny d
    if sz = 7 then needPair d
    let la ← readOp a
    let v ← storeData d sz.toNat
    let k ← readMask p.mask
    let target ← memOrder p .store [0, 2] false false
    let ag ← curAg
    let c ← curCore
    let n := sizeBytes sz.toNat
    let ls ← accessLanes k false
    let trs ← checkLanes ag ls (fun l => effAddr (laneOf la l) o n) n .store
    orderCur p target
    let s ← get
    each trs (fun x => storeCore c s.cur.blk s.cur.grp x.2 n (v x.1) pol.toNat)
    retire) s

/-! ### LDS and STS (R85) -/

/-- The scratchpad's scope: 0 to 2, or the neutral 5, which acts as block scope. -/
def scratchScope (p : Pfx) : M Nat := do
  check (decide (p.scope < 3 ∨ p.scope = 5)) (illegal 2)
  pure (if p.scope = 5 then 2 else p.scope)

/-- The byte offset an enabled lane accesses: aligned and within the scratchpad. -/
def scratchOffset (size : Nat) (va : Word) (n : Nat) (acc : Acc) : M Nat := do
  check (va.toNat % n = 0) (accFlt 6 0 acc va 0)
  check (decide (va.toNat + n ≤ size)) (accFlt 2 5 acc va 0)
  pure va.toNat

/-- Reading a poisoned granule of the scratchpad (spec/19 R329). -/
def checkScratch (b : Block) (o n : Nat) : M Unit :=
  match b.scratchPoison.find? (fun g => decide (o / 8 ≤ g ∧ g ≤ (o + n - 1) / 8)) with
  | some g => raise (poisonFlt (8 * g) 1)
  | none => pure ()

/-- Write bytes of the scratchpad; a whole granule loses its poison. -/
def Block.scratchPut (b : Block) (o n v : Nat) : Block :=
  { b with
    scratch := putBytes b.scratch o n v
    scratchPoison := b.scratchPoison.filter (fun g => !(decide (o ≤ 8 * g) && decide (8 * g + 8 ≤ o + n))) }

def execLds (d a : BitVec 7) (sz : BitVec 3) (o : BitVec 7) (s : State) : Outcome State Fault Refusal :=
  runWord (do
    let p ← getPfx { mask := true, zm := true, mem := true }
    let _ ← scratchScope p
    check ([0, 1].contains p.ord) (illegal 2)
    let _ ← needVec d
    if sz = 7 then needPair d
    let la ← readOp a
    let k ← readMask p.mask
    let n := sizeBytes sz.toNat
    let ls ← accessLanes k true
    let b ← curBlk
    let os ← collect ls (fun l => do
      let x ← atLane l (scratchOffset b.scratchSize (effAddr (laneOf la l) o n) n .load)
      pure (l, x))
    each os (fun x => atLane x.1 (checkScratch b x.2 n))
    writeSized d p.zm sz.toNat (os.map (fun x => (x.1, scratchGet b x.2 n)))
    retire) s

def execSts (d a : BitVec 7) (sz : BitVec 3) (o : BitVec 7) (s : State) : Outcome State Fault Refusal :=
  runWord (do
    check (storeSizeOk sz.toNat) (illegal 1)
    let p ← getPfx { mask := true, mem := true }
    let sc ← scratchScope p
    check ([0, 2].contains p.ord) (illegal 2)
    needAny d
    if sz = 7 then needPair d
    let la ← readOp a
    let v ← storeData d sz.toNat
    let k ← readMask p.mask
    let n := sizeBytes sz.toNat
    let ls ← accessLanes k false
    let b ← curBlk
    let os ← collect ls (fun l => do
      let x ← atLane l (scratchOffset b.scratchSize (effAddr (laneOf la l) o n) n .store)
      pure (l, x))
    if p.ord = 2 then releaseCur sc
    each os (fun x => modCurBlk (fun b => b.scratchPut x.2 n (v x.1)))
    retire) s

/-! ### LDU and STU (R86) -/

/-- A uniform pair for 128 bits. -/
def needUniPair (d : BitVec 7) : M Unit := do
  check (d.toNat % 2 = 0) (illegal 3)
  let _ ← needUni d
  check (d.toNat + 1 < 128) (illegal 3)
  let _ ← needUni (d + 1)
  pure ()

def execLdu (d a : BitVec 7) (sz : BitVec 3) (pol : BitVec 2) (o : BitVec 7) (s : State) : Outcome State Fault Refusal :=
  runWord (do
    check (pol ≠ 3) (illegal 1)
    let p ← getPfx { op4 := true, mem := true }
    let r ← needUni d
    if sz = 7 then needUniPair d
    let x ← readUni a
    let target ← memOrder p .load [0, 1] true false
    let ag ← curAg
    let n := sizeBytes sz.toNat
    let tr ← checkedAccess ag (effAddr x o n) n .load
    orderCur p target
    let v ← loadOne p tr n pol.toNat
    writeUni r (extend sz.toNat v)
    if sz = 7 then writeUni (r + 1) (BitVec.ofNat 64 (v / 2 ^ 64))
    retire) s

def execStu (d a : BitVec 7) (sz : BitVec 3) (pol : BitVec 2) (o : BitVec 7) (s : State) : Outcome State Fault Refusal :=
  runWord (do
    check (pol ≠ 3 && storeSizeOk sz.toNat) (illegal 1)
    let p ← getPfx { op4 := true, mem := true }
    let _ ← needUni d
    if sz = 7 then needUniPair d
    let x ← readUni a
    let target ← memOrder p .store [0, 2] false false
    let h ← onlyHelpers
    if h then retire
    else do
      let v ← storeData d sz.toNat
      let ag ← curAg
      let c ← curCore
      let n := sizeBytes sz.toNat
      let tr ← checkedAccess ag (effAddr x o n) n .store
      orderCur p target
      let s ← get
      storeCore c s.cur.blk s.cur.grp tr n (v 0) pol.toNat
      retire) s

end Sys2Proof.Machine
end

