-- ==== Sys2Proof/Machine/Atomics.lean ====
section
/-!
DEFINITION. The atomics, OP6 0x27 and 0x28 (spec/04 R87 to R94), and CMNT (R102, R103).
-/

namespace Sys2Proof.Machine

open Host

/-- The new value of an atomic on `w` bits, or none where it stores nothing (R89 to R92). `b2` is ABADD's bound. -/
def atomicNew (aop w old b b2 c : Nat) : Option Nat :=
  match aop with
  | 0 => some ((old + b) % 2 ^ w)
  | 1 => some ((old + 2 ^ w - b) % 2 ^ w)
  | 2 => some (if toInt w old ≤ toInt w b then old else b)
  | 3 => some (if toInt w old ≤ toInt w b then b else old)
  | 4 => some (min old b)
  | 5 => some (max old b)
  | 6 => some (Nat.land old b)
  | 7 => some (Nat.lor old b)
  | 8 => some (Nat.xor old b)
  | 9 => some b
  | 10 => if old = c then some b else none
  | 11 => some (if b ≤ old then 0 else old + 1)
  | 12 => if b2 ≤ old then none else some (min (old + b) b2)
  | _ => some ((if w = 32 then fp32 else fp64).add 0 old b).1

/-- An atomic of `w` bits on every enabled lane that is no helper, in ascending lane order (R88, R93, R94). -/
def atomicBody (d a b : BitVec 7) (o : BitVec 4) (r : BitVec 1) (w : Nat) : M Unit := do
  let aop := o.toNat
  check (decide (aop < 14)) (illegal 1)
  let ret := decide (r = 1)
  check (ret || d = 0) (illegal 1)
  let p ← getPfx { mask := true, zm := ret, op4 := true, mem := true }
  if ret then do
    let _ ← needVec d
  let la ← readOp a
  let lb ← readOp b
  if aop = 12 ∧ w = 64 then needPair b
  let lb2 ← if aop = 12 ∧ w = 64 then readOp (b + 1) else pure lb
  check (decide (aop ≠ 10 ∨ (p.op4 ≠ 0x7F ∧ p.scope ≠ 7))) (illegal 2)
  let lc ← if aop = 10 then readOp (BitVec.ofNat 7 p.op4) else pure lb
  let k ← readMask p.mask
  let target ← memOrder p .atomic [0, 1, 2, 3] (decide (aop ≠ 10)) (decide (aop = 10))
  let ag ← curAg
  let ls ← accessLanes k false
  let trs ← checkLanes ag ls (laneOf la) (w / 8) .atomic
  orderCur p target
  let got ← collect trs (fun x => do
    let l := x.1
    let bv := (laneOf lb l).toNat % 2 ^ w
    let b2 := if w = 64 then (laneOf lb2 l).toNat else (laneOf lb l).toNat / 2 ^ 32
    let old ← atLane l (atomicHome ag x.2 (w / 8) (fun old => atomicNew aop w old bv b2 ((laneOf lc l).toNat % 2 ^ w)))
    pure (l, BitVec.ofNat 64 old))
  if ret then do
    let m ← lanes
    let g ← curGrp
    let helped := (lanesOf (enabledLanes m k)).filter (fun l => g.helper.getLsbD l)
    writeLoaded d.toNat p.zm (got ++ helped.map (fun l => (l, (0 : Word))))
  retire

def execAtomW (d a b : BitVec 7) (o : BitVec 4) (r : BitVec 1) (s : State) : Outcome State Fault Refusal :=
  runWord (atomicBody d a b o r 32) s

def execAtomD (d a b : BitVec 7) (o : BitVec 4) (r : BitVec 1) (s : State) : Outcome State Fault Refusal :=
  runWord (atomicBody d a b o r 64) s

/-! ### CMNT -/

/-- A prefetch never faults: what cannot be fetched is dropped (R103). -/
def prefetch (ag : Ag) (core : Nat) (va : Word) (level1 : Bool) : M Unit := do
  let r ← catchFlt (do
    let tr ← translate ag va .load
    let s ← get
    let cl := s.effCl tr.pa tr.pte
    if 2 ≤ cl then pure ()
    else if cl = 0 ∧ level1 then do
      let _ ← loadCore core ag.ctx tr 1 0
    else do
      let _ ← dieLine ag (tr.pa / 128) tr.pte)
  match r with
  | .ok _ => pure ()
  | .error _ => pure ()

/-- wb: a dirty line is written to its memory and stays valid. -/
def HomeLine.cleaned (line : Nat) (h : HomeLine) : HomeLine := if h.line = line then { h with dirty := false } else h

/-- Invalidate a line at home, in every replica and in every L1. -/
def State.invalidateLine (s : State) (line : Nat) : State :=
  { s with
    l2 := s.l2.filter (fun h => decide (h.line ≠ line))
    dies := s.dies.map (fun x => (x.1, x.2.dropReplica line))
    cores := s.cores.map (fun x => (x.1, x.2.dropL1 line)) }

/-- A maintenance kind checks its line as an access that needs R, or W for zero (R78, R103). What is homed in an L2 domain in
reset cannot be maintained: the fault is raised here (the spec lists no CMNT there; log 22). -/
def maintAccess (kind : Nat) (ag : Ag) (va : Word) : M Tr := do
  let tr ← translate ag va (if kind = 5 then .store else .load)
  let s ← get
  if kind = 5 ∨ (kind ≠ 4 ∧ s.effCl tr.pa tr.pte < 2) then reach tr
  pure tr

/-- A maintenance kind on a line that has been translated (R102). -/
def maintain (kind core : Nat) (ag : Ag) (tr : Tr) : M Unit := do
  let line := tr.pa / 128
  let s ← get
  let cached := decide (s.effCl tr.pa tr.pte < 2)
  match kind with
  | 2 => if cached then do
      let l ← atHome line false
      modify fun s => { s with l2 := s.l2.map (HomeLine.cleaned l) }
  | 3 => if cached then do
      let l ← atHome line false
      modify fun s => { s with l2 := s.l2.map (HomeLine.cleaned l) }
      modify fun s => (s.invalidateLine l).invalidateLine line
  | 4 => if cached then modify fun s => s.modCore core (fun c => c.dropL1 line)
  | _ => do
      ownCopies ag line
      let l ← atHome line true
      writeAt l 0 (BitVec.allOnes 128) tr.pte

def execCmnt (a : BitVec 7) (k : BitVec 3) (s : State) : Outcome State Fault Refusal :=
  runWord (do
    check (decide (k.toNat < 6)) (illegal 1)
    noPfx
    let la ← readOp a
    let ag ← curAg
    let c ← curCore
    let m ← lanes
    let g ← curGrp
    let base := fun l => BitVec.ofNat 64 ((laneOf la l).toNat / 128 * 128)
    if k.toNat < 2 then
      each (if isVec a then lanesOf m else [0]) (fun l => prefetch ag c (base l) (decide (k = 0)))
    else do
      let named := lanesOf (m &&& ~~~ g.helper)
      let ls := if isVec a then named else if named.isEmpty then [] else [0]
      let trs ← collect ls (fun l => (if isVec a then atLane l else id) (maintAccess k.toNat ag (base l)))
      let lines := trs.foldl (fun acc tr => if acc.any (fun x => decide (x.pa = tr.pa)) then acc else acc ++ [tr]) []
      each lines (maintain k.toNat c ag)
    retire) s

end Sys2Proof.Machine
end

