-- ==== Sys2Proof/Machine/FloatVec.lean ====
section
/-!
DEFINITION. The floating-point vector instructions, OP6 0x0C to 0x10 (spec/09 R201 to R206), over one shared effect.
-/

namespace Sys2Proof.Machine

open Host

/-- An instruction of R201 on TY 4 + t: an optional B and fourth operand, rounding, and flags raised at enabled
positions; a trap leaves the destination as it was (R194). -/
def fpBody (d a : BitVec 7) (b : Option (BitVec 7)) (ty : Nat) (useC : Bool)
    (op : Nat → Nat → Nat → Nat → Nat × Nat) : M Unit := do
  let p ← getPfx { mask := true, zm := true, rm := true, op4 := useC, sel := b.isSome }
  let w := tyWidth ty
  check (selOk p.sel (64 / w)) (illegal 2)
  check (!useC || p.op4 ≠ 0x7F) (illegal 2)
  let rd ← needVec d
  let la ← readOp a
  let lb ← match b with
    | some b => readOp b
    | none => pure la
  let lc ← if useC then readOp (BitVec.ofNat 7 p.op4) else pure la
  let k ← readMask p.mask
  let mode ← roundingMode p.rm
  let m ← lanes
  let g ← curGrp
  let (v, fl) := vectorEffect w (64 / w) m k p.zm (g.vreg rd) fun l j =>
    op mode (elem w j (laneOf la l)) (elem w (selIndex p.sel j) (laneOf lb l)) (elem w j (laneOf lc l))
  raiseFlags fl
  putVector rd v m (64 / w) k p.zm
  retire

def fp2 (d a b : BitVec 7) (t : BitVec 2) (op : Fmt → Nat → Nat → Nat → Nat × Nat) (s : State) :
    Outcome State Fault Refusal :=
  runWord (fpBody d a (some b) (4 + t.toNat) false (fun mode x y _ => op (fmtOf (4 + t.toNat)) mode x y)) s

def fp1 (d a : BitVec 7) (t : BitVec 2) (op : Fmt → Nat → Nat → Nat × Nat) (s : State) : Outcome State Fault Refusal :=
  runWord (fpBody d a none (4 + t.toNat) false (fun mode x _ _ => op (fmtOf (4 + t.toNat)) mode x)) s

/-! ### 0x0C (R202) -/

def execFadd (d a b : BitVec 7) (t : BitVec 2) (s : State) : Outcome State Fault Refusal := fp2 d a b t Fmt.add s

def execFsub (d a b : BitVec 7) (t : BitVec 2) (s : State) : Outcome State Fault Refusal := fp2 d a b t Fmt.sub s

def execFmul (d a b : BitVec 7) (t : BitVec 2) (s : State) : Outcome State Fault Refusal := fp2 d a b t Fmt.mul s

def execFma (d a b : BitVec 7) (t : BitVec 2) (s : State) : Outcome State Fault Refusal :=
  runWord (fpBody d a (some b) (4 + t.toNat) true ((fmtOf (4 + t.toNat)).fma)) s

/-! ### 0x0D (R203) -/

def execFmin (d a b : BitVec 7) (t : BitVec 2) (s : State) : Outcome State Fault Refusal :=
  fp2 d a b t (fun f _ x y => f.pick false false x y) s

def execFmax (d a b : BitVec 7) (t : BitVec 2) (s : State) : Outcome State Fault Refusal :=
  fp2 d a b t (fun f _ x y => f.pick true false x y) s

def execFminn (d a b : BitVec 7) (t : BitVec 2) (s : State) : Outcome State Fault Refusal :=
  fp2 d a b t (fun f _ x y => f.pick false true x y) s

def execFmaxn (d a b : BitVec 7) (t : BitVec 2) (s : State) : Outcome State Fault Refusal :=
  fp2 d a b t (fun f _ x y => f.pick true true x y) s

/-! ### 0x0E (R204) -/

def execFabs (d a : BitVec 7) (t : BitVec 2) (s : State) : Outcome State Fault Refusal :=
  fp1 d a t (fun f _ x => (x % f.signBit, 0)) s

def execFneg (d a : BitVec 7) (t : BitVec 2) (s : State) : Outcome State Fault Refusal :=
  fp1 d a t (fun f _ x => (Nat.xor x f.signBit, 0)) s

def execFclass (d a : BitVec 7) (t : BitVec 2) (s : State) : Outcome State Fault Refusal :=
  fp1 d a t (fun f _ x => (f.classify x, 0)) s

def execFrnd (d a : BitVec 7) (t : BitVec 2) (s : State) : Outcome State Fault Refusal := fp1 d a t Fmt.integral s

/-! ### 0x0F (R206) -/

/-- FCMP: invalid only for a signalling NaN at an enabled position; RM must be neutral. -/
def fcmpBody (k : BitVec 4) (c : BitVec 3) (a b : BitVec 7) (ty fn : Nat) : M Unit := do
  let p ← getPfx { mask := true, zm := true, sel := true }
  let w := tyWidth ty
  let f := fmtOf ty
  check (selOk p.sel (64 / w)) (illegal 2)
  let la ← readOp a
  let lb ← readOp b
  let mk ← readMask p.mask
  let old ← readMask k.toNat
  let m ← lanes
  let x := fun l j => f.read (elem w j (laneOf la l))
  let y := fun l j => f.read (elem w (selIndex p.sel j) (laneOf lb l))
  let snan := (lanesOf m).any fun l => (List.range (64 / w)).any fun j =>
    mk.getLsbD (l * 8 + j) && ((x l j).isSnan || (y l j).isSnan)
  raiseFlags (if snan then fInvalid else 0)
  writeMask k.toNat (compareMask (64 / w) m mk old p.zm fn (fun l j => FVal.holds c.toNat (x l j) (y l j)))
  retire

def execFcmpSet (k : BitVec 4) (c : BitVec 3) (a b : BitVec 7) (t : BitVec 2) (s : State) : Outcome State Fault Refusal :=
  runWord (fcmpBody k c a b (4 + t.toNat) 0) s

def execFcmpAnd (k : BitVec 4) (c : BitVec 3) (a b : BitVec 7) (t : BitVec 2) (s : State) : Outcome State Fault Refusal :=
  runWord (fcmpBody k c a b (4 + t.toNat) 1) s

def execFcmpOr (k : BitVec 4) (c : BitVec 3) (a b : BitVec 7) (t : BitVec 2) (s : State) : Outcome State Fault Refusal :=
  runWord (fcmpBody k c a b (4 + t.toNat) 2) s

/-! ### 0x10 (R202, R205) -/

def execFdiv (d a b : BitVec 7) (t : BitVec 2) (s : State) : Outcome State Fault Refusal := fp2 d a b t Fmt.div s

def execFsqrt (d a : BitVec 7) (t : BitVec 2) (s : State) : Outcome State Fault Refusal := fp1 d a t Fmt.sqrt s

def execFscale (d a b : BitVec 7) (t : BitVec 2) (s : State) : Outcome State Fault Refusal :=
  fp2 d a b t (fun f mode x y => f.scale mode x (toInt f.width y)) s

def execFlogb (d a : BitVec 7) (t : BitVec 2) (s : State) : Outcome State Fault Refusal :=
  fp1 d a t (fun f _ x => f.logb x) s

end Sys2Proof.Machine
end

