-- ==== Sys2Proof/Machine/Convert.lean ====
section
/-!
DEFINITION. The conversions, OP6 0x14 (spec/10 R223 to R225), and the format slots they read (spec/08 R181, R182).
-/

namespace Sys2Proof.Machine

open Host

/-! ### Format slots (R181, R182) -/

def slotOf (lr : LaunchRec) (i : Nat) : Code := (lr.slots[i]?).getD 0

def slotClean (w : Code) : Bool := fld 31 18 w.toNat = 0
def slotA (w : Code) : Nat := fld 3 0 w.toNat
def slotB (w : Code) : Nat := fld 7 4 w.toNat
def slotOut (w : Code) : Nat := fld 11 8 w.toNat
def slotScale (w : Code) : Nat := fld 14 12 w.toNat
def slotSat (w : Code) : Bool := fld 15 15 w.toNat = 1
def slotRnd (w : Code) : Nat := fld 17 16 w.toNat

/-- AFMT or BFMT accepted: BFP-2 to BFP-8, BF16, FP16. -/
def inFmtOk (c : Nat) : Bool := decide (2 ≤ c) && decide (c ≤ 10)

/-- OFMT accepted: also FP32 and FP64. -/
def outFmtOk (c : Nat) : Bool := decide (2 ≤ c) && decide (c ≤ 12)

/-- The IEEE format of a format code 9 to 12. -/
def codeFmt (c : Nat) : Fmt :=
  match c with
  | 9 => bf16
  | 10 => fp16
  | 11 => fp32
  | _ => fp64

/-! ### The shared effect on part of a register -/

/-- One lane where only some positions are governed; the others keep what they hold. -/
def partElems (w n : Nat) (mask : BitVec 256) (zm : Bool) (lane : Nat) (old : Word) (f : Nat → Option (Nat × Nat)) :
    List (Nat × Nat) :=
  (List.range n).map fun j =>
    match f j with
    | none => (elem w j old, 0)
    | some v => if mask.getLsbD (lane * 8 + j) then v else if zm then (0, 0) else (elem w j old, 0)

def partEffect (w n : Nat) (m : BitVec 32) (mask : BitVec 256) (zm : Bool) (old : List Word)
    (f : Nat → Nat → Option (Nat × Nat)) : List Word × Nat :=
  let per := laneIds.map fun l =>
    if m.getLsbD l then
      let es := partElems w n mask zm l (laneOf old l) (f l)
      (packElems w (es.map (·.1)), orFlagsOf es)
    else (laneOf old l, 0)
  (per.map (·.1), per.foldl (fun a x => Nat.lor a x.2) 0)

/-! ### conv() (R224) -/

/-- The range of a `w`-bit integer. -/
def intRange (w : Nat) (uns : Bool) : Int × Int :=
  if uns then (0, (2 ^ w : Nat) - 1) else (-(2 ^ (w - 1) : Nat), (2 ^ (w - 1) : Nat) - 1)

/-- Float to integer: in range, the rounded value; out of range, the nearest integer and invalid; NaN, 0 and invalid. -/
def floatToInt (w : Nat) (uns : Bool) (mode : Nat) (v : FVal) : Nat × Nat :=
  let (lo, hi) := intRange w uns
  match v with
  | .nan _ => (0, fInvalid)
  | .inf n => (ofInt w (if n then lo else hi), fInvalid)
  | .fin n m e =>
    let (r, lost) := roundInt mode n m e
    if r < lo then (ofInt w lo, fInvalid)
    else if hi < r then (ofInt w hi, fInvalid)
    else (ofInt w r, if lost then fInexact else 0)

/-- CVT's conv() from a type to a type. -/
def convElem (dst src : Nat) (uns : Bool) (mode : Nat) (x : Nat) : Nat × Nat :=
  if 4 ≤ src then
    if 4 ≤ dst then (fmtOf dst).convert mode ((fmtOf src).read x)
    else floatToInt (tyWidth dst) uns mode ((fmtOf src).read x)
  else (fmtOf dst).ofInteger mode (if uns then (x : Int) else toInt (tyWidth src) x)

/-- CVTS's conv(): widening extends, narrowing clamps. -/
def clampElem (dst src : Nat) (uns : Bool) (x : Nat) : Nat × Nat :=
  let (lo, hi) := intRange (tyWidth dst) uns
  let v : Int := if uns then (x : Int) else toInt (tyWidth src) x
  (ofInt (tyWidth dst) (max lo (min hi v)), 0)

/-- CVT and CVTS: PART chooses which part of the wider side is used (R223). -/
def cvtBody (d a : BitVec 7) (part src dst : Nat) (conv : Nat → Nat → Nat × Nat) : M Unit := do
  let sd := tyCount dst
  let ss := tyCount src
  check (decide (part < max sd ss / min sd ss)) (illegal 1)
  let p ← getPfx { mask := true, zm := true, rm := true }
  let rd ← needVec d
  let la ← readOp a
  let k ← readMask p.mask
  let mode ← roundingMode p.rm
  let m ← lanes
  let g ← curGrp
  let pos := fun j => if sd ≤ ss then some (part * sd + j)
    else if part * ss ≤ j ∧ j < part * ss + ss then some (j - part * ss) else none
  let (v, fl) := partEffect (tyWidth dst) sd m k p.zm (g.vreg rd) fun l j =>
    (pos j).map (fun i => conv mode (elem (tyWidth src) i (laneOf la l)))
  raiseFlags fl
  putVector rd v m sd k (p.zm && decide (sd ≤ ss))
  retire

def execCvt (d a : BitVec 7) (u : BitVec 1) (p : BitVec 2) (st : BitVec 3) (t : BitVec 3) (s : State) :
    Outcome State Fault Refusal :=
  runWord (do
    check (decide (4 ≤ st.toNat ∨ 4 ≤ t.toNat)) (illegal 1)
    check (!(decide (u = 1) && decide (4 ≤ st.toNat ∧ 4 ≤ t.toNat))) (illegal 1)
    cvtBody d a p.toNat st.toNat t.toNat (convElem t.toNat st.toNat (decide (u = 1)))) s

def execCvts (d a : BitVec 7) (u : BitVec 1) (p : BitVec 2) (st : BitVec 3) (t : BitVec 2) (s : State) :
    Outcome State Fault Refusal :=
  runWord (do
    check (decide (st.toNat < 4)) (illegal 1)
    cvtBody d a p.toNat st.toNat t.toNat (fun _ => clampElem t.toNat st.toNat (decide (u = 1)))) s

/-! ### Block conversions (R225) -/

/-- The format slot of a block conversion, a field of which gives the mantissa width. -/
def blockSlot (sl : BitVec 3) (width : Code → Nat) : M Code := do
  let g ← curGrid
  let w := slotOf g.lrec sl.toNat
  check (slotClean w && decide (2 ≤ width w) && decide (width w ≤ 8)) (illegal 5)
  pure w

/-- CVTB encodes the group's 64 FP32 values as one block. -/
def execCvtb (d a : BitVec 7) (sl : BitVec 3) (s : State) : Outcome State Fault Refusal :=
  runWord (do
    let p ← getPfx { mask := true, zm := true, rm := true }
    onShaderCore
    let rd ← needVec d
    let la ← readOp a
    let k ← readMask p.mask
    let w ← blockSlot sl slotOut
    let mw := slotOut w
    let m ← lanes
    let grp ← curGrp
    let vals := (List.range 64).map fun i =>
      let l := i / 2
      if m.getLsbD l && k.getLsbD (l * 8 + i % 2) then fp32.read (elem 32 (i % 2) (laneOf la l)) else .fin false 0 0
    let (mants, ex, fl) := bfpEncode vals mw (slotRnd w) (slotSat w)
    let bits := bfpBits mw mants
    let (v, _) := vectorEffect 64 1 m k p.zm (grp.vreg rd) fun l _ =>
      (if l < mw then bits / 2 ^ (64 * l) % 2 ^ 64 else ex, 0)
    raiseFlags fl
    putVector rd v m 1 k p.zm
    retire) s

/-- CVTBX decodes one block to FP32; it reads lanes 0 to m − 1 and 31 of A whatever their activity. -/
def execCvtbx (d a : BitVec 7) (sl : BitVec 3) (s : State) : Outcome State Fault Refusal :=
  runWord (do
    let p ← getPfx { mask := true, zm := true, rm := true }
    onShaderCore
    let rd ← needVec d
    needAny a
    let w ← blockSlot sl slotA
    let mw := slotA w
    checkReg a.toNat (BitVec.ofNat 32 (2 ^ mw - 1 + 2 ^ 31))
    let grp ← curGrp
    let la := if isVec a then grp.vreg a.toNat else List.replicate 32 (grp.sreg (a.toNat - 96))
    let src := fun l => if grp.present.getLsbD l ∨ ¬ isVec a then laneOf la l else 0
    let bits := packNat 64 ((List.range mw).map fun l => (src l).toNat)
    let ex := (src 31).toNat % 256
    let k ← readMask p.mask
    let m ← lanes
    let (v, _) := vectorEffect 32 2 m k p.zm (grp.vreg rd) fun l j =>
      ((fp32.convert 0 (bfpVal mw ex (bfpMant mw bits (2 * l + j)))).1, 0)
    putVector rd v m 2 k p.zm
    retire) s

end Sys2Proof.Machine
end

