-- ==== Sys2Proof/Machine/Engine.lean ====
section
/-!
DEFINITION. What the copy engines, the matrix engine and the tasks share: accesses at home (spec/06 R120), the counters
of the diagonal check (R146), completion words (R125), the faults of commands (R134, spec/19 R305, R309), and the
lists of commands a thread has issued (R136).
-/

namespace Sys2Proof.Machine

open Host

/-- An engine of a die works through the die's TLB. -/
def engAg (die ctx : Nat) : Ag := ⟨none, die, ctx⟩

/-! ### Accesses at home (R120) -/

/-- A read at home of at most one line, never from an L1 or a replica. -/
def engineRead (ag : Ag) (tr : Tr) (n : Nat) : M Nat := atAddr tr.va do
  let l ← atHome (tr.pa / 128) false
  let s ← get
  let pa := 128 * l + tr.pa % 128
  match s.poisonIn pa n with
  | some g => raise (poisonFlt (8 * g) 0)
  | none => do
    allocate l tr.pte
    modify fun s => s.remote ag.ctx ag.die l n tr.pte
    pure (getBytes s.mem pa n)

/-- A read by an engine of a die. Its value is the home's, never a replica's (R120); the die's L2 keeps the line as spec/03 R63
says of its engines' accesses. -/
def engineLoad (ag : Ag) (tr : Tr) (n : Nat) : M Nat := do
  let v ← engineRead ag tr n
  keepReplica ag tr
  pure v

/-- A write at home of at most one line; the issuing die's replica of the line goes. -/
def engineWrite (ag : Ag) (tr : Tr) (n v : Nat) : M Unit := atAddr tr.va do
  let l ← atHome (tr.pa / 128) true
  modify fun s => s.remote ag.ctx ag.die l n tr.pte
  modify fun s => s.modDie ag.die (fun d => d.dropReplica (tr.pa / 128))
  writeAt l (spanData (tr.pa % 128) n v) (spanMask (tr.pa % 128) n) tr.pte

/-- A block is off its core until it resumes: its commands stand still and hold no place of an engine (R135, spec/19 R325). -/
def State.blkSaved (s : State) (blk : Nat) : Bool :=
  match s.blkAt blk with
  | some b => b.core.isNone && !b.ended
  | none => false

/-- Translate and read `n` bytes that do not cross a line. -/
def readVa (ag : Ag) (va : Word) (n : Nat) (acc : Acc) : M Nat := do
  let tr ← translate ag va acc
  engineRead ag tr n

/-- The same by an engine of a die. -/
def loadVa (ag : Ag) (va : Word) (n : Nat) (acc : Acc) : M Nat := do
  let tr ← translate ag va acc
  engineLoad ag tr n

/-- Read `n` bytes of any alignment, byte by byte, little-endian. -/
def readBytesVa (ag : Ag) (va : Word) (n : Nat) (acc : Acc) : M Nat :=
  match n with
  | 0 => pure 0
  | k + 1 => do
    let b ← loadVa ag va 1 acc
    let r ← readBytesVa ag (va + 1) k acc
    pure (b + 256 * r)

/-- Read `n` aligned 64-bit words. -/
def readWordsVa (ag : Ag) (va : Word) (n : Nat) (acc : Acc) : M (List Nat) :=
  collect (List.range n) (fun i => loadVa ag (va + BitVec.ofNat 64 (8 * i)) 8 acc)

def writeVa (ag : Ag) (va : Word) (n v : Nat) (acc : Acc) : M Unit := do
  let tr ← translate ag va acc
  engineWrite ag tr n v

/-- A record read at issue, after the core's write-combining entries for its line have drained (R123): `n` dwords at
an address that must be a multiple of `align`. -/
def readRecord (va : Word) (n align : Nat) : M (List Nat) := do
  let ag ← curAg
  let c ← curCore
  check (va.toNat % align = 0) (accFlt 6 0 .engRead va 0)
  collect (List.range n) (fun i => do
    let a := va + BitVec.ofNat 64 (8 * i)
    let tr ← translate ag a .engRead
    drainLine c (tr.pa / 128)
    flushFwd (fun f => decide (f.die = ag.die) && decide (f.line = tr.pa / 128))
    engineRead (engAg ag.die ag.ctx) tr 8)

/-- VA[56:0] with bit 56 extended (R122). -/
def va57 (x : Nat) : Word := (BitVec.ofNat 57 x).signExtend 64

/-- A member of a list of words read. -/
def wordAt (l : List Nat) (i : Nat) : Nat := (l[i]?).getD 0

/-! ### Completion words and faults of commands -/

def completionWord (tag status wp : Nat) : Word :=
  BitVec.ofNat 64 (tag % 2 ^ 16 * 2 ^ 48 + status % 256 * 2 ^ 40 + wp % 2 ^ 40)

/-- STATUS of a fault that stops a command (R134). -/
def statusOf (f : Flt) : Nat :=
  match f.cls with
  | 1 => 1
  | 2 => 2
  | 6 => 3
  | 11 => 6
  | 10 => 7
  | _ => 5

/-- What a thread raises for a command that stopped: UNIT and INDEX of its engine, its completion word and its
descriptor or task address (spec/19 R308, R309). -/
def Cmd.raised_ (c : Cmd) : Flt :=
  { c.flt with
    unit := c.eng.unit
    index := c.eng.index
    lane := 255
    detail := completionWord c.tag c.err c.wp
    detail2 := c.descAt
    pcAt := none }

def MatCmd.raised_ (c : MatCmd) : Flt :=
  { c.flt with
    unit := 4
    index := 0
    lane := 255
    detail := completionWord c.tag c.err c.wp
    detail2 := c.recAt
    pcAt := none }

def Cmd.isDone (c : Cmd) : Bool := decide (c.status = .done)

def MatCmd.isDone (c : MatCmd) : Bool := decide (c.status = .done)

/-- A command of some lanes of a group. -/
def Cmd.ofLanes (c : Cmd) (blk grp : Nat) (m : BitVec 32) : Bool :=
  decide (c.blk = blk ∧ c.grp = grp) && decide (c.lanes &&& m ≠ 0)

def MatCmd.ofLanes (c : MatCmd) (blk grp : Nat) (m : BitVec 32) : Bool :=
  decide (c.blk = blk ∧ c.grp = grp) && decide (c.lanes &&& m ≠ 0)

/-- Raise the fault of the first stopped copy command among some. -/
def raiseCopy (l : List Cmd) : M Unit :=
  match l.find? (fun c => decide (c.err ≠ 0) && c.isDone && !c.raised) with
  | some c => raise c.raised_
  | none => pure ()

def raiseMat (l : List MatCmd) : M Unit :=
  match l.find? (fun c => decide (c.err ≠ 0) && c.isDone && !c.raised) with
  | some c => raise c.raised_
  | none => pure ()

/-- Every command the issuing path's lanes have issued. -/
def curCmds : M (List Cmd) := do
  let s ← get
  pure (s.cmds.filter (fun c => c.ofLanes s.cur.blk s.cur.grp s.curLanes))

def curMats : M (List MatCmd) := do
  let s ← get
  pure (s.mats.filter (fun c => c.ofLanes s.cur.blk s.cur.grp s.curLanes))

/-- Copy commands whose faults the issuing path raises: its lanes' own, and those of its group's tasks (spec/11 R246). -/
def dueCmds : M (List Cmd) := do
  let s ← get
  pure (s.cmds.filter (fun c =>
    c.ofLanes s.cur.blk s.cur.grp s.curLanes || (decide (c.blk = s.cur.blk ∧ c.grp = s.cur.grp) && c.task.isSome)))

/-- Every matrix command the issuing group has issued: the fault of one that stopped is the group's (spec/11 R242). -/
def grpMats : M (List MatCmd) := do
  let s ← get
  pure (s.mats.filter (fun c => decide (c.blk = s.cur.blk ∧ c.grp = s.cur.grp)))

/-! ### Completion queues q12 to q15 (R138) -/

/-- Room in a group's completion queue. -/
def Group.cqRoom (g : Group) (q : Nat) : Bool := decide (((g.cqs[q - 12]?).getD []).length < 16)

def Group.cqPush (g : Group) (q : Nat) (w : Word) : Group := { g with cqs := g.cqs.modify (q - 12) (fun l => l ++ [w]) }

/-- The queue names a completion queue. -/
def isCq (q : Nat) : Bool := decide (12 ≤ q)

/-! ### Tasks that a command carries out (spec/11 R246) -/

/-- A count of 16 bits. -/
def Block.count (b : Block) (t : Nat) : Nat := (b.counts[t]?).getD 0

/-- Every tag a task waits for is ready. -/
def Block.inputsReady (b : Block) (k : Task) : Bool :=
  (List.range 64).all (fun t => !k.ins.getLsbD t || decide (b.count t = 0))

/-- The order number after those of every task that has become ready. -/
def State.readyNext (s : State) : Nat :=
  s.blocks.foldl (fun n b => b.tasks.foldl (fun n k => max n ((k.ready.map (· + 1)).getD 0)) n) 0

/-- The tasks whose inputs are ready now become ready together, after those that became ready before (R246). -/
def Block.markReady (next : Nat) (b : Block) : Block :=
  { b with tasks := b.tasks.map fun k =>
      if k.ready.isNone && b.inputsReady k then { k with ready := some next } else k }

/-- A task's command has completed: with status 0 its output tag counts down by one. -/
def State.taskDone (s : State) (blk : Nat) (task : Option Nat) (ok : Bool) : State :=
  match task with
  | none => s
  | some t => s.modBlk blk fun b =>
      let out := ((b.tasks[t]?).map (·.out)).getD 0xFF
      ({ b with
        tasks := b.tasks.modify t (fun k => { k with done := true })
        counts := if ok then b.counts.modify out (fun n => (n + 65535) % 65536) else b.counts } : Block).markReady s.readyNext

/-! ### Batches (R136) -/

/-- Every command of a list is complete. -/
def State.allDone (s : State) (l : List Nat) : Bool := l.all (fun i => ((s.cmds[i]?).map (·.isDone)).getD true)

/-- Sealed batches of some lanes numbered `n` or lower, with their commands. -/
def Group.batchesTo (g : Group) (m : BitVec 32) (n : Nat → Nat) : List (List Nat) :=
  (g.sealed_.filter (fun b => m.getLsbD b.1 && decide (b.2.1 ≤ n b.1))).map (·.2.2)

/-- Add a command to the open copies of the lanes that issued it. -/
def Group.openCmd (g : Group) (m : BitVec 32) (i : Nat) : Group :=
  { g with opens := g.opens.mapIdx (fun l o => if m.getLsbD l then o ++ [i] else o) }

end Sys2Proof.Machine
end

