-- ==== Sys2Proof/Decode.lean ====
section
/-!
DEFINITION. Decoding: total on any bytes, refusing by name what is no instruction (spec/02 R38, R40 to R51), from the
encoding fields of spec/opcode_table.json; and the encoder, from the same fields.
-/

namespace Sys2Proof

/-- Why a word is no instruction. -/
inductive DecodeErr where
  /-- fewer than four bytes -/
  | truncated
  /-- OP6 0x2A, 0x30, 0x3E or 0x3F (R51) -/
  | reservedOpcode (op6 : Nat)
  /-- an FN the opcode map shows as absent (R51) -/
  | reservedFunction (op6 fn : Nat)
  /-- a reserved or unused field that is not zero, or a TY outside the instruction's own (R51) -/
  | reservedField (op6 fn : Nat)
  /-- a prefix word modifies the word after it and is no instruction (R31) -/
  | prefixWord
  /-- a clause header is never decoded as an instruction (R51) -/
  | clauseHeader
  deriving DecidableEq, Repr

/-- OP6 0x00: IADD, ISUB, IADDS, ISUBS. -/
def decodeOp00 (w : Nat) : Except DecodeErr Instr :=
  match fld 1 0 w with
  | 0 =>
    if fld 4 4 w = 0 then .ok (.iadd (BitVec.ofNat 7 (fld 25 19 w)) (BitVec.ofNat 7 (fld 18 12 w)) (BitVec.ofNat 7 (fld 11 5 w)) (BitVec.ofNat 2 (fld 3 2 w)))
    else .error (.reservedField 0x00 0)
  | 1 =>
    if fld 4 4 w = 0 then .ok (.isub (BitVec.ofNat 7 (fld 25 19 w)) (BitVec.ofNat 7 (fld 18 12 w)) (BitVec.ofNat 7 (fld 11 5 w)) (BitVec.ofNat 2 (fld 3 2 w)))
    else .error (.reservedField 0x00 1)
  | 2 =>
    if fld 4 4 w = 0 then .ok (.iadds (BitVec.ofNat 7 (fld 25 19 w)) (BitVec.ofNat 7 (fld 18 12 w)) (BitVec.ofNat 7 (fld 11 5 w)) (BitVec.ofNat 2 (fld 3 2 w)))
    else .error (.reservedField 0x00 2)
  | _ =>
    if fld 4 4 w = 0 then .ok (.isubs (BitVec.ofNat 7 (fld 25 19 w)) (BitVec.ofNat 7 (fld 18 12 w)) (BitVec.ofNat 7 (fld 11 5 w)) (BitVec.ofNat 2 (fld 3 2 w)))
    else .error (.reservedField 0x00 3)

/-- OP6 0x01: IMUL, IMULH, IMULHU, IMAD. -/
def decodeOp01 (w : Nat) : Except DecodeErr Instr :=
  match fld 1 0 w with
  | 0 =>
    if fld 4 4 w = 0 then .ok (.imul (BitVec.ofNat 7 (fld 25 19 w)) (BitVec.ofNat 7 (fld 18 12 w)) (BitVec.ofNat 7 (fld 11 5 w)) (BitVec.ofNat 2 (fld 3 2 w)))
    else .error (.reservedField 0x01 0)
  | 1 =>
    if fld 4 4 w = 0 then .ok (.imulh (BitVec.ofNat 7 (fld 25 19 w)) (BitVec.ofNat 7 (fld 18 12 w)) (BitVec.ofNat 7 (fld 11 5 w)) (BitVec.ofNat 2 (fld 3 2 w)))
    else .error (.reservedField 0x01 1)
  | 2 =>
    if fld 4 4 w = 0 then .ok (.imulhu (BitVec.ofNat 7 (fld 25 19 w)) (BitVec.ofNat 7 (fld 18 12 w)) (BitVec.ofNat 7 (fld 11 5 w)) (BitVec.ofNat 2 (fld 3 2 w)))
    else .error (.reservedField 0x01 2)
  | _ =>
    if fld 4 4 w = 0 then .ok (.imad (BitVec.ofNat 7 (fld 25 19 w)) (BitVec.ofNat 7 (fld 18 12 w)) (BitVec.ofNat 7 (fld 11 5 w)) (BitVec.ofNat 2 (fld 3 2 w)))
    else .error (.reservedField 0x01 3)

/-- OP6 0x02: IMIN, IMAX, IMINU, IMAXU. -/
def decodeOp02 (w : Nat) : Except DecodeErr Instr :=
  match fld 1 0 w with
  | 0 =>
    if fld 4 4 w = 0 then .ok (.imin (BitVec.ofNat 7 (fld 25 19 w)) (BitVec.ofNat 7 (fld 18 12 w)) (BitVec.ofNat 7 (fld 11 5 w)) (BitVec.ofNat 2 (fld 3 2 w)))
    else .error (.reservedField 0x02 0)
  | 1 =>
    if fld 4 4 w = 0 then .ok (.imax (BitVec.ofNat 7 (fld 25 19 w)) (BitVec.ofNat 7 (fld 18 12 w)) (BitVec.ofNat 7 (fld 11 5 w)) (BitVec.ofNat 2 (fld 3 2 w)))
    else .error (.reservedField 0x02 1)
  | 2 =>
    if fld 4 4 w = 0 then .ok (.iminu (BitVec.ofNat 7 (fld 25 19 w)) (BitVec.ofNat 7 (fld 18 12 w)) (BitVec.ofNat 7 (fld 11 5 w)) (BitVec.ofNat 2 (fld 3 2 w)))
    else .error (.reservedField 0x02 2)
  | _ =>
    if fld 4 4 w = 0 then .ok (.imaxu (BitVec.ofNat 7 (fld 25 19 w)) (BitVec.ofNat 7 (fld 18 12 w)) (BitVec.ofNat 7 (fld 11 5 w)) (BitVec.ofNat 2 (fld 3 2 w)))
    else .error (.reservedField 0x02 3)

/-- OP6 0x03: IABS, INEG, POPC, CLZ. -/
def decodeOp03 (w : Nat) : Except DecodeErr Instr :=
  match fld 1 0 w with
  | 0 =>
    if fld 11 4 w = 0 then .ok (.iabs (BitVec.ofNat 7 (fld 25 19 w)) (BitVec.ofNat 7 (fld 18 12 w)) (BitVec.ofNat 2 (fld 3 2 w)))
    else .error (.reservedField 0x03 0)
  | 1 =>
    if fld 11 4 w = 0 then .ok (.ineg (BitVec.ofNat 7 (fld 25 19 w)) (BitVec.ofNat 7 (fld 18 12 w)) (BitVec.ofNat 2 (fld 3 2 w)))
    else .error (.reservedField 0x03 1)
  | 2 =>
    if fld 11 4 w = 0 then .ok (.popc (BitVec.ofNat 7 (fld 25 19 w)) (BitVec.ofNat 7 (fld 18 12 w)) (BitVec.ofNat 2 (fld 3 2 w)))
    else .error (.reservedField 0x03 2)
  | _ =>
    if fld 11 4 w = 0 then .ok (.clz (BitVec.ofNat 7 (fld 25 19 w)) (BitVec.ofNat 7 (fld 18 12 w)) (BitVec.ofNat 2 (fld 3 2 w)))
    else .error (.reservedField 0x03 3)

/-- OP6 0x04: AND, OR, XOR, ANDN. -/
def decodeOp04 (w : Nat) : Except DecodeErr Instr :=
  match fld 1 0 w with
  | 0 =>
    .ok (.vand (BitVec.ofNat 7 (fld 25 19 w)) (BitVec.ofNat 7 (fld 18 12 w)) (BitVec.ofNat 7 (fld 11 5 w)) (BitVec.ofNat 3 (fld 4 2 w)))
  | 1 =>
    .ok (.vor (BitVec.ofNat 7 (fld 25 19 w)) (BitVec.ofNat 7 (fld 18 12 w)) (BitVec.ofNat 7 (fld 11 5 w)) (BitVec.ofNat 3 (fld 4 2 w)))
  | 2 =>
    .ok (.vxor (BitVec.ofNat 7 (fld 25 19 w)) (BitVec.ofNat 7 (fld 18 12 w)) (BitVec.ofNat 7 (fld 11 5 w)) (BitVec.ofNat 3 (fld 4 2 w)))
  | _ =>
    .ok (.vandn (BitVec.ofNat 7 (fld 25 19 w)) (BitVec.ofNat 7 (fld 18 12 w)) (BitVec.ofNat 7 (fld 11 5 w)) (BitVec.ofNat 3 (fld 4 2 w)))

/-- OP6 0x05: SHL, SHR, SAR, ROT. -/
def decodeOp05 (w : Nat) : Except DecodeErr Instr :=
  match fld 1 0 w with
  | 0 =>
    if fld 4 4 w = 0 then .ok (.shl (BitVec.ofNat 7 (fld 25 19 w)) (BitVec.ofNat 7 (fld 18 12 w)) (BitVec.ofNat 7 (fld 11 5 w)) (BitVec.ofNat 2 (fld 3 2 w)))
    else .error (.reservedField 0x05 0)
  | 1 =>
    if fld 4 4 w = 0 then .ok (.shr (BitVec.ofNat 7 (fld 25 19 w)) (BitVec.ofNat 7 (fld 18 12 w)) (BitVec.ofNat 7 (fld 11 5 w)) (BitVec.ofNat 2 (fld 3 2 w)))
    else .error (.reservedField 0x05 1)
  | 2 =>
    if fld 4 4 w = 0 then .ok (.sar (BitVec.ofNat 7 (fld 25 19 w)) (BitVec.ofNat 7 (fld 18 12 w)) (BitVec.ofNat 7 (fld 11 5 w)) (BitVec.ofNat 2 (fld 3 2 w)))
    else .error (.reservedField 0x05 2)
  | _ =>
    if fld 4 4 w = 0 then .ok (.rot (BitVec.ofNat 7 (fld 25 19 w)) (BitVec.ofNat 7 (fld 18 12 w)) (BitVec.ofNat 7 (fld 11 5 w)) (BitVec.ofNat 2 (fld 3 2 w)))
    else .error (.reservedField 0x05 3)

/-- OP6 0x06: BFX, BFXU, BFI, BREV. -/
def decodeOp06 (w : Nat) : Except DecodeErr Instr :=
  match fld 1 0 w with
  | 0 =>
    if fld 4 4 w = 0 then .ok (.bfx (BitVec.ofNat 7 (fld 25 19 w)) (BitVec.ofNat 7 (fld 18 12 w)) (BitVec.ofNat 7 (fld 11 5 w)) (BitVec.ofNat 2 (fld 3 2 w)))
    else .error (.reservedField 0x06 0)
  | 1 =>
    if fld 4 4 w = 0 then .ok (.bfxu (BitVec.ofNat 7 (fld 25 19 w)) (BitVec.ofNat 7 (fld 18 12 w)) (BitVec.ofNat 7 (fld 11 5 w)) (BitVec.ofNat 2 (fld 3 2 w)))
    else .error (.reservedField 0x06 1)
  | 2 =>
    if fld 4 4 w = 0 then .ok (.bfi (BitVec.ofNat 7 (fld 25 19 w)) (BitVec.ofNat 7 (fld 18 12 w)) (BitVec.ofNat 7 (fld 11 5 w)) (BitVec.ofNat 2 (fld 3 2 w)))
    else .error (.reservedField 0x06 2)
  | _ =>
    if fld 11 4 w = 0 then .ok (.brev (BitVec.ofNat 7 (fld 25 19 w)) (BitVec.ofNat 7 (fld 18 12 w)) (BitVec.ofNat 2 (fld 3 2 w)))
    else .error (.reservedField 0x06 3)

/-- OP6 0x07: ICMP_SET, ICMP_AND, ICMP_OR. -/
def decodeOp07 (w : Nat) : Except DecodeErr Instr :=
  match fld 1 0 w with
  | 0 =>
    if fld 4 4 w = 0 then .ok (.icmpSet (BitVec.ofNat 4 (fld 25 22 w)) (BitVec.ofNat 3 (fld 21 19 w)) (BitVec.ofNat 7 (fld 18 12 w)) (BitVec.ofNat 7 (fld 11 5 w)) (BitVec.ofNat 2 (fld 3 2 w)))
    else .error (.reservedField 0x07 0)
  | 1 =>
    if fld 4 4 w = 0 then .ok (.icmpAnd (BitVec.ofNat 4 (fld 25 22 w)) (BitVec.ofNat 3 (fld 21 19 w)) (BitVec.ofNat 7 (fld 18 12 w)) (BitVec.ofNat 7 (fld 11 5 w)) (BitVec.ofNat 2 (fld 3 2 w)))
    else .error (.reservedField 0x07 1)
  | 2 =>
    if fld 4 4 w = 0 then .ok (.icmpOr (BitVec.ofNat 4 (fld 25 22 w)) (BitVec.ofNat 3 (fld 21 19 w)) (BitVec.ofNat 7 (fld 18 12 w)) (BitVec.ofNat 7 (fld 11 5 w)) (BitVec.ofNat 2 (fld 3 2 w)))
    else .error (.reservedField 0x07 2)
  | _ => .error (.reservedFunction 0x07 3)

/-- OP6 0x08: SEL, MOV, MOVS. -/
def decodeOp08 (w : Nat) : Except DecodeErr Instr :=
  match fld 1 0 w with
  | 0 =>
    .ok (.sel (BitVec.ofNat 7 (fld 25 19 w)) (BitVec.ofNat 7 (fld 18 12 w)) (BitVec.ofNat 7 (fld 11 5 w)) (BitVec.ofNat 3 (fld 4 2 w)))
  | 1 =>
    if fld 11 5 w = 0 then .ok (.mov (BitVec.ofNat 7 (fld 25 19 w)) (BitVec.ofNat 7 (fld 18 12 w)) (BitVec.ofNat 3 (fld 4 2 w)))
    else .error (.reservedField 0x08 1)
  | 2 =>
    if fld 11 4 w = 0 then .ok (.movs (BitVec.ofNat 7 (fld 25 19 w)) (BitVec.ofNat 7 (fld 18 12 w)) (BitVec.ofNat 2 (fld 3 2 w)))
    else .error (.reservedField 0x08 2)
  | _ => .error (.reservedFunction 0x08 3)

/-- OP6 0x09: IADDI. -/
def decodeOp09 (w : Nat) : Except DecodeErr Instr :=
  .ok (.iaddi (BitVec.ofNat 7 (fld 25 19 w)) (BitVec.ofNat 7 (fld 18 12 w)) (BitVec.ofNat 12 (fld 11 0 w)))

/-- OP6 0x0A: MOVI. -/
def decodeOp0A (w : Nat) : Except DecodeErr Instr :=
  .ok (.movi (BitVec.ofNat 7 (fld 25 19 w)) (BitVec.ofNat 3 (fld 18 16 w)) (BitVec.ofNat 16 (fld 15 0 w)))

/-- OP6 0x0B: ZIP, UNZIP, PACKLO, PACKHI. -/
def decodeOp0B (w : Nat) : Except DecodeErr Instr :=
  match fld 1 0 w with
  | 0 =>
    .ok (.zip (BitVec.ofNat 7 (fld 25 19 w)) (BitVec.ofNat 7 (fld 18 12 w)) (BitVec.ofNat 7 (fld 11 5 w)) (BitVec.ofNat 3 (fld 4 2 w)))
  | 1 =>
    .ok (.unzip (BitVec.ofNat 7 (fld 25 19 w)) (BitVec.ofNat 7 (fld 18 12 w)) (BitVec.ofNat 7 (fld 11 5 w)) (BitVec.ofNat 3 (fld 4 2 w)))
  | 2 =>
    if fld 4 4 w = 0 then .ok (.packlo (BitVec.ofNat 7 (fld 25 19 w)) (BitVec.ofNat 7 (fld 18 12 w)) (BitVec.ofNat 7 (fld 11 5 w)) (BitVec.ofNat 2 (fld 3 2 w)))
    else .error (.reservedField 0x0B 2)
  | _ =>
    if fld 4 4 w = 0 then .ok (.packhi (BitVec.ofNat 7 (fld 25 19 w)) (BitVec.ofNat 7 (fld 18 12 w)) (BitVec.ofNat 7 (fld 11 5 w)) (BitVec.ofNat 2 (fld 3 2 w)))
    else .error (.reservedField 0x0B 3)

/-- OP6 0x0C: FADD, FSUB, FMUL, FMA. -/
def decodeOp0C (w : Nat) : Except DecodeErr Instr :=
  match fld 1 0 w with
  | 0 =>
    if fld 4 4 w = 1 then .ok (.fadd (BitVec.ofNat 7 (fld 25 19 w)) (BitVec.ofNat 7 (fld 18 12 w)) (BitVec.ofNat 7 (fld 11 5 w)) (BitVec.ofNat 2 (fld 3 2 w)))
    else .error (.reservedField 0x0C 0)
  | 1 =>
    if fld 4 4 w = 1 then .ok (.fsub (BitVec.ofNat 7 (fld 25 19 w)) (BitVec.ofNat 7 (fld 18 12 w)) (BitVec.ofNat 7 (fld 11 5 w)) (BitVec.ofNat 2 (fld 3 2 w)))
    else .error (.reservedField 0x0C 1)
  | 2 =>
    if fld 4 4 w = 1 then .ok (.fmul (BitVec.ofNat 7 (fld 25 19 w)) (BitVec.ofNat 7 (fld 18 12 w)) (BitVec.ofNat 7 (fld 11 5 w)) (BitVec.ofNat 2 (fld 3 2 w)))
    else .error (.reservedField 0x0C 2)
  | _ =>
    if fld 4 4 w = 1 then .ok (.fma (BitVec.ofNat 7 (fld 25 19 w)) (BitVec.ofNat 7 (fld 18 12 w)) (BitVec.ofNat 7 (fld 11 5 w)) (BitVec.ofNat 2 (fld 3 2 w)))
    else .error (.reservedField 0x0C 3)

/-- OP6 0x0D: FMIN, FMAX, FMINN, FMAXN. -/
def decodeOp0D (w : Nat) : Except DecodeErr Instr :=
  match fld 1 0 w with
  | 0 =>
    if fld 4 4 w = 1 then .ok (.fmin (BitVec.ofNat 7 (fld 25 19 w)) (BitVec.ofNat 7 (fld 18 12 w)) (BitVec.ofNat 7 (fld 11 5 w)) (BitVec.ofNat 2 (fld 3 2 w)))
    else .error (.reservedField 0x0D 0)
  | 1 =>
    if fld 4 4 w = 1 then .ok (.fmax (BitVec.ofNat 7 (fld 25 19 w)) (BitVec.ofNat 7 (fld 18 12 w)) (BitVec.ofNat 7 (fld 11 5 w)) (BitVec.ofNat 2 (fld 3 2 w)))
    else .error (.reservedField 0x0D 1)
  | 2 =>
    if fld 4 4 w = 1 then .ok (.fminn (BitVec.ofNat 7 (fld 25 19 w)) (BitVec.ofNat 7 (fld 18 12 w)) (BitVec.ofNat 7 (fld 11 5 w)) (BitVec.ofNat 2 (fld 3 2 w)))
    else .error (.reservedField 0x0D 2)
  | _ =>
    if fld 4 4 w = 1 then .ok (.fmaxn (BitVec.ofNat 7 (fld 25 19 w)) (BitVec.ofNat 7 (fld 18 12 w)) (BitVec.ofNat 7 (fld 11 5 w)) (BitVec.ofNat 2 (fld 3 2 w)))
    else .error (.reservedField 0x0D 3)

/-- OP6 0x0E: FABS, FNEG, FCLASS, FRND. -/
def decodeOp0E (w : Nat) : Except DecodeErr Instr :=
  match fld 1 0 w with
  | 0 =>
    if fld 11 4 w = 1 then .ok (.fabs (BitVec.ofNat 7 (fld 25 19 w)) (BitVec.ofNat 7 (fld 18 12 w)) (BitVec.ofNat 2 (fld 3 2 w)))
    else .error (.reservedField 0x0E 0)
  | 1 =>
    if fld 11 4 w = 1 then .ok (.fneg (BitVec.ofNat 7 (fld 25 19 w)) (BitVec.ofNat 7 (fld 18 12 w)) (BitVec.ofNat 2 (fld 3 2 w)))
    else .error (.reservedField 0x0E 1)
  | 2 =>
    if fld 11 4 w = 1 then .ok (.fclass (BitVec.ofNat 7 (fld 25 19 w)) (BitVec.ofNat 7 (fld 18 12 w)) (BitVec.ofNat 2 (fld 3 2 w)))
    else .error (.reservedField 0x0E 2)
  | _ =>
    if fld 11 4 w = 1 then .ok (.frnd (BitVec.ofNat 7 (fld 25 19 w)) (BitVec.ofNat 7 (fld 18 12 w)) (BitVec.ofNat 2 (fld 3 2 w)))
    else .error (.reservedField 0x0E 3)

/-- OP6 0x0F: FCMP_SET, FCMP_AND, FCMP_OR. -/
def decodeOp0F (w : Nat) : Except DecodeErr Instr :=
  match fld 1 0 w with
  | 0 =>
    if fld 4 4 w = 1 then .ok (.fcmpSet (BitVec.ofNat 4 (fld 25 22 w)) (BitVec.ofNat 3 (fld 21 19 w)) (BitVec.ofNat 7 (fld 18 12 w)) (BitVec.ofNat 7 (fld 11 5 w)) (BitVec.ofNat 2 (fld 3 2 w)))
    else .error (.reservedField 0x0F 0)
  | 1 =>
    if fld 4 4 w = 1 then .ok (.fcmpAnd (BitVec.ofNat 4 (fld 25 22 w)) (BitVec.ofNat 3 (fld 21 19 w)) (BitVec.ofNat 7 (fld 18 12 w)) (BitVec.ofNat 7 (fld 11 5 w)) (BitVec.ofNat 2 (fld 3 2 w)))
    else .error (.reservedField 0x0F 1)
  | 2 =>
    if fld 4 4 w = 1 then .ok (.fcmpOr (BitVec.ofNat 4 (fld 25 22 w)) (BitVec.ofNat 3 (fld 21 19 w)) (BitVec.ofNat 7 (fld 18 12 w)) (BitVec.ofNat 7 (fld 11 5 w)) (BitVec.ofNat 2 (fld 3 2 w)))
    else .error (.reservedField 0x0F 2)
  | _ => .error (.reservedFunction 0x0F 3)

/-- OP6 0x10: FDIV, FSQRT, FSCALE, FLOGB. -/
def decodeOp10 (w : Nat) : Except DecodeErr Instr :=
  match fld 1 0 w with
  | 0 =>
    if fld 4 4 w = 1 then .ok (.fdiv (BitVec.ofNat 7 (fld 25 19 w)) (BitVec.ofNat 7 (fld 18 12 w)) (BitVec.ofNat 7 (fld 11 5 w)) (BitVec.ofNat 2 (fld 3 2 w)))
    else .error (.reservedField 0x10 0)
  | 1 =>
    if fld 11 4 w = 1 then .ok (.fsqrt (BitVec.ofNat 7 (fld 25 19 w)) (BitVec.ofNat 7 (fld 18 12 w)) (BitVec.ofNat 2 (fld 3 2 w)))
    else .error (.reservedField 0x10 1)
  | 2 =>
    if fld 4 4 w = 1 then .ok (.fscale (BitVec.ofNat 7 (fld 25 19 w)) (BitVec.ofNat 7 (fld 18 12 w)) (BitVec.ofNat 7 (fld 11 5 w)) (BitVec.ofNat 2 (fld 3 2 w)))
    else .error (.reservedField 0x10 2)
  | _ =>
    if fld 11 4 w = 1 then .ok (.flogb (BitVec.ofNat 7 (fld 25 19 w)) (BitVec.ofNat 7 (fld 18 12 w)) (BitVec.ofNat 2 (fld 3 2 w)))
    else .error (.reservedField 0x10 3)

/-- OP6 0x11: EXP2, LOG2, RCP, RSQ. -/
def decodeOp11 (w : Nat) : Except DecodeErr Instr :=
  match fld 1 0 w with
  | 0 =>
    if fld 11 4 w = 1 then .ok (.exp2 (BitVec.ofNat 7 (fld 25 19 w)) (BitVec.ofNat 7 (fld 18 12 w)) (BitVec.ofNat 2 (fld 3 2 w)))
    else .error (.reservedField 0x11 0)
  | 1 =>
    if fld 11 4 w = 1 then .ok (.log2 (BitVec.ofNat 7 (fld 25 19 w)) (BitVec.ofNat 7 (fld 18 12 w)) (BitVec.ofNat 2 (fld 3 2 w)))
    else .error (.reservedField 0x11 1)
  | 2 =>
    if fld 11 4 w = 1 then .ok (.rcp (BitVec.ofNat 7 (fld 25 19 w)) (BitVec.ofNat 7 (fld 18 12 w)) (BitVec.ofNat 2 (fld 3 2 w)))
    else .error (.reservedField 0x11 2)
  | _ =>
    if fld 11 4 w = 1 then .ok (.rsq (BitVec.ofNat 7 (fld 25 19 w)) (BitVec.ofNat 7 (fld 18 12 w)) (BitVec.ofNat 2 (fld 3 2 w)))
    else .error (.reservedField 0x11 3)

/-- OP6 0x12: SIN, COS, SINPI, COSPI. -/
def decodeOp12 (w : Nat) : Except DecodeErr Instr :=
  match fld 1 0 w with
  | 0 =>
    if fld 11 4 w = 1 then .ok (.sin (BitVec.ofNat 7 (fld 25 19 w)) (BitVec.ofNat 7 (fld 18 12 w)) (BitVec.ofNat 2 (fld 3 2 w)))
    else .error (.reservedField 0x12 0)
  | 1 =>
    if fld 11 4 w = 1 then .ok (.cos (BitVec.ofNat 7 (fld 25 19 w)) (BitVec.ofNat 7 (fld 18 12 w)) (BitVec.ofNat 2 (fld 3 2 w)))
    else .error (.reservedField 0x12 1)
  | 2 =>
    if fld 11 4 w = 1 then .ok (.sinpi (BitVec.ofNat 7 (fld 25 19 w)) (BitVec.ofNat 7 (fld 18 12 w)) (BitVec.ofNat 2 (fld 3 2 w)))
    else .error (.reservedField 0x12 2)
  | _ =>
    if fld 11 4 w = 1 then .ok (.cospi (BitVec.ofNat 7 (fld 25 19 w)) (BitVec.ofNat 7 (fld 18 12 w)) (BitVec.ofNat 2 (fld 3 2 w)))
    else .error (.reservedField 0x12 3)

/-- OP6 0x13: TANH, ERF. -/
def decodeOp13 (w : Nat) : Except DecodeErr Instr :=
  match fld 1 0 w with
  | 0 =>
    if fld 11 4 w = 1 then .ok (.tanh (BitVec.ofNat 7 (fld 25 19 w)) (BitVec.ofNat 7 (fld 18 12 w)) (BitVec.ofNat 2 (fld 3 2 w)))
    else .error (.reservedField 0x13 0)
  | 1 =>
    if fld 11 4 w = 1 then .ok (.erf (BitVec.ofNat 7 (fld 25 19 w)) (BitVec.ofNat 7 (fld 18 12 w)) (BitVec.ofNat 2 (fld 3 2 w)))
    else .error (.reservedField 0x13 1)
  | 2 => .error (.reservedFunction 0x13 2)
  | _ => .error (.reservedFunction 0x13 3)

/-- OP6 0x14: CVT, CVTS, CVTB, CVTBX. -/
def decodeOp14 (w : Nat) : Except DecodeErr Instr :=
  match fld 1 0 w with
  | 0 =>
    if fld 11 11 w = 0 then .ok (.cvt (BitVec.ofNat 7 (fld 25 19 w)) (BitVec.ofNat 7 (fld 18 12 w)) (BitVec.ofNat 1 (fld 10 10 w)) (BitVec.ofNat 2 (fld 9 8 w)) (BitVec.ofNat 3 (fld 7 5 w)) (BitVec.ofNat 3 (fld 4 2 w)))
    else .error (.reservedField 0x14 0)
  | 1 =>
    if fld 11 11 w = 0 ∧ fld 4 4 w = 0 then .ok (.cvts (BitVec.ofNat 7 (fld 25 19 w)) (BitVec.ofNat 7 (fld 18 12 w)) (BitVec.ofNat 1 (fld 10 10 w)) (BitVec.ofNat 2 (fld 9 8 w)) (BitVec.ofNat 3 (fld 7 5 w)) (BitVec.ofNat 2 (fld 3 2 w)))
    else .error (.reservedField 0x14 1)
  | 2 =>
    if fld 11 8 w = 0 ∧ fld 4 2 w = 6 then .ok (.cvtb (BitVec.ofNat 7 (fld 25 19 w)) (BitVec.ofNat 7 (fld 18 12 w)) (BitVec.ofNat 3 (fld 7 5 w)))
    else .error (.reservedField 0x14 2)
  | _ =>
    if fld 11 8 w = 0 ∧ fld 4 2 w = 6 then .ok (.cvtbx (BitVec.ofNat 7 (fld 25 19 w)) (BitVec.ofNat 7 (fld 18 12 w)) (BitVec.ofNat 3 (fld 7 5 w)))
    else .error (.reservedField 0x14 3)

/-- OP6 0x15: SHFL, BCAST, PERMB. -/
def decodeOp15 (w : Nat) : Except DecodeErr Instr :=
  match fld 1 0 w with
  | 0 =>
    .ok (.shfl (BitVec.ofNat 7 (fld 25 19 w)) (BitVec.ofNat 7 (fld 18 12 w)) (BitVec.ofNat 7 (fld 11 5 w)) (BitVec.ofNat 3 (fld 4 2 w)))
  | 1 =>
    .ok (.bcast (BitVec.ofNat 7 (fld 25 19 w)) (BitVec.ofNat 7 (fld 18 12 w)) (BitVec.ofNat 7 (fld 11 5 w)) (BitVec.ofNat 3 (fld 4 2 w)))
  | 2 =>
    if fld 4 2 w = 0 then .ok (.permb (BitVec.ofNat 7 (fld 25 19 w)) (BitVec.ofNat 7 (fld 18 12 w)) (BitVec.ofNat 7 (fld 11 5 w)))
    else .error (.reservedField 0x15 2)
  | _ => .error (.reservedFunction 0x15 3)

/-- OP6 0x16: QSWP, DDX, DDY, ELECT. -/
def decodeOp16 (w : Nat) : Except DecodeErr Instr :=
  match fld 1 0 w with
  | 0 =>
    if fld 11 7 w = 0 then .ok (.qswp (BitVec.ofNat 7 (fld 25 19 w)) (BitVec.ofNat 7 (fld 18 12 w)) (BitVec.ofNat 2 (fld 6 5 w)) (BitVec.ofNat 3 (fld 4 2 w)))
    else .error (.reservedField 0x16 0)
  | 1 =>
    if fld 11 6 w = 0 ∧ fld 4 4 w = 1 then .ok (.ddx (BitVec.ofNat 7 (fld 25 19 w)) (BitVec.ofNat 7 (fld 18 12 w)) (BitVec.ofNat 1 (fld 5 5 w)) (BitVec.ofNat 2 (fld 3 2 w)))
    else .error (.reservedField 0x16 1)
  | 2 =>
    if fld 11 6 w = 0 ∧ fld 4 4 w = 1 then .ok (.ddy (BitVec.ofNat 7 (fld 25 19 w)) (BitVec.ofNat 7 (fld 18 12 w)) (BitVec.ofNat 1 (fld 5 5 w)) (BitVec.ofNat 2 (fld 3 2 w)))
    else .error (.reservedField 0x16 2)
  | _ =>
    if fld 25 23 w = 0 ∧ fld 18 16 w = 0 ∧ fld 11 2 w = 0 then .ok (.elect (BitVec.ofNat 4 (fld 22 19 w)) (BitVec.ofNat 4 (fld 15 12 w)))
    else .error (.reservedField 0x16 3)

/-- OP6 0x17: VOTE, REDI, REDF, SCANI. -/
def decodeOp17 (w : Nat) : Except DecodeErr Instr :=
  match fld 1 0 w with
  | 0 =>
    if fld 18 16 w = 0 ∧ fld 11 2 w = 0 then .ok (.vote (BitVec.ofNat 7 (fld 25 19 w)) (BitVec.ofNat 4 (fld 15 12 w)))
    else .error (.reservedField 0x17 0)
  | 1 =>
    if fld 11 8 w = 0 ∧ fld 4 4 w = 0 then .ok (.redi (BitVec.ofNat 7 (fld 25 19 w)) (BitVec.ofNat 7 (fld 18 12 w)) (BitVec.ofNat 3 (fld 7 5 w)) (BitVec.ofNat 2 (fld 3 2 w)))
    else .error (.reservedField 0x17 1)
  | 2 =>
    if fld 11 8 w = 0 ∧ fld 4 4 w = 1 then .ok (.redf (BitVec.ofNat 7 (fld 25 19 w)) (BitVec.ofNat 7 (fld 18 12 w)) (BitVec.ofNat 3 (fld 7 5 w)) (BitVec.ofNat 2 (fld 3 2 w)))
    else .error (.reservedField 0x17 2)
  | _ =>
    if fld 11 9 w = 0 ∧ fld 4 4 w = 0 then .ok (.scani (BitVec.ofNat 7 (fld 25 19 w)) (BitVec.ofNat 7 (fld 18 12 w)) (BitVec.ofNat 1 (fld 8 8 w)) (BitVec.ofNat 3 (fld 7 5 w)) (BitVec.ofNat 2 (fld 3 2 w)))
    else .error (.reservedField 0x17 3)

/-- OP6 0x18: KAND, KOR, KXOR, KNOT. -/
def decodeOp18 (w : Nat) : Except DecodeErr Instr :=
  match fld 1 0 w with
  | 0 =>
    if fld 25 23 w = 0 ∧ fld 18 16 w = 0 ∧ fld 11 9 w = 0 ∧ fld 4 2 w = 0 then .ok (.kand (BitVec.ofNat 4 (fld 22 19 w)) (BitVec.ofNat 4 (fld 15 12 w)) (BitVec.ofNat 4 (fld 8 5 w)))
    else .error (.reservedField 0x18 0)
  | 1 =>
    if fld 25 23 w = 0 ∧ fld 18 16 w = 0 ∧ fld 11 9 w = 0 ∧ fld 4 2 w = 0 then .ok (.kor (BitVec.ofNat 4 (fld 22 19 w)) (BitVec.ofNat 4 (fld 15 12 w)) (BitVec.ofNat 4 (fld 8 5 w)))
    else .error (.reservedField 0x18 1)
  | 2 =>
    if fld 25 23 w = 0 ∧ fld 18 16 w = 0 ∧ fld 11 9 w = 0 ∧ fld 4 2 w = 0 then .ok (.kxor (BitVec.ofNat 4 (fld 22 19 w)) (BitVec.ofNat 4 (fld 15 12 w)) (BitVec.ofNat 4 (fld 8 5 w)))
    else .error (.reservedField 0x18 2)
  | _ =>
    if fld 25 23 w = 0 ∧ fld 18 16 w = 0 ∧ fld 11 2 w = 0 then .ok (.knot (BitVec.ofNat 4 (fld 22 19 w)) (BitVec.ofNat 4 (fld 15 12 w)))
    else .error (.reservedField 0x18 3)

/-- OP6 0x19: KMOV, KMOV_S, KMOV_K, KMOV_V, KPOP, KFIRST, DROPK. -/
def decodeOp19 (w : Nat) : Except DecodeErr Instr :=
  match fld 1 0 w with
  | 0 =>
    if fld 25 23 w = 0 ∧ fld 18 16 w = 0 ∧ fld 11 2 w = 0 then .ok (.kmov (BitVec.ofNat 4 (fld 22 19 w)) (BitVec.ofNat 4 (fld 15 12 w)))
    else if fld 18 16 w = 0 ∧ fld 11 2 w = 1 then .ok (.kmovS (BitVec.ofNat 7 (fld 25 19 w)) (BitVec.ofNat 4 (fld 15 12 w)))
    else if fld 25 23 w = 0 ∧ fld 11 2 w = 2 then .ok (.kmovK (BitVec.ofNat 4 (fld 22 19 w)) (BitVec.ofNat 7 (fld 18 12 w)))
    else if fld 18 16 w = 0 ∧ fld 11 2 w = 3 then .ok (.kmovV (BitVec.ofNat 7 (fld 25 19 w)) (BitVec.ofNat 4 (fld 15 12 w)))
    else .error (.reservedField 0x19 0)
  | 1 =>
    if fld 18 16 w = 0 ∧ fld 11 2 w = 0 then .ok (.kpop (BitVec.ofNat 7 (fld 25 19 w)) (BitVec.ofNat 4 (fld 15 12 w)))
    else .error (.reservedField 0x19 1)
  | 2 =>
    if fld 18 16 w = 0 ∧ fld 11 2 w = 0 then .ok (.kfirst (BitVec.ofNat 7 (fld 25 19 w)) (BitVec.ofNat 4 (fld 15 12 w)))
    else .error (.reservedField 0x19 2)
  | _ =>
    if fld 25 23 w = 0 then .ok (.dropk (BitVec.ofNat 4 (fld 22 19 w)) (BitVec.ofNat 7 (fld 18 12 w)) (BitVec.ofNat 7 (fld 11 5 w)) (BitVec.ofNat 3 (fld 4 2 w)))
    else .error (.reservedField 0x19 3)

/-- OP6 0x1A: READLN, WRITELN, SRD, LOCQ. -/
def decodeOp1A (w : Nat) : Except DecodeErr Instr :=
  match fld 1 0 w with
  | 0 =>
    if fld 4 2 w = 0 then .ok (.readln (BitVec.ofNat 7 (fld 25 19 w)) (BitVec.ofNat 7 (fld 18 12 w)) (BitVec.ofNat 7 (fld 11 5 w)))
    else .error (.reservedField 0x1A 0)
  | 1 =>
    if fld 4 2 w = 0 then .ok (.writeln (BitVec.ofNat 7 (fld 25 19 w)) (BitVec.ofNat 7 (fld 18 12 w)) (BitVec.ofNat 7 (fld 11 5 w)))
    else .error (.reservedField 0x1A 1)
  | 2 =>
    if fld 11 2 w = 0 then .ok (.srd (BitVec.ofNat 7 (fld 25 19 w)) (BitVec.ofNat 7 (fld 18 12 w)))
    else .error (.reservedField 0x1A 2)
  | _ =>
    if fld 11 2 w = 0 then .ok (.locq (BitVec.ofNat 7 (fld 25 19 w)) (BitVec.ofNat 7 (fld 18 12 w)))
    else .error (.reservedField 0x1A 3)

/-- OP6 0x1B: SADD, SSUB, SMUL, SMULH. -/
def decodeOp1B (w : Nat) : Except DecodeErr Instr :=
  match fld 1 0 w with
  | 0 =>
    if fld 4 2 w = 0 then .ok (.sadd (BitVec.ofNat 7 (fld 25 19 w)) (BitVec.ofNat 7 (fld 18 12 w)) (BitVec.ofNat 7 (fld 11 5 w)))
    else .error (.reservedField 0x1B 0)
  | 1 =>
    if fld 4 2 w = 0 then .ok (.ssub (BitVec.ofNat 7 (fld 25 19 w)) (BitVec.ofNat 7 (fld 18 12 w)) (BitVec.ofNat 7 (fld 11 5 w)))
    else .error (.reservedField 0x1B 1)
  | 2 =>
    if fld 4 2 w = 0 then .ok (.smul (BitVec.ofNat 7 (fld 25 19 w)) (BitVec.ofNat 7 (fld 18 12 w)) (BitVec.ofNat 7 (fld 11 5 w)))
    else .error (.reservedField 0x1B 2)
  | _ =>
    if fld 4 2 w = 0 then .ok (.smulh (BitVec.ofNat 7 (fld 25 19 w)) (BitVec.ofNat 7 (fld 18 12 w)) (BitVec.ofNat 7 (fld 11 5 w)))
    else .error (.reservedField 0x1B 3)

/-- OP6 0x1C: SAND, SOR, SXOR, SSEL. -/
def decodeOp1C (w : Nat) : Except DecodeErr Instr :=
  match fld 1 0 w with
  | 0 =>
    if fld 4 2 w = 0 then .ok (.sand (BitVec.ofNat 7 (fld 25 19 w)) (BitVec.ofNat 7 (fld 18 12 w)) (BitVec.ofNat 7 (fld 11 5 w)))
    else .error (.reservedField 0x1C 0)
  | 1 =>
    if fld 4 2 w = 0 then .ok (.sor (BitVec.ofNat 7 (fld 25 19 w)) (BitVec.ofNat 7 (fld 18 12 w)) (BitVec.ofNat 7 (fld 11 5 w)))
    else .error (.reservedField 0x1C 1)
  | 2 =>
    if fld 4 2 w = 0 then .ok (.sxor (BitVec.ofNat 7 (fld 25 19 w)) (BitVec.ofNat 7 (fld 18 12 w)) (BitVec.ofNat 7 (fld 11 5 w)))
    else .error (.reservedField 0x1C 2)
  | _ =>
    if fld 4 2 w = 0 then .ok (.ssel (BitVec.ofNat 7 (fld 25 19 w)) (BitVec.ofNat 7 (fld 18 12 w)) (BitVec.ofNat 7 (fld 11 5 w)))
    else .error (.reservedField 0x1C 3)

/-- OP6 0x1D: SSHL, SSHR, SSAR, SMOV. -/
def decodeOp1D (w : Nat) : Except DecodeErr Instr :=
  match fld 1 0 w with
  | 0 =>
    if fld 4 2 w = 0 then .ok (.sshl (BitVec.ofNat 7 (fld 25 19 w)) (BitVec.ofNat 7 (fld 18 12 w)) (BitVec.ofNat 7 (fld 11 5 w)))
    else .error (.reservedField 0x1D 0)
  | 1 =>
    if fld 4 2 w = 0 then .ok (.sshr (BitVec.ofNat 7 (fld 25 19 w)) (BitVec.ofNat 7 (fld 18 12 w)) (BitVec.ofNat 7 (fld 11 5 w)))
    else .error (.reservedField 0x1D 1)
  | 2 =>
    if fld 4 2 w = 0 then .ok (.ssar (BitVec.ofNat 7 (fld 25 19 w)) (BitVec.ofNat 7 (fld 18 12 w)) (BitVec.ofNat 7 (fld 11 5 w)))
    else .error (.reservedField 0x1D 2)
  | _ =>
    if fld 11 2 w = 0 then .ok (.smov (BitVec.ofNat 7 (fld 25 19 w)) (BitVec.ofNat 7 (fld 18 12 w)))
    else .error (.reservedField 0x1D 3)

/-- OP6 0x1E: SCMP. -/
def decodeOp1E (w : Nat) : Except DecodeErr Instr :=
  match fld 1 0 w with
  | 0 =>
    .ok (.scmp (BitVec.ofNat 7 (fld 25 19 w)) (BitVec.ofNat 7 (fld 18 12 w)) (BitVec.ofNat 7 (fld 11 5 w)) (BitVec.ofNat 3 (fld 4 2 w)))
  | 1 => .error (.reservedFunction 0x1E 1)
  | 2 => .error (.reservedFunction 0x1E 2)
  | _ => .error (.reservedFunction 0x1E 3)

/-- OP6 0x1F: SADDI. -/
def decodeOp1F (w : Nat) : Except DecodeErr Instr :=
  .ok (.saddi (BitVec.ofNat 7 (fld 25 19 w)) (BitVec.ofNat 7 (fld 18 12 w)) (BitVec.ofNat 12 (fld 11 0 w)))

/-- OP6 0x20: SMOVW. -/
def decodeOp20 (w : Nat) : Except DecodeErr Instr :=
  .ok (.smovw (BitVec.ofNat 7 (fld 25 19 w)) (BitVec.ofNat 1 (fld 18 18 w)) (BitVec.ofNat 2 (fld 17 16 w)) (BitVec.ofNat 16 (fld 15 0 w)))

/-- OP6 0x21: LD. -/
def decodeOp21 (w : Nat) : Except DecodeErr Instr :=
  .ok (.ld (BitVec.ofNat 7 (fld 25 19 w)) (BitVec.ofNat 7 (fld 18 12 w)) (BitVec.ofNat 3 (fld 11 9 w)) (BitVec.ofNat 2 (fld 8 7 w)) (BitVec.ofNat 7 (fld 6 0 w)))

/-- OP6 0x22: ST. -/
def decodeOp22 (w : Nat) : Except DecodeErr Instr :=
  .ok (.st (BitVec.ofNat 7 (fld 25 19 w)) (BitVec.ofNat 7 (fld 18 12 w)) (BitVec.ofNat 3 (fld 11 9 w)) (BitVec.ofNat 2 (fld 8 7 w)) (BitVec.ofNat 7 (fld 6 0 w)))

/-- OP6 0x23: LDS. -/
def decodeOp23 (w : Nat) : Except DecodeErr Instr :=
  if fld 8 7 w = 0 then .ok (.lds (BitVec.ofNat 7 (fld 25 19 w)) (BitVec.ofNat 7 (fld 18 12 w)) (BitVec.ofNat 3 (fld 11 9 w)) (BitVec.ofNat 7 (fld 6 0 w)))
  else .error (.reservedField 0x23 0)

/-- OP6 0x24: STS. -/
def decodeOp24 (w : Nat) : Except DecodeErr Instr :=
  if fld 8 7 w = 0 then .ok (.sts (BitVec.ofNat 7 (fld 25 19 w)) (BitVec.ofNat 7 (fld 18 12 w)) (BitVec.ofNat 3 (fld 11 9 w)) (BitVec.ofNat 7 (fld 6 0 w)))
  else .error (.reservedField 0x24 0)

/-- OP6 0x25: LDU. -/
def decodeOp25 (w : Nat) : Except DecodeErr Instr :=
  .ok (.ldu (BitVec.ofNat 7 (fld 25 19 w)) (BitVec.ofNat 7 (fld 18 12 w)) (BitVec.ofNat 3 (fld 11 9 w)) (BitVec.ofNat 2 (fld 8 7 w)) (BitVec.ofNat 7 (fld 6 0 w)))

/-- OP6 0x26: STU. -/
def decodeOp26 (w : Nat) : Except DecodeErr Instr :=
  .ok (.stu (BitVec.ofNat 7 (fld 25 19 w)) (BitVec.ofNat 7 (fld 18 12 w)) (BitVec.ofNat 3 (fld 11 9 w)) (BitVec.ofNat 2 (fld 8 7 w)) (BitVec.ofNat 7 (fld 6 0 w)))

/-- OP6 0x27: ATOM_W. -/
def decodeOp27 (w : Nat) : Except DecodeErr Instr :=
  .ok (.atomW (BitVec.ofNat 7 (fld 25 19 w)) (BitVec.ofNat 7 (fld 18 12 w)) (BitVec.ofNat 7 (fld 11 5 w)) (BitVec.ofNat 4 (fld 4 1 w)) (BitVec.ofNat 1 (fld 0 0 w)))

/-- OP6 0x28: ATOM_D. -/
def decodeOp28 (w : Nat) : Except DecodeErr Instr :=
  .ok (.atomD (BitVec.ofNat 7 (fld 25 19 w)) (BitVec.ofNat 7 (fld 18 12 w)) (BitVec.ofNat 7 (fld 11 5 w)) (BitVec.ofNat 4 (fld 4 1 w)) (BitVec.ofNat 1 (fld 0 0 w)))

/-- OP6 0x29: MCAS, WAITCMP, FENCE, CMNT. -/
def decodeOp29 (w : Nat) : Except DecodeErr Instr :=
  match fld 1 0 w with
  | 0 =>
    if fld 11 2 w = 0 then .ok (.mcas (BitVec.ofNat 7 (fld 25 19 w)) (BitVec.ofNat 7 (fld 18 12 w)))
    else .error (.reservedField 0x29 0)
  | 1 =>
    .ok (.waitcmp (BitVec.ofNat 7 (fld 25 19 w)) (BitVec.ofNat 7 (fld 18 12 w)) (BitVec.ofNat 7 (fld 11 5 w)) (BitVec.ofNat 3 (fld 4 2 w)))
  | 2 =>
    if fld 25 3 w = 0 then .ok (.fence (BitVec.ofNat 1 (fld 2 2 w)))
    else .error (.reservedField 0x29 2)
  | _ =>
    if fld 25 19 w = 0 ∧ fld 11 5 w = 0 then .ok (.cmnt (BitVec.ofNat 7 (fld 18 12 w)) (BitVec.ofNat 3 (fld 4 2 w)))
    else .error (.reservedField 0x29 3)

/-- OP6 0x2B: QPUSH, QPOP, QPEEK, QSTAT. -/
def decodeOp2B (w : Nat) : Except DecodeErr Instr :=
  match fld 1 0 w with
  | 0 =>
    if fld 18 16 w = 0 then .ok (.qpush (BitVec.ofNat 4 (fld 25 22 w)) (BitVec.ofNat 3 (fld 21 19 w)) (BitVec.ofNat 7 (fld 15 9 w)) (BitVec.ofNat 7 (fld 8 2 w)))
    else .error (.reservedField 0x2B 0)
  | 1 =>
    if fld 21 16 w = 0 ∧ fld 8 2 w = 0 then .ok (.qpop (BitVec.ofNat 4 (fld 25 22 w)) (BitVec.ofNat 7 (fld 15 9 w)))
    else .error (.reservedField 0x2B 1)
  | 2 =>
    if fld 21 16 w = 0 ∧ fld 8 2 w = 0 then .ok (.qpeek (BitVec.ofNat 4 (fld 25 22 w)) (BitVec.ofNat 7 (fld 15 9 w)))
    else .error (.reservedField 0x2B 2)
  | _ =>
    if fld 21 16 w = 0 ∧ fld 8 2 w = 0 then .ok (.qstat (BitVec.ofNat 4 (fld 25 22 w)) (BitVec.ofNat 7 (fld 15 9 w)))
    else .error (.reservedField 0x2B 3)

/-- OP6 0x2C: CPYB, CPYT, CPYH, CPYC. -/
def decodeOp2C (w : Nat) : Except DecodeErr Instr :=
  match fld 1 0 w with
  | 0 =>
    if fld 21 19 w = 0 then .ok (.cpyb (BitVec.ofNat 4 (fld 25 22 w)) (BitVec.ofNat 3 (fld 18 16 w)) (BitVec.ofNat 7 (fld 15 9 w)) (BitVec.ofNat 7 (fld 8 2 w)))
    else .error (.reservedField 0x2C 0)
  | 1 =>
    .ok (.cpyt (BitVec.ofNat 4 (fld 25 22 w)) (BitVec.ofNat 3 (fld 21 19 w)) (BitVec.ofNat 3 (fld 18 16 w)) (BitVec.ofNat 7 (fld 15 9 w)) (BitVec.ofNat 7 (fld 8 2 w)))
  | 2 =>
    if fld 21 19 w = 0 ∧ fld 8 2 w = 0 then .ok (.cpyh (BitVec.ofNat 4 (fld 25 22 w)) (BitVec.ofNat 3 (fld 18 16 w)) (BitVec.ofNat 7 (fld 15 9 w)))
    else .error (.reservedField 0x2C 2)
  | _ =>
    if fld 21 19 w = 0 then .ok (.cpyc (BitVec.ofNat 4 (fld 25 22 w)) (BitVec.ofNat 3 (fld 18 16 w)) (BitVec.ofNat 7 (fld 15 9 w)) (BitVec.ofNat 7 (fld 8 2 w)))
    else .error (.reservedField 0x2C 3)

/-- OP6 0x2D: SEAL, WAITB, RDWP, STRM. -/
def decodeOp2D (w : Nat) : Except DecodeErr Instr :=
  match fld 1 0 w with
  | 0 =>
    if fld 25 16 w = 0 ∧ fld 8 2 w = 0 then .ok (.seal (BitVec.ofNat 7 (fld 15 9 w)))
    else .error (.reservedField 0x2D 0)
  | 1 =>
    if fld 25 16 w = 0 ∧ fld 8 2 w = 0 then .ok (.waitb (BitVec.ofNat 7 (fld 15 9 w)))
    else .error (.reservedField 0x2D 1)
  | 2 =>
    if fld 25 24 w = 0 ∧ fld 21 16 w = 0 ∧ fld 8 2 w = 0 then .ok (.rdwp (BitVec.ofNat 2 (fld 23 22 w)) (BitVec.ofNat 7 (fld 15 9 w)))
    else .error (.reservedField 0x2D 2)
  | _ =>
    if fld 25 25 w = 0 ∧ fld 21 16 w = 0 ∧ fld 8 2 w = 0 then .ok (.strm (BitVec.ofNat 3 (fld 24 22 w)) (BitVec.ofNat 7 (fld 15 9 w)))
    else .error (.reservedField 0x2D 3)

/-- OP6 0x2E: VLK, VLD1, VLD7, VLD27. -/
def decodeOp2E (w : Nat) : Except DecodeErr Instr :=
  match fld 1 0 w with
  | 0 =>
    if fld 4 2 w = 0 then .ok (.vlk (BitVec.ofNat 7 (fld 25 19 w)) (BitVec.ofNat 7 (fld 18 12 w)) (BitVec.ofNat 7 (fld 11 5 w)))
    else .error (.reservedField 0x2E 0)
  | 1 =>
    if fld 4 4 w = 1 then .ok (.vld1 (BitVec.ofNat 7 (fld 25 19 w)) (BitVec.ofNat 7 (fld 18 12 w)) (BitVec.ofNat 7 (fld 11 5 w)) (BitVec.ofNat 2 (fld 3 2 w)))
    else .error (.reservedField 0x2E 1)
  | 2 =>
    if fld 4 2 w = 6 then .ok (.vld7 (BitVec.ofNat 7 (fld 25 19 w)) (BitVec.ofNat 7 (fld 18 12 w)) (BitVec.ofNat 7 (fld 11 5 w)))
    else .error (.reservedField 0x2E 2)
  | _ =>
    if fld 4 2 w = 6 then .ok (.vld27 (BitVec.ofNat 7 (fld 25 19 w)) (BitVec.ofNat 7 (fld 18 12 w)) (BitVec.ofNat 7 (fld 11 5 w)))
    else .error (.reservedField 0x2E 3)

/-- OP6 0x2F: VST1, VACT, VMARCH, VINS. -/
def decodeOp2F (w : Nat) : Except DecodeErr Instr :=
  match fld 1 0 w with
  | 0 =>
    if fld 4 4 w = 1 then .ok (.vst1 (BitVec.ofNat 7 (fld 25 19 w)) (BitVec.ofNat 7 (fld 18 12 w)) (BitVec.ofNat 7 (fld 11 5 w)) (BitVec.ofNat 2 (fld 3 2 w)))
    else .error (.reservedField 0x2F 0)
  | 1 =>
    if fld 25 19 w = 0 ∧ fld 4 3 w = 0 then .ok (.vact (BitVec.ofNat 7 (fld 18 12 w)) (BitVec.ofNat 7 (fld 11 5 w)) (BitVec.ofNat 1 (fld 2 2 w)))
    else .error (.reservedField 0x2F 1)
  | 2 =>
    if fld 4 2 w = 6 then .ok (.vmarch (BitVec.ofNat 7 (fld 25 19 w)) (BitVec.ofNat 7 (fld 18 12 w)) (BitVec.ofNat 7 (fld 11 5 w)))
    else .error (.reservedField 0x2F 2)
  | _ =>
    if fld 4 2 w = 0 then .ok (.vins (BitVec.ofNat 7 (fld 25 19 w)) (BitVec.ofNat 7 (fld 18 12 w)) (BitVec.ofNat 7 (fld 11 5 w)))
    else .error (.reservedField 0x2F 3)

/-- OP6 0x31: MMA, MMA1, MZERO, MOUT. -/
def decodeOp31 (w : Nat) : Except DecodeErr Instr :=
  match fld 1 0 w with
  | 0 =>
    .ok (.mma (BitVec.ofNat 4 (fld 25 22 w)) (BitVec.ofNat 3 (fld 21 19 w)) (BitVec.ofNat 3 (fld 18 16 w)) (BitVec.ofNat 7 (fld 15 9 w)) (BitVec.ofNat 7 (fld 8 2 w)))
  | 1 =>
    .ok (.mma1 (BitVec.ofNat 4 (fld 25 22 w)) (BitVec.ofNat 3 (fld 21 19 w)) (BitVec.ofNat 3 (fld 18 16 w)) (BitVec.ofNat 7 (fld 15 9 w)) (BitVec.ofNat 7 (fld 8 2 w)))
  | 2 =>
    if fld 21 16 w = 0 then .ok (.mzero (BitVec.ofNat 4 (fld 25 22 w)) (BitVec.ofNat 7 (fld 15 9 w)) (BitVec.ofNat 7 (fld 8 2 w)))
    else .error (.reservedField 0x31 2)
  | _ =>
    if fld 18 16 w = 0 then .ok (.mout (BitVec.ofNat 4 (fld 25 22 w)) (BitVec.ofNat 3 (fld 21 19 w)) (BitVec.ofNat 7 (fld 15 9 w)) (BitVec.ofNat 7 (fld 8 2 w)))
    else .error (.reservedField 0x31 3)

/-- OP6 0x32: TDECL, TSIG, TWAIT, TQRY. -/
def decodeOp32 (w : Nat) : Except DecodeErr Instr :=
  match fld 1 0 w with
  | 0 =>
    if fld 25 16 w = 0 ∧ fld 8 2 w = 0 then .ok (.tdecl (BitVec.ofNat 7 (fld 15 9 w)))
    else .error (.reservedField 0x32 0)
  | 1 =>
    if fld 25 16 w = 0 then .ok (.tsig (BitVec.ofNat 7 (fld 15 9 w)) (BitVec.ofNat 7 (fld 8 2 w)))
    else .error (.reservedField 0x32 1)
  | 2 =>
    if fld 25 16 w = 0 ∧ fld 8 2 w = 0 then .ok (.twait (BitVec.ofNat 7 (fld 15 9 w)))
    else .error (.reservedField 0x32 2)
  | _ =>
    if fld 25 16 w = 0 then .ok (.tqry (BitVec.ofNat 7 (fld 15 9 w)) (BitVec.ofNat 7 (fld 8 2 w)))
    else .error (.reservedField 0x32 3)

/-- OP6 0x33: BRA. -/
def decodeOp33 (w : Nat) : Except DecodeErr Instr :=
  .ok (.bra (BitVec.ofNat 4 (fld 25 22 w)) (BitVec.ofNat 5 (fld 21 17 w)) (BitVec.ofNat 17 (fld 16 0 w)))

/-- OP6 0x34: CALL. -/
def decodeOp34 (w : Nat) : Except DecodeErr Instr :=
  .ok (.call (BitVec.ofNat 4 (fld 25 22 w)) (BitVec.ofNat 5 (fld 21 17 w)) (BitVec.ofNat 17 (fld 16 0 w)))

/-- OP6 0x35: JMP, RET, RET_GET, RET_SET, EXIT, YIELD. -/
def decodeOp35 (w : Nat) : Except DecodeErr Instr :=
  match fld 1 0 w with
  | 0 =>
    if fld 25 19 w = 0 ∧ fld 11 2 w = 0 then .ok (.jmp (BitVec.ofNat 7 (fld 18 12 w)))
    else .error (.reservedField 0x35 0)
  | 1 =>
    if fld 25 2 w = 0 then .ok .ret
    else if fld 18 2 w = 1 then .ok (.retGet (BitVec.ofNat 7 (fld 25 19 w)))
    else if fld 25 19 w = 0 ∧ fld 11 2 w = 2 then .ok (.retSet (BitVec.ofNat 7 (fld 18 12 w)))
    else .error (.reservedField 0x35 1)
  | 2 =>
    if fld 25 2 w = 0 then .ok .exit
    else .error (.reservedField 0x35 2)
  | _ =>
    if fld 25 2 w = 0 then .ok .yield
    else .error (.reservedField 0x35 3)

/-- OP6 0x36: BAR, BARC, QUIESCE, NOP. -/
def decodeOp36 (w : Nat) : Except DecodeErr Instr :=
  match fld 1 0 w with
  | 0 =>
    if fld 25 2 w = 0 then .ok .bar
    else .error (.reservedField 0x36 0)
  | 1 =>
    if fld 25 2 w = 0 then .ok .barc
    else .error (.reservedField 0x36 1)
  | 2 =>
    if fld 25 5 w = 0 then .ok (.quiesce (BitVec.ofNat 3 (fld 4 2 w)))
    else .error (.reservedField 0x36 2)
  | _ =>
    if fld 25 2 w = 0 then .ok .nop
    else .error (.reservedField 0x36 3)

/-- OP6 0x37: LAUNCH, RQPUSH, RQPOP, TRAP. -/
def decodeOp37 (w : Nat) : Except DecodeErr Instr :=
  match fld 1 0 w with
  | 0 =>
    if fld 4 2 w = 0 then .ok (.launch (BitVec.ofNat 7 (fld 25 19 w)) (BitVec.ofNat 7 (fld 18 12 w)) (BitVec.ofNat 7 (fld 11 5 w)))
    else .error (.reservedField 0x37 0)
  | 1 =>
    if fld 18 13 w = 5 ∧ fld 4 2 w = 0 then .ok (.rqpush (BitVec.ofNat 7 (fld 25 19 w)) (BitVec.ofNat 1 (fld 12 12 w)) (BitVec.ofNat 7 (fld 11 5 w)))
    else .error (.reservedField 0x37 1)
  | 2 =>
    if fld 18 13 w = 5 ∧ fld 11 9 w = 0 ∧ fld 4 2 w = 0 then .ok (.rqpop (BitVec.ofNat 7 (fld 25 19 w)) (BitVec.ofNat 1 (fld 12 12 w)) (BitVec.ofNat 4 (fld 8 5 w)))
    else .error (.reservedField 0x37 2)
  | _ =>
    if fld 25 12 w = 0 ∧ fld 4 2 w = 0 then .ok (.trap (BitVec.ofNat 7 (fld 11 5 w)))
    else .error (.reservedField 0x37 3)

/-- OP6 0x38: PEMIT, PEMIT_END, PATTR, PCOV, PEXP. -/
def decodeOp38 (w : Nat) : Except DecodeErr Instr :=
  match fld 1 0 w with
  | 0 =>
    if fld 4 2 w = 0 then .ok (.pemit (BitVec.ofNat 7 (fld 25 19 w)) (BitVec.ofNat 7 (fld 18 12 w)) (BitVec.ofNat 7 (fld 11 5 w)))
    else if fld 25 19 w = 0 ∧ fld 11 2 w = 1 then .ok (.pemitEnd (BitVec.ofNat 7 (fld 18 12 w)))
    else .error (.reservedField 0x38 0)
  | 1 =>
    if fld 25 19 w = 0 ∧ fld 11 8 w = 0 ∧ fld 4 2 w = 6 then .ok (.pattr (BitVec.ofNat 7 (fld 18 12 w)) (BitVec.ofNat 3 (fld 7 5 w)))
    else .error (.reservedField 0x38 1)
  | 2 =>
    if fld 18 9 w = 0 ∧ fld 4 2 w = 0 then .ok (.pcov (BitVec.ofNat 7 (fld 25 19 w)) (BitVec.ofNat 4 (fld 8 5 w)))
    else .error (.reservedField 0x38 2)
  | _ =>
    if fld 25 19 w = 0 ∧ fld 11 2 w = 0 then .ok (.pexp (BitVec.ofNat 7 (fld 18 12 w)))
    else .error (.reservedField 0x38 3)

/-- OP6 0x39: PKILL, PDEPTH. -/
def decodeOp39 (w : Nat) : Except DecodeErr Instr :=
  match fld 1 0 w with
  | 0 =>
    if fld 25 2 w = 0 then .ok .pkill
    else .error (.reservedField 0x39 0)
  | 1 =>
    if fld 25 19 w = 0 ∧ fld 11 2 w = 0 then .ok (.pdepth (BitVec.ofNat 7 (fld 18 12 w)))
    else .error (.reservedField 0x39 1)
  | 2 => .error (.reservedFunction 0x39 2)
  | _ => .error (.reservedFunction 0x39 3)

/-- OP6 0x3A: CSRRD, CSRWR, CSRWR_SET, CSRWR_CLR, TLBINV, TLBINV_ASN, ERET. -/
def decodeOp3A (w : Nat) : Except DecodeErr Instr :=
  match fld 1 0 w with
  | 0 =>
    if fld 18 12 w = 0 ∧ fld 4 2 w = 0 then .ok (.csrrd (BitVec.ofNat 7 (fld 25 19 w)) (BitVec.ofNat 7 (fld 11 5 w)))
    else .error (.reservedField 0x3A 0)
  | 1 =>
    if fld 25 19 w = 0 ∧ fld 4 2 w = 0 then .ok (.csrwr (BitVec.ofNat 7 (fld 18 12 w)) (BitVec.ofNat 7 (fld 11 5 w)))
    else if fld 25 19 w = 0 ∧ fld 4 2 w = 1 then .ok (.csrwrSet (BitVec.ofNat 7 (fld 18 12 w)) (BitVec.ofNat 7 (fld 11 5 w)))
    else if fld 25 19 w = 0 ∧ fld 4 2 w = 2 then .ok (.csrwrClr (BitVec.ofNat 7 (fld 18 12 w)) (BitVec.ofNat 7 (fld 11 5 w)))
    else .error (.reservedField 0x3A 1)
  | 2 =>
    if fld 25 19 w = 0 ∧ fld 4 2 w = 0 then .ok (.tlbinv (BitVec.ofNat 7 (fld 18 12 w)) (BitVec.ofNat 7 (fld 11 5 w)))
    else if fld 25 2 w = 1 then .ok .tlbinvAsn
    else .error (.reservedField 0x3A 2)
  | _ =>
    if fld 25 2 w = 0 then .ok .eret
    else .error (.reservedField 0x3A 3)

/-- OP6 0x3B: SNAP, WAITT. -/
def decodeOp3B (w : Nat) : Except DecodeErr Instr :=
  match fld 1 0 w with
  | 0 =>
    if fld 11 2 w = 0 then .ok (.snap (BitVec.ofNat 7 (fld 25 19 w)) (BitVec.ofNat 7 (fld 18 12 w)))
    else .error (.reservedField 0x3B 0)
  | 1 =>
    if fld 11 2 w = 0 then .ok (.waitt (BitVec.ofNat 7 (fld 25 19 w)) (BitVec.ofNat 7 (fld 18 12 w)))
    else .error (.reservedField 0x3B 1)
  | 2 => .error (.reservedFunction 0x3B 2)
  | _ => .error (.reservedFunction 0x3B 3)

/-- Decode one word (R48, R51). -/
def decodeWord (w : Nat) : Except DecodeErr Instr :=
  match fld 31 26 w with
  | 0x00 => decodeOp00 w
  | 0x01 => decodeOp01 w
  | 0x02 => decodeOp02 w
  | 0x03 => decodeOp03 w
  | 0x04 => decodeOp04 w
  | 0x05 => decodeOp05 w
  | 0x06 => decodeOp06 w
  | 0x07 => decodeOp07 w
  | 0x08 => decodeOp08 w
  | 0x09 => decodeOp09 w
  | 0x0A => decodeOp0A w
  | 0x0B => decodeOp0B w
  | 0x0C => decodeOp0C w
  | 0x0D => decodeOp0D w
  | 0x0E => decodeOp0E w
  | 0x0F => decodeOp0F w
  | 0x10 => decodeOp10 w
  | 0x11 => decodeOp11 w
  | 0x12 => decodeOp12 w
  | 0x13 => decodeOp13 w
  | 0x14 => decodeOp14 w
  | 0x15 => decodeOp15 w
  | 0x16 => decodeOp16 w
  | 0x17 => decodeOp17 w
  | 0x18 => decodeOp18 w
  | 0x19 => decodeOp19 w
  | 0x1A => decodeOp1A w
  | 0x1B => decodeOp1B w
  | 0x1C => decodeOp1C w
  | 0x1D => decodeOp1D w
  | 0x1E => decodeOp1E w
  | 0x1F => decodeOp1F w
  | 0x20 => decodeOp20 w
  | 0x21 => decodeOp21 w
  | 0x22 => decodeOp22 w
  | 0x23 => decodeOp23 w
  | 0x24 => decodeOp24 w
  | 0x25 => decodeOp25 w
  | 0x26 => decodeOp26 w
  | 0x27 => decodeOp27 w
  | 0x28 => decodeOp28 w
  | 0x29 => decodeOp29 w
  | 0x2A => .error (.reservedOpcode 0x2A)
  | 0x2B => decodeOp2B w
  | 0x2C => decodeOp2C w
  | 0x2D => decodeOp2D w
  | 0x2E => decodeOp2E w
  | 0x2F => decodeOp2F w
  | 0x30 => .error (.reservedOpcode 0x30)
  | 0x31 => decodeOp31 w
  | 0x32 => decodeOp32 w
  | 0x33 => decodeOp33 w
  | 0x34 => decodeOp34 w
  | 0x35 => decodeOp35 w
  | 0x36 => decodeOp36 w
  | 0x37 => decodeOp37 w
  | 0x38 => decodeOp38 w
  | 0x39 => decodeOp39 w
  | 0x3A => decodeOp3A w
  | 0x3B => decodeOp3B w
  | 0x3C => .error .prefixWord
  | 0x3D => .error .clauseHeader
  | op => .error (.reservedOpcode op)

/-- A field placed from bit `l` on, above or below the rest of a word. -/
def put {n : Nat} (l : Nat) (v : BitVec n) (rest : Nat) : Nat := v.toNat * 2 ^ l + rest

/-- A 32-bit word from its four bytes, little-endian (R23). -/
def wordOf (a b c d : Byte) : Nat := a.toNat + 256 * b.toNat + 65536 * c.toNat + 16777216 * d.toNat

/-- The four bytes of a word, little-endian (R23). -/
def bytesOf (w : Nat) : List Byte :=
  [BitVec.ofNat 8 w, BitVec.ofNat 8 (w / 256), BitVec.ofNat 8 (w / 65536), BitVec.ofNat 8 (w / 16777216)]

/-- Decode the instruction at the front of some bytes, and answer the bytes after it. -/
def decode (bytes : List Byte) : Except DecodeErr (Instr × List Byte) :=
  match bytes with
  | a :: b :: c :: d :: rest =>
    match decodeWord (wordOf a b c d) with
    | .ok i => .ok (i, rest)
    | .error e => .error e
  | _ => .error .truncated

/-- The instruction read from an instruction whose bits are `w`, as spec/opcode_table.json numbers them: one 32-bit
word, stored little-endian. -/
def decodeTableWord (nbits w : Nat) : Option Instr :=
  if nbits ≤ 32 then
    match decode (bytesOf (w % 2 ^ nbits)) with
    | .ok (i, _) => some i
    | .error _ => none
  else none

/-- The word of an instruction, from the encoding fields of its row; a step of the part has none. -/
def encode (i : Instr) : Option Nat :=
  match i with
  | .iadd d a b t => some ((put 19 d (put 12 a (put 5 b (put 2 t 0x00000000)))))
  | .isub d a b t => some ((put 19 d (put 12 a (put 5 b (put 2 t 0x00000001)))))
  | .iadds d a b t => some ((put 19 d (put 12 a (put 5 b (put 2 t 0x00000002)))))
  | .isubs d a b t => some ((put 19 d (put 12 a (put 5 b (put 2 t 0x00000003)))))
  | .imul d a b t => some ((put 19 d (put 12 a (put 5 b (put 2 t 0x04000000)))))
  | .imulh d a b t => some ((put 19 d (put 12 a (put 5 b (put 2 t 0x04000001)))))
  | .imulhu d a b t => some ((put 19 d (put 12 a (put 5 b (put 2 t 0x04000002)))))
  | .imad d a b t => some ((put 19 d (put 12 a (put 5 b (put 2 t 0x04000003)))))
  | .imin d a b t => some ((put 19 d (put 12 a (put 5 b (put 2 t 0x08000000)))))
  | .imax d a b t => some ((put 19 d (put 12 a (put 5 b (put 2 t 0x08000001)))))
  | .iminu d a b t => some ((put 19 d (put 12 a (put 5 b (put 2 t 0x08000002)))))
  | .imaxu d a b t => some ((put 19 d (put 12 a (put 5 b (put 2 t 0x08000003)))))
  | .iabs d a t => some ((put 19 d (put 12 a (put 2 t 0x0C000000))))
  | .ineg d a t => some ((put 19 d (put 12 a (put 2 t 0x0C000001))))
  | .popc d a t => some ((put 19 d (put 12 a (put 2 t 0x0C000002))))
  | .clz d a t => some ((put 19 d (put 12 a (put 2 t 0x0C000003))))
  | .vand d a b t => some ((put 19 d (put 12 a (put 5 b (put 2 t 0x10000000)))))
  | .vor d a b t => some ((put 19 d (put 12 a (put 5 b (put 2 t 0x10000001)))))
  | .vxor d a b t => some ((put 19 d (put 12 a (put 5 b (put 2 t 0x10000002)))))
  | .vandn d a b t => some ((put 19 d (put 12 a (put 5 b (put 2 t 0x10000003)))))
  | .shl d a b t => some ((put 19 d (put 12 a (put 5 b (put 2 t 0x14000000)))))
  | .shr d a b t => some ((put 19 d (put 12 a (put 5 b (put 2 t 0x14000001)))))
  | .sar d a b t => some ((put 19 d (put 12 a (put 5 b (put 2 t 0x14000002)))))
  | .rot d a b t => some ((put 19 d (put 12 a (put 5 b (put 2 t 0x14000003)))))
  | .bfx d a b t => some ((put 19 d (put 12 a (put 5 b (put 2 t 0x18000000)))))
  | .bfxu d a b t => some ((put 19 d (put 12 a (put 5 b (put 2 t 0x18000001)))))
  | .bfi d a b t => some ((put 19 d (put 12 a (put 5 b (put 2 t 0x18000002)))))
  | .brev d a t => some ((put 19 d (put 12 a (put 2 t 0x18000003))))
  | .icmpSet k c a b t => some ((put 22 k (put 19 c (put 12 a (put 5 b (put 2 t 0x1C000000))))))
  | .icmpAnd k c a b t => some ((put 22 k (put 19 c (put 12 a (put 5 b (put 2 t 0x1C000001))))))
  | .icmpOr k c a b t => some ((put 22 k (put 19 c (put 12 a (put 5 b (put 2 t 0x1C000002))))))
  | .sel d a b t => some ((put 19 d (put 12 a (put 5 b (put 2 t 0x20000000)))))
  | .mov d a t => some ((put 19 d (put 12 a (put 2 t 0x20000001))))
  | .movs d a t => some ((put 19 d (put 12 a (put 2 t 0x20000002))))
  | .iaddi d a i => some ((put 19 d (put 12 a (put 0 i 0x24000000))))
  | .movi d t i => some ((put 19 d (put 16 t (put 0 i 0x28000000))))
  | .zip d a b t => some ((put 19 d (put 12 a (put 5 b (put 2 t 0x2C000000)))))
  | .unzip d a b t => some ((put 19 d (put 12 a (put 5 b (put 2 t 0x2C000001)))))
  | .packlo d a b t => some ((put 19 d (put 12 a (put 5 b (put 2 t 0x2C000002)))))
  | .packhi d a b t => some ((put 19 d (put 12 a (put 5 b (put 2 t 0x2C000003)))))
  | .fadd d a b t => some ((put 19 d (put 12 a (put 5 b (put 2 t 0x30000010)))))
  | .fsub d a b t => some ((put 19 d (put 12 a (put 5 b (put 2 t 0x30000011)))))
  | .fmul d a b t => some ((put 19 d (put 12 a (put 5 b (put 2 t 0x30000012)))))
  | .fma d a b t => some ((put 19 d (put 12 a (put 5 b (put 2 t 0x30000013)))))
  | .fmin d a b t => some ((put 19 d (put 12 a (put 5 b (put 2 t 0x34000010)))))
  | .fmax d a b t => some ((put 19 d (put 12 a (put 5 b (put 2 t 0x34000011)))))
  | .fminn d a b t => some ((put 19 d (put 12 a (put 5 b (put 2 t 0x34000012)))))
  | .fmaxn d a b t => some ((put 19 d (put 12 a (put 5 b (put 2 t 0x34000013)))))
  | .fabs d a t => some ((put 19 d (put 12 a (put 2 t 0x38000010))))
  | .fneg d a t => some ((put 19 d (put 12 a (put 2 t 0x38000011))))
  | .fclass d a t => some ((put 19 d (put 12 a (put 2 t 0x38000012))))
  | .frnd d a t => some ((put 19 d (put 12 a (put 2 t 0x38000013))))
  | .fcmpSet k c a b t => some ((put 22 k (put 19 c (put 12 a (put 5 b (put 2 t 0x3C000010))))))
  | .fcmpAnd k c a b t => some ((put 22 k (put 19 c (put 12 a (put 5 b (put 2 t 0x3C000011))))))
  | .fcmpOr k c a b t => some ((put 22 k (put 19 c (put 12 a (put 5 b (put 2 t 0x3C000012))))))
  | .fdiv d a b t => some ((put 19 d (put 12 a (put 5 b (put 2 t 0x40000010)))))
  | .fsqrt d a t => some ((put 19 d (put 12 a (put 2 t 0x40000011))))
  | .fscale d a b t => some ((put 19 d (put 12 a (put 5 b (put 2 t 0x40000012)))))
  | .flogb d a t => some ((put 19 d (put 12 a (put 2 t 0x40000013))))
  | .exp2 d a t => some ((put 19 d (put 12 a (put 2 t 0x44000010))))
  | .log2 d a t => some ((put 19 d (put 12 a (put 2 t 0x44000011))))
  | .rcp d a t => some ((put 19 d (put 12 a (put 2 t 0x44000012))))
  | .rsq d a t => some ((put 19 d (put 12 a (put 2 t 0x44000013))))
  | .sin d a t => some ((put 19 d (put 12 a (put 2 t 0x48000010))))
  | .cos d a t => some ((put 19 d (put 12 a (put 2 t 0x48000011))))
  | .sinpi d a t => some ((put 19 d (put 12 a (put 2 t 0x48000012))))
  | .cospi d a t => some ((put 19 d (put 12 a (put 2 t 0x48000013))))
  | .tanh d a t => some ((put 19 d (put 12 a (put 2 t 0x4C000010))))
  | .erf d a t => some ((put 19 d (put 12 a (put 2 t 0x4C000011))))
  | .cvt d a u p s t => some ((put 19 d (put 12 a (put 10 u (put 8 p (put 5 s (put 2 t 0x50000000)))))))
  | .cvts d a u p s t => some ((put 19 d (put 12 a (put 10 u (put 8 p (put 5 s (put 2 t 0x50000001)))))))
  | .cvtb d a s => some ((put 19 d (put 12 a (put 5 s 0x5000001A))))
  | .cvtbx d a s => some ((put 19 d (put 12 a (put 5 s 0x5000001B))))
  | .shfl d a b t => some ((put 19 d (put 12 a (put 5 b (put 2 t 0x54000000)))))
  | .bcast d a b t => some ((put 19 d (put 12 a (put 5 b (put 2 t 0x54000001)))))
  | .permb d a b => some ((put 19 d (put 12 a (put 5 b 0x54000002))))
  | .qswp d a b t => some ((put 19 d (put 12 a (put 5 b (put 2 t 0x58000000)))))
  | .ddx d a c t => some ((put 19 d (put 12 a (put 5 c (put 2 t 0x58000011)))))
  | .ddy d a c t => some ((put 19 d (put 12 a (put 5 c (put 2 t 0x58000012)))))
  | .elect d a => some ((put 19 d (put 12 a 0x58000003)))
  | .vote d a => some ((put 19 d (put 12 a 0x5C000000)))
  | .redi d a o t => some ((put 19 d (put 12 a (put 5 o (put 2 t 0x5C000001)))))
  | .redf d a o t => some ((put 19 d (put 12 a (put 5 o (put 2 t 0x5C000012)))))
  | .scani d a x o t => some ((put 19 d (put 12 a (put 8 x (put 5 o (put 2 t 0x5C000003))))))
  | .kand d a b => some ((put 19 d (put 12 a (put 5 b 0x60000000))))
  | .kor d a b => some ((put 19 d (put 12 a (put 5 b 0x60000001))))
  | .kxor d a b => some ((put 19 d (put 12 a (put 5 b 0x60000002))))
  | .knot d a => some ((put 19 d (put 12 a 0x60000003)))
  | .kmov d a => some ((put 19 d (put 12 a 0x64000000)))
  | .kmovS d a => some ((put 19 d (put 12 a 0x64000004)))
  | .kmovK d a => some ((put 19 d (put 12 a 0x64000008)))
  | .kmovV d a => some ((put 19 d (put 12 a 0x6400000C)))
  | .kpop d a => some ((put 19 d (put 12 a 0x64000001)))
  | .kfirst d a => some ((put 19 d (put 12 a 0x64000002)))
  | .dropk d a b t => some ((put 19 d (put 12 a (put 5 b (put 2 t 0x64000003)))))
  | .readln d a b => some ((put 19 d (put 12 a (put 5 b 0x68000000))))
  | .writeln d a b => some ((put 19 d (put 12 a (put 5 b 0x68000001))))
  | .srd d a => some ((put 19 d (put 12 a 0x68000002)))
  | .locq d a => some ((put 19 d (put 12 a 0x68000003)))
  | .sadd d a b => some ((put 19 d (put 12 a (put 5 b 0x6C000000))))
  | .ssub d a b => some ((put 19 d (put 12 a (put 5 b 0x6C000001))))
  | .smul d a b => some ((put 19 d (put 12 a (put 5 b 0x6C000002))))
  | .smulh d a b => some ((put 19 d (put 12 a (put 5 b 0x6C000003))))
  | .sand d a b => some ((put 19 d (put 12 a (put 5 b 0x70000000))))
  | .sor d a b => some ((put 19 d (put 12 a (put 5 b 0x70000001))))
  | .sxor d a b => some ((put 19 d (put 12 a (put 5 b 0x70000002))))
  | .ssel d a b => some ((put 19 d (put 12 a (put 5 b 0x70000003))))
  | .sshl d a b => some ((put 19 d (put 12 a (put 5 b 0x74000000))))
  | .sshr d a b => some ((put 19 d (put 12 a (put 5 b 0x74000001))))
  | .ssar d a b => some ((put 19 d (put 12 a (put 5 b 0x74000002))))
  | .smov d a => some ((put 19 d (put 12 a 0x74000003)))
  | .scmp d a b c => some ((put 19 d (put 12 a (put 5 b (put 2 c 0x78000000)))))
  | .saddi d a i => some ((put 19 d (put 12 a (put 0 i 0x7C000000))))
  | .smovw d z p i => some ((put 19 d (put 18 z (put 16 p (put 0 i 0x80000000)))))
  | .ld d a s p o => some ((put 19 d (put 12 a (put 9 s (put 7 p (put 0 o 0x84000000))))))
  | .st d a s p o => some ((put 19 d (put 12 a (put 9 s (put 7 p (put 0 o 0x88000000))))))
  | .lds d a s o => some ((put 19 d (put 12 a (put 9 s (put 0 o 0x8C000000)))))
  | .sts d a s o => some ((put 19 d (put 12 a (put 9 s (put 0 o 0x90000000)))))
  | .ldu d a s p o => some ((put 19 d (put 12 a (put 9 s (put 7 p (put 0 o 0x94000000))))))
  | .stu d a s p o => some ((put 19 d (put 12 a (put 9 s (put 7 p (put 0 o 0x98000000))))))
  | .atomW d a b o r => some ((put 19 d (put 12 a (put 5 b (put 1 o (put 0 r 0x9C000000))))))
  | .atomD d a b o r => some ((put 19 d (put 12 a (put 5 b (put 1 o (put 0 r 0xA0000000))))))
  | .mcas d a => some ((put 19 d (put 12 a 0xA4000000)))
  | .waitcmp d a b c => some ((put 19 d (put 12 a (put 5 b (put 2 c 0xA4000001)))))
  | .fence k => some ((put 2 k 0xA4000002))
  | .cmnt a k => some ((put 12 a (put 2 k 0xA4000003)))
  | .qpush q f a b => some ((put 22 q (put 19 f (put 9 a (put 2 b 0xAC000000)))))
  | .qpop q a => some ((put 22 q (put 9 a 0xAC000001)))
  | .qpeek q a => some ((put 22 q (put 9 a 0xAC000002)))
  | .qstat q a => some ((put 22 q (put 9 a 0xAC000003)))
  | .cpyb q s a b => some ((put 22 q (put 16 s (put 9 a (put 2 b 0xB0000000)))))
  | .cpyt q f s a b => some ((put 22 q (put 19 f (put 16 s (put 9 a (put 2 b 0xB0000001))))))
  | .cpyh q s a => some ((put 22 q (put 16 s (put 9 a 0xB0000002))))
  | .cpyc q s a b => some ((put 22 q (put 16 s (put 9 a (put 2 b 0xB0000003)))))
  | .seal a => some ((put 9 a 0xB4000000))
  | .waitb a => some ((put 9 a 0xB4000001))
  | .rdwp q a => some ((put 22 q (put 9 a 0xB4000002)))
  | .strm q a => some ((put 22 q (put 9 a 0xB4000003)))
  | .vlk d a b => some ((put 19 d (put 12 a (put 5 b 0xB8000000))))
  | .vld1 d a b t => some ((put 19 d (put 12 a (put 5 b (put 2 t 0xB8000011)))))
  | .vld7 d a b => some ((put 19 d (put 12 a (put 5 b 0xB800001A))))
  | .vld27 d a b => some ((put 19 d (put 12 a (put 5 b 0xB800001B))))
  | .vst1 d a b t => some ((put 19 d (put 12 a (put 5 b (put 2 t 0xBC000010)))))
  | .vact a b s => some ((put 12 a (put 5 b (put 2 s 0xBC000001))))
  | .vmarch d a b => some ((put 19 d (put 12 a (put 5 b 0xBC00001A))))
  | .vins d a b => some ((put 19 d (put 12 a (put 5 b 0xBC000003))))
  | .mma q f s a b => some ((put 22 q (put 19 f (put 16 s (put 9 a (put 2 b 0xC4000000))))))
  | .mma1 q f s a b => some ((put 22 q (put 19 f (put 16 s (put 9 a (put 2 b 0xC4000001))))))
  | .mzero q a b => some ((put 22 q (put 9 a (put 2 b 0xC4000002))))
  | .mout q f a b => some ((put 22 q (put 19 f (put 9 a (put 2 b 0xC4000003)))))
  | .tdecl a => some ((put 9 a 0xC8000000))
  | .tsig a b => some ((put 9 a (put 2 b 0xC8000001)))
  | .twait a => some ((put 9 a 0xC8000002))
  | .tqry a b => some ((put 9 a (put 2 b 0xC8000003)))
  | .taskIssue _ _ => none
  | .bra c r i => some ((put 22 c (put 17 r (put 0 i 0xCC000000))))
  | .call c r i => some ((put 22 c (put 17 r (put 0 i 0xD0000000))))
  | .jmp a => some ((put 12 a 0xD4000000))
  | .ret => some 0xD4000001
  | .retGet d => some ((put 19 d 0xD4000005))
  | .retSet a => some ((put 12 a 0xD4000009))
  | .exit => some 0xD4000002
  | .yield => some 0xD4000003
  | .bar => some 0xD8000000
  | .barc => some 0xD8000001
  | .quiesce p => some ((put 2 p 0xD8000002))
  | .nop => some 0xD8000003
  | .launch d a b => some ((put 19 d (put 12 a (put 5 b 0xDC000000))))
  | .rqpush d a b => some ((put 19 d (put 12 a (put 5 b 0xDC00A001))))
  | .rqpop d a b => some ((put 19 d (put 12 a (put 5 b 0xDC00A002))))
  | .trap n => some ((put 5 n 0xDC000003))
  | .pemit d a b => some ((put 19 d (put 12 a (put 5 b 0xE0000000))))
  | .pemitEnd a => some ((put 12 a 0xE0000004))
  | .pattr a j => some ((put 12 a (put 5 j 0xE0000019)))
  | .pcov d c => some ((put 19 d (put 5 c 0xE0000002)))
  | .pexp a => some ((put 12 a 0xE0000003))
  | .pkill => some 0xE4000000
  | .pdepth a => some ((put 12 a 0xE4000001))
  | .csrrd d b => some ((put 19 d (put 5 b 0xE8000000)))
  | .csrwr a b => some ((put 12 a (put 5 b 0xE8000001)))
  | .csrwrSet a b => some ((put 12 a (put 5 b 0xE8000005)))
  | .csrwrClr a b => some ((put 12 a (put 5 b 0xE8000009)))
  | .tlbinv a b => some ((put 12 a (put 5 b 0xE8000002)))
  | .tlbinvAsn => some 0xE8000006
  | .eret => some 0xE8000003
  | .snap d a => some ((put 19 d (put 12 a 0xEC000000)))
  | .waitt d a => some ((put 19 d (put 12 a 0xEC000001)))
  | .clauseFetch _ _ _ => none
  | .clauseConditionsMet _ _ _ => none
  | .waitingWordResume _ _ _ => none
  | .fairnessTimerExpiry _ _ _ => none
  | .yieldTimeout _ _ _ => none
  | .wcEntryDrain _ _ => none
  | .wcIdleTimeout _ _ => none
  | .storeForwardHome _ => none
  | .waitcmpPoll _ _ _ => none
  | .waitcmpDeadline _ _ _ => none
  | .parkSwapTimeout _ => none
  | .waittWake _ _ _ => none
  | .l2Reencode _ => none
  | .clampGrant _ _ _ => none
  | .lineMigration _ _ => none
  | .migrationFinish _ _ _ => none
  | .forwardedAccess _ => none
  | .shootdown _ _ _ _ => none
  | .hostSnoop _ _ => none
  | .objectDeclare _ _ _ => none
  | .objectSetState _ _ _ => none
  | .objectRemove _ _ _ => none
  | .l2DomainReset _ => none
  | .coreDomainReset _ => none
  | .copyCommandStart _ => none
  | .copyElementWrite _ => none
  | .engineShootdownResume _ => none
  | .copyComplete _ => none
  | .completionQueuePush _ => none
  | .streamGatherPrefetch _ _ _ => none
  | .streamScatterWrite _ _ _ => none
  | .matrixCommandStart _ => none
  | .mmaKBlock _ => none
  | .mmaRetire _ => none
  | .matrixMerge _ _ => none
  | .matrixCommandComplete _ => none
  | .matrixStateSave _ => none
  | .matrixStateRestore _ _ => none
  | .barrierWatchdogExpiry _ => none
  | .quiesceSweep _ _ => none
  | .kernelWatchdogExpiry _ => none
  | .packetLaunch _ => none
  | .packetWait _ => none
  | .packetSignal _ => none
  | .launchAccept _ => none
  | .queueSlotMap _ _ => none
  | .slotTimeExpiry _ => none
  | .slotRemapBeforeStart _ _ => none
  | .leafScan _ => none
  | .blockStart _ _ => none
  | .priorityWaitTimeout _ => none
  | .gridComplete _ => none
  | .rqBatchStart _ _ => none
  | .rqFlushExpiry _ _ => none
  | .preemptContext _ => none
  | .blockSwap _ => none
  | .blockResume _ _ => none
  | .cowService _ => none
  | .cowReissue _ => none
  | .terminateContext _ => none
  | .coverageTakePrimitive _ _ => none
  | .pixelGroupStart _ _ _ => none
  | .tileFlush _ _ => none
  | .orderedBlendApply _ _ _ => none
  | .frameWriteback _ _ => none
  | .partitionCreate _ _ => none
  | .partitionDestroy _ => none
  | .windowAssign _ _ _ => none
  | .vfBind _ _ => none
  | .contextCreate _ _ => none
  | .queueRestart _ => none
  | .cowpoolAddPages _ _ _ => none
  | .snapshotConfigure _ _ _ => none
  | .snapshotTimeMatch _ _ => none
  | .snapshotReadRearm _ _ => none
  | .monitorHistogramReset _ => none
  | .errorCounterRead _ => none
  | .errorCounterClear _ => none
  | .attestationReport _ _ => none
  | .certificateChainRead => none
  | .powerGood _ => none
  | .powerRemove => none
  | .softError _ => none
  | .patrolScrub _ _ => none
  | .l2DomainOutOfReset _ => none
  | .coreDomainOutOfReset _ => none
  | .hostRegisterWrite _ _ _ => none
  | .hostOrPeerAccess _ => none

end Sys2Proof
end

