-- ==== Sys2Proof/Machine/Mcas.lean ====
section
/-!
DEFINITION. MCAS (spec/05 R104 to R117): the parameter block, its checks, the clamp, and the single event; and the
step CLAMP_GRANT (R111), by which an MCAS may take clamps ahead of its event.
-/

namespace Sys2Proof.Machine

open Host

/-! ### The parameter block (R106, R107, R110) -/

/-- An MCAS-attribute fault: 1 header, 2 region, 3 overlap; the entry and the mask of the entries that fail. -/
def mcasFlt (cause i mask : Nat) : Flt := { cls := 7, cause := cause, index := i, detail := BitVec.ofNat 64 mask }

/-- A header that R110 rejects. -/
def mcasHeaderBad (h : Nat) : Bool :=
  let n := fld 3 0 h
  n = 0 || 9 ≤ n || fld 63 17 h ≠ 0 || fld 7 4 h ≠ 0 || fld 15 8 h / 2 ^ n ≠ 0

/-- A dword of the parameter block, through the die's L2 after the core's entries for its line have drained. -/
def readBlock (va : Word) : M (Nat × Tr) := do
  let ag ← curAg
  let c ← curCore
  let tr ← checkedAccess ag va 8 .load
  drainLine c (tr.pa / 128)
  let v ← loadCore c ag.ctx tr 8 1
  pure (v, tr)

/-- Do two ranges of physical bytes meet? -/
def bytesMeet (a n b m : Nat) : Bool := decide (a < b + m) && decide (b < a + n)

/-- A target outside what MCAS accepts: CL 3, host or peer memory. -/
def State.mcasRegionBad (tr : Tr) : Bool := fld 9 8 tr.pte = 3 || regionOf tr.pa ≠ 0

/-- Set bits of a list of flags. -/
def bitsOf (l : List Bool) : Nat := packNat 1 (l.map (fun b => if b then 1 else 0))

/-- A fault of an entry names it (spec/19 R308). -/
def nameEntry (i : Nat) (f : Flt) : Flt := { f with index := i }

/-- The checks of one entry after all are translated: translation, region, overlap, in R110's order. -/
def checkEntry (trs : List (Except Flt Tr)) (ns : List Nat) (blockPas : List Nat) (i : Nat) : M Tr :=
  match trs[i]? with
  | some (.ok tr) => do
    let n := (ns[i]?).getD 8
    let region := trs.map fun t => match t with
      | .ok t => State.mcasRegionBad t
      | .error _ => false
    let meets := (List.range trs.length).map fun j =>
      match trs[j]? with
      | some (.ok t) => decide (j ≠ i) && bytesMeet tr.pa n t.pa ((ns[j]?).getD 8)
      | _ => false
    let inBlock := blockPas.any (fun p => bytesMeet tr.pa n p 8)
    check (!State.mcasRegionBad tr) (mcasFlt 2 i (bitsOf region))
    check (!meets.any id && !inBlock)
      (mcasFlt 3 i (bitsOf ((List.range trs.length).map fun j => decide (j = i) || (meets[j]?).getD false)))
    pure tr
  | some (.error f) => raise (nameEntry i f)
  | none => throw .hold

/-- Read and check the whole block at `a`: its entries in block order, and where their observed values go when WBO is 1 (R109): every
dword read must then be writable (R110).
A header fault names no entry, so INDEX and DETAIL are 0 (log 23); with WBO = 1 a copy-on-write page of the block is met here
(log 25). -/
def mcasPlan (a : Word) : M (List McasEntry × List Tr) := do
  let ag ← curAg
  check (a.toNat % 64 = 0) (accFlt 6 0 .mcas a 0)
  let (h, htr) ← readBlock a
  check (!mcasHeaderBad h) (mcasFlt 1 0 0)
  let n := fld 3 0 h
  let wbo := fld 16 16 h = 1
  let words ← collect (List.range (3 * n)) (fun i => readBlock (a + BitVec.ofNat 64 (8 + 8 * i)))
  let ws ← if wbo then collect (List.range (3 * n + 1)) (fun i => checkedAccess ag (a + BitVec.ofNat 64 (8 * i)) 8 .store)
    else pure []
  let wb := (List.range (if wbo then n else 0)).filterMap (fun i => ws[3 * i + 2]?)
  let word := fun i => ((words[i]?).map (·.1)).getD 0
  let ns := (List.range n).map (fun i => if (fld 15 8 h).testBit i then 8 else 4)
  let trs ← collect (List.range n) (fun i =>
    catchFlt (checkedAccess ag (BitVec.ofNat 64 (word (3 * i))) ((ns[i]?).getD 8) .mcas))
  let pas := htr.pa :: words.map (fun w => w.2.pa)
  let es ← collect (List.range n) (fun i => do
    let tr ← checkEntry trs ns pas i
    let k := (ns[i]?).getD 8
    pure (⟨BitVec.ofNat 64 (word (3 * i)), k, word (3 * i + 1) % 256 ^ k, word (3 * i + 2) % 256 ^ k, tr⟩ : McasEntry))
  pure (es, wb)

/-- Words (address, bytes, expected, new) checked as the entries of an MCAS without a block. -/
def planWords (ws : List (Word × Nat × Nat × Nat)) : M (List McasEntry) := do
  let ag ← curAg
  let trs ← collect ws (fun (w : Word × Nat × Nat × Nat) => catchFlt (checkedAccess ag w.1 w.2.1 .mcas))
  let ns := ws.map (fun (w : Word × Nat × Nat × Nat) => w.2.1)
  collect ((List.range ws.length).zip ws) (fun (x : Nat × Word × Nat × Nat × Nat) => do
    let tr ← checkEntry trs ns [] x.1
    pure (⟨x.2.1, x.2.2.1, x.2.2.2.1, x.2.2.2.2, tr⟩ : McasEntry))

/-! ### The clamp (R111 to R114) -/

/-- Insert into an ascending list without repeats. -/
def insertAsc (x : Nat) (l : List Nat) : List Nat :=
  match l with
  | [] => [x]
  | y :: r => if x < y then x :: y :: r else if x = y then y :: r else y :: insertAsc x r

/-- Distinct target lines, ascending. -/
def mcasLines (es : List McasEntry) : List Nat := es.foldl (fun acc e => insertAsc (e.tr.pa / 128) acc) []

def State.holdsClamp (s : State) : Bool := s.clamps.any (fun c => s.ownClamp c && c.granted)

/-- No other MCAS holds the line or asked for it before the issuing path did. -/
def State.clampFree (s : State) (line : Nat) : Bool :=
  !((s.clamps.filter (fun c => decide (c.line = line))).takeWhile (fun c => !s.ownClamp c)).any (fun _ => true)

/-- The path has its clamp on the line. -/
def State.hasClamp (s : State) (line : Nat) : Bool :=
  s.clamps.any (fun c => decide (c.line = line) && s.ownClamp c && c.granted)

/-- A clamp buffer of the line's slice is free: each granted clamp takes one, the path's own too (R111). -/
def State.bufferFree (s : State) (line : Nat) : Bool :=
  decide ((s.clamps.filter (fun c => c.granted
    && decide (s.lineDie c.line = s.lineDie line ∧ sliceOf (128 * c.line) = sliceOf (128 * line)))).length < Config.clampBuffers)

/-- An MCAS with clamps, granted or asked for: the lines it holds and needs. -/
structure Party where
  blk : Nat
  grp : Nat
  lanes : BitVec 32
  lines : List Nat
  deriving DecidableEq, Repr, Inhabited

def Party.owns (p : Party) (c : Clamp) : Bool := decide (c.blk = p.blk ∧ c.grp = p.grp ∧ c.lanes = p.lanes)

/-- The MCAS that a clamp belongs to. -/
def State.party (s : State) (c : Clamp) : Party :=
  let ps := ((s.grpAt c.blk c.grp).map (·.paths)).getD []
  ⟨c.blk, c.grp, c.lanes, (((ps.find? (fun p => decide (p.lanes = c.lanes))).bind (·.mcasOp)).map (fun m => mcasLines m.entries)).getD [c.line]⟩

def State.parties (s : State) : List Party :=
  s.clamps.foldl (fun l c => if l.any (fun p => p.owns c) then l else l ++ [s.party c]) []

/-- A line's slice: its die, and its place on it. -/
def State.sliceOfLine (s : State) (line : Nat) : Nat × Nat := (s.lineDie line, sliceOf (128 * line))

/-- An MCAS could take every line it still needs and end, if only some others kept theirs: no clamp of these lies on or before its
own on a line it needs, and the slices have buffers for all its lines. -/
def State.canEnd (s : State) (cs : List Clamp) (p : Party) : Bool :=
  p.lines.all fun l =>
    !((cs.filter (fun c => decide (c.line = l))).takeWhile (fun c => !p.owns c)).any (fun _ => true)
      && decide ((cs.filter (fun c => c.granted && !p.owns c && decide (s.sliceOfLine c.line = s.sliceOfLine l))).length
        + (p.lines.filter (fun k => decide (s.sliceOfLine k = s.sliceOfLine l))).length ≤ Config.clampBuffers)

/-- Every MCAS with clamps can end, in some order. -/
def State.allEnd (s : State) (cs : List Clamp) (ps : List Party) (fuel : Nat) : Bool :=
  match fuel with
  | 0 => ps.isEmpty
  | k + 1 =>
    match ps.find? (s.canEnd cs) with
    | some p => s.allEnd (cs.filter (fun c => !p.owns c)) (ps.filter (fun q => decide (q ≠ p))) k
    | none => ps.isEmpty

/-- The clamps as they stand let every MCAS end: none waits in a cycle for lines or for buffers (R112). How the slices see to it is
not said; in the model a clamp that would leave no such order is neither granted nor queued yet (log 116). -/
def State.clampsEnd (s : State) : Bool := s.allEnd s.clamps s.parties s.parties.length

/-- What a slice answers a clamp request (R111). -/
inductive Grant where
  | granted | waits | moving
  deriving DecidableEq, Repr, Inhabited

/-- The answer for a line: its domain must answer; an earlier clamp or request or the want of a buffer makes it wait; a line under
migration sends the MCAS back to translation; a poisoned line faults on decode (R111, R114). -/
def grantable (line : Nat) : M Grant := do
  let s ← get
  match s.homeGone line with
  | some w => raise (unreachable w)
  | none => pure ()
  if !s.clampFree line || !s.bufferFree line then pure .waits
  else if s.migrating line then pure .moving
  else
    match s.poisonIn (128 * line) 128 with
    | some g => raise (poisonFlt (8 * g) 0)
    | none => pure .granted

/-- What a grant does at the slice: the issuing die's replica goes, and the line's object becomes device-only (R111). The die's earlier
stores to the line are performed first, which the MCAS is not to overtake (spec/12 R251, R258). -/
def onGrant (die line : Nat) : M Unit := do
  flushFwd (fun f => decide (f.die = die) && decide (f.line = line))
  modify fun s => (s.modDie die (fun d => d.dropReplica line)).toDevice line

/-- The path's clamp on a line, granted or asked for, in the place its request had. -/
def State.setClamp (s : State) (line : Nat) (granted : Bool) : State :=
  let mine : Clamp := ⟨line, s.cur.blk, s.cur.grp, s.curLanes, granted⟩
  if s.clamps.any (fun c => decide (c.line = line) && s.ownClamp c) then
    { s with clamps := s.clamps.map (fun c => if c.line = line ∧ s.ownClamp c then mine else c) }
  else { s with clamps := s.clamps ++ [mine] }

/-- Ask for the clamp of a line; it is kept when granted. -/
def askClamp (die line : Nat) : M Grant := do
  let a ← grantable line
  if a = .granted then do
    onGrant die line
    modify fun s => s.setClamp line true
  pure a

/-- Take the clamps of lines in ascending order (R112): false when one of them is under migration. Nothing is taken when one
must wait. -/
def takeClamps (die : Nat) (ls : List Nat) : M Bool :=
  match ls with
  | [] => pure true
  | l :: r => do
    let s ← get
    if s.hasClamp l then takeClamps die r
    else do
      let a ← askClamp die l
      match a with
      | .granted => takeClamps die r
      | .waits => hold
      | .moving => pure false

/-! ### The event (R109, R116) -/

/-- The data and mask the entries write into a line. -/
def mcasWrite (es : List McasEntry) (line : Nat) : BitVec 1024 × BitVec 128 :=
  es.foldl (fun acc e =>
    if e.tr.pa / 128 = line then
      let o := e.tr.pa % 128
      (acc.1 ||| spanData o e.bytes e.new, acc.2 ||| spanMask o e.bytes)
    else acc) (0, 0)

/-- Copies of lines in the L1s of a die's cores go (R113). -/
def State.dropDieL1 (s : State) (die : Nat) (ls : List Nat) : State :=
  { s with cores := s.cores.map fun x =>
      if dieOf x.1 = die then (x.1, { x.2 with l1 := x.2.l1.filter (fun r => !ls.contains r.line) }) else x }

/-- With every clamp held: compare every entry at home and, when all match, write every new value, as one event; release, then
acquire. Answers each entry's observed value. -/
def mcasCompare (es : List McasEntry) : M (List Nat) := do
  let ag ← curAg
  let c ← curCore
  let ls := mcasLines es
  let s ← get
  let obs := es.map (fun e => getBytes s.mem e.tr.pa e.bytes)
  let ok := (es.zip obs).all (fun x => decide (x.1.expected = x.2))
  if ok then
    each ls (fun l =>
      let (d, m) := mcasWrite es l
      writeAt l d m (((es.find? (fun e => decide (e.tr.pa / 128 = l))).map (·.tr.pte)).getD 0))
  modify fun s => es.foldl (fun t e => t.remote ag.ctx ag.die (e.tr.pa / 128) e.bytes e.tr.pte) s
  modify fun s => ({ s with clamps := s.clamps.filter (fun x => !s.ownClamp x) } : State).dropDieL1 ag.die ls
  acquireFor c 5
  bump ag.ctx 8 1 ag.die
  pure obs

/-- A line under migration: every clamp goes, and the MCAS starts again from translation (R109, R114). -/
def mcasRestart : M Unit := do
  modify State.dropClamps
  bumpCur 9 1

/-- The event of an MCAS, once it has every clamp; none when it must start again. -/
def mcasEvent (es : List McasEntry) : M (Option (List Nat)) := do
  let ag ← curAg
  let got ← takeClamps ag.die (mcasLines es)
  if got then do
    let obs ← mcasCompare es
    pure (some obs)
  else do
    mcasRestart
    pure none

/-- Bits of the entries whose observed value differs. -/
def mismatch (es : List McasEntry) (obs : List Nat) : Nat :=
  bitsOf ((es.zip obs).map (fun x => decide (x.1.expected ≠ x.2)))

/-- Dies counted in the latency formula (R117): those that home a line, and the issuing die. -/
def State.mcasDies (s : State) (ls : List Nat) (die : Nat) : Nat :=
  ((List.range 4).filter (fun d => decide (d = die) || ls.any (fun l => decide (s.lineDie l = d)))).length

/-- The result word (R108). -/
def mcasResult (s : State) (es : List McasEntry) (mm die : Nat) : Word :=
  let ls := mcasLines es
  BitVec.ofNat 64 (s.mcasDies ls die * 2 ^ 20 + ls.length * 2 ^ 16 + mm * 2 ^ 8 + (if mm = 0 then 1 else 0))

/-- Where the issuing path's MCAS stands: it has asked for clamps; or it first releases, reads its block and checks it, and its
core's write-combining entries for the target lines drain (R109, R110, spec/03 R68). -/
def mcasStart (x : Word) : M McasSt := do
  let p ← curPath
  match p.mcasOp with
  | some m => pure m
  | none => do
    releaseCur 5
    let (es, wb) ← mcasPlan x
    let c ← curCore
    each (mcasLines es) (drainLine c)
    pure ⟨es, wb, none, 0⟩

/-- Where an MCAS that has not completed stands. -/
def keepMcas (m : McasSt) : M Unit := modCurPath fun p => { p with wait := some (.mcas m) }

/-- The observed values of an event that failed are stored and performed, outside the event (R109). -/
def storeObserved (wb : List Tr) (obs : List Nat) : M Unit := do
  let ag ← curAg
  let c ← curCore
  let s ← get
  each (wb.zip obs) (fun x => do
    storeCore c s.cur.blk s.cur.grp x.1 8 x.2 0
    drainLine c (x.1.pa / 128)
    flushFwd (fun f => decide (f.die = ag.die) && decide (f.line = x.1.pa / 128)))

/-- Run a part that may have to wait at a home: whether it was made; when not, nothing has happened. -/
def unlessHeld (m : M Unit) : M Bool := fun s =>
  match m s with
  | .ok (_, t) => .ok (true, t)
  | .error .hold => .ok (false, s)
  | .error e => .error e

/-- The last part of an MCAS: D, and the next word. -/
def mcasFinish (n : Nat) (res : Word) : M Unit := do
  writeUni n res
  retire

/-- An MCAS event of a VINS before its clamps: until the first is granted its words are translated afresh, and a request for a line
that they no longer name is dropped (R114). -/
def freshPlan (m : McasSt) : M McasSt := do
  let s ← get
  if s.holdsClamp then pure m
  else do
    let es ← planWords (m.entries.map (fun e => (e.va, e.bytes, e.expected, e.new)))
    let ls := mcasLines es
    modify fun s => { s with clamps := s.clamps.filter (fun c => !s.ownClamp c || ls.contains c.line) }
    pure { m with entries := es }

/-- The event of an MCAS and what follows it. Observed values that must wait at their home are stored at a later issue, the clamps
having been released. -/
def mcasRun (n : Nat) (m : McasSt) : M Unit := do
  let got ← mcasEvent m.entries
  match got with
  | none => modCurPath fun p => { p with wait := none }
  | some obs => do
    let mm := mismatch m.entries obs
    let ag ← curAg
    let s ← get
    let res := mcasResult s m.entries mm ag.die
    if mm = 0 ∨ m.wbo = [] then mcasFinish n res
    else do
      let made ← unlessHeld (storeObserved m.wbo obs)
      if made then mcasFinish n res else keepMcas { m with obs := some obs, result := res }

def mcasBody (d a : BitVec 7) : M Unit := do
  noPfx
  let n ← needUni d
  let x ← readUni a
  let h ← onlyHelpers
  if h then mcasFinish n 0
  else do
    let m ← mcasStart x
    match m.obs with
    | none => mcasRun n m
    | some obs => do
      storeObserved m.wbo obs
      mcasFinish n m.result

def execMcas (d a : BitVec 7) (s : State) : Outcome State Fault Refusal := runWord (mcasBody d a) s

/-! ### CLAMP_GRANT -/

/-- The word a path stands at, and its prefix word, when its clause has been issued (spec/02 R28, R31). -/
def Path.words (p : Path) : Option (Code × Option Code) :=
  match p.cl with
  | none => none
  | some c =>
    if !c.ready then none
    else
      let i := (p.pc - c.header).toNat / 4
      match (if i = 0 then none else c.words[i - 1]?) with
      | none => none
      | some w =>
        if isPrefixWord w.toNat then (c.words[i]?).map (fun v => (v, some w)) else some (w, none)

/-- Make a path the issuing one, with the word it stands at. -/
def issueAt (blk grp path : Nat) : M Unit := do
  let s ← get
  let p ← needSome (s.pathAt blk grp path)
  let b ← needSome (s.blkAt blk)
  need (!p.stopped && b.core.isSome && !b.ended)
  let (w, pf) ← needSome p.words
  set { s with cur := ⟨blk, grp, path, w, pf⟩ }

/-- Words that the groups of an issue set execute in ascending %group order, each completing before the next begins: uniform
instructions (spec/09 R207), LDU and STU (spec/04 R80), MCAS (R105), copy and matrix commands (spec/06 R121, spec/11 R238) and RQPUSH
(spec/14 R292). -/
def inGroupOrder (w : Nat) : Bool :=
  decide (0x1A ≤ fld 31 26 w ∧ fld 31 26 w ≤ 0x20) || (match decodeWord w with
    | .ok (.ldu _ _ _ _ _) => true
    | .ok (.stu _ _ _ _ _) => true
    | .ok (.mcas _ _) => true
    | .ok (.cpyb _ _ _ _) => true
    | .ok (.cpyt _ _ _ _ _) => true
    | .ok (.cpyh _ _ _) => true
    | .ok (.cpyc _ _ _ _) => true
    | .ok (.mma _ _ _ _ _) => true
    | .ok (.mma1 _ _ _ _ _) => true
    | .ok (.mzero _ _ _) => true
    | .ok (.mout _ _ _ _) => true
    | .ok (.rqpush _ _ _) => true
    | _ => false)

/-- It is a path's turn at its word: no lower group of its issue set still stands there (log 127). -/
def State.turn (s : State) (blk grp : Nat) (p : Path) : Bool :=
  match p.words with
  | some (w, _) => !inGroupOrder w.toNat || (s.fellows blk grp p).all (fun x => decide (grp ≤ x.2.1))
  | none => true

/-- The outcome of a step that carries a path's word on: a fault it meets is taken there; when it cannot happen, nothing
happens. -/
def runPathEvent (blk grp path : Nat) (m : M Unit) (s : State) : Outcome State Fault Refusal :=
  match issueAt blk grp path s with
  | .error _ => .next s
  | .ok (_, s') =>
    match m s' with
    | .ok (_, t) => .next t
    | .error (.fault f) => .next (takeFault f s')
    | .error (.stop f) => .fault f
    | .error _ => .next s

/-- The MCAS event that the issuing path asks for: of its MCAS word, or of the VINS it is inside (spec/05 R118). -/
def clampPlan : M McasSt := do
  let s ← get
  let p ← curPath
  match p.wait, p.mcasOp with
  | some (.vins _), some m => freshPlan m
  | _, some m => pure m
  | _, none =>
    match decodeWord s.cur.word.toNat with
    | .ok (.mcas _ a) => do
      need (p.wait.isNone)
      let h ← onlyHelpers
      need (!h)
      let x ← readUni a
      mcasStart x
    | _ => throw .hold

/-- What the path stands at once it has asked for a clamp. -/
def Path.asking (m : McasSt) (p : Path) : Path :=
  match p.wait with
  | none => { p with wait := some (.mcas m) }
  | some (.vins v) => { p with wait := some (.vins { v with op := v.op.map (fun o => (o.1, m)) }) }
  | some _ => p

/-- Ask for one clamp ahead of the event: it waits also where, granted, it could leave some MCAS no way to end (R112). -/
def grantClamp (die line : Nat) : M Grant := fun s =>
  match askClamp die line s with
  | .ok (.granted, t) => if t.clampsEnd then .ok (.granted, t) else .ok (.waits, s)
  | r => r

/-- CLAMP_GRANT: the next clamp that an MCAS needs, in ascending line order, is granted, or its request waits in arrival order at
the slice; a line under migration starts it again. -/
def execClampGrant (blk grp path : Nat) (s : State) : Outcome State Fault Refusal :=
  runEvent (do
    issueAt blk grp path
    let p ← curPath
    let s ← get
    need (s.turn blk grp p)
    let m ← clampPlan
    need m.obs.isNone
    let s ← get
    let l ← needSome ((mcasLines m.entries).find? (fun l => !s.hasClamp l))
    let ag ← curAg
    modCurPath (Path.asking m)
    let a ← grantClamp ag.die l
    match a with
    | .granted => pure ()
    | .waits => do
      modify fun s => s.setClamp l false
      let s ← get
      need s.clampsEnd
    | .moving => do
      mcasRestart
      modCurPath fun p => match p.wait with
        | some (.mcas _) => { p with wait := none }
        | _ => p) s

end Sys2Proof.Machine
end

