-- ==== Sys2Proof/Machine/Copy.lean ====
section
/-!
DEFINITION. Copy commands (spec/06 R120 to R137, R146): the descriptor and its checks, CPYB, CPYT, CPYH and CPYC, the
steps by which an engine carries a command out, and SEAL, WAITB and RDWP.
-/

namespace Sys2Proof.Machine

open Host

/-! ### The descriptor (R122, R123) -/

/-- Element size in bytes. -/
def descEsz (d : List Nat) : Nat := 2 ^ fld 59 57 (wordAt d 0)

def descSrc (d : List Nat) : Word := va57 (fld 56 0 (wordAt d 0))
def descDst (d : List Nat) : Word := va57 (fld 56 0 (wordAt d 1))
def descFlag (d : List Nat) : Word := va57 (fld 56 0 (wordAt d 5))
def descWpmo (d : List Nat) : Int := toInt 16 (fld 63 48 (wordAt d 6))

/-- A feed: a CPYT into q8 or q9. -/
def isFeed (kind : CopyKind) (q : Nat) : Bool := decide (kind = .cpyt ∧ (q = 8 ∨ q = 9))

/-- SHAPE within the limits of its command (R126 to R129). -/
def shapeOk (kind : CopyKind) (q esz sh : Nat) : Bool :=
  match kind with
  | .cpyb => decide (fld 63 40 sh = 0 ∧ fld 39 0 sh ≠ 0 ∧ fld 39 0 sh % esz = 0)
  | .cpyt =>
    let rows := fld 15 0 sh
    let cols := fld 31 16 sh
    decide (fld 63 32 sh = 0 ∧ 1 ≤ rows ∧ rows ≤ 4096 ∧ 1 ≤ cols ∧ cols ≤ 4096)
      && (if q = 8 then decide (cols % 64 = 0 ∧ rows % 32 = 0)
          else if q = 9 then decide (cols % 64 = 0 ∧ rows % 64 = 0) else true)
  | .cpyh => decide (fld 63 56 sh = 0 ∧ fld 55 40 sh ≠ 0 ∧ fld 39 24 sh ≠ 0 ∧ fld 23 0 sh ≠ 0 ∧ fld 23 0 sh % esz = 0)
  | .cpyc => decide (fld 63 48 sh = 0 ∧ fld 23 0 sh ≠ 0 ∧ fld 47 24 sh ≠ 0)
  | .scatter => true

/-- Two spans of virtual bytes meet; an empty one meets none. -/
def spansMeet (a b : Int × Int) : Bool :=
  decide (a.1 < a.2) && decide (b.1 < b.2) && decide (a.1 < b.2) && decide (b.1 < a.2)

def vaInt (a : Word) : Int := a.toInt

/-- The checks that need only the descriptor and the word (R123). -/
def descOk (kind : CopyKind) (q : Nat) (d : List Nat) : Bool :=
  let esz := descEsz d
  let src := descSrc d
  let dst := descDst d
  let flag := descFlag d
  let len := fld 39 0 (wordAt d 2)
  [1, 3, 4, 5].all (fun i => decide (fld 63 57 (wordAt d i) = 0))
    && decide (fld 59 57 (wordAt d 0) < 5)
    && shapeOk kind q esz (wordAt d 2)
    && (kind ≠ .cpyb || decide (wordAt d 3 = 0))
    && ((kind = .cpyc || isFeed kind q) || decide (wordAt d 4 = 0))
    && (!isFeed kind q || decide (wordAt d 1 = 0))
    && decide (src.toNat % esz = 0) && decide (dst.toNat % esz = 0)
    && decide (flag.toNat % 4 = 0)
    && (descWpmo d = 0 || decide (flag.toNat % 8 = 0 ∧ fld 56 0 (wordAt d 5) ≠ 0))
    && (fld 63 63 (wordAt d 0) = 0 || decide (fld 56 0 (wordAt d 5) ≠ 0))
    && (kind ≠ .cpyb || !spansMeet (vaInt src, vaInt src + len) (vaInt dst, vaInt dst + len))

/-! ### Accepting a command (R121, R124) -/

/-- Commands one engine name carries out at once, and how many more its queue holds (R120). -/
def Engine.servers (e : Engine) : Nat :=
  match e with
  | .chan _ _ => 1
  | .bulk _ => Config.bulkEngines
  | .halo _ => Config.haloRun

def Engine.queueLen (e : Engine) : Nat :=
  match e with
  | .chan _ _ => Config.chanQueue
  | .bulk _ => Config.dieQueue
  | .halo _ => Config.haloQueue

/-- A descriptor's command that stands on an engine and is not complete. Whether the stream reads and scatter pushes of a channel wait
behind its commands is not said: in the model they run beside them and take no place in its queue (log 112). -/
def Cmd.open_ (c : Cmd) (e : Engine) : Bool := decide (c.eng = e ∧ c.kind ≠ .scatter) && !c.isDone

/-- A command that holds a place of an engine. -/
def State.holdsPlace (s : State) (e : Engine) (c : Cmd) : Bool := c.open_ e && !s.blkSaved c.blk

/-- A command that an engine carries out now. -/
def State.carries (s : State) (e : Engine) (c : Cmd) : Bool :=
  s.holdsPlace e c && decide (c.status = .running ∨ c.status = .pushing)

def State.engineRoom (s : State) (e : Engine) : Bool :=
  decide ((s.cmds.filter (s.holdsPlace e)).length < e.servers + e.queueLen)

/-- The engine a selector names (R124). -/
def engineFor (kind : CopyKind) (q core : Nat) (sel : Word) : M Engine := do
  check (decide (sel.toNat < 8)) (illegal 3)
  if kind = .cpyh then pure (.halo (dieOf core))
  else if sel.toNat / 4 = 1 then do
    check (!isFeed kind q) (illegal 3)
    pure (.bulk (dieOf core))
  else pure (.chan core (sel.toNat % 4))

/-- Q and FSLOT a copy word accepts (R124). -/
def copyFieldsOk (kind : CopyKind) (q fslot : Nat) : Bool :=
  (q = 0 || isCq q || isFeed kind q) && (isFeed kind q || fslot = 0)

/-- The command a descriptor describes. -/
def cmdOf (kind : CopyKind) (q : Nat) (slot : Code) (split : Nat) (dva : Word) (d : List Nat) (ctx blk grp core : Nat)
    (m : BitVec 32) (eng : Engine) (tag : Option Nat) (task : Option Nat) : Cmd :=
  { kind := kind, ctx := ctx, blk := blk, grp := grp, lanes := m, core := core, eng := eng, descAt := dva
    src := descSrc d, dst := descDst d
    shape := BitVec.ofNat 64 (wordAt d 2)
    aux := va57 (fld 56 0 (wordAt d 3))
    scale := va57 (fld 56 0 (wordAt d 4))
    fen := fld 63 63 (wordAt d 0) = 1
    phase := fld 62 60 (wordAt d 0)
    esz := descEsz d, flag := descFlag d, wpmo := descWpmo d
    tag := tag.getD (fld 47 32 (wordAt d 6))
    fval := fld 31 0 (wordAt d 6)
    start := BitVec.ofNat 64 (wordAt d 7)
    q := q, slot := slot, gran := 2 ^ (12 + split)
    status := .queued, err := 0, flt := default, raised := false, pos := 0, wp := 0, mirrored := 0
    recd := [], rest := none, vals := [], skip := 0, srcPg := none, dstPg := none, paused := false, task := task }

/-- Enter a command: it counts as sent in its phase, and it is an open copy of its lanes (R136, R146). -/
def enterCmd (c : Cmd) : M Unit :=
  modify fun s =>
    let i := s.cmds.length
    let s := { s with cmds := s.cmds ++ [c] }
    let s := s.count (.core c.core) c.ctx c.phase 1 0
    s.modGrp c.blk c.grp (fun g => g.openCmd c.lanes i)

/-- ACCEPT a copy command of the block in progress: fields, selector, descriptor, room (R121 to R124). -/
def acceptCopy (kind : CopyKind) (q fslot split : Nat) (dva sel : Word) (grp : Nat) (m : BitVec 32)
    (tag : Option Nat) (task : Option Nat) : M Unit := do
  check (copyFieldsOk kind q fslot) (illegal 1)
  if isFeed kind q then onShaderCore
  let c ← curCore
  let eng ← engineFor kind q c sel
  let d ← readRecord dva 8 64
  check (descOk kind q d) (illegal 4)
  let s ← get
  if !s.engineRoom eng then wait
  let b ← curBlk
  let g ← curGrid
  enterCmd (cmdOf kind q (slotOf g.lrec fslot) split dva d b.ctx s.cur.blk grp c m eng tag task)

/-- A copy word of the issuing path. It takes no prefix word, not even a neutral one (R124). -/
def copyWord (kind : CopyKind) (q : BitVec 4) (f s : BitVec 3) (a : BitVec 7) (b : Option (BitVec 7)) : M Unit := do
  let st ← get
  check (copyFieldsOk kind q.toNat f.toNat) (illegal 1)
  check st.cur.pfx.isNone (illegal 2)
  let h ← onlyHelpers
  if !h && isFeed kind q.toNat then onShaderCore
  let dva ← readUni a
  let sel ← match b with
    | some b => readUni b
    | none => pure 0
  let m ← lanes
  if h then pure ()
  else acceptCopy kind q.toNat f.toNat s.toNat dva sel st.cur.grp m none none
  retire

def execCpyb (q : BitVec 4) (sp : BitVec 3) (a b : BitVec 7) (s : State) : Outcome State Fault Refusal :=
  runWord (copyWord .cpyb q 0 sp a (some b)) s

def execCpyt (q : BitVec 4) (f sp : BitVec 3) (a b : BitVec 7) (s : State) : Outcome State Fault Refusal :=
  runWord (copyWord .cpyt q f sp a (some b)) s

def execCpyh (q : BitVec 4) (sp : BitVec 3) (a : BitVec 7) (s : State) : Outcome State Fault Refusal :=
  runWord (copyWord .cpyh q 0 sp a none) s

def execCpyc (q : BitVec 4) (sp : BitVec 3) (a b : BitVec 7) (s : State) : Outcome State Fault Refusal :=
  runWord (copyWord .cpyc q 0 sp a (some b)) s

/-! ### Where elements lie (R126 to R129) -/

/-- A member of a list of integers read. -/
def intAt (l : List Int) (i : Nat) : Int := (l[i]?).getD 0

def Cmd.recI (c : Cmd) (i : Nat) : Int := intAt c.recd i

def Cmd.sh (c : Cmd) (hi lo : Nat) : Nat := fld hi lo c.shape.toNat

def addI (a : Word) (i : Int) : Word := a + BitVec.ofInt 64 i

/-- The segment and place within it of an element, by the fill counts. -/
def segAt (l : List Int) (seg e : Nat) : Nat × Nat :=
  match l with
  | [] => (seg, e)
  | n :: r => if e < n.toNat then (seg, e) else segAt r (seg + 1) (e - n.toNat)

def sumInt (l : List Int) : Nat := l.foldl (fun a n => a + n.toNat) 0

/-- Elements the command delivers to memory. -/
def Cmd.total (c : Cmd) : Nat :=
  match c.kind with
  | .cpyb => c.sh 39 0 / c.esz
  | .cpyt => c.sh 15 0 * c.sh 31 16
  | .cpyh => c.sh 55 40 * c.sh 39 24 * (c.sh 23 0 / c.esz)
  | .cpyc => sumInt c.recd
  | .scatter => 0

/-- Source and destination address of element `e` of delivery order. -/
def Cmd.place (c : Cmd) (e : Nat) : Word × Word :=
  match c.kind with
  | .cpyb => (addI c.src (e * c.esz), addI c.dst (e * c.esz))
  | .cpyt =>
    let rows := c.sh 15 0
    let cols := c.sh 31 16
    if c.recI 2 = 0 then
      let i := e / cols
      let j := e % cols
      (addI c.src (i * c.recI 0 + j * c.esz), addI c.dst (i * c.recI 1 + j * c.esz))
    else
      let j := e / rows
      let i := e % rows
      (addI c.src (i * c.recI 0 + j * c.esz), addI c.dst (j * c.recI 1 + i * c.esz))
  | .cpyh =>
    let n := c.sh 23 0 / c.esz
    let r := e / n % c.sh 39 24
    let p := e / n / c.sh 39 24
    let o := e % n * c.esz
    (addI c.src (p * c.recI 1 + r * c.recI 0 + o), addI c.dst (p * c.recI 3 + r * c.recI 2 + o))
  | .cpyc =>
    let (g, o) := segAt c.recd 0 e
    (addI c.src ((g * c.sh 47 24 + o) * c.esz), addI c.dst (e * c.esz))
  | .scatter => (0, 0)

/-- The span of a strided access: rows of `n` bytes at two strides. -/
def strideSpan (a : Word) (r : Nat) (rs : Int) (p : Nat) (ps : Int) (n : Nat) : Int × Int :=
  let lo := min 0 ((r - 1 : Int) * rs) + min 0 ((p - 1 : Int) * ps)
  let hi := max 0 ((r - 1 : Int) * rs) + max 0 ((p - 1 : Int) * ps)
  (vaInt a + lo, vaInt a + hi + n)

/-- The spans that must not meet, once the record or the counts are read (R123). -/
def Cmd.spans (c : Cmd) : List (Int × Int) :=
  match c.kind with
  | .cpyt =>
    let rows := c.sh 15 0
    let cols := c.sh 31 16
    [strideSpan c.src rows (c.recI 0) 1 0 (cols * c.esz),
     if c.recI 2 = 0 then strideSpan c.dst rows (c.recI 1) 1 0 (cols * c.esz)
     else strideSpan c.dst cols (c.recI 1) 1 0 (rows * c.esz)]
  | .cpyh =>
    [strideSpan c.src (c.sh 39 24) (c.recI 0) (c.sh 55 40) (c.recI 1) (c.sh 23 0),
     strideSpan c.dst (c.sh 39 24) (c.recI 2) (c.sh 55 40) (c.recI 3) (c.sh 23 0)]
  | .cpyc =>
    [strideSpan c.src 1 0 1 0 (c.sh 23 0 * c.sh 47 24 * c.esz), strideSpan c.dst 1 0 1 0 (sumInt c.recd * c.esz)]
      ++ (if c.scale = 0 then [] else [strideSpan c.scale 1 0 1 0 ((c.sh 23 0 + 1) * 4)])
  | _ => []

/-- Some two of a list of spans meet. -/
def anyMeet (l : List (Int × Int)) : Bool :=
  match l with
  | [] => false
  | a :: r => r.any (fun b => spansMeet a b) || anyMeet r

/-! ### Ends of a command (R125, R134) -/

/-- A command that is complete: its engine is free, it counts as received when it succeeded, its channel remembers its
completion word, and its task counts down (R132, R146, spec/11 R246). -/
def State.closeCmd (s : State) (i : Nat) : State :=
  match s.cmd? i with
  | none => s
  | some c =>
    let s := s.modCmd i (fun c => { c with status := .done })
    let s := if c.err = 0 ∧ c.kind ≠ .scatter then s.count c.eng.node c.ctx c.phase 0 1 else s
    let s : State := match c.eng with
      | .chan core ch =>
        if c.kind = .scatter then s
        else s.modCore core fun k =>
          { k with lastDone := k.lastDone.filter (fun x => !(decide (x.1 = ch ∧ x.2.1 = c.ctx)))
              ++ [(ch, c.ctx, completionWord c.tag c.err c.wp)] }
      | _ => s
    s.taskDone c.blk c.task (decide (c.err = 0))

/-- The last work of a command is done or has failed: it completes, or waits to push its completion word. -/
def State.endCmd (s : State) (i : Nat) : State :=
  match s.cmd? i with
  | none => s
  | some c => if isCq c.q then s.modCmd i (fun c => { c with status := .pushing }) else s.closeCmd i

/-- A fault met while a command runs stops it, with its cause (R134). -/
def State.failCmd (s : State) (i : Nat) (f : Flt) (status : Nat) : State :=
  (s.modCmd i (fun c => { c with err := status, flt := f })).endCmd i

/-- The command has entered no page and waits for a shootdown or a copy-on-write service (R133). -/
def Cmd.pause (c : Cmd) : Cmd := { c with paused := true, srcPg := none, dstPg := none }

/-- A copy-on-write fault of an engine is served on the device, and the command continues (R133, spec/19 R313). -/
def State.engineCow (s : State) (i : Nat) (f : Flt) : State :=
  match s.cmd? i with
  | none => s
  | some c =>
    (s.serve ⟨c.ctx, c.eng.die, c.blk, c.grp, c.lanes, f, false, false, some i, none, none⟩).modCmd i Cmd.pause

/-- A shootdown of the context's address space has started and not completed. -/
def State.shootPending (s : State) (ctx : Nat) : Bool :=
  match s.ctxAt ctx with
  | some c => s.shoots.any (fun sh => decide (sh.part = c.part ∧ sh.asn = c.asn))
  | none => false

/-- Run a piece of an engine's work: a fault stops the command, a copy-on-write page or a shootdown pauses it. -/
def engineDo (i : Nat) (m : M Unit) : M Unit := fun s =>
  match m s with
  | .error (.fault f) =>
    .ok ((), if f.cls = 3 then s.engineCow i f else s.failCmd i f (statusOf f))
  | .error .wait => .ok ((), s.modCmd i Cmd.pause)
  | r => r

def cmdAt (i : Nat) : M Cmd := do
  let s ← get
  needSome (s.cmd? i)

/-! ### Entering pages (R133) -/

/-- A translation moved to the first byte of its page. -/
def Tr.toBase (t : Tr) (va : Word) : Tr := { t with pa := t.pa - (va.toNat - t.vbase) }

/-- Where an address lies within an entered page. -/
def Tr.within (t : Tr) (va : Word) : Option Tr :=
  if t.vbase ≤ va.toNat ∧ va.toNat < t.vbase + t.span then some { t with pa := t.pa + (va.toNat - t.vbase) } else none

/-- The translation of an element's address: of the page the engine is in, or of the page it now enters; it does not
enter one while a shootdown is under way. -/
def enterPage (i : Nat) (va : Word) (acc : Acc) : M Tr := do
  let c ← cmdAt i
  match ((if acc = .engRead then c.srcPg else c.dstPg).bind (·.within va)) with
  | some t => do
    let s ← get
    check (s.owns c.ctx t.pa) (accFlt 2 4 acc va t.pte)
    pure t
  | none => do
    let s ← get
    if s.shootPending c.ctx then wait
    let t ← translate (engAg c.eng.die c.ctx) va acc
    modify fun s => s.modCmd i fun c =>
      if acc = .engRead then { c with srcPg := some (t.toBase va) } else { c with dstPg := some (t.toBase va) }
    pure t

/-- Crossings of die ports by the data of a command; a stream push's are not counted (R146). -/
def countCross (c : Cmd) (src dst : Nat) : M Unit :=
  if c.kind = .scatter then pure () else modify fun s => s.crossing src dst c.ctx c.phase

/-- One read of an element's bytes within a line. -/
def cmdRead (i : Nat) (va : Word) (n : Nat) : M Nat := do
  let c ← cmdAt i
  let t ← enterPage i va .engRead
  let s ← get
  countCross c (s.lineDie (s.resolve (t.pa / 128))) c.eng.die
  engineLoad (engAg c.eng.die c.ctx) t n

/-- One write within a line. -/
def cmdWrite (i : Nat) (va : Word) (n v : Nat) : M Unit := do
  let c ← cmdAt i
  let t ← enterPage i va .engWrite
  let s ← get
  countCross c c.eng.die (s.lineDie (s.resolve (t.pa / 128)))
  engineWrite (engAg c.eng.die c.ctx) t n v

def cmdReadBytes (i : Nat) (va : Word) (n : Nat) : M Nat :=
  match n with
  | 0 => pure 0
  | k + 1 => do
    let b ← cmdRead i va 1
    let r ← cmdReadBytes i (va + 1) k
    pure (b + 256 * r)

def cmdWriteBytes (i : Nat) (va : Word) (n v : Nat) : M Unit :=
  match n with
  | 0 => pure ()
  | k + 1 => do
    cmdWrite i va 1 v
    cmdWriteBytes i (va + 1) k (v / 256)

/-- Do `n` bytes from an address stay within an aligned `a` bytes? -/
def staysIn (va : Word) (n a : Nat) : Bool := decide (va.toNat % a + n ≤ a)

/-- An element of any alignment. -/
def cmdReadAny (i : Nat) (va : Word) (n : Nat) : M Nat := if staysIn va n 128 then cmdRead i va n else cmdReadBytes i va n

def cmdWriteAny (i : Nat) (va : Word) (n v : Nat) : M Unit :=
  if staysIn va n 128 then cmdWrite i va n v else cmdWriteBytes i va n v

/-! ### Mirror and flag (R125) -/

/-- mirror_store of the write pointer. The page of a mirror or a flag is none that R133 names: while a shootdown of the address space
is pending the model holds the store back, and its command leaves its source and destination pages meanwhile (log 113). -/
def mirrorStore (i : Nat) (x : Nat) : M Unit := do
  let c ← cmdAt i
  let s ← get
  if s.shootPending c.ctx then wait
  writeVa (engAg c.eng.die c.ctx) (addI c.flag (8 * c.wpmo)) 8 x .engWrite
  modify fun s => s.modCmd i (fun c => { c with mirrored := x })

/-- The granule boundary that the write pointer has passed, when its mirror store is still to make. -/
def Cmd.mirrorOwed (c : Cmd) : Bool := decide (c.wpmo ≠ 0 ∧ c.mirrored < c.wp - c.wp % c.gran)

/-- The write pointer has moved to `wp`: mirror the granule boundary it has reached. A fault of that store stops the command and leaves
what has been delivered (R134); a store that must wait is owed. -/
def deliver (i : Nat) (n : Nat) : M Unit := do
  let c ← cmdAt i
  let wp := c.wp + n
  bump c.ctx 13 n c.eng.die
  modify fun s => s.modCmd i (fun c => { c with wp := wp })
  if c.wpmo ≠ 0 ∧ c.wp / c.gran < wp / c.gran then engineDo i (mirrorStore i (wp - wp % c.gran))

/-! ### COPY_COMMAND_START (R125) -/

/-- The layout record of a CPYT (R127) or the halo record of a CPYH (R128): its strides and order. -/
def readLayout (c : Cmd) : M (List Int) := do
  check (c.aux.toNat % 8 = 0) (accFlt 6 0 .engRead c.aux 0)
  let l ← readWordsVa (engAg c.eng.die c.ctx) c.aux 4 .engRead
  if c.kind = .cpyh then pure (l.map (toInt 64))
  else do
    check (decide (wordAt l 2 < 2) && decide (wordAt l 3 = 0)) (illegal 4)
    pure [toInt 64 (wordAt l 0), toInt 64 (wordAt l 1), wordAt l 2]

/-- The stored format of a feed: the slot's A format for q8, B format for q9. -/
def Cmd.feedFmt (c : Cmd) : Nat := if c.q = 8 then slotA c.slot else slotB c.slot

/-- The checks of a feed that need the slot and the layout record (R127, R301). A transposed tile whose ROWS, the operand's K, are not
whole 64-element blocks ends with status 5 (log 30). -/
def feedChecks (c : Cmd) (r : List Int) : M Unit := do
  check (slotClean c.slot && inFmtOk c.feedFmt) (illegal 5)
  let srs := intAt r 0
  let order := intAt r 2
  if 9 ≤ c.feedFmt then
    check (decide (c.esz = 2) && decide (c.scale = 0) && decide (order = 0 ∨ c.sh 15 0 % 64 = 0)) (illegal 4)
  else
    check (decide (c.esz = 1) && decide (order = 0) && decide (srs % (8 * c.feedFmt : Nat) = 0)) (illegal 4)

/-- What a command reads and checks before its first element. -/
def startWork (i : Nat) : M Unit := do
  let c ← cmdAt i
  match c.kind with
  | .cpyt => do
    let r ← readLayout c
    check (decide (intAt r 0 % (c.esz : Int) = 0)) (illegal 4)
    if isFeed c.kind c.q then feedChecks c r
    else check (!anyMeet (({ c with recd := r } : Cmd).spans)) (illegal 4)
    modify fun s => s.modCmd i (fun c => { c with recd := r })
  | .cpyh => do
    let r ← readLayout c
    check (!anyMeet (({ c with recd := r } : Cmd).spans)) (illegal 4)
    modify fun s => s.modCmd i (fun c => { c with recd := r })
  | .cpyc => do
    check (c.aux.toNat % 4 = 0) (accFlt 6 0 .engRead c.aux 0)
    check (c.scale.toNat % 4 = 0) (accFlt 6 0 .engWrite c.scale 0)
  | _ => pure ()

/-- Commands with a place of the same engine that came before command `i`. -/
def State.ahead (s : State) (i : Nat) (e : Engine) : Nat := ((s.cmds.take i).filter (s.holdsPlace e)).length

/-- Commands that an engine carries out now. -/
def State.serving (s : State) (e : Engine) : Nat :=
  (s.cmds.filter (s.carries e)).length

def State.preempting (s : State) (ctx : Nat) : Bool := ((s.ctxAt ctx).map (·.preempted)).getD true

/-- A queued command starts once an engine takes it and START has passed; a stopped one goes on from where it was (R135). -/
def execCopyCommandStart (i : Nat) (s : State) : Outcome State Fault Refusal :=
  runEvent (do
    let c ← cmdAt i
    let s ← get
    need (decide (c.status = .queued ∨ c.status = .stopped) && decide (c.kind ≠ .scatter) && !s.blkSaved c.blk)
    need (decide (s.ahead i c.eng < c.eng.servers) && decide (s.serving c.eng < c.eng.servers))
    need (decide (c.start.toNat ≤ s.time.toNat) && !s.preempting c.ctx && !s.shootPending c.ctx)
    modify fun s => s.modCmd i (fun c => { c with status := .running })
    if c.status = .queued then engineDo i (startWork i)) s

/-! ### COPY_ELEMENT_WRITE (R120, R125, R130, R133, R134) -/

/-- Elements from `e` on that follow the one before in delivery and in memory, until they hold `n` bytes or a granule ends. -/
def Cmd.runFrom (c : Cmd) (e : Nat) (n : Int) (fuel : Nat) : Nat :=
  match fuel with
  | 0 => 0
  | k + 1 =>
    if 0 < n ∧ e < c.total ∧ (c.place e).2 = addI (c.place (e - 1)).2 c.esz ∧ e * c.esz % c.gran ≠ 0 then
      1 + c.runFrom (e + 1) (n - c.esz) k
    else 0

/-- Read up to `n` elements from `e` on. A fault or a page that cannot be entered ends the run and is met again when the run
begins there; a source line that is held holds the whole of it. -/
def readRun (i e n : Nat) (first : Bool) : M (List Nat) :=
  match n with
  | 0 => pure []
  | k + 1 => fun s =>
    match (do
      let c ← cmdAt i
      cmdReadAny i (c.place e).1 c.esz) s with
    | .ok (v, t) => (do
        let r ← readRun i (e + 1) k false
        pure (v :: r)) t
    | .error .hold => .error .hold
    | .error x => if first then .error x else .ok ([], s)

/-- The page of an element's last byte, where it lies past the aligned 8 bytes of its first: it can be written, or no byte of the
element is (R134). A page entered here is entered as any other (R133). -/
def tailPage (i : Nat) (va : Word) : M Tr := do
  let c ← cmdAt i
  match c.dstPg.bind (·.within va) with
  | some t => do
    let s ← get
    check (s.owns c.ctx t.pa) (accFlt 2 4 .engWrite va t.pte)
    reach t
    pure (t.toBase va)
  | none => do
    let s ← get
    if s.shootPending c.ctx then wait
    let t ← translate (engAg c.eng.die c.ctx) va .engWrite
    reach t
    pure (t.toBase va)

/-- Write more bytes of an element whose pages it has entered: on the page it is in, or on that of its last byte. -/
def restWrite (i : Nat) (pg : Tr) (va : Word) (n v : Nat) : M Unit := do
  let c ← cmdAt i
  let home := (c.dstPg.filter (fun t => (t.within va).isSome)).getD pg
  let t ← needSome (home.within va)
  modify fun s => s.modCmd i (fun c => { c with dstPg := some home })
  let s ← get
  countCross c c.eng.die (s.lineDie (s.resolve (t.pa / 128)))
  engineWrite (engAg c.eng.die c.ctx) t n v

/-- Write, from `at_` to the end of its aligned 8 bytes, what is left of an element and the elements `vs`; one that reaches past them
is delivered with the rest of its bytes, the last of which lies on the page `tail`. -/
def putElements (i : Nat) (at_ : Word) (vs : List Nat) (tail : Option Tr) : M Unit := do
  let c ← cmdAt i
  let (n0, v0) := (c.rest.map (fun r => (r.1, r.2.1))).getD (0, 0)
  let all := n0 + vs.length * c.esz
  let v := v0 + 256 ^ n0 * packNat (8 * c.esz) vs
  let w := min (8 - at_.toNat % 8) all
  match c.rest with
  | some r => restWrite i r.2.2 at_ w (v % 256 ^ w)
  | none => cmdWrite i at_ w (v % 256 ^ w)
  let done := (if n0 = 0 then 0 else 1) + vs.length - (if w < all then 1 else 0)
  let pg := tail.or (c.rest.map (·.2.2))
  modify fun s => s.modCmd i fun c =>
    { c with pos := c.pos + done, rest := if w < all then pg.map (fun p => (all - w, v / 256 ^ w, p)) else none }
  deliver i (done * c.esz)

/-- Put elements whose last one reaches past the aligned 8 bytes. Where its rest cannot be written it is left for the next step, which
meets its fault after the elements before it have been delivered (R134). -/
def putLong (i : Nat) (at_ last : Word) (vs : List Nat) (alone : Bool) : M Unit := fun s =>
  match tailPage i last s with
  | .ok (t, s') => putElements i at_ vs (some t) s'
  | .error .hold => .error .hold
  | .error x => if alone then .error x else putElements i at_ vs.dropLast none s

/-- Deliver the next bytes to memory: those of one aligned 8, which are one event, or fewer at the ends of a run (R120). -/
def elementStep (i : Nat) : M Unit := do
  let c ← cmdAt i
  let n0 := (c.rest.map (·.1)).getD 0
  let at_ := addI (c.place c.pos).2 (if n0 = 0 then 0 else c.esz - n0 : Int)
  let room := 8 - at_.toNat % 8
  let vs ← if n0 = 0 then readRun i c.pos (1 + c.runFrom (c.pos + 1) (room - c.esz : Int) 8) true
    else readRun i (c.pos + 1) (c.runFrom (c.pos + 1) (room - n0 : Int) 8) false
  let all := n0 + vs.length * c.esz
  if room < all ∧ vs ≠ [] then putLong i at_ (addI at_ (all - 1 : Nat)) vs (decide (n0 = 0 ∧ vs.length = 1))
  else putElements i at_ vs none

/-- A CPYC reads every count first, one at a time, and checks them (R129). -/
def countStep (i : Nat) : M Unit := do
  let c ← cmdAt i
  let v ← cmdReadAny i (addI c.aux (4 * c.recd.length)) 4
  modify fun s => s.modCmd i (fun c => { c with recd := c.recd ++ [(v : Int)] })
  let c ← cmdAt i
  if c.recd.length = c.sh 23 0 then do
    if c.recd.any (fun n => decide ((c.sh 47 24 : Int) < n)) then
      modify fun s => s.failCmd i (illegal 4) 8
    else check (!anyMeet c.spans) (illegal 4)

/-- A CPYC then writes its positions, those of one aligned 8 bytes at a time. -/
def positionStep (i : Nat) : M Unit := do
  let c ← cmdAt i
  let k := c.pos - c.total
  let va := addI c.scale (4 * k)
  let n := if va.toNat % 8 = 0 ∧ k < c.sh 23 0 then 2 else 1
  cmdWrite i va (4 * n) (packNat 32 ((List.range n).map (fun j => sumInt (c.recd.take (k + j)))))
  modify fun s => s.modCmd i (fun c => { c with pos := c.pos + n })

/-! #### Feeds (R127, R233, R234, spec/18 R301) -/

def Cmd.band (c : Cmd) : Nat := if c.q = 8 then 32 else 64

/-- Operand rows and K of a feed. -/
def Cmd.opRows (c : Cmd) : Nat := if c.recI 2 = 0 then c.sh 15 0 else c.sh 31 16
def Cmd.opK (c : Cmd) : Nat := if c.recI 2 = 0 then c.sh 31 16 else c.sh 15 0

def Cmd.slices (c : Cmd) : Nat := c.opRows / c.band * (c.opK / 64)

/-- FIFO entries of 256 bytes a slice takes. -/
def sliceEntries (rows m : Nat) : Nat := rows * 8 * m / 256

def fifoUsed (l : List Slice) : Nat := l.foldl (fun a x => a + sliceEntries x.rows.length x.m) 0

/-- Entries that a partial slice of QPUSH holds. -/
def partUsed (p : Option PartSlice) : Nat := ((p.map (·.pushes.length)).getD 0)

def MatState.used (k : MatState) (q : Nat) : Nat :=
  if q = 8 then fifoUsed k.q8 + partUsed k.part8 else fifoUsed k.q9 + partUsed k.part9

def MatState.push (k : MatState) (q ctx : Nat) (x : Slice) : MatState :=
  if q = 8 then { k with q8 := k.q8 ++ [x], ctx := some ctx } else { k with q9 := k.q9 ++ [x], ctx := some ctx }

/-- Bytes of a natural number. -/
def natBytes (n v : Nat) : List Byte := (List.range n).map (fun k => BitVec.ofNat 8 (v / 256 ^ k))

/-- One row of a slice: its mantissa bytes and its exponent. The flags of a conversion go to FPCR, as those of CVTB do (R127,
spec/08 R180); no instruction traps on them (log 29). -/
def feedRow (i row kb : Nat) : M (List Byte × Nat) := do
  let c ← cmdAt i
  if 9 ≤ c.feedFmt then do
    let xs ← collect (List.range 64) (fun e =>
      let k := 64 * kb + e
      let at_ : Int := if c.recI 2 = 0 then row * c.recI 0 + k * 2 else k * c.recI 0 + row * 2
      cmdReadAny i (addI c.src at_) 2)
    let (ms, ex, fl) := bfpEncode (xs.map (codeFmt c.feedFmt).read) 8 (slotRnd c.slot) (slotSat c.slot)
    modify fun s => s.modCtx c.ctx (fun x => x.orFlags fl)
    pure (natBytes 64 (bfpBits 8 ms), ex)
  else do
    let m := c.feedFmt
    let bits ← cmdReadBytes i (addI c.src (row * c.recI 0 + 8 * m * kb)) (8 * m)
    let ex ← cmdReadAny i (addI c.scale (row * (c.opK / 64) + kb)) 1
    pure (natBytes (8 * m) bits, ex)

/-- Place the next slice in the core's FIFO once it has room. -/
def feedStep (i : Nat) : M Unit := do
  let c ← cmdAt i
  let m := if 9 ≤ c.feedFmt then 8 else c.feedFmt
  let s ← get
  need (decide ((s.coreAt c.core).mat.used c.q + sliceEntries c.band m ≤ Config.fifoEntries))
  let kbs := c.opK / 64
  let rows ← collect (List.range c.band) (fun r => feedRow i (c.pos / kbs * c.band + r) (c.pos % kbs))
  modify fun s => s.modCore c.core fun k =>
    { k with mat := k.mat.push c.q c.ctx ⟨m, slotScale c.slot, rows.map (·.1), rows.map (·.2), false, c.ctx⟩ }
  modify fun s => s.modCmd i (fun c => { c with pos := c.pos + 1, srcPg := none })
  deliver i (c.band * 8 * m)

/-- Work left before the command can complete. -/
def Cmd.units (c : Cmd) : Nat :=
  if isFeed c.kind c.q then c.slices
  else if c.kind = .cpyc ∧ c.scale ≠ 0 then c.total + c.sh 23 0 + 1
  else c.total

def Cmd.counting (c : Cmd) : Bool := decide (c.kind = .cpyc ∧ c.recd.length < c.sh 23 0)

/-- Bytes that a step of a command delivers at once: a feed's slice, otherwise a byte. -/
def Cmd.stride (c : Cmd) : Nat :=
  if isFeed c.kind c.q then c.band * 8 * (if 9 ≤ c.feedFmt then 8 else c.feedFmt) else 1

/-- The command stands at a granule boundary, or has just passed one inside a slice, which is delivered whole (R135, log 114); an
element is not left with a part of it written. -/
def Cmd.atGranule (c : Cmd) : Bool := c.rest.isNone && decide (c.wp % c.gran < c.stride)

/-- Pre-emption stops a command at a granule boundary; one of a saved block stands still (R135). -/
def State.copyMayRun (s : State) (c : Cmd) : Bool := !s.blkSaved c.blk && !(s.preempting c.ctx && c.atGranule)

/-- The engine reads and writes the next element, or element run, at home; a mirror store that it owes comes first. -/
def execCopyElementWrite (i : Nat) (s : State) : Outcome State Fault Refusal :=
  runEvent (do
    let c ← cmdAt i
    let s ← get
    need (decide (c.status = .running) && decide (c.kind ≠ .scatter) && !c.paused && s.copyMayRun c)
    need (c.counting || c.mirrorOwed || decide (c.pos < c.units))
    engineDo i
      (if c.counting then countStep i
       else if c.mirrorOwed then mirrorStore i (c.wp - c.wp % c.gran)
       else if isFeed c.kind c.q then feedStep i
       else if c.pos < c.total then elementStep i
       else positionStep i)) s

/-- An engine paused at a page boundary goes on once the shootdown has completed. -/
def execEngineShootdownResume (i : Nat) (s : State) : Outcome State Fault Refusal :=
  runEvent (do
    let c ← cmdAt i
    let s ← get
    need (c.paused && !s.shootPending c.ctx && !s.cows.any (fun w => decide (w.cmd = some i ∧ w.closed = false)))
    modify fun s => s.modCmd i (fun c => { c with paused := false })) s

/-- The flag of a command, stored once its last mirror store stands (R125, R134). -/
def storeFlag (i : Nat) : M Unit := do
  let c ← cmdAt i
  let s ← get
  if c.fen ∧ s.shootPending c.ctx then wait
  if c.fen then writeVa (engAg c.eng.die c.ctx) c.flag 4 c.fval .engWrite

/-- Every element is delivered: the final mirror store, which stays when the flag then faults; the flag; and completion (R125, R131,
R134). -/
def execCopyComplete (i : Nat) (s : State) : Outcome State Fault Refusal :=
  runEvent (do
    let c ← cmdAt i
    let s ← get
    need (decide (c.status = .running) && decide (c.kind ≠ .scatter) && !c.paused && !c.counting && decide (c.units ≤ c.pos))
    need (!s.blkSaved c.blk && (!c.mirrorOwed || decide (c.wp % c.gran = 0)))
    engineDo i (do
      if c.wpmo ≠ 0 ∧ c.mirrored < c.wp then mirrorStore i c.wp
      engineDo i (do
        storeFlag i
        modify fun s => s.endCmd i))) s

/-- A completion word enters the group's completion queue when it has room (R125, R134). -/
def execCompletionQueuePush (i : Nat) (s : State) : Outcome State Fault Refusal :=
  runEvent (do
    let c ← cmdAt i
    let s ← get
    need (decide (c.status = .pushing) && !s.blkSaved c.blk)
    let g ← needSome (s.grpAt c.blk c.grp)
    need (g.cqRoom c.q)
    modify fun s =>
      (s.modGrp c.blk c.grp (fun g => g.cqPush c.q (completionWord c.tag c.err c.wp))).closeCmd i) s

/-! ### SEAL, WAITB, RDWP (R132, R136) -/

/-- Close the open copies of each issuing thread into its next batch. -/
def Group.sealBatches (g : Group) (m : BitVec 32) : Group :=
  let new := (lanesOf m).map fun l => (l, (g.batch[l]?).getD 0 + 1, (g.opens[l]?).getD [])
  { g with
    sealed_ := g.sealed_ ++ new
    batch := g.batch.mapIdx (fun l n => if m.getLsbD l then n + 1 else n)
    opens := setLanes g.opens m [] }

def execSeal (a : BitVec 7) (s : State) : Outcome State Fault Refusal :=
  runWord (do
    noPfx
    let n ← needUni a
    let m ← lanes
    modCurGrp (fun g => g.sealBatches m)
    let g ← curGrp
    writeUni n (BitVec.ofNat 64 ((lanesOf m).foldl (fun acc l => max acc ((g.batch[l]?).getD 0)) 0))
    retire) s

/-- Wait for the batches of the issuing lanes up to a number, then raise what their commands owe. -/
def awaitBatches (n : Nat → Nat) : M Unit := do
  let g ← curGrp
  let m ← lanes
  let s ← get
  let l := (g.batchesTo m n).flatten
  if !s.allDone l then wait
  raiseCopy (l.filterMap (fun i => s.cmd? i))

def execWaitb (a : BitVec 7) (s : State) : Outcome State Fault Refusal :=
  runWord (do
    noPfx
    let x ← readUni a
    awaitBatches (fun _ => x.toNat)
    let c ← curCore
    clearL1 c
    retire) s

/-- The completion word of the command that runs on a channel, or waits there first; or of the last one it completed for the
context. -/
def State.channelWord (s : State) (core ch ctx : Nat) : Word :=
  match (s.cmds.find? (s.carries (.chan core ch))).or (s.cmds.find? (s.holdsPlace (.chan core ch))) with
  | some c => completionWord c.tag (if c.err = 0 then 0xFF else c.err) c.wp
  | none =>
    match (s.coreAt core).lastDone.find? (fun x => decide (x.1 = ch ∧ x.2.1 = ctx)) with
    | some x => x.2.2
    | none => 0

def execRdwp (q : BitVec 2) (a : BitVec 7) (s : State) : Outcome State Fault Refusal :=
  runWord (do
    noPfx
    let n ← needUni a
    let c ← curCore
    let b ← curBlk
    let s ← get
    writeUni n (s.channelWord c q.toNat b.ctx)
    acquireFor c 5
    retire) s

end Sys2Proof.Machine
end

