-- ==== Sys2Proof/Machine/RecordQueue.lean ====
section
/-!
DEFINITION. Record queues (spec/14 R289 to R293): the descriptor, the freed mark, RQPUSH and RQPOP.
-/

namespace Sys2Proof.Machine

open Host

/-! ### The descriptor (R289) -/

/-- An aligned dword read at home by the issuing core. -/
def coreReadHome (va : Word) : M Nat := do
  let ag ← curAg
  let tr ← checkedAccess ag va 8 .load
  loadHome ag tr 8

/-- A record queue as its descriptor stands: sixteen dwords. -/
def rqBase (d : List Nat) : Word := BitVec.ofNat 64 (wordAt d 0)
def rqCap (d : List Nat) : Nat := fld 31 0 (wordAt d 1)
def rqSize (d : List Nat) : Nat := fld 39 32 (wordAt d 1)
def rqReorder (d : List Nat) : Nat := fld 47 40 (wordAt d 1)
def rqClosed (d : List Nat) : Bool := fld 55 48 (wordAt d 1) = 1
def rqConsumer (d : List Nat) : Word := BitVec.ofNat 64 (wordAt d 2)
def rqPushed (d : List Nat) : Nat := wordAt d 3
def rqTaken (d : List Nat) : Nat := wordAt d 4
def rqBatch (d : List Nat) : Nat := fld 31 0 (wordAt d 5)
def rqFlush (d : List Nat) : Nat := wordAt d 6

/-- A power of two between two others. -/
def isPow2 (n lo hi : Nat) : Bool := decide (lo ≤ n ∧ n ≤ hi) && decide (2 ^ Nat.log2 n = n)

/-- A descriptor within R289. -/
def rqOk (d : List Nat) : Bool :=
  decide (wordAt d 0 % 128 = 0) && isPow2 (rqCap d) 32 (2 ^ 24) && decide (rqSize d < 4) && decide (rqReorder d < 2)
    && decide (fld 55 48 (wordAt d 1) < 2) && decide (fld 63 56 (wordAt d 1) = 0) && decide (fld 63 32 (wordAt d 5) = 0)
    && (List.range 9).all (fun i => decide (wordAt d (7 + i) = 0))

/-- Dwords of a record. -/
def rqWords (d : List Nat) : Nat := 2 ^ rqSize d

/-- Address of record `n`. -/
def rqAddr (d : List Nat) (n : Nat) : Word := rqBase d + BitVec.ofNat 64 (8 * rqWords d * (n % rqCap d))

/-- Record numbers of a queue that running consumer blocks hold, through whatever mapping of its descriptor. -/
def State.heldOf (s : State) (ctx : Nat) (q : Word) : List Nat :=
  (s.blocks.filterMap fun b =>
    if b.ended then none
    else
      match b.held with
      | some h => if s.samePlace b.ctx h.1 ctx q then some h.2 else none
      | none => none).flatten

/-- The freed mark F: the smallest record number whose slot is not yet free (R289). -/
def State.freedMark (s : State) (ctx : Nat) (q : Word) (taken : Nat) : Nat := (s.heldOf ctx q).foldl min taken

/-- The record queue bound to a port of the block in progress; an unbound port is an illegal instruction (R291). -/
def boundQueue (port : Nat) : M Word := do
  let g ← curGrid
  let q := if port = 0 then g.lrec.rq0 else g.lrec.rq1
  check (decide (q ≠ 0)) (illegal 8)
  pure q

/-- Read the descriptor of a bound queue at home. -/
def readQueue (q : Word) : M (List Nat) := do
  check (q.toNat % 128 = 0) (accFlt 6 0 .load q 0)
  let d ← collect (List.range 16) (fun i => coreReadHome (q + BitVec.ofNat 64 (8 * i)))
  check (rqOk d) (illegal 8)
  pure d

/-- Write a dword at home, taking the issuing core's and die's copies of its line away. -/
def coreWriteHome (tr : Tr) (v : Nat) : M Unit := do
  let ag ← curAg
  let _ ← atomicHome ag tr 8 (fun _ => some v)
  pure ()

/-- A vector register range within the allocation (R291). -/
def needRange (r : BitVec 7) (w : Nat) : M Nat := do
  let n ← needVec r
  let (nv, _) ← allocation
  check (decide (n + w ≤ nv)) (illegal 3)
  pure n

/-! ### RQPUSH (R292) -/

/-- Lanes of a group's path that push. -/
def State.pushers (s : State) (blk grp : Nat) (m : BitVec 32) : Nat :=
  (lanesOf (m &&& ~~~ (((s.grpAt blk grp).map (·.helper)).getD 0))).length

/-- Lanes that the rest of the issue set has still to push. -/
def restPushers : M Nat := do
  let s ← get
  let p ← curPath
  pure ((s.fellows s.cur.blk s.cur.grp p).foldl (fun n x => n + s.pushers x.1 x.2.1 x.2.2.2.lanes) 0)

def pushBody (d : BitVec 7) (port : BitVec 1) (b : BitVec 7) : M Unit := do
  let rd ← needVec d
  let _ ← needVec b
  let q ← boundQueue port.toNat
  let m ← lanes
  let g ← curGrp
  let ls := lanesOf (m &&& ~~~ g.helper)
  releaseCur 5
  let qd ← readQueue q
  let w := rqWords qd
  let rb ← needRange b w
  let blk ← curBlk
  let s ← get
  let pushed := rqPushed qd
  let rest ← restPushers
  if rqCap qd - (pushed - s.freedMark blk.ctx q (rqTaken qd)) < ls.length + rest then wait
  let ag ← curAg
  each (List.range w) (fun i => checkReg (rb + i) m)
  let ptr ← checkedAccess ag (q + 24) 8 .atomic
  let places ← collect ((List.range ls.length).zip ls) (fun (x : Nat × Nat) => do
    let tr ← atLane x.2 (checkedAccess ag (rqAddr qd (pushed + x.1)) 8 .store)
    pure (x.1, x.2, tr))
  each places (fun (x : Nat × Nat × Tr) =>
    each (List.range w) (fun i =>
      coreWriteHome { x.2.2 with pa := x.2.2.pa + 8 * i } (laneOf (g.vreg (rb + i)) x.2.1).toNat))
  coreWriteHome ptr (pushed + ls.length)
  writeVec rd (fun l => (places.find? (fun x => x.2.1 = l)).map (fun x => BitVec.ofNat 64 (pushed + x.1)))

/-- RQPUSH has no effect when every active lane is a helper lane (spec/13 R267). -/
def execRqpush (d : BitVec 7) (port : BitVec 1) (b : BitVec 7) (s : State) : Outcome State Fault Refusal :=
  runWord (do
    noPfx
    let h ← onlyHelpers
    if h then pure () else pushBody d port b
    toNextHeader) s

/-! ### RQPOP (R293) -/

def execRqpop (d : BitVec 7) (port : BitVec 1) (k : BitVec 4) (s : State) : Outcome State Fault Refusal :=
  runWord (do
    noPfx
    let _ ← needVec d
    let q ← boundQueue port.toNat
    let qd ← readQueue q
    check (decide (rqConsumer qd = 0)) (illegal 8)
    let w := rqWords qd
    let rd ← needRange d w
    if rqPushed qd ≤ rqTaken qd ∧ !rqClosed qd then wait
    let c ← curCore
    acquireFor c 5
    let m ← lanes
    let g ← curGrp
    let taken := rqTaken qd
    let ls := (lanesOf (m &&& ~~~ g.helper)).take (rqPushed qd - taken)
    let ag ← curAg
    let ptr ← checkedAccess ag (q + 32) 8 .atomic
    let recs ← collect ((List.range ls.length).zip ls) (fun (x : Nat × Nat) => do
      let tr ← atLane x.2 (checkedAccess ag (rqAddr qd (taken + x.1)) 8 .load)
      let ws ← collect (List.range w) (fun i => atLane x.2 (loadHome ag { tr with pa := tr.pa + 8 * i } 8))
      pure (x.2, ws))
    if ls.length ≠ 0 then coreWriteHome ptr (taken + ls.length)
    each (List.range w) (fun i =>
      writeVec (rd + i) (fun l => (recs.find? (fun x => x.1 = l)).map (fun x => BitVec.ofNat 64 (wordAt x.2 i))))
    let old := g.kreg k.toNat
    let bit := fun l j : Nat => if m.getLsbD l ∧ j = 0 then decide (l ∈ ls) else old.getLsbD (8 * l + j)
    writeMask k.toNat (BitVec.ofNat 256 (bitsOf ((List.range 256).map fun p => bit (p / 8) (p % 8))))
    toNextHeader) s

end Sys2Proof.Machine
end

