-- ==== Sys2Proof/Machine/Streams.lean ====
section
/-!
DEFINITION. Queue registers and stream registers (spec/06 R138 to R145), and QPUSH into the feed FIFOs (spec/11 R236):
QPUSH, QPOP, QPEEK, QSTAT, STRM, and the steps by which a channel prefetches and scatters.
-/

namespace Sys2Proof.Machine

open Host

def allLanes : BitVec 32 := BitVec.allOnes 32

/-! ### STRM (R140) -/

/-- A CH above 3, a COUNT of 0 in MODE 0 and a nonzero INDEX, COUNT or ESZ in MODE 1 are taken for a bad record too (log 31). -/
def streamOk (w : List Nat) : Bool :=
  let mode := fld 39 32 (wordAt w 2)
  let esz := fld 47 40 (wordAt w 2)
  decide (wordAt w 3 = 0) && decide (fld 55 48 (wordAt w 2) < 4) && decide (fld 63 56 (wordAt w 2) < 2)
    && (if mode = 0 then decide (esz < 4 ∧ fld 31 0 (wordAt w 2) ≠ 0)
        else decide (mode = 1 ∧ wordAt w 1 = 0 ∧ fld 47 40 (wordAt w 2) = 0 ∧ fld 31 0 (wordAt w 2) = 0))

def streamOf (w : List Nat) (coord : Bool) (bind : Nat) : Stream :=
  { base := BitVec.ofNat 64 (wordAt w 0), index := BitVec.ofNat 64 (wordAt w 1), count := fld 31 0 (wordAt w 2)
    mode := fld 39 32 (wordAt w 2), esz := 2 ^ fld 47 40 (wordAt w 2), ch := fld 55 48 (wordAt w 2)
    isz := if fld 63 56 (wordAt w 2) = 1 then 8 else 4
    dir := none, pops := 0, pushes := 0, buf := [], part := [], fmt := [], frames := [], coord := coord, ended := false
    bind := bind }

def execStrm (q : BitVec 3) (a : BitVec 7) (s : State) : Outcome State Fault Refusal :=
  runWord (do
    noPfx
    let x ← readUni a
    let w ← readRecord x 4 32
    check (streamOk w) (illegal 4)
    let fibre := decide (fld 39 32 (wordAt w 2) = 1)
    check (!fibre || decide (q.toNat % 2 = 0)) (illegal 3)
    modCurGrp fun g =>
      let st := g.streams.set q.toNat (some (streamOf w false g.binds))
      { g with
        streams := if fibre then st.set (q.toNat + 1) (some (streamOf w true g.binds)) else st
        binds := g.binds + 1 }
    retire) s

/-- The stream bound to a register; an unbound one is an illegal instruction (R139). -/
def boundStream (q : Nat) : M Stream := do
  let g ← curGrp
  match g.streams[q]? with
  | some (some x) => pure x
  | _ => raise (illegal 3)

def Group.modStream (g : Group) (q : Nat) (f : Stream → Stream) : Group :=
  { g with streams := g.streams.modify q (fun o => o.map f) }

/-- Entries of 32 lanes an indexed stream has. -/
def Stream.entries (x : Stream) : Nat := (x.count + 31) / 32

/-! ### QPUSH -/

/-- Scatter pushes of a stream register not yet performed. -/
def State.pendingPushes (s : State) (blk grp q : Nat) : Nat :=
  (s.cmds.filter (fun c => decide (c.kind = .scatter ∧ c.blk = blk ∧ c.grp = grp ∧ c.q = q) && !c.isDone)).length

/-- A scatter push as a command (R142); one past the last index writes nothing. -/
def scatterCmd (x : Stream) (k : Nat) (q : Nat) (vals : List Word) (skip : BitVec 32) (ctx blk grp core : Nat)
    (m : BitVec 32) : Cmd :=
  { kind := .scatter, ctx := ctx, blk := blk, grp := grp, lanes := m, core := core, eng := .chan core x.ch, descAt := 0
    src := x.index, dst := x.base, shape := BitVec.ofNat 64 x.count, aux := 0, scale := 0, fen := false, phase := 0
    esz := x.esz, flag := 0, wpmo := 0, tag := 0, fval := 0, start := 0, q := q, slot := 0, gran := 4096
    status := if x.entries ≤ k then .done else .running
    err := 0, flt := default, raised := false, pos := 0, wp := 0, mirrored := 0
    recd := [(x.isz : Int), (k : Int)], rest := none, vals := vals, skip := skip, srcPg := none, dstPg := none, paused := false
    task := none }

def pushScatter (q : Nat) (a : BitVec 7) : M Unit := do
  let _ ← needVec a
  let x ← boundStream q
  check (decide (x.mode = 0) && decide (x.dir ≠ some false)) (illegal 3)
  checkReg a.toNat allLanes
  let b ← curBlk
  let g ← curGrp
  let c ← curCore
  let m ← lanes
  let s ← get
  if 4 ≤ s.pendingPushes s.cur.blk s.cur.grp q then wait
  let cmd := scatterCmd x x.pushes q (g.vreg a.toNat) g.helper b.ctx s.cur.blk s.cur.grp c m
  modify fun s =>
    let i := s.cmds.length
    let s := { s with cmds := s.cmds ++ [cmd] }
    s.modGrp s.cur.blk s.cur.grp fun g =>
      (g.openCmd m i).modStream q (fun x => { x with dir := some true, pushes := x.pushes + 1, buf := [], part := [] })

/-- Bytes 8t to 8t + 7 of each of 32 rows, as pushes supply them. -/
def rowBytes (ps : List (List Word)) (l : Nat) : List Byte := (ps.map (fun p => natBytes 8 (laneOf p l).toNat)).flatten

/-- The slice a complete set of pushes makes (R236). -/
def PartSlice.slice (p : PartSlice) (q : Nat) : Slice :=
  let rows :=
    if q = 8 then laneIds.map (rowBytes p.pushes)
    else laneIds.map (rowBytes (p.pushes.take p.m)) ++ laneIds.map (rowBytes (p.pushes.drop p.m))
  ⟨p.m, p.window, rows, p.exps, false, p.ctx⟩

/-- Add one push to the partial slice of a FIFO; the last one makes the slice whole. -/
def MatState.addPush (k : MatState) (q ctx fslot m window : Nat) (a b : List Word) : MatState :=
  let old := if q = 8 then k.part8 else k.part9
  let p := old.getD ⟨fslot, m, window, [], [], ctx⟩
  let t := p.pushes.length
  let exps := if t = 0 ∨ t = m then p.exps ++ b.map (fun x => x.toNat % 256) else p.exps
  let p := { p with pushes := p.pushes ++ [a], exps := exps }
  let whole := decide (p.pushes.length = (if q = 8 then m else 2 * m))
  let k := if q = 8 then { k with part8 := if whole then none else some p, ctx := some ctx }
    else { k with part9 := if whole then none else some p, ctx := some ctx }
  if whole then k.push q ctx (p.slice q) else k

/-- A register as a feed takes it: a position with no thread reads as zero (spec/10 R212). -/
def Group.rows (g : Group) (r : Nat) : List Word :=
  laneIds.map (fun l => if g.present.getLsbD l then laneOf (g.vreg r) l else 0)

def pushFeed (q fslot : Nat) (a b : BitVec 7) : M Unit := do
  onShaderCore
  let _ ← needVec a
  let _ ← needVec b
  let c ← curCore
  let g ← curGrid
  let w := slotOf g.lrec fslot
  let m := if q = 8 then slotA w else slotB w
  check (slotClean w && decide (2 ≤ m ∧ m ≤ 8)) (illegal 5)
  let h ← onlyHelpers
  if h then pure ()
  else do
    checkReg a.toNat allLanes
    checkReg b.toNat allLanes
    let s ← get
    let k := (s.coreAt c).mat
    let part := if q = 8 then k.part8 else k.part9
    match part with
    | some p => check (decide (p.fslot = fslot) && decide (p.m = m) && decide (p.window = slotScale w)) (illegal 3)
    | none => pure ()
    if Config.fifoEntries ≤ k.used q then wait
    let blk ← curBlk
    let grp ← curGrp
    modify fun s => s.modCore c fun k =>
      { k with mat := k.mat.addPush q blk.ctx fslot m (slotScale w) (grp.rows a.toNat) (grp.rows b.toNat) }

def execQpush (q : BitVec 4) (f : BitVec 3) (a b : BitVec 7) (s : State) : Outcome State Fault Refusal :=
  runWord (do
    check (if q.toNat < 8 then decide (f = 0) && decide (b = 0) else decide (q.toNat < 10)) (illegal 1)
    noPfx
    if q.toNat < 8 then pushScatter q.toNat a
    else pushFeed q.toNat f.toNat a b
    retire) s

/-! ### QPOP and QPEEK -/

/-- The head of a stream register: the buffered entry, or what a stream past its end reads (R142, R145). A fault met
by the read is raised at the pop that would receive it (R143), and at a QPEEK of it (log 32). -/
def streamHead (q : Nat) : M (List Word) := do
  let x ← boundStream q
  check (decide (x.dir ≠ some true)) (illegal 3)
  match x.buf with
  | .vals l :: _ => pure l
  | .flt f :: _ => raise { f with unit := 1, index := x.ch }
  | [] =>
    if x.mode = 0 then
      if x.entries ≤ x.pops then pure (List.replicate 32 0) else wait
    else if x.ended then pure (List.replicate 32 (if x.coord then BitVec.allOnes 64 else 0))
    else wait

/-- Read, and for a pop remove, the head of a queue register into A. -/
def popBody (q : BitVec 4) (a : BitVec 7) (take : Bool) : M Unit := do
  check (decide (q.toNat < 8) || isCq q.toNat) (illegal 1)
  noPfx
  if q.toNat < 8 then do
    let r ← needVec a
    let l ← streamHead q.toNat
    writeVec r (fun i => some (laneOf l i))
    if take then
      modCurGrp fun g => g.modStream q.toNat fun x =>
        { x with dir := some false, pops := x.pops + 1, buf := x.buf.tail }
  else do
    let n ← needUni a
    let g ← curGrp
    match g.cqs[q.toNat - 12]? with
    | some (w :: _) => do
      writeUni n w
      if take then modCurGrp fun g => { g with cqs := g.cqs.modify (q.toNat - 12) List.tail }
    | _ => wait
  retire

def execQpop (q : BitVec 4) (a : BitVec 7) (s : State) : Outcome State Fault Refusal := runWord (popBody q a true) s

def execQpeek (q : BitVec 4) (a : BitVec 7) (s : State) : Outcome State Fault Refusal := runWord (popBody q a false) s

/-! ### QSTAT -/

/-- Held, free and the upper half of QSTAT's answer. -/
def statWord (held free upper : Nat) : Word := BitVec.ofNat 64 (held + 2 ^ 16 * free + 2 ^ 32 * (upper % 2 ^ 32))

/-- Entries held: one that met a fault has not been fetched. -/
def Stream.held (x : Stream) : Nat :=
  (x.buf.filter (fun e => match e with
    | .vals _ => true
    | .flt _ => false)).length

/-- Fill state of a stream register. -/
def streamStat (s : State) (q : Nat) (x : Stream) : Word :=
  if x.mode = 1 then
    statWord x.held (4 - x.held) (if x.ended then x.held else 0xFFFFFFFF)
  else if x.dir = some true then
    let n := s.pendingPushes s.cur.blk s.cur.grp q
    statWord n (4 - n) (x.entries - x.pushes)
  else statWord x.held (4 - x.held) (x.entries - x.pops)

/-- Fill state of a record queue, read at its home. -/
def portStat (port : Nat) : M Word := do
  let g ← curGrid
  let b ← curBlk
  let q := if port = 0 then g.lrec.rq0 else g.lrec.rq1
  if q = 0 then pure 0
  else do
    let d ← readQueue q
    let s ← get
    let n := rqPushed d - rqTaken d
    pure (statWord (min n 0xFFFF) (min (rqCap d - (rqPushed d - s.freedMark b.ctx q (rqTaken d))) 0xFFFF) n)

def execQstat (q : BitVec 4) (a : BitVec 7) (s : State) : Outcome State Fault Refusal :=
  runWord (do
    noPfx
    let n ← needUni a
    let s ← get
    let v ← if q.toNat < 8 then do
        let x ← boundStream q.toNat
        pure (streamStat s q.toNat x)
      else if q.toNat < 10 then do
        let c ← curCore
        let u := (s.coreAt c).mat.used q.toNat
        pure (statWord u (Config.fifoEntries - u) 0)
      else if q.toNat < 12 then portStat (q.toNat - 10)
      else do
        let g ← curGrp
        let u := ((g.cqs[q.toNat - 12]?).getD []).length
        pure (statWord u (16 - u) 0)
    writeUni n v
    retire) s

/-! ### STREAM_GATHER_PREFETCH -/

/-- Bytes of any alignment read at home by an engine. -/
def readAny (ag : Ag) (va : Word) (n : Nat) : M Nat :=
  if staysIn va n 128 then loadVa ag va n .engRead else readBytesVa ag va n .engRead

/-- One lane of a gather entry (R141, R142). -/
def gatherLane (ag : Ag) (x : Stream) : M Word := do
  let i := 32 * (x.pops + x.buf.length) + x.part.length
  let k ← readAny ag (addI x.index (i * x.isz)) x.isz
  let v ← readAny ag (addI x.base (k * x.esz)) x.esz
  pure (BitVec.ofNat 64 v)

/-- Add a lane to the entry being fetched; an entry is whole at 32 lanes. -/
def Stream.addLane (x : Stream) (v : Word) : Stream :=
  let p := x.part ++ [v]
  if p.length = 32 then { x with part := [], buf := x.buf ++ [.vals p] } else { x with part := p }

/-- The entry being fetched, closed with a filler in its last lanes. -/
def Stream.flush (x : Stream) (fill : Word) : Stream :=
  if x.part = [] then x
  else { x with part := [], buf := x.buf ++ [.vals (x.part ++ List.replicate (32 - x.part.length) fill)] }

/-- One lane of a gather, and the end of the array. -/
def gatherStep (ag : Ag) (x : Stream) : M Stream := do
  let v ← gatherLane ag x
  let i := 32 * (x.pops + x.buf.length) + x.part.length
  let y := x.addLane v
  pure (if i + 1 = x.count then y.flush 0 else y)

/-! #### Fibre walks (R144, R145) -/

def streamFlt : Flt := illegal 9

def levelKind (f : List Nat) (j : Nat) : Nat := fld 7 0 (wordAt f (4 + 3 * j))
def levelExtent (f : List Nat) (j : Nat) : Nat := fld 63 32 (wordAt f (4 + 3 * j))
def levelP0 (f : List Nat) (j : Nat) : Word := BitVec.ofNat 64 (wordAt f (5 + 3 * j))
def levelP1 (f : List Nat) (j : Nat) : Word := BitVec.ofNat 64 (wordAt f (6 + 3 * j))
def fmtLevels (f : List Nat) : Nat := fld 7 0 (wordAt f 0)
def fmtVesz (f : List Nat) : Nat := 2 ^ fld 15 8 (wordAt f 0)

/-- A level entry within R144. -/
def levelOk (f : List Nat) (j : Nat) : Bool :=
  let k := levelKind f j
  decide (fld 31 8 (wordAt f (4 + 3 * j)) = 0) && decide (k < 5) && decide (1 ≤ levelExtent f j ∧ levelExtent f j ≤ 65536)
    && (!(k = 0 || k = 3) || decide (levelP0 f j = 0)) && (k ≠ 0 || decide (levelP1 f j = 0))

/-- A format record within R144. R145 names reserved fields alone; a LEVELS outside 1 to 4, a VESZ above 3, a KIND above 4 and an EXTENT
outside 1 to 65,536 stop the walk in the model as they do, cause stream format (DESIGN CHOICE, log 122). -/
def fmtOk (f : List Nat) : Bool :=
  decide (1 ≤ fmtLevels f ∧ fmtLevels f ≤ 4) && decide (fld 15 8 (wordAt f 0) < 4) && decide (fld 63 16 (wordAt f 0) = 0)
    && decide (wordAt f 2 = 0 ∧ wordAt f 3 = 0)
    && (List.range 4).all fun j =>
      if j < fmtLevels f then levelOk f j
      else decide (wordAt f (4 + 3 * j) = 0 ∧ wordAt f (5 + 3 * j) = 0 ∧ wordAt f (6 + 3 * j) = 0)

/-- Begin the children of a parent position on a level; a bitmap is read to the end of its last dword, where a set bit is a
coordinate past EXTENT (R145). -/
def enterLevel (ag : Ag) (f : List Nat) (j p : Nat) : M WalkFrame := do
  let e := levelExtent f j
  let pos := fun i : Nat => readAny ag (addI (levelP0 f j) (4 * i)) 4
  match levelKind f j with
  | 0 => pure { p := p, cur := 0, hi := e, base := 0, word := 0, start := 0, len := 0, off := 0, coord := 0 }
  | 2 => do
    let b ← pos p
    pure { p := p, cur := 0, hi := (e + 63) / 64 * 64, base := b, word := 0, start := 0, len := 0, off := 0, coord := 0 }
  | 3 => pure { p := p, cur := 0, hi := 1, base := 0, word := 0, start := 0, len := 0, off := 0, coord := 0 }
  | _ => do
    let a ← pos p
    let b ← pos (p + 1)
    check (decide (a ≤ b)) streamFlt
    pure { p := p, cur := a, hi := b, base := 0, word := 0, start := 0, len := 0, off := 0, coord := 0 }

/-- The next child of a level: the frame after it, and the child's position and coordinate if there is one at this
place. A frame whose children are spent answers none. -/
def nextChild (ag : Ag) (f : List Nat) (j : Nat) (w : WalkFrame) : M (Option (WalkFrame × Option (Nat × Nat))) := do
  let e := levelExtent f j
  let crd := fun i : Nat => readAny ag (addI (levelP1 f j) (4 * i)) 4
  if w.hi ≤ w.cur ∧ w.len ≤ w.off then pure none
  else match levelKind f j with
    | 0 => pure (some ({ w with cur := w.cur + 1 }, some (w.p * e + w.cur, w.cur)))
    | 2 => do
      let word ← if w.cur % 64 = 0 then readAny ag (addI (levelP1 f j) (8 * (w.p * ((e + 63) / 64) + w.cur / 64))) 8
        else pure w.word
      if word.testBit (w.cur % 64) then
        pure (some ({ w with cur := w.cur + 1, word := word, base := w.base + 1 }, some (w.base, w.cur)))
      else pure (some ({ w with cur := w.cur + 1, word := word }, none))
    | 4 =>
      if w.off < w.len then
        pure (some ({ w with off := w.off + 1 }, some (w.cur - 1, w.start + w.off)))
      else do
        let st ← readAny ag (addI (levelP1 f j) (8 * w.cur)) 4
        let ln ← readAny ag (addI (levelP1 f j) (8 * w.cur + 4)) 4
        pure (some ({ w with cur := w.cur + 1, start := st, len := ln, off := 0 }, none))
    | k => do
      let i := if k = 3 then w.p else w.cur
      let c ← crd i
      pure (some ({ w with cur := w.cur + 1 }, some (i, c)))

/-- The coordinate word: level j in bits 16j + 15 to 16j. -/
def coordWord (fs : List WalkFrame) : Word := BitVec.ofNat 64 (packNat 16 (fs.map (·.coord)))

/-- One move of the walk: read the format record, go down a level, yield a leaf-level child, or come up. A record that is not 8-byte
aligned is a misalignment fault of the first pop (DESIGN CHOICE, log 121: R144 states no consequence). -/
def fibreStep (ag : Ag) (x : Stream) : M Stream := do
  let fill : Word := if x.coord then BitVec.allOnes 64 else 0
  if x.fmt = [] then do
    check (x.base.toNat % 8 = 0) (accFlt 6 0 .engRead x.base 0)
    let f ← readWordsVa ag x.base 16 .engRead
    check (fmtOk f) streamFlt
    let w ← enterLevel ag f 0 0
    pure { x with fmt := f, frames := [w] }
  else
    match x.frames.getLast? with
    | none => pure ({ x with ended := true }.flush fill)
    | some w => do
      let j := x.frames.length - 1
      let r ← nextChild ag x.fmt j w
      match r with
      | none =>
        let up := x.frames.dropLast
        pure (if up = [] then { x with frames := [], ended := true }.flush fill else { x with frames := up })
      | some (w', none) => pure { x with frames := x.frames.dropLast ++ [w'] }
      | some (w', some (pos, c)) => do
        check (decide (c < levelExtent x.fmt j)) streamFlt
        let fs := x.frames.dropLast ++ [{ w' with coord := c }]
        if j + 1 = fmtLevels x.fmt then do
          let v ← if x.coord then pure (coordWord fs)
            else do
              let n ← readAny ag (addI (BitVec.ofNat 64 (wordAt x.fmt 1)) (pos * fmtVesz x.fmt)) (fmtVesz x.fmt)
              pure (BitVec.ofNat 64 n)
          pure ({ x with frames := fs }.addLane v)
        else do
          let d ← enterLevel ag x.fmt (j + 1) pos
          pure { x with frames := fs ++ [d] }

/-- The stream may be read ahead: it gathers, it holds fewer than four entries, no fault stands last, and something is
left to read. -/
def Stream.wants (x : Stream) : Bool :=
  decide (x.dir ≠ some true) && decide (x.buf.length < 4)
    && (match x.buf.getLast? with
      | some (.flt _) => false
      | _ => true)
    && (if x.mode = 0 then decide (32 * (x.pops + x.buf.length) + x.part.length < x.count) else !x.ended)

/-- The channel reads the next lane of a stream, or takes the next move of a fibre walk. -/
def execStreamGatherPrefetch (blk grp q : Nat) (s : State) : Outcome State Fault Refusal :=
  runEvent (do
    let s ← get
    let b ← needSome (s.blkAt blk)
    let g ← needSome (s.grpAt blk grp)
    let core ← needSome b.core
    let x ← match g.streams[q]? with
      | some (some x) => pure x
      | _ => throw .hold
    need (x.wants && !s.shootPending b.ctx && !s.preempting b.ctx)
    let ag := engAg (dieOf core) b.ctx
    let r ← catchFlt (if x.mode = 0 then gatherStep ag x else fibreStep ag x)
    let y := match r with
      | .ok y => y
      | .error f => { x with buf := x.buf ++ [.flt f], part := [] }
    modify fun s => s.modGrp blk grp (fun g => g.modStream q (fun _ => y))) s

/-! ### STREAM_SCATTER_WRITE -/

/-- The next lane of a push: nothing for a helper lane or past the last index; the push ends after its last lane. -/
def scatterStep (i : Nat) : M Unit := do
  let c ← cmdAt i
  let e := 32 * (c.recI 1).toNat + c.pos
  let isz := (c.recI 0).toNat
  if c.shape.toNat ≤ e ∨ 32 ≤ c.pos then modify fun s => s.endCmd i
  else do
    if !c.skip.getLsbD c.pos then do
      let k ← cmdReadAny i (addI c.src (e * isz)) isz
      cmdWriteAny i (addI c.dst (k * c.esz)) c.esz ((laneOf c.vals c.pos).toNat % 256 ^ c.esz)
    modify fun s => s.modCmd i (fun c => { c with pos := c.pos + 1 })
    if c.pos = 31 ∨ c.shape.toNat = e + 1 then modify fun s => s.endCmd i

/-- The channel writes the next element of the oldest pending push, in ascending index order. -/
def execStreamScatterWrite (blk grp q : Nat) (s : State) : Outcome State Fault Refusal :=
  runEvent (do
    let s ← get
    let i ← needSome (s.cmds.findIdx? fun c =>
      decide (c.kind = .scatter ∧ c.blk = blk ∧ c.grp = grp ∧ c.q = q) && !c.isDone)
    let c ← cmdAt i
    need (!c.paused && !s.preempting c.ctx && !s.blkSaved c.blk)
    engineDo i (scatterStep i)) s

end Sys2Proof.Machine
end

