-- ==== Sys2Proof/Machine/Waiting.lean ====
section
/-!
DEFINITION. WAITCMP (spec/04 R96 to R99), FENCE (R100, R101) and WAITT (spec/14 R295), with their polls, deadlines and
wakes.
-/

namespace Sys2Proof.Machine

open Host

/-! ### WAITCMP -/

/-- The monitor entries of the issuing path. -/
def State.ownMonitor (s : State) (m : Monitor) : Bool :=
  decide (m.blk = s.cur.blk ∧ m.grp = s.cur.grp ∧ m.lanes = s.curLanes)

/-- A monitor entry is free at the slice of a line (spec/03 R69). -/
def State.monitorFree (s : State) (line : Nat) : Bool :=
  decide ((s.monitors.filter fun m =>
    decide (s.lineDie (m.pa / 128) = s.lineDie line ∧ sliceOf (m.pa / 128 * 128) = sliceOf (128 * line))).length
    < Config.monitorEntries)

/-- The core and its die keep no copy of a word's line, under the address it has or the one it was migrated from, so that no
later load returns what is older than the value the wait read at home (spec/12 R252). -/
def dropCopies (pa : Nat) : M Unit := do
  let c ← curCore
  modify fun s => [pa / 128, s.origin (pa / 128)].foldl
    (fun (s : State) l => (s.modCore c (fun k => k.dropL1 l)).modDie (dieOf c) (fun d => d.dropReplica l)) s

/-- The wait is over with a value: it is written, the acquire is made, and the entry is freed. -/
def finishCmp (n : Nat) (p : Pfx) (target : Option Nat) (pa : Nat) (x : Word) : M Unit := do
  dropCopies pa
  modify fun s => { s with monitors := s.monitors.filter (fun m => !s.ownMonitor m) }
  writeUni n x
  if p.ord = 1 then acquireCur p.scope target
  retire

/-- Read the word at home; return, or register an entry, or poll (R97). -/
def checkCmp (n : Nat) (p : Pfx) (target : Option Nat) (va : Word) (cond : BitVec 3) (cmp mask : Word)
    (deadline : Option Nat) : M Unit := do
  let ag ← curAg
  let tr ← checkedAccess ag va 8 .load
  match target with
  | some t => promote t
  | none => pure ()
  let x ← loadHome ag tr 8
  let x := BitVec.ofNat 64 x
  let s ← get
  if cmpHolds cond cmp mask x || (match deadline with
      | some t => decide (t ≤ s.time.toNat)
      | none => false) then finishCmp n p target tr.pa x
  else do
    let line := s.resolve (tr.pa / 128)
    let pa := 128 * line + tr.pa % 128
    let cl := s.effCl tr.pa tr.pte
    let polling := decide (cl = 3) || !s.monitorFree line
    let w : CmpWait := ⟨deadline, x, pa, cl, cond, cmp, mask, polling, none, s.time⟩
    let m : Monitor := ⟨pa, cond, cmp, mask, s.cur.blk, s.cur.grp, s.curLanes⟩
    if polling then bumpCur 11 1
    else do
      bumpCur 10 1
      modify fun s => { s with monitors := s.monitors ++ [m] }
    park (.cmp w)

/-- The deadline of a timeout (R97). The sum does not wrap: a timeout that reaches past the end of the timebase never passes (DESIGN
CHOICE, log 38: R97 does not say). -/
def State.deadlineOf (s : State) (timeout : Word) : Option Nat :=
  if timeout = BitVec.allOnes 64 then none else some (s.time.toNat + timeout.toNat)

/-- WAITCMP. One that issues again reads its operands afresh, the address and the release and acquire of its prefix word among them, but
goes on with the condition, the comparand, the mask and the deadline with which it registered (DESIGN CHOICE, log 130: R30 has the word
issue from its start, R69 and R98 save its registration). -/
def waitcmpBody (d a b : BitVec 7) (cond : BitVec 3) : M Unit := do
  let p ← getPfx { op4 := true, mem := true }
  let n ← needUni d
  let timeout ← readUni d
  let va ← readUni a
  let (cmp, mask) ← readUniPair b
  let target ← memOrder p .load [0, 1] true false
  let path ← curPath
  let s ← get
  match path.wait with
  | some (.cmp w) =>
    match w.got with
    | some x => finishCmp n p target w.pa x
    | none =>
      if w.polling || s.monitors.any (fun m => s.ownMonitor m) then wait
      else checkCmp n p target va w.cond w.cmp w.mask w.deadline
  | _ => checkCmp n p target va cond cmp mask (s.deadlineOf timeout)

def execWaitcmp (d a b : BitVec 7) (c : BitVec 3) (s : State) : Outcome State Fault Refusal :=
  runWord (waitcmpBody d a b c) s

/-- The parked WAITCMP of the path in progress, not yet met. -/
def parkedCmp : M CmpWait := do
  let p ← curPath
  match p.wait with
  | some (.cmp w) => do
    need w.got.isNone
    pure w
  | _ => throw .hold

/-- A wait without a monitor entry re-reads its word every 2 µs (R97). -/
def execWaitcmpPoll (blk grp path : Nat) (s : State) : Outcome State Fault Refusal :=
  runPathEvent blk grp path (do
    let w ← parkedCmp
    let s ← get
    need (w.polling && decide (w.since.toNat + 2000 ≤ s.time.toNat))
    let ag ← curAg
    let x ← loadHome ag ⟨w.pa, w.cl * 256, 0, 0, 0⟩ 8
    modifyGet fun s => ((), s.modPath s.cur.blk s.cur.grp s.cur.path fun p =>
      { p with wait := some (.cmp { w.see (BitVec.ofNat 64 x) with since := s.time }) })) s

/-- At its deadline a WAITCMP returns the last value read for the wait (R97). One that was pre-empted first reads at home again
(R98): until then it neither polls nor holds an entry. -/
def execWaitcmpDeadline (blk grp path : Nat) (s : State) : Outcome State Fault Refusal :=
  runPathEvent blk grp path (do
    let w ← parkedCmp
    let s ← get
    match w.deadline with
    | none => hold
    | some t => do
      need (decide (t ≤ s.time.toNat) && (w.polling || s.monitors.any (fun m => s.ownMonitor m)))
      match decodeWord s.cur.word.toNat with
      | .ok (.waitcmp d _ _ _) => do
        let p ← getPfx { op4 := true, mem := true }
        let n ← needUni d
        let target ← memOrder p .load [0, 1] true false
        finishCmp n p target w.pa w.last
      | _ => hold) s

/-- A path parked in a WAITCMP not yet met, a WAITT or a QUIESCE (R98, spec/14 R295, spec/13 R278). -/
def Path.parked (p : Path) : Bool :=
  match p.wait with
  | some (.cmp w) => w.got.isNone
  | some (.time _) => true
  | some (.quiesce _) => true
  | _ => false

/-- A group of the block has been parked for 4 µs (R98). -/
def Block.parkedLong (b : Block) (now : Word) : Bool :=
  b.groups.any fun g => g.paths.any fun p => p.parked && decide (p.since.toNat + 4000 ≤ now.toNat)

/-- A block with a group parked for 4 µs may be swapped off its core (R98). -/
def execParkSwapTimeout (blk : Nat) (s : State) : Outcome State Fault Refusal :=
  runEvent (do
    let s ← get
    let b ← needSome (s.blkAt blk)
    need (b.core.isSome && !b.ended && !b.swapOk)
    need (b.parkedLong s.time)
    modify fun s => s.modBlk blk (fun b => { b with swapOk := true })) s

/-! ### FENCE (R100, R101) -/

/-- The engine commands the issuing threads have issued are complete, and raise what they owe (spec/06 R134, spec/11
R242). -/
def awaitEngines : M Unit := do
  let cs ← curCmds
  let ms ← curMats
  if !(cs.all (·.isDone) && ms.all (·.isDone)) then hold
  let ds ← dueCmds
  raiseCopy ds
  let gs ← grpMats
  raiseMat gs

def execFence (k : BitVec 1) (s : State) : Outcome State Fault Refusal :=
  runWord (do
    let p ← getPfx { op4 := true, mem := true }
    let target ← memOrder p .load [1, 2, 3] true false
    if k = 1 ∧ 2 ≤ p.ord then awaitEngines
    orderCur p target
    retire) s

/-! ### WAITT (spec/14 R295) -/

def execWaitt (d a : BitVec 7) (s : State) : Outcome State Fault Refusal :=
  runWord (do
    noPfx
    let n ← needUni d
    let t ← readUni a
    let p ← curPath
    let s ← get
    let t := match p.wait with
      | some (.time t) => t
      | _ => t.toNat
    if t ≤ s.time.toNat then do
      writeUni n s.time
      retire
    else park (.time t)) s

/-- The lanes of a WAITT wake when the timebase has reached their deadline. -/
def execWaittWake (blk grp path : Nat) (s : State) : Outcome State Fault Refusal :=
  runPathEvent blk grp path (do
    let p ← curPath
    let s ← get
    match p.wait with
    | some (.time t) => do
      need (decide (t ≤ s.time.toNat))
      match decodeWord s.cur.word.toNat with
      | .ok (.waitt d _) => do
        let n ← needUni d
        writeUni n s.time
        retire
      | _ => hold
    | _ => hold) s

end Sys2Proof.Machine
end

