-- ==== Sys2Proof/Machine/Tree.lean ====
section
/-!
DEFINITION. The voxel tree and its walker (spec/07 R147 to R167): coordinates, the tree record, lookups with the leaf
cache, VLK, VLD1, VLD7, VLD27, VST1, VACT and VMARCH.
-/

namespace Sys2Proof.Machine

open Host

/-! ### Coordinates (R147) -/

def coordX (c : Nat) : Int := toInt 21 (fld 20 0 c)
def coordY (c : Nat) : Int := toInt 21 (fld 41 21 c)
def coordZ (c : Nat) : Int := toInt 21 (fld 62 42 c)

def isNull (c : Nat) : Bool := fld 63 63 c = 1

/-- A coordinate packed. -/
def packCoord (x y z : Int) : Nat := ofInt 21 x + 2 ^ 21 * ofInt 21 y + 2 ^ 42 * ofInt 21 z

/-- Within a 21-bit field. -/
def fits21 (x : Int) : Bool := decide (-1048576 ≤ x ∧ x ≤ 1048575)

/-- The neighbour at an offset; none when it falls outside a field (R156). -/
def neighbour (c : Nat) (dx dy dz : Int) : Option Nat :=
  let x := coordX c + dx
  let y := coordY c + dy
  let z := coordZ c + dz
  if fits21 x && fits21 y && fits21 z then some (packCoord x y z) else none

/-- A coordinate with the low `k` bits of each field cleared. -/
def originOf (k : Nat) (c : Nat) : Nat :=
  let clr := fun f : Nat => f - f % 2 ^ k
  clr (fld 20 0 c) + 2 ^ 21 * clr (fld 41 21 c) + 2 ^ 42 * clr (fld 62 42 c)

def leafOrigin (c : Nat) : Nat := originOf 3 c
def lowerOrigin (c : Nat) : Nat := originOf 7 c
def upperOrigin (c : Nat) : Nat := originOf 11 c

def voxelNo (c : Nat) : Nat := fld 2 0 c + 8 * fld 23 21 c + 64 * fld 44 42 c

def morton4 (a b e : Nat) : Nat :=
  (List.range 4).foldl (fun s k =>
    s + fld k k a * 2 ^ (3 * k) + fld k k b * 2 ^ (3 * k + 1) + fld k k e * 2 ^ (3 * k + 2)) 0

def leafNo (c : Nat) : Nat := morton4 (fld 6 3 c) (fld 27 24 c) (fld 48 45 c)
def lowerNo (c : Nat) : Nat := morton4 (fld 10 7 c) (fld 31 28 c) (fld 52 49 c)
def rootSlot (c : Nat) : Nat := morton4 (fld 14 11 c) (fld 35 32 c) (fld 56 53 c)

def noIndex : Nat := 0xFFFFFFFF

/-! ### The tree record (R148, R149, R154) -/

def treeFlt : Flt := illegal 6

/-- A tree record as 32 dwords. -/
def treeRoot (t : List Nat) : Word := BitVec.ofNat 64 (wordAt t 0)
def treeVtype (t : List Nat) : Nat := fld 7 0 (wordAt t 6)
def treePaxis (t : List Nat) : Nat := fld 15 8 (wordAt t 6)
def treeCut (t : List Nat) (k : Nat) : Int :=
  toInt 32 (if k % 2 = 0 then fld 31 0 (wordAt t (8 + k / 2)) else fld 63 32 (wordAt t (8 + k / 2)))
def leafBase (t : List Nat) (p : Nat) : Word := BitVec.ofNat 64 (wordAt t (10 + 4 * p))
def leafCap (t : List Nat) (p : Nat) : Nat := fld 31 0 (wordAt t (11 + 4 * p))

/-- Bytes of a value. -/
def valBytes (t : List Nat) : Nat :=
  match treeVtype t with
  | 0 => 4
  | 1 => 2
  | 2 => 2
  | _ => 8

/-- The background value; the upper bytes of its dword are zero. -/
def treeBg (t : List Nat) : Nat := wordAt t 7 % 256 ^ valBytes t

/-- What R154 asks of a tree record. BG lies in the low bytes of its dword; the model takes the upper ones as a reserved field, which
must be zero (DESIGN CHOICE, log 118: R154 does not name them). -/
def treeOk (t : List Nat) : Bool :=
  decide (treeVtype t < 4) && decide (wordAt t 7 < 256 ^ valBytes t) && decide (treePaxis t < 4) && decide (fld 63 16 (wordAt t 6) = 0)
    && decide (treeCut t 0 ≤ treeCut t 1 ∧ treeCut t 1 ≤ treeCut t 2) && decide (fld 63 32 (wordAt t 9) = 0)
    && [0, 1, 2, 10, 14, 18, 22].all (fun i => decide (wordAt t i % 128 = 0))
    && (List.range 4).all (fun p => decide (fld 63 32 (wordAt t (12 + 4 * p)) = 0 ∧ wordAt t (13 + 4 * p) = 0))
    && (List.range 6).all (fun i => decide (wordAt t (26 + i) = 0))

/-- A walker's read: a POL 1 load at the die's L2 (R156). -/
def walkerRead (va : Word) (n : Nat) : M Nat := do
  let ag ← curAg
  let c ← curCore
  let tr ← translate ag va .walkRead
  loadCore c ag.ctx tr n 1

/-- Read and check the tree record named by A. -/
def readTree (a : Word) : M (List Nat) := do
  check (a.toNat % 256 = 0) (accFlt 6 0 .walkRead a 0)
  let t ← collect (List.range 32) (fun i => walkerRead (addI a (8 * i : Nat)) 8)
  check (treeOk t) treeFlt
  pure t

/-- Addresses of nodes and leaves (R149): an index past its pool is malformed. -/
def nodeAddr (t : List Nat) (lower : Bool) (i : Nat) : M Word := do
  let cap := if lower then fld 63 32 (wordAt t 3) else fld 31 0 (wordAt t 3)
  check (decide (i < cap)) treeFlt
  pure (addI (BitVec.ofNat 64 (wordAt t (if lower then 2 else 1))) (17024 * i : Nat))

def leafStride (t : List Nat) : Nat := 128 + 512 * valBytes t

/-- Where the leaf of an index lies. -/
def leafPlace (t : List Nat) (h : Nat) : Word := addI (leafBase t (fld 31 30 h)) (leafStride t * fld 29 0 h : Nat)

def leafAddr (t : List Nat) (h : Nat) : M Word := do
  check (decide (fld 29 0 h < leafCap t (fld 31 30 h))) treeFlt
  pure (leafPlace t h)

/-! ### Lookups (R151, R154, R156, R157) -/

/-- Probe the root table for a key: the child of the entry that holds it, or none at the first empty entry. -/
def rootFind (t : List Nat) (key slot fuel : Nat) : M (Option Nat) :=
  match fuel with
  | 0 => pure none
  | k + 1 => do
    let e := addI (treeRoot t) (16 * (slot % 4096) : Nat)
    let got ← walkerRead e 8
    if got = key then do
      let c ← walkerRead (e + 8) 4
      pure (if c = noIndex then none else some c)
    else if got = 2 ^ 64 - 1 then pure none
    else rootFind t key (slot + 1) k

/-- Child `i` of a node, when it is present. -/
def childOf (node : Word) (i : Nat) : M (Option Nat) := do
  let m ← walkerRead (addI node (128 + 8 * (i / 64) : Nat)) 8
  if m.testBit (i % 64) then do
    let c ← walkerRead (addI node (640 + 4 * i : Nat)) 4
    pure (if c = noIndex then none else some c)
  else pure none

/-- What a lookup finds: the leaf, or the first absent level, as the bits of the box that is empty. -/
inductive Found where
  | leaf (a : Word)
  | absent (bits : Nat)
  deriving DecidableEq, Repr, Inhabited

def LeafEntry.isKey (e : LeafEntry) (ctx : Nat) (tree org : Word) : Bool :=
  decide (e.ctx = ctx ∧ e.tree = tree ∧ e.org = org)

/-- Keep an entry as the most recently used of at most 512. -/
def Core.cacheLeaf (c : Core) (e : LeafEntry) : Core :=
  let l := c.leaf.filter (fun x => !x.isKey e.ctx e.tree e.org) ++ [e]
  { c with leaf := l.drop (l.length - Config.leafEntries) }

/-- A launch fills the cache with an entry; one that several launches have filled is none's, so the next block to start empties
it. -/
def Core.fillLeaf (c : Core) (grid : Nat) (e : LeafEntry) : Core :=
  { c.cacheLeaf e with leafGrid := if c.leaf.isEmpty ∨ c.leafGrid = some grid then some grid else none }

/-- Walk from the root (R156). -/
def walkTree (t : List Nat) (c : Nat) : M Found := do
  let u ← rootFind t (upperOrigin c) (rootSlot c) 4096
  match u with
  | none => pure (.absent 11)
  | some u => do
    let ua ← nodeAddr t false u
    let l ← childOf ua (lowerNo c)
    match l with
    | none => pure (.absent 7)
    | some l => do
      let la ← nodeAddr t true l
      let h ← childOf la (leafNo c)
      match h with
      | none => pure (.absent 3)
      | some h => do
        let a ← leafAddr t h
        pure (.leaf a)

/-- Look a coordinate up, through the core's leaf cache. -/
def lookup (tree : Word) (t : List Nat) (c : Nat) : M Found := do
  let core ← curCore
  let b ← curBlk
  let s ← get
  let org := BitVec.ofNat 64 (leafOrigin c)
  match (s.coreAt core).leaf.find? (fun e => e.isKey b.ctx tree org) with
  | some e => do
    modify fun s => s.modCore core (fun k => k.cacheLeaf e)
    pure (.leaf e.addr)
  | none => do
    let f ← walkTree t c
    match f with
    | .leaf a => modify fun s => s.modCore core (fun k => k.fillLeaf b.grid ⟨b.ctx, tree, org, a⟩)
    | _ => pure ()
    pure f

/-- The leaf of an optional coordinate: NULL and out-of-range ones are absent (R156, R159). -/
def findLeafAt (tree : Word) (t : List Nat) (c : Option Nat) : M (Option Word) :=
  match c with
  | none => pure none
  | some c =>
    if isNull c then pure none
    else do
      let f ← lookup tree t c
      match f with
      | .leaf a => pure (some a)
      | _ => pure none

/-! ### Shared behaviour (R159) -/

/-- Faults of the walker carry its unit (spec/19 R308). -/
def walkerUnit {α : Type} (m : M α) : M α := onFlt (fun f => { f with unit := 5 }) m

/-- Write k15 for the enabled lanes: eight bits each; other active lanes keep or zero theirs. -/
def writeK15 (zm : Bool) (bits : List (Nat × Nat)) : M Unit := do
  let m ← lanes
  let g ← curGrp
  let old := g.kreg 15
  let byte := fun l : Nat =>
    if !m.getLsbD l then fld (8 * l + 7) (8 * l) old.toNat
    else match bits.find? (fun x => x.1 = l) with
      | some x => x.2 % 256
      | none => if zm then 0 else fld (8 * l + 7) (8 * l) old.toNat
  writeMask 15 (BitVec.ofNat 256 (packNat 8 (laneIds.map byte)))

/-- What the prefix of a walker instruction that reads says, of one that writes, and of VINS (spec/02 R32). -/
def walkReads : PfxUse := { mask := true, zm := true }
def walkWrites : PfxUse := { mask := true }

/-- What walker instructions read first: prefix, tree record, coordinates, and the enabled lanes. The record is read and checked, and
may fault, also where no enabled lane needs a lookup (DESIGN CHOICE, log 117: R159 does not say). -/
def walkerStart (u : PfxUse) (a b : BitVec 7) : M (Pfx × Word × List Nat × List Word × List Nat) := do
  let p ← getPfx u
  let tree ← readUni a
  let cs ← readOp b
  let k ← readMask p.mask
  let m ← lanes
  let t ← walkerUnit (readTree tree)
  pure (p, tree, t, cs, lanesOf (enabledLanes m k))

/-- Value of voxel `n` of a leaf. -/
def valueAddr (t : List Nat) (leaf : Word) (n : Nat) : Word := addI leaf (128 + n * valBytes t : Nat)

/-- A place read: a translated value, or none for the background. -/
def placeOf (tree : Word) (t : List Nat) (c : Option Nat) (acc : Acc) : M (Option Tr) := do
  let f ← findLeafAt tree t c
  match f with
  | none => pure none
  | some a => do
    let ag ← curAg
    let tr ← checkedAccess ag (valueAddr t a (voxelNo (c.getD 0))) (valBytes t) acc
    pure (some tr)

/-- A voxel's value: a POL 0 load, or the background (R158). -/
def voxelValue (t : List Nat) (p : Option Tr) : M Nat :=
  match p with
  | none => pure (treeBg t)
  | some tr => do
    let c ← curCore
    let b ← curBlk
    loadCore c b.ctx tr (valBytes t) 0

/-- A value delivered as FP32 (R163). -/
def asFp32 (t : List Nat) (v : Nat) : Nat :=
  match treeVtype t with
  | 0 => v
  | 1 => (fp32.convert 0 (fp16.read v)).1
  | 2 => (fp32.convert 0 (bf16.read v)).1
  | _ => (fp32.convert 0 (fp64.read v)).1

/-- The tree's type as TY 4 to 7. -/
def treeTy (t : List Nat) : Nat :=
  match treeVtype t with
  | 0 => 6
  | 1 => 4
  | 2 => 5
  | _ => 7

/-! ### VLK and VLD1 (R161, R162) -/

def execVlk (d a b : BitVec 7) (s : State) : Outcome State Fault Refusal :=
  runWord (do
    let rd ← needVec d
    let (p, tree, t, cs, ls) ← walkerStart walkReads a b
    let got ← walkerUnit (collect ls (fun l => atLane l (do
      let f ← findLeafAt tree t (some (laneOf cs l).toNat)
      pure (l, f))))
    writeLoaded rd p.zm (got.map (fun x => (x.1, x.2.getD 0)))
    writeK15 p.zm (got.map (fun x => (x.1, if x.2.isSome then 0 else 1)))
    retire) s

def execVld1 (d a b : BitVec 7) (ty : BitVec 2) (s : State) : Outcome State Fault Refusal :=
  runWord (do
    let rd ← needVec d
    let (p, tree, t, cs, ls) ← walkerStart walkReads a b
    check (treeTy t = 4 + ty.toNat) { treeFlt with unit := 5 }
    let places ← walkerUnit (collect ls (fun l => atLane l (do
      let x ← placeOf tree t (some (laneOf cs l).toNat) .walkRead
      pure (l, x))))
    let got ← walkerUnit (collect places (fun x => atLane x.1 (do
      let v ← voxelValue t x.2
      pure (x.1, BitVec.ofNat 64 v))))
    writeLoaded rd p.zm got
    writeK15 p.zm (places.map (fun x => (x.1, if x.2.isSome then 0 else 1)))
    retire) s

/-! ### VLD7 and VLD27 (R163, R164) -/

/-- Read a list of neighbours for each enabled lane: whether each was absent, and its value as FP32. -/
def neighbours (tree : Word) (t : List Nat) (cs : List Word) (ls : List Nat) (offs : List (Int × Int × Int)) :
    M (List (Nat × List Bool × List Nat)) := do
  let places ← collect ls (fun l => atLane l (do
    let c := (laneOf cs l).toNat
    let xs ← collect offs (fun (o : Int × Int × Int) =>
      placeOf tree t (if isNull c then none else neighbour c o.1 o.2.1 o.2.2) .walkRead)
    pure (l, xs)))
  collect places (fun (x : Nat × List (Option Tr)) => atLane x.1 (do
    let vs ← collect x.2 (fun p => do
      let v ← voxelValue t p
      pure (asFp32 t v))
    pure (x.1, x.2.map (·.isNone), vs)))

/-- Write slots two to a register, from D on; a slot past the list is 0.0. -/
def writeSlots (d : Nat) (regs : Nat) (zm : Bool) (got : List (Nat × List Nat)) : M Unit :=
  each (List.range regs) (fun r =>
    writeLoaded (d + r) zm (got.map fun (x : Nat × List Nat) =>
      (x.1, packElems 32 [(x.2[2 * r]?).getD 0, (x.2[2 * r + 1]?).getD 0])))

def offsets7 : List (Int × Int × Int) :=
  [(0, 0, 0), (-1, 0, 0), (1, 0, 0), (0, -1, 0), (0, 1, 0), (0, 0, -1), (0, 0, 1)]

def offsets27 : List (Int × Int × Int) :=
  (List.range 27).map fun s => ((s % 3 : Nat) - 1, (s / 3 % 3 : Nat) - 1, (s / 9 : Nat) - 1)

def execVld7 (d a b : BitVec 7) (s : State) : Outcome State Fault Refusal :=
  runWord (do
    let rd ← needRange d 4
    let (p, tree, t, cs, ls) ← walkerStart walkReads a b
    let got ← walkerUnit (neighbours tree t cs ls offsets7)
    writeSlots rd 4 p.zm (got.map (fun (x : Nat × List Bool × List Nat) => (x.1, x.2.2)))
    writeK15 p.zm (got.map (fun (x : Nat × List Bool × List Nat) => (x.1, bitsOf x.2.1)))
    retire) s

/-- σ of an axis: the side on which the neighbourhood leaves the centre's leaf. -/
def sideOf (x : Int) : Int := if x % 8 = 0 then -1 else if x % 8 = 7 then 1 else 0

/-- Octant `b` of a 27-neighbourhood as the slot that lies in its leaf. -/
def octantSlot (c : Nat) (b : Nat) : Nat :=
  let pick := fun (on : Nat) (x : Int) => if on = 1 then (sideOf x + 1).toNat else 1
  pick (b % 2) (coordX c) + 3 * pick (b / 2 % 2) (coordY c) + 9 * pick (b / 4) (coordZ c)

def execVld27 (d a b : BitVec 7) (s : State) : Outcome State Fault Refusal :=
  runWord (do
    let rd ← needRange d 14
    let (p, tree, t, cs, ls) ← walkerStart walkReads a b
    let got ← walkerUnit (neighbours tree t cs ls offsets27)
    writeSlots rd 14 p.zm (got.map (fun (x : Nat × List Bool × List Nat) => (x.1, x.2.2)))
    writeK15 p.zm (got.map fun (x : Nat × List Bool × List Nat) =>
      let c := (laneOf cs x.1).toNat
      (x.1, if isNull c then 255
        else bitsOf ((List.range 8).map fun o => (x.2.1[octantSlot c o]?).getD true)))
    retire) s

/-! ### VST1 and VACT (R165, R166) -/

/-- A walker store: performed at the die's L2 after the core's entry for the line has drained (R158). -/
def walkerStore (tr : Tr) (n v : Nat) : M Unit := do
  let c ← curCore
  let s ← get
  drainLine c (tr.pa / 128)
  storeCore c s.cur.blk s.cur.grp tr n v 0
  drainLine c (tr.pa / 128)

/-- k15 bits of an instruction that writes: a helper lane reports its leaf as present. -/
def writeBits (helper : BitVec 32) (l : Nat) (here : Bool) : Nat := if helper.getLsbD l || here then 0 else 1

def execVst1 (d a b : BitVec 7) (ty : BitVec 2) (s : State) : Outcome State Fault Refusal :=
  runWord (do
    let data ← readOp d
    let (p, tree, t, cs, ls) ← walkerStart walkWrites a b
    check (treeTy t = 4 + ty.toNat) { treeFlt with unit := 5 }
    let g ← curGrp
    let places ← walkerUnit (collect ls (fun l => atLane l (do
      let x ← if g.helper.getLsbD l then pure none else placeOf tree t (some (laneOf cs l).toNat) .walkWrite
      pure (l, x))))
    walkerUnit (each places (fun (x : Nat × Option Tr) =>
      match x.2 with
      | some tr => walkerStore tr (valBytes t) (laneOf data x.1).toNat
      | none => pure ()))
    writeK15 p.zm (places.map (fun (x : Nat × Option Tr) => (x.1, writeBits g.helper x.1 x.2.isSome)))
    retire) s

def execVact (a b : BitVec 7) (on : BitVec 1) (s : State) : Outcome State Fault Refusal :=
  runWord (do
    let (p, tree, t, cs, ls) ← walkerStart walkWrites a b
    let g ← curGrp
    let ag ← curAg
    let places ← walkerUnit (collect ls (fun l => atLane l (do
      let c := (laneOf cs l).toNat
      let f ← if g.helper.getLsbD l then pure none else findLeafAt tree t (some c)
      match f with
      | none => pure (l, none)
      | some leaf => do
        let tr ← checkedAccess ag (addI leaf (8 * (voxelNo c / 64) : Nat)) 8 .walkAtomic
        pure (l, some tr))))
    walkerUnit (each places (fun (x : Nat × Option Tr) =>
      match x.2 with
      | some tr => do
        let bit := 2 ^ (voxelNo (laneOf cs x.1).toNat % 64)
        let _ ← atLane x.1 (atomicHome ag tr 8 (fun old =>
          some (if on = 1 then Nat.lor old bit else old - Nat.land old bit)))
        pure ()
      | none => pure ()))
    writeK15 p.zm (places.map (fun (x : Nat × Option Tr) => (x.1, writeBits g.helper x.1 x.2.isSome)))
    retire) s

/-! ### VMARCH (R167) -/

/-- A ray's axes: per axis origin and direction; and its range, as FP32 patterns. -/
structure Ray where
  o : List Nat
  d : List Nat
  tmin : Nat
  tmax : Nat
  deriving DecidableEq, Repr, Inhabited

def FVal.isInf (v : FVal) : Bool :=
  match v with
  | .inf _ => true
  | _ => false

def FVal.isZero (v : FVal) : Bool :=
  match v with
  | .fin _ m _ => decide (m = 0)
  | _ => false

def FVal.isNeg (v : FVal) : Bool :=
  match v with
  | .fin n m _ => n && decide (m ≠ 0)
  | .inf n => n
  | .nan _ => false

/-- A ray that misses before it starts. -/
def Ray.bad (r : Ray) : Bool :=
  let vs := (r.o ++ r.d).map fp32.read
  let t0 := fp32.read r.tmin
  let t1 := fp32.read r.tmax
  vs.any (·.isNan) || t0.isNan || t1.isNan || vs.any FVal.isInf || t1.less false t0 || FVal.isInf t0
    || (r.d.map fp32.read).all FVal.isZero

/-- floor of an FP32 pattern, or none when it is not finite. -/
def floorOf (x : Nat) : Option Int :=
  match fp32.read x with
  | .fin n m e => some (roundInt 2 n m e).1
  | _ => none

/-- (k − o) ÷ d, exact and rounded once to FP32. -/
def crossAt (k : Int) (o d : Nat) : Nat :=
  match fp32.read o, fp32.read d with
  | .fin no mo eo, .fin nd md ed =>
    let so : Int := if no then -(mo : Int) else mo
    let e := min eo 0
    let num := k * (2 ^ e.natAbs : Nat) - so * (2 ^ (eo - e).toNat : Nat)
    if num = 0 then fp32.signed nd 0 else (fp32.quot 0 (decide (num < 0) != nd) num.natAbs e md ed).1
  | _, _ => fp32.canonNan

/-- The axis crossed next and its parameter: the least, x before y before z. -/
def Ray.next (r : Ray) (v : List Int) : Option (Nat × Nat) :=
  (List.range 3).foldl (fun best a =>
    let d := (r.d[a]?).getD 0
    let dv := fp32.read d
    if FVal.isZero dv then best
    else
      let x := (v[a]?).getD 0
      let t := crossAt (if FVal.isNeg dv then x else x + 1) ((r.o[a]?).getD 0) d
      match best with
      | none => some (a, t)
      | some (b, u) => if (fp32.read t).less false (fp32.read u) then some (a, t) else some (b, u)) none

/-- One move of the march: into the next voxel. -/
def Ray.move (r : Ray) (v : List Int) (t : Nat) : List Int × Nat :=
  match r.next v with
  | none => (v, t)
  | some (a, u) =>
    let s : Int := if FVal.isNeg (fp32.read ((r.d[a]?).getD 0)) then -1 else 1
    (v.modify a (fun x => x + s), u)

/-- The box of 2^k voxels a side that holds a voxel. -/
def boxOf (k : Nat) (v : List Int) : List Int := v.map (fun x => x / (2 ^ k : Nat))

/-- Leave an empty box in one step, where the march would first leave it. -/
def Ray.leave (r : Ray) (k : Nat) (box : List Int) (v : List Int) (t fuel : Nat) : List Int × Nat :=
  match fuel with
  | 0 => (v, t)
  | n + 1 =>
    let (v', t') := r.move v t
    if boxOf k v' = box then r.leave k box v' t' n else (v', t')

/-- How a march ended: its kind (0 hit, 1 miss, 2 out), parameter, voxel and value. -/
structure March where
  kind : Nat
  t : Nat
  voxel : Nat
  value : Nat
  deriving DecidableEq, Repr, Inhabited

/-- A miss. -/
def missOf (t : List Nat) : March := ⟨1, fp32.infBits, 2 ^ 63, asFp32 t (treeBg t)⟩

/-- March from a voxel; `fuel` is the steps left of 4,096. -/
def marchFrom (tree : Word) (t : List Nat) (r : Ray) (v : List Int) (tt fuel : Nat) : M March := do
  let x := (v[0]?).getD 0
  let y := (v[1]?).getD 0
  let z := (v[2]?).getD 0
  if !(fits21 x && fits21 y && fits21 z) || (fp32.read r.tmax).less false (fp32.read tt) then pure (missOf t)
  else
    let c := packCoord x y z
    match fuel with
    | 0 => pure ⟨2, tt, c, asFp32 t (treeBg t)⟩
    | n + 1 => do
      let f ← lookup tree t c
      match f with
      | .absent k =>
        let (v', t') := r.leave k (boxOf k v) v tt 6144
        marchFrom tree t r v' t' n
      | .leaf a => do
        let m ← walkerRead (addI a (8 * (voxelNo c / 64) : Nat)) 8
        if m.testBit (voxelNo c % 64) then do
          let ag ← curAg
          let tr ← checkedAccess ag (valueAddr t a (voxelNo c)) (valBytes t) .walkRead
          let val ← voxelValue t (some tr)
          pure ⟨0, tt, c, asFp32 t val⟩
        else
          let (v', t') := r.move v tt
          marchFrom tree t r v' t' n

/-- The march of one ray. -/
def marchRay (tree : Word) (t : List Nat) (r : Ray) : M March :=
  if r.bad then pure (missOf t)
  else
    let start := (r.d.zip r.o).map (fun x => floorOf (fp32.fma 0 r.tmin x.1 x.2).1)
    match start with
    | [some x, some y, some z] => marchFrom tree t r [x, y, z] r.tmin 4096
    | _ => pure (missOf t)

def execVmarch (d a b : BitVec 7) (s : State) : Outcome State Fault Refusal :=
  runWord (do
    let rd ← needRange d 2
    let rb ← needRange b 4
    let m0 ← lanes
    each (List.range 4) (fun i => checkReg (rb + i) m0)
    let (p, tree, t, _, ls) ← walkerStart walkReads a b
    let g ← curGrp
    let src := fun l i j : Nat => elem 32 j (laneOf (g.vreg (rb + i)) l)
    let got ← walkerUnit (collect ls (fun l => atLane l (do
      let r : Ray := ⟨[src l 0 0, src l 0 1, src l 1 0], [src l 1 1, src l 2 0, src l 2 1], src l 3 0, src l 3 1⟩
      let x ← marchRay tree t r
      pure (l, x))))
    writeLoaded rd p.zm (got.map (fun (x : Nat × March) => (x.1, packElems 32 [x.2.t, x.2.value])))
    writeLoaded (rd + 1) p.zm (got.map (fun (x : Nat × March) => (x.1, BitVec.ofNat 64 x.2.voxel)))
    writeK15 p.zm (got.map (fun (x : Nat × March) => (x.1, x.2.kind)))
    retire) s

end Sys2Proof.Machine
end

