-- ==== Sys2Proof/Machine/Vins.lean ====
section
/-!
DEFINITION. VINS (spec/05 R118, R119; spec/07 R150, R168, R169): the insertion of a leaf as a sequence of MCAS events.
Each issue of the word makes one of the sequence's steps; the last one completes the instruction.
-/

namespace Sys2Proof.Machine

open Host

/-! ### One MCAS of the allocator engine -/

/-- A read at home by the allocator (R118). -/
def allocRead (va : Word) (n : Nat) : M Nat := do
  let ag ← curAg
  let tr ← checkedAccess ag va n .walkRead
  loadHome ag tr n

/-- A write at home by the allocator. -/
def allocWrite (va : Word) (n v : Nat) : M Unit := do
  let ag ← curAg
  let tr ← checkedAccess ag va n .walkWrite
  ownCopies ag (tr.pa / 128)
  writeHome ag tr n v

/-- An MCAS event over words (address, bytes, expected, new) is asked for, with the release and the checks of R109 and R110. -/
def allocAsk (ws : List (Word × Nat × Nat × Nat)) : M McasSt := do
  releaseCur 5
  let es ← planWords ws
  let c ← curCore
  each (mcasLines es) (drainLine c)
  pure ⟨es, [], none, 0⟩

/-- The event takes its clamps and is performed: did every word match? None when it must start again. -/
def allocEvent (m : McasSt) : M (Option Bool) := do
  let m ← freshPlan m
  let obs ← mcasEvent m.entries
  pure (obs.map (fun o => decide (mismatch m.entries o = 0)))

/-! ### Pools (R149, R150, R168) -/

/-- The die partition map: the pool of a new leaf (R150). -/
def poolOf (t : List Nat) (c : Nat) : Nat :=
  let a := match treePaxis t with
    | 0 => coordX c
    | 1 => coordY c
    | _ => coordZ c
  if treePaxis t = 3 then 0 else ((List.range 3).filter (fun k => decide (treeCut t k ≤ a))).length

/-- Offsets in the tree record of the free list, the bump count and the capacity of a pool: kind 0 upper, 1 lower, 2
leaf. -/
def poolOffs (kind p : Nat) : Nat × Nat × Nat :=
  match kind with
  | 0 => (32, 36, 24)
  | 1 => (40, 44, 28)
  | _ => (92 + 32 * p, 96 + 32 * p, 88 + 32 * p)

/-- Address of a slot of a pool. -/
def slotAddr (t : List Nat) (kind h : Nat) : M Word :=
  match kind with
  | 0 => nodeAddr t false h
  | 1 => nodeAddr t true h
  | _ => leafAddr t h

/-- Offsets of TAG and LINK in a node or a leaf. -/
def tagOff (kind : Nat) : Nat := if kind = 2 then 72 else 8
def linkOff (kind : Nat) : Nat := if kind = 2 then 80 else 16

/-- reserve: pop the free list, or take from the bump region; the slot and the MCAS event that takes it, none when the pool is
full. A free list whose head lies past its pool is malformed in the model, cause tree (DESIGN CHOICE, log 27: R118 names no check). -/
def reserveOp (tree : Word) (t : List Nat) (kind p : Nat) : M (Option (Nat × McasSt)) := do
  let (fo, bo, co) := poolOffs kind p
  let f ← allocRead (addI tree (fo : Nat)) 4
  if f ≠ noIndex then do
    let a ← slotAddr t kind f
    let g ← allocRead (addI a (linkOff kind : Nat)) 4
    let m ← allocAsk [(addI tree (fo : Nat), 4, f, g), (addI a (tagOff kind : Nat), 8, 0, 1), (addI a (linkOff kind : Nat), 4, g, g)]
    pure (some (f, m))
  else do
    let b ← allocRead (addI tree (bo : Nat)) 4
    let cap ← allocRead (addI tree (co : Nat)) 4
    if cap ≤ b then pure none
    else do
      let h := if kind = 2 then p * 2 ^ 30 + b else b
      let a ← slotAddr t kind h
      let m ← allocAsk [(addI tree (bo : Nat), 4, b, b + 1), (addI a (tagOff kind : Nat), 8, 0, 1)]
      pure (some (h, m))

/-- release: the MCAS event that gives a reserved slot back to its free list. -/
def releaseOp (tree : Word) (t : List Nat) (kind h : Nat) : M McasSt := do
  let (fo, _, _) := poolOffs kind (if kind = 2 then fld 31 30 h else 0)
  let a ← slotAddr t kind h
  let f ← allocRead (addI tree (fo : Nat)) 4
  allocWrite (addI a (linkOff kind : Nat)) 4 f
  allocAsk [(addI tree (fo : Nat), 4, f, h), (addI a (tagOff kind : Nat), 8, 1, 0)]

/-! ### Looking at home (R118, R151) -/

/-- Search the root table at home: the child of the key's entry, or the first empty entry. -/
def rootFindHome (t : List Nat) (key slot fuel : Nat) : M (Option (Nat × Option Nat)) :=
  match fuel with
  | 0 => pure none
  | k + 1 => do
    let e := addI (treeRoot t) (16 * (slot % 4096) : Nat)
    let got ← allocRead e 8
    if got = key then do
      let c ← allocRead (e + 8) 4
      pure (some (slot % 4096, some c))
    else if got = 2 ^ 64 - 1 then pure (some (slot % 4096, none))
    else rootFindHome t key (slot + 1) k

/-- Child `i` of a node as it stands. -/
def childIndex (node : Word) (i : Nat) : M Nat := allocRead (addI node (640 + 4 * i : Nat)) 4

/-- The mask dword of child `i`, and the child when its bit is set (R118). -/
def childHome (node : Word) (i : Nat) : M (Nat × Option Nat) := do
  let m ← allocRead (addI node (128 + 8 * (i / 64) : Nat)) 8
  if m.testBit (i % 64) then do
    let c ← childIndex node i
    pure (m, some c)
  else pure (m, none)

/-- Where an insertion of a leaf stands: the leaf exists, or a node or the leaf is missing at a place, or the root table is full. -/
inductive Missing where
  | existed (h : Nat)
  | missing (p : VinsPlace)
  | full
  deriving DecidableEq, Repr, Inhabited

/-- A node past its pool is malformed, as a walker finds it (spec/07 R154): a root entry with its KEY and a lower node with its mask
bit set, but 0xFFFF_FFFF as the index, are such ones (DESIGN CHOICE, log 27). -/
def findLower (t : List Nat) (c l : Nat) : M Missing := do
  let la ← nodeAddr t true l
  let (m, h) ← childHome la (leafNo c)
  match h with
  | none => pure (.missing ⟨2, la, 0, m⟩)
  | some h => pure (.existed h)

def findUpper (t : List Nat) (c u : Nat) : M Missing := do
  let ua ← nodeAddr t false u
  let (m, l) ← childHome ua (lowerNo c)
  match l with
  | none => pure (.missing ⟨1, ua, 0, m⟩)
  | some l => findLower t c l

def findMissing (t : List Nat) (c : Nat) : M Missing := do
  let r ← rootFindHome t (upperOrigin c) (rootSlot c) 4096
  match r with
  | none => pure .full
  | some (e, none) => pure (.missing ⟨0, 0, e, 0⟩)
  | some (_, some u) => findUpper t c u

/-! ### Writing a new node or leaf -/

/-- Write a list of 8-byte words from an address. -/
def allocFill (va : Word) (ws : List Nat) : M Unit :=
  match ws with
  | [] => pure ()
  | w :: r => do
    allocWrite va 8 w
    allocFill (va + 8) r

/-- The words a new node or leaf holds beyond its TAG and LINK, which stay as the reserving MCAS left them. -/
def writeNew (t : List Nat) (kind c : Nat) (a : Word) : M Unit :=
  if kind = 2 then do
    allocFill a (List.replicate 8 0)
    allocWrite (addI a 64) 8 (leafOrigin c)
    allocWrite (addI a 84) 4 0
    let n := valBytes t
    allocFill (addI a 128) (List.replicate (64 * n) (packNat (8 * n) (List.replicate (8 / n) (treeBg t))))
  else do
    allocWrite a 8 (if kind = 0 then upperOrigin c else lowerOrigin c)
    allocFill (addI a 128) (List.replicate 64 0)
    allocFill (addI a 640) (List.replicate 2048 (2 ^ 64 - 1))

/-- The number under its node of what is inserted. -/
def VinsPlace.childNo (p : VinsPlace) (c : Nat) : Nat := if p.kind = 1 then lowerNo c else leafNo c

/-- The inserting MCAS event. -/
def insertOp (t : List Nat) (c h : Nat) (p : VinsPlace) : M McasSt := do
  let a ← slotAddr t p.kind h
  let tag := (addI a (tagOff p.kind : Nat), 8, 1, 2)
  if p.kind = 0 then
    let e := addI (treeRoot t) (16 * p.entry : Nat)
    allocAsk [(e, 8, 2 ^ 64 - 1, upperOrigin c), (e + 8, 4, noIndex, h), tag]
  else
    let i := p.childNo c
    allocAsk [(addI p.node (128 + 8 * (i / 64) : Nat), 8, p.m, Nat.lor p.m (2 ^ (i % 64))),
      (addI p.node (640 + 4 * i : Nat), 4, noIndex, h), tag]

/-! ### The sequence -/

/-- A finished lane's result (R169). -/
def vinsResult (lane : Nat) (a : Word) (index status : Nat) : Nat × Word × Word :=
  (lane, a, BitVec.ofNat 64 (index * 2 ^ 32 + status))

/-- The next lane after this one. -/
def VinsSt.finish (v : VinsSt) (r : Nat × Word × Word) : VinsSt :=
  { v with lane := v.lane + 1, stage := .look, op := none, results := v.results ++ [r] }

/-- The lane goes on at another stage. -/
def VinsSt.goto (v : VinsSt) (g : VinsStage) : VinsSt := { v with stage := g, op := none }

/-- The lane asks for an MCAS event. -/
def VinsSt.ask (v : VinsSt) (slot : Nat) (m : McasSt) : VinsSt := { v with op := some (slot, m) }

/-- An MCAS event that failed is made up again from what is read then. -/
def VinsSt.retry (v : VinsSt) : VinsSt := { v with op := none }

/-- The lane ends with the leaf and a status (R169). The index 0xFFFF_FFFF is no present child (spec/07 R154), so it meets no
check of its pool. -/
def vinsFound (t : List Nat) (l h status : Nat) (v : VinsSt) : M VinsSt := do
  let a ← if h = noIndex then pure (leafPlace t h) else leafAddr t h
  pure (v.finish (vinsResult l a h status))

/-- One of a lane's MCAS events, once asked for: what follows a success and what a failure. -/
def vinsEvent (v : VinsSt) (m : McasSt) (next : M VinsSt) (failed : VinsSt) : M VinsSt := do
  let r ← allocEvent m
  match r with
  | some true => next
  | some false => pure failed
  | none => pure v

/-- The reserving stage. -/
def vinsReserve (tree : Word) (t : List Nat) (c l : Nat) (p : VinsPlace) (v : VinsSt) : M VinsSt :=
  match v.op with
  | none => do
    let r ← reserveOp tree t p.kind (if p.kind = 2 then poolOf t c else 0)
    match r with
    | none => pure (v.finish (vinsResult l 0 noIndex 3))
    | some x => pure (v.ask x.1 x.2)
  | some x => vinsEvent v x.2 (pure (v.goto (.fill p x.1))) v.retry

/-- The inserting stage, with what was read at the place. -/
def vinsInsert (t : List Nat) (c l h : Nat) (p : VinsPlace) (v : VinsSt) : M VinsSt :=
  match v.op with
  | some x => vinsEvent v x.2 (if p.kind = 2 then vinsFound t l h 1 v else pure (v.goto (.under (p.kind + 1) h))) (v.goto (.again p h))
  | none => do
    let op ← insertOp t c h p
    pure (v.ask h op)

/-- Probes left after a root entry of the search for a key (spec/07 R151). -/
def probesAfter (c entry : Nat) : Nat := 4095 - (entry + 4096 - rootSlot c) % 4096

/-- The place of an inserting event that failed is read again (R118, spec/07 R168): the slot goes back where another has inserted
there; a root search goes on from the next entry. -/
def vinsAgain (t : List Nat) (c h : Nat) (p : VinsPlace) (v : VinsSt) : M VinsSt := do
  if p.kind = 0 then do
    let key ← allocRead (addI (treeRoot t) (16 * p.entry : Nat)) 8
    if key = upperOrigin c then pure (v.goto (.giveBack p h .lost))
    else do
      let r ← rootFindHome t (upperOrigin c) (p.entry + 1) (probesAfter c p.entry)
      match r with
      | none => pure (v.goto (.giveBack p h .full))
      | some (e, some _) => pure (v.goto (.giveBack { p with entry := e } h .lost))
      | some (e, none) => pure (v.goto (.insert { p with entry := e } h))
  else do
    let (m, k) ← childHome p.node (p.childNo c)
    match k with
    | none => pure (v.goto (.insert { p with m := m } h))
    | some _ => pure (v.goto (.giveBack p h .lost))

/-- What follows a slot's return to its free list. -/
def vinsAfter (l : Nat) (p : VinsPlace) (why : VinsWhy) (v : VinsSt) : VinsSt :=
  match why with
  | .lost => v.goto (.won p)
  | .full => v.finish (vinsResult l 0 noIndex 3)
  | .fault f => v.goto (.report f)

/-- What a lane does about what it finds on its way down. -/
def vinsLooked (t : List Nat) (l : Nat) (v : VinsSt) (f : Missing) : M VinsSt :=
  match f with
  | .existed h => vinsFound t l h 0 v
  | .full => pure (v.finish (vinsResult l 0 noIndex 3))
  | .missing p => pure (v.goto (.reserve p))

/-- What another agent has inserted at a place, the lane's slot having gone back: the lane ends with the leaf, or goes on below the
node. -/
def vinsWon (t : List Nat) (c l : Nat) (p : VinsPlace) (v : VinsSt) : M VinsSt := do
  let h ← if p.kind = 0 then allocRead (addI (treeRoot t) (16 * p.entry + 8 : Nat)) 4 else childIndex p.node (p.childNo c)
  if p.kind = 2 then vinsFound t l h 2 v else pure (v.goto (.under (p.kind + 1) h))

/-- One step of a lane that has its coordinate. -/
def vinsStep (tree : Word) (t : List Nat) (c l : Nat) (v : VinsSt) : M VinsSt :=
  match v.stage with
  | .look => do
    let f ← findMissing t c
    vinsLooked t l v f
  | .under k n => do
    let f ← if k = 1 then findUpper t c n else findLower t c n
    vinsLooked t l v f
  | .reserve p => vinsReserve tree t c l p v
  | .fill p h => do
    let a ← slotAddr t p.kind h
    writeNew t p.kind c a
    pure (v.goto (.insert p h))
  | .insert p h => vinsInsert t c l h p v
  | .again p h => vinsAgain t c h p v
  | .giveBack p h why =>
    match v.op with
    | none => do
      let op ← releaseOp tree t p.kind h
      pure (v.ask h op)
    | some x => vinsEvent v x.2 (pure (vinsAfter l p why v)) v.retry
  | .won p => vinsWon t c l p v
  | .report f => raise f

/-- The state a VINS stands in: fresh, with the tree record as it is first read, or where its last step left it. It reads the record
no more while it holds clamps, which an MCAS on the record's lines could wait for (R112). -/
def vinsState (tree : Word) (p : Path) : M VinsSt :=
  match p.wait with
  | some (.vins v) => pure v
  | _ => do
    let t ← walkerUnit (readTree tree)
    pure ⟨t, 0, .look, none, []⟩

/-- A fault of a lane's sequence names the lane (R169). -/
def vinsFlt (lane : Nat) (f : Flt) : Flt := { f with unit := 5, lane := lane, index := lane }

def vinsBody (d a b : BitVec 7) : M Unit := do
  let rd ← needRange d 2
  let p ← getPfx {}
  let tree ← readUni a
  let cs ← readOp b
  let k ← readMask p.mask
  let m ← lanes
  let g ← curGrp
  let path ← curPath
  let v ← vinsState tree path
  let todo := (lanesOf (enabledLanes m k)).filter (fun l => !g.helper.getLsbD l && !isNull (laneOf cs l).toNat)
  match todo[v.lane]? with
  | none => do
    let put := fun (f : Word × Word → Word) (l : Nat) =>
      (v.results.find? (fun (x : Nat × Word × Word) => x.1 = l)).map (fun x => f x.2)
    writeVec rd (put (·.1))
    writeVec (rd + 1) (put (·.2))
    retire
  | some l => do
    let w ← onFlt (vinsFlt l) (vinsStep tree v.tree (leafOrigin (laneOf cs l).toNat) l v)
    modCurPath fun q => { q with wait := some (.vins w) }

/-! ### A fault between reserving and inserting (R119) -/

/-- A record names the slot that its VINS leaves RESERVED: in the upper half of DETAIL where the lower half holds an access kind, of
DETAIL2 elsewhere (log 26). -/
def nameSlot (h : Nat) (f : Flt) : Flt :=
  let up := BitVec.ofNat 64 (h * 2 ^ 32)
  if f.cls = 1 ∨ f.cls = 2 ∨ f.cls = 3 ∨ f.cls = 6 then { f with detail := f.detail ||| up }
  else { f with detail2 := f.detail2 ||| up }

/-- The fault that is reported when giving the slot back faults: the first one (log 28). -/
def firstFlt (why : VinsWhy) (f : Flt) : Flt :=
  match why with
  | .fault g => g
  | _ => f

/-- A fault of a VINS: one that finds a slot RESERVED is reported once the slot has gone back. -/
def vinsFault (f : Flt) (s : State) : State :=
  let giveBack := fun (v : VinsSt) (p : VinsPlace) (h : Nat) =>
    s.dropClamps.modPath s.cur.blk s.cur.grp s.cur.path fun q =>
      { q with wait := some (.vins (v.goto (.giveBack p h (.fault f)))) }
  match (s.pathAt s.cur.blk s.cur.grp s.cur.path).bind (·.wait) with
  | some (.vins v) =>
    match v.stage with
    | .fill p h => giveBack v p h
    | .insert p h => giveBack v p h
    | .again p h => giveBack v p h
    | .giveBack _ h why => takeFault (nameSlot h (firstFlt why f)) s
    | .report g => takeFault g s
    | _ => takeFault f s
  | _ => takeFault f s

def execVins (d a b : BitVec 7) (s : State) : Outcome State Fault Refusal :=
  match vinsBody d a b s with
  | .error (.fault f) => .next (vinsFault f s)
  | .error .wait => .next s
  | .error .hold => .next s
  | .error (.stop f) => .fault f
  | .ok (_, t) => .next t

end Sys2Proof.Machine
end

