-- ==== Sys2Proof/Machine/Matrix.lean ====
section
/-!
DEFINITION. The matrix engine (spec/11 R228 to R244): MMA, MMA1, MZERO and MOUT, and the steps that carry their
commands out, with the exact sums of spec/08 R184.
-/

namespace Sys2Proof.Machine

open Host

/-! ### Core pairs (R228) -/

def partner (core : Nat) : Nat := Nat.xor core 1

/-- A leader whose follower is owned by the context's partition. -/
def State.pairedLeader (s : State) (ctx core : Nat) : Bool :=
  decide (core % 2 = 0 ∧ core % 128 < 108) && s.ownsSite ctx (BitVec.ofNat 64 (core + 1))

/-! ### Command checks (R237, R238) -/

def ctlK (w : Word) : Nat := fld 12 0 w.toNat
def ctlHalf (w : Word) : Nat := fld 15 15 w.toNat
def ctlCstride (w : Word) : Nat := fld 39 16 w.toNat
def ctlDstride (w : Word) : Nat := fld 63 40 w.toNat

/-- Bytes of an output row, and of an output element. -/
def outRow (ofmt : Nat) : Nat :=
  match ofmt with
  | 9 => 128
  | 10 => 128
  | 11 => 256
  | 12 => 512
  | m => 8 * m

def outElem (ofmt : Nat) : Nat := if ofmt < 9 then 1 else outRow ofmt / 64

/-- The matrix control word within R237. -/
def ctlOk (kind : MatKind) (slot : Code) (w : Word) : Bool :=
  decide (fld 14 13 w.toNat = 0) && decide (ctlCstride w % 256 = 0 ∧ 256 ≤ ctlCstride w)
    && match kind with
      | .mma => decide (ctlHalf w = 0 ∧ ctlDstride w = 0 ∧ ctlK w % 64 = 0 ∧ 64 ≤ ctlK w ∧ ctlK w ≤ 4096)
      | .mma1 => decide (ctlHalf w = 1 ∧ ctlDstride w = 0 ∧ ctlK w % 64 = 0 ∧ 64 ≤ ctlK w ∧ ctlK w ≤ 4096)
      | .mzero => decide (ctlDstride w = 0 ∧ ctlK w = 0)
      | .mout => decide (ctlK w = 0 ∧ ctlDstride w ≠ 0 ∧ ctlDstride w % outRow (slotOut slot) = 0)

/-- The slot fields a command reads (R238). -/
def matSlotOk (kind : MatKind) (slot : Code) : Bool :=
  match kind with
  | .mzero => true
  | .mout => slotClean slot && outFmtOk (slotOut slot)
  | _ => slotClean slot && inFmtOk (slotA slot) && inFmtOk (slotB slot)

/-- Rows of C. -/
def matRows (ctl : Word) : Nat := if ctlHalf ctl = 1 then 32 else 64

/-- The checks of a matrix command that read no memory. -/
def matChecks (kind : MatKind) (q : Nat) (slot : Code) (c ctl dst : Word) : M Unit := do
  check (q = 0 || isCq q) (illegal 1)
  check (matSlotOk kind slot) (illegal 5)
  check (ctlOk kind slot ctl) (illegal 3)
  check (c.toNat % 256 = 0) (accFlt 6 0 .engWrite c 0)
  check (kind ≠ .mout || decide (dst.toNat % outElem (slotOut slot) = 0)) (accFlt 6 0 .engWrite dst 0)

/-- The core may run the command (R228). -/
def matCore (kind : MatKind) : M Unit := do
  onShaderCore
  let c ← curCore
  let b ← curBlk
  let s ← get
  check (kind ≠ .mma || s.pairedLeader b.ctx c) (illegal 3)

/-- C must be readable and writable, in a page with ACC = 1 (R238). -/
def needAcc (ag : Ag) (va : Word) : M Tr := do
  let _ ← translate ag va .engRead
  let tr ← translate ag va .engWrite
  check (fld 15 15 tr.pte = 1) (accFlt 2 6 .engWrite va tr.pte)
  pure tr

/-- Translate every page of C and of the destinations (R238). -/
def matPages (ag : Ag) (kind : MatKind) (slot : Code) (c ctl dst sdst : Word) : M Unit := do
  let rows := List.range (matRows ctl)
  each rows (fun i => do
    let _ ← needAcc ag (addI c (i * ctlCstride ctl : Nat))
    pure ())
  if kind = .mout then
    each rows (fun r => do
      let d := addI dst (r * ctlDstride ctl : Nat)
      let _ ← translate ag d .engWrite
      let _ ← translate ag (addI d (outRow (slotOut slot) - 1 : Nat)) .engWrite
      if slotOut slot < 9 then do
        let _ ← translate ag (addI sdst (r : Nat)) .engWrite
        pure ())

/-- Entries that wait in a core's matrix queue (R238). -/
def State.matRoom (s : State) (core : Nat) : Bool := decide ((s.coreAt core).mat.queue.length < Config.matQueue)

def matCmdOf (kind : MatKind) (q : Nat) (slot : Code) (split : Nat) (c ctl dst sdst : Word) (ctx blk grp core : Nat)
    (m : BitVec 32) (tag : Nat) (task : Option Nat) (recAt : Word) : MatCmd :=
  { kind := kind, ctx := ctx, blk := blk, grp := grp, lanes := m, core := core, q := q, slot := slot, split := split
    cAddr := c, ctl := ctl, dst := dst, sdst := sdst, tag := tag, status := .queued, err := 0, flt := default
    raised := false, kblocks := [], partials := [], merged := [], wp := 0, task := task, recAt := recAt }

/-- ACCEPT a matrix command of the block in progress: checks, pages, room. -/
def acceptMat (kind : MatKind) (q fslot split : Nat) (c ctl dst sdst : Word) (grp : Nat) (m : BitVec 32) (tag : Nat)
    (task : Option Nat) (recAt : Word) : M Unit := do
  let g ← curGrid
  let slot := slotOf g.lrec fslot
  matCore kind
  matChecks kind q slot c ctl dst
  let core ← curCore
  let b ← curBlk
  matPages (engAg (dieOf core) b.ctx) kind slot c ctl dst sdst
  let s ← get
  if !s.matRoom core then wait
  modify fun s =>
    let i := s.mats.length
    let cmd := matCmdOf kind q slot split c ctl dst sdst b.ctx s.cur.blk grp core m tag task recAt
    ({ s with mats := s.mats ++ [cmd] }).modCore core fun k =>
      { k with mat := { k.mat with queue := k.mat.queue ++ [i], ctx := some b.ctx } }

/-- A matrix word of the issuing path. -/
def matWord (kind : MatKind) (q : BitVec 4) (f sp : BitVec 3) (a b : BitVec 7) : M Unit := do
  check (q.toNat = 0 || isCq q.toNat) (illegal 1)
  noPfx
  onShaderCore
  let c ← readUni a
  let ctl ← readUni b
  let (dst, sdst) ← if kind = .mout then do
      check (decide ((a.toNat - 96) % 4 = 0)) (illegal 3)
      let d ← readUni (a + 1)
      let x ← readUni (a + 2)
      pure (d, x)
    else pure (0, 0)
  matCore kind
  let h ← onlyHelpers
  let m ← lanes
  let s ← get
  if h then pure ()
  else acceptMat kind q.toNat f.toNat sp.toNat c ctl dst sdst s.cur.grp m 0 none 0
  retire

def execMma (q : BitVec 4) (f sp : BitVec 3) (a b : BitVec 7) (s : State) : Outcome State Fault Refusal :=
  runWord (matWord .mma q f sp a b) s

def execMma1 (q : BitVec 4) (f sp : BitVec 3) (a b : BitVec 7) (s : State) : Outcome State Fault Refusal :=
  runWord (matWord .mma1 q f sp a b) s

def execMzero (q : BitVec 4) (a b : BitVec 7) (s : State) : Outcome State Fault Refusal :=
  runWord (matWord .mzero q 0 0 a b) s

def execMout (q : BitVec 4) (f : BitVec 3) (a b : BitVec 7) (s : State) : Outcome State Fault Refusal :=
  runWord (matWord .mout q f 0 a b) s

/-! ### Arrays (R241) -/

def matAt (i : Nat) : M MatCmd := do
  let s ← get
  needSome (s.mat? i)

def State.modMatState (s : State) (core : Nat) (f : MatState → MatState) : State :=
  s.modCore core (fun k => { k with mat := f k.mat })

/-- A command that was saved with the matrix state of its context, and is not on its core until that is restored (R230). -/
def State.matAway (s : State) (c : MatCmd) : Bool := s.savedMat.any (fun x => decide (x.1 = c.ctx ∧ x.2.1 = c.core))

/-- Earlier matrix commands of a core are complete. -/
def State.earlierDone (s : State) (i core : Nat) : Bool :=
  (s.mats.take i).all (fun c => decide (c.core ≠ core) || c.isDone || s.matAway c)

/-- An MMA at the head of the leader's queue claims the follower's array before a command of the follower's may take it. -/
def State.claimed (s : State) (core : Nat) : Bool :=
  decide (core % 2 = 1) && (match ((s.coreAt (partner core)).mat.queue.head?).bind s.mat? with
    | some c => decide (c.kind = .mma)
    | none => false)

/-- State of a context that was saved from a core or its partner has not come back: its array has not retired what it was running, nor
its queue started what it held (R230). -/
def State.pairAway (s : State) (ctx core : Nat) : Bool :=
  s.savedMat.any (fun x => decide (x.1 = ctx ∧ (x.2.1 = core ∨ x.2.1 = partner core)))

/-- The head of a core's matrix queue starts: MMA1 on its own array, MMA on both arrays of the pair, MZERO and MOUT once
every earlier command of the core is complete. -/
def execMatrixCommandStart (core : Nat) (s : State) : Outcome State Fault Refusal :=
  runEvent (do
    let s ← get
    let k := (s.coreAt core).mat
    let i ← needSome k.queue.head?
    let c ← matAt i
    need (!s.preempting c.ctx)
    let pop := fun k : MatState => { k with queue := k.queue.tail }
    match c.kind with
    | .mma => do
      need (k.array.isNone && (s.coreAt (partner core)).mat.array.isNone && !s.pairAway c.ctx core)
      modify fun s =>
        let s := s.modMatState core (fun k => { pop k with array := some i })
        let s := s.modMatState (partner core) (fun k => { k with array := some i, ctx := some c.ctx })
        s.modMat i (fun c => { c with status := .consuming })
    | .mma1 => do
      need (k.array.isNone && !s.claimed core && !s.pairAway c.ctx core)
      modify fun s =>
        let s := s.modMatState core (fun k => { pop k with array := some i })
        s.modMat i (fun c => { c with status := .consuming })
    | _ => do
      need (s.earlierDone i core)
      modify fun s => (s.modMatState core pop).modMat i (fun c => { c with status := .merging })) s

/-- Free the arrays a command holds. -/
def State.freeArrays (s : State) (core i : Nat) : State :=
  let free := fun k : MatState => if k.array = some i then { k with array := none } else k
  (s.modMatState core free).modMatState (partner core) free

/-- A matrix command stopped by a fault: its arrays are free, and it completes with the cause (R242). -/
def State.failMat (s : State) (i : Nat) (f : Flt) (status : Nat) : State :=
  match s.mat? i with
  | none => s
  | some c =>
    (s.freeArrays c.core i).modMat i (fun c =>
      { c with err := status, flt := f, status := .pushing })

/-! ### K blocks (R235, R239) -/

/-- The stored width a slot code expects. -/
def widthOf (code : Nat) : Nat := if 9 ≤ code then 8 else code

def Slice.fits (x : Slice) (m window : Nat) : Bool := decide (x.m = m ∧ x.window = window)

/-- A point below the last K block at which pre-emption stops a command (R244); one that has consumed nothing stands at one, unless
SPLIT is 7. -/
def MatCmd.atStop (c : MatCmd) : Bool :=
  decide (c.split < 7 ∧ c.kblocks.length < ctlK c.ctl / 64 ∧ c.kblocks.length % 2 ^ c.split = 0)

/-- Pop one K block of slices; a slice whose tag differs stops the command, and so does a poisoned one. The slices leave their FIFOs
together, once all of them stand (DESIGN CHOICE, log 132: R239 does not say whether one may leave while another FIFO is empty). -/
def execMmaKBlock (core : Nat) (s : State) : Outcome State Fault Refusal :=
  runEvent (do
    let s ← get
    let i ← needSome (s.coreAt core).mat.array
    let c ← matAt i
    need (decide (c.core = core ∧ c.status = .consuming) && decide (c.kblocks.length < ctlK c.ctl / 64))
    need (!(s.preempting c.ctx && c.atStop))
    let k := (s.coreAt core).mat
    let a0 ← needSome k.q8.head?
    let b0 ← needSome k.q9.head?
    let a1 ← if c.kind = .mma then do
        let x ← needSome (s.coreAt (partner core)).mat.q8.head?
        pure (some x)
      else pure none
    modify fun s =>
      let s := s.modMatState core (fun k => { k with q8 := k.q8.tail, q9 := k.q9.tail })
      if c.kind = .mma then s.modMatState (partner core) (fun k => { k with q8 := k.q8.tail }) else s
    let w := slotScale c.slot
    let ok := a0.fits (widthOf (slotA c.slot)) w && b0.fits (widthOf (slotB c.slot)) w
      && (a1.map (fun x => x.fits (widthOf (slotA c.slot)) w)).getD true
    let bad := a0.poisoned || b0.poisoned || (a1.map (·.poisoned)).getD false
    if !ok then modify fun s => s.failMat i (illegal 5) 5
    else if bad then modify fun s => s.failMat i (poisonFlt 0 1) 7
    else do
      bump c.ctx 12 1 (dieOf core)
      modify fun s => s.modMat i (fun c => { c with kblocks := c.kblocks ++ [(a0, a1, b0)], wp := c.wp + 64 })) s

/-! ### The exact sum (spec/08 R184) -/

/-- A row's mantissas: its bytes as one number. -/
def Slice.bits (x : Slice) (r : Nat) : Nat := packNat 8 (((x.rows[r]?).getD []).map (·.toNat))

def Slice.exp (x : Slice) (r : Nat) : Nat := (x.exps[r]?).getD 0

/-- A term: the exact block product and its exponent, or none for a NaN block. -/
def blockTerm (a : Slice) (i : Nat) (b : Slice) (n : Nat) : Option (Int × Int) :=
  if a.exp i = 0xFF ∨ b.exp n = 0xFF then none
  else
    let x := a.bits i
    let y := b.bits n
    let sum := (List.range 64).foldl (fun acc e => acc + bfpMant a.m x e * bfpMant b.m y e) (0 : Int)
    let ex := fun (e m : Nat) => (e : Int) - 127 - (m - 1)
    some (sum, ex (a.exp i) a.m + ex (b.exp n) b.m)

/-- The largest exponent among the terms that are not zero. -/
def topTerm (l : List (Int × Int)) : Option Int :=
  l.foldl (fun (acc : Option Int) (t : Int × Int) =>
    if t.1 = 0 then acc
    else match acc with
      | none => some t.2
      | some a => some (max a t.2)) none

/-- window_round: truncation below the window, exact sum, sticky, one rounding to FP32; the value and its flags. A sum of 0 with the
sticky bit set stands for a positive amount below every FP32 number, so it is tiny and inexact (spec/08 R177). -/
def windowRound (l : List (Int × Int)) : Nat × Nat :=
  match topTerm l with
  | none => (0, 0)
  | some top =>
    let base := top - 63
    let cut := fun t : Int × Int =>
      if base ≤ t.2 then (t.1 * (2 ^ (t.2 - base).toNat : Nat), false)
      else
        let d : Int := (2 ^ (base - t.2).toNat : Nat)
        (t.1 / d, decide (t.1 % d ≠ 0))
    let parts := l.map cut
    let w := parts.foldl (fun acc p => acc + p.1) (0 : Int)
    if w = 0 then (0, if parts.any (·.2) then 24 else 0)
    else
      let v := w * (2 ^ 40 : Nat) + (if parts.any (·.2) then 1 else 0)
      fp32.round 0 (decide (v < 0)) v.natAbs (base - 40)

/-- The partial sum of element (i, n), and its flags. -/
def MatCmd.partialOf (c : MatCmd) (i n : Nat) : Nat × Nat :=
  let terms := c.kblocks.map fun (k : Slice × Option Slice × Slice) =>
    if i < 32 then blockTerm k.1 i k.2.2 n else blockTerm (k.2.1.getD k.1) (i - 32) k.2.2 n
  if terms.any (·.isNone) then (fp32.canonNan, 0) else windowRound (terms.filterMap id)

def MatCmd.partialSum (c : MatCmd) (i n : Nat) : BitVec 32 := BitVec.ofNat 32 (c.partialOf i n).1

/-- The flags that the partials of a command raise. -/
def MatCmd.partialFlags (c : MatCmd) : Nat :=
  (List.range (64 * matRows c.ctl)).foldl (fun fl e => Nat.lor fl (c.partialOf (e / 64) (e % 64)).2) 0

/-- Round the partials and free the arrays. The flags of the rounding go into the context's FLG, and no trap is taken, the instruction
being past (DESIGN CHOICE, log 120: R240 exempts the merge alone). -/
def execMmaRetire (core : Nat) (s : State) : Outcome State Fault Refusal :=
  runEvent (do
    let s ← get
    let i ← needSome (s.coreAt core).mat.array
    let c ← matAt i
    need (decide (c.core = core ∧ c.status = .consuming ∧ c.kblocks.length = ctlK c.ctl / 64))
    let ps := (List.range (64 * matRows c.ctl)).map (fun e => c.partialSum (e / 64) (e % 64))
    modify fun s => ((s.freeArrays core i).modMat i (fun c => { c with partials := ps, status := .merging })).modCtx c.ctx
      (fun x => x.orFlags c.partialFlags)) s

/-! ### Writes at home (R240, R243) -/

/-- Address of element `e` of C. -/
def MatCmd.at_ (c : MatCmd) (e : Nat) : Word := addI c.cAddr (e / 64 * ctlCstride c.ctl + 4 * (e % 64) : Nat)

/-- Pieces in which a command writes: elements, or whole rows for a block-floating-point MOUT. -/
def MatCmd.pieces (c : MatCmd) : Nat :=
  if c.kind = .mout ∧ slotOut c.slot < 9 then matRows c.ctl else 64 * matRows c.ctl

/-- The bytes that one piece of a command writes, and for MOUT those of C that it reads (log 33). -/
def MatCmd.touches (c : MatCmd) (e : Nat) : List (Word × Nat) :=
  match c.kind with
  | .mout =>
    let f := slotOut c.slot
    if f < 9 then [(c.at_ (64 * e), 256), (addI c.dst (e * ctlDstride c.ctl : Nat), 8 * f), (addI c.sdst (e : Nat), 1)]
    else [(c.at_ e, 4), (addI c.dst (e / 64 * ctlDstride c.ctl + outElem f * (e % 64) : Nat), outElem f)]
  | _ => [(c.at_ e, 4)]

/-- Bytes of one context share a place with bytes of another: at one page offset, and of one physical page. -/
def State.bytesShare (s : State) (c : Nat) (a : Word × Nat) (d : Nat) (b : Word × Nat) : Bool :=
  let up := (b.1 - a.1).toNat % 4096
  let down := (a.1 - b.1).toNat % 4096
  (decide (up < a.2) && s.samePlace c (addI a.1 (up : Nat)) d b.1)
    || (decide (down < b.2) && s.samePlace c a.1 d (addI b.1 (down : Nat)))

/-- An earlier command of the core has still to write an element's bytes, through whatever mapping (R240). -/
def State.elemBusy (s : State) (i : Nat) (c : MatCmd) (e : Nat) : Bool :=
  (s.mats.take i).any fun x =>
    decide (x.core = c.core) && !x.isDone && !s.matAway x && decide (x.err = 0)
      && (List.range x.pieces).any (fun k => (x.touches k).any (fun b => s.bytesShare c.ctx (c.at_ e, 4) x.ctx b)
        && !x.merged.contains k)

/-- A write of any alignment by the matrix engine. -/
def matWrite (ag : Ag) (va : Word) (n v : Nat) : M Unit :=
  match n with
  | 0 => pure ()
  | k + 1 => do
    writeVa ag va 1 (v % 256) .engWrite
    matWrite ag (va + 1) k (v / 256)

/-- An element of C read at home. -/
def readC (ag : Ag) (c : MatCmd) (e : Nat) : M Nat := do
  let tr ← needAcc ag (c.at_ e)
  engineLoad ag tr 4

/-- One write of a command: a merge, a zero, or an element or row of output. -/
def matPiece (c : MatCmd) (e : Nat) : M Nat := do
  let ag := engAg (dieOf c.core) c.ctx
  match c.kind with
  | .mzero => do
    let tr ← needAcc ag (c.at_ e)
    engineWrite ag tr 4 0
    pure 1
  | .mout =>
    let f := slotOut c.slot
    if f < 9 then do
      let xs ← collect (List.range 64) (fun n => readC ag c (64 * e + n))
      let (ms, ex, _) := bfpEncode (xs.map fp32.read) f (slotRnd c.slot) (slotSat c.slot)
      matWrite ag (addI c.dst (e * ctlDstride c.ctl : Nat)) (8 * f) (bfpBits f ms)
      matWrite ag (addI c.sdst (e : Nat)) 1 ex
      pure 64
    else do
      let x ← readC ag c e
      let y := if f = 11 then x else ((codeFmt f).convertSat (slotRnd c.slot) (slotSat c.slot) (fp32.read x)).1
      writeVa ag (addI c.dst (e / 64 * ctlDstride c.ctl + outElem f * (e % 64) : Nat)) (outElem f) y .engWrite
      pure 1
  | _ => do
    let tr ← needAcc ag (c.at_ e)
    let p := ((c.partials[e]?).getD 0).toNat
    let _ ← atomicHome ag tr 4 (fun old => some (fp32.add 0 old p).1)
    pure 0

/-- A copy-on-write page met by a matrix command is served on the device (R238). -/
def State.matCow (s : State) (i : Nat) (c : MatCmd) (f : Flt) : State :=
  s.serve ⟨c.ctx, dieOf c.core, c.blk, c.grp, c.lanes, f, false, false, none, some i, none⟩

/-- Make one write of a command whose arrays have retired, or of an MZERO or MOUT. -/
def execMatrixMerge (i e : Nat) (s : State) : Outcome State Fault Refusal :=
  runEvent (do
    let c ← matAt i
    let s ← get
    need (decide (c.status = .merging) && decide (e < c.pieces) && !c.merged.contains e && !s.elemBusy i c e)
    need (!s.shootPending c.ctx && !s.cows.any (fun w => decide (w.mat = some i ∧ w.closed = false)))
    let r ← catchFlt (matPiece c e)
    match r with
    | .ok n => modify fun s => s.modMat i (fun c => { c with merged := c.merged ++ [e], wp := c.wp + n })
    | .error f =>
      if f.cls = 3 then modify fun s => s.matCow i c f
      else modify fun s => s.failMat i f (statusOf f)) s

/-- Every write of a command is performed, or it has stopped: its completion word is pushed when the queue has room,
and it is complete (R242). -/
def execMatrixCommandComplete (i : Nat) (s : State) : Outcome State Fault Refusal :=
  runEvent (do
    let c ← matAt i
    need (decide (c.status = .pushing) || (decide (c.status = .merging) && decide (c.merged.length = c.pieces)))
    let s ← get
    if isCq c.q then do
      let g ← needSome (s.grpAt c.blk c.grp)
      need (g.cqRoom c.q)
      modify fun s => s.modGrp c.blk c.grp (fun g => g.cqPush c.q (completionWord c.tag c.err c.wp))
    modify fun s => (s.modMat i (fun c => { c with status := .done })).taskDone c.blk c.task (decide (c.err = 0))) s

/-! ### Matrix state and its context (R230) -/

/-- Nothing is filled in a core's matrix state. -/
def MatState.clear (k : MatState) : Bool :=
  k.q8.isEmpty && k.q9.isEmpty && k.part8.isNone && k.part9.isNone && k.queue.isEmpty && k.array.isNone

/-- A block of a context is resident on either core of the pair. -/
def State.residentOn (s : State) (core ctx : Nat) : Bool :=
  s.blocks.any fun b => decide (b.ctx = ctx) && !b.ended && (decide (b.core = some core) || decide (b.core = some (partner core)))

/-- MMA and MMA1 stop at a split point or after merging, MZERO and MOUT at completion (R244). -/
def MatCmd.stops (c : MatCmd) : Bool :=
  match c.status with
  | .queued => true
  | .consuming => c.atStop
  | .merging => false
  | .pushing => true
  | .done => true

/-- Matrix state left by a context with no block resident on the pair is saved with it, once the command on its array stands at a
stop point, and the core is free (log 35). -/
def execMatrixStateSave (core : Nat) (s : State) : Outcome State Fault Refusal :=
  runEvent (do
    let s ← get
    let k := (s.coreAt core).mat
    let ctx ← needSome k.ctx
    need (!k.clear && ((k.array.bind s.mat?).map (·.stops)).getD true && !s.residentOn core ctx)
    modify fun s =>
      let s := { s with savedMat := s.savedMat ++ [(ctx, core, k)] }
      s.modMatState core (fun _ => Core.empty.mat)) s

/-- The cores of a pair as a context sees them: a partner that is a hole or another partition's makes none (R228). -/
def State.pairOf (s : State) (core ctx : Nat) : List Nat :=
  if s.ownsSite ctx (BitVec.ofNat 64 (partner core)) then [core, partner core] else [core]

/-- Blocks of another context, or what it filled, keep a context from the pair. -/
def State.pairHeld (s : State) (core ctx : Nat) : Bool :=
  (s.pairOf core ctx).any fun k => s.blocks.any (fun b => decide (b.core = some k ∧ b.ctx ≠ ctx) && !b.ended)
    || (!(s.coreAt k).mat.clear && decide ((s.coreAt k).mat.ctx ≠ some ctx))

/-- A context's saved state returns to its core before a block of the context is placed there again. -/
def execMatrixStateRestore (core ctx : Nat) (s : State) : Outcome State Fault Refusal :=
  runEvent (do
    let s ← get
    need ((s.coreAt core).mat.clear && !s.pairHeld core ctx)
    let x ← needSome (s.savedMat.find? (fun x => decide (x.1 = ctx ∧ x.2.1 = core)))
    modify fun s =>
      let s := { s with savedMat := s.savedMat.filter (fun x => !decide (x.1 = ctx ∧ x.2.1 = core)) }
      s.modMatState core (fun _ => x.2.2)) s

end Sys2Proof.Machine
end

