-- ==== Sys2Proof/Machine/Tasks.lean ====
section
/-!
DEFINITION. The dependency table (spec/11 R245 to R247): TDECL, TSIG, TWAIT, TQRY, and the issue of a ready task.
-/

namespace Sys2Proof.Machine

open Host

/-- What a task's WORD does: a copy or a matrix command, with its Q, FSLOT and SPLIT. -/
inductive TaskOp where
  | copy (kind : CopyKind) (q f sp : Nat)
  | mat (kind : MatKind) (q f sp : Nat)
  deriving DecidableEq, Repr, Inhabited

/-- The command of a WORD whose A and B fields are zero (R246). -/
def taskOp (w : Nat) : Option TaskOp :=
  match decodeWord w with
  | .ok (.cpyb q s a b) => if a = 0 ∧ b = 0 then some (.copy .cpyb q.toNat 0 s.toNat) else none
  | .ok (.cpyt q f s a b) => if a = 0 ∧ b = 0 then some (.copy .cpyt q.toNat f.toNat s.toNat) else none
  | .ok (.cpyh q s a) => if a = 0 then some (.copy .cpyh q.toNat 0 s.toNat) else none
  | .ok (.cpyc q s a b) => if a = 0 ∧ b = 0 then some (.copy .cpyc q.toNat 0 s.toNat) else none
  | .ok (.mma q f s a b) => if a = 0 ∧ b = 0 then some (.mat .mma q.toNat f.toNat s.toNat) else none
  | .ok (.mma1 q f s a b) => if a = 0 ∧ b = 0 then some (.mat .mma1 q.toNat f.toNat s.toNat) else none
  | .ok (.mzero q a b) => if a = 0 ∧ b = 0 then some (.mat .mzero q.toNat 0 0) else none
  | .ok (.mout q f a b) => if a = 0 ∧ b = 0 then some (.mat .mout q.toNat f.toNat 0) else none
  | _ => none

/-! ### TDECL -/

/-- A task record's reserved bytes and tags. -/
def taskRecOk (r : List Nat) : Bool :=
  let out := fld 39 32 (wordAt r 0)
  decide (out < 64 ∨ out = 0xFF) && decide (fld 47 40 (wordAt r 0) = 0) && decide (wordAt r 6 = 0 ∧ wordAt r 7 = 0)

def taskOf (va : Word) (r : List Nat) (grp : Nat) (m : BitVec 32) : Task :=
  { rec_ := va, word := BitVec.ofNat 32 (wordAt r 0), out := fld 39 32 (wordAt r 0), tag := fld 63 48 (wordAt r 0)
    ins := BitVec.ofNat 64 (wordAt r 1), av := [2, 3, 4].map (fun i => BitVec.ofNat 64 (wordAt r i))
    bv := BitVec.ofNat 64 (wordAt r 5), grp := grp, lanes := m, ready := none, issued := false, done := false }

def Task.arg (t : Task) (i : Nat) : Word := (t.av[i]?).getD 0

/-- The checks TDECL makes on WORD, AV and BV: those of R124 and R238 that read no memory. -/
def taskChecks (op : TaskOp) (t : Task) : M Unit :=
  match op with
  | .copy kind q f _ => do
    check (copyFieldsOk kind q f) (illegal 1)
    if isFeed kind q then onShaderCore
    let c ← curCore
    let _ ← engineFor kind q c (if kind = .cpyh then 0 else t.bv)
    check ((t.arg 0).toNat % 64 = 0) (accFlt 6 0 .engRead (t.arg 0) 0)
  | .mat kind q f _ => do
    check (q = 0 || isCq q) (illegal 1)
    let g ← curGrid
    matCore kind
    matChecks kind q (slotOf g.lrec f) (t.arg 0) t.bv (t.arg 1)

def Block.waitingTasks (b : Block) : Nat := (b.tasks.filter (fun t => !t.issued)).length

/-- Enter a task: its output tag counts up, and it is ready at once when its inputs are. -/
def Block.declare (b : Block) (next : Nat) (t : Task) : Block :=
  ({ b with tasks := b.tasks ++ [t], counts := b.counts.modify t.out (fun n => (n + 1) % 65536) } : Block).markReady next

/-- A word of the eight instructions that a task may carry out, with its A and B fields zero. -/
def isTaskWord (w : Nat) : Bool := decide ((fld 31 26 w = 0x2C ∨ fld 31 26 w = 0x31) ∧ fld 1 0 w < 4 ∧ fld 15 2 w = 0)

def declareTask (va : Word) : M Unit := do
  let r ← readRecord va 8 64
  check (taskRecOk r) (illegal 4)
  let s ← get
  let t := taskOf va r s.cur.grp s.curLanes
  match taskOp t.word.toNat with
  | none => raise (illegal (if isTaskWord t.word.toNat then 1 else 4))
  | some op => do
    taskChecks op t
    let b ← curBlk
    if Config.waitingTasks ≤ b.waitingTasks then wait
    let s ← get
    modCurBlk (fun b => b.declare s.readyNext t)

def execTdecl (a : BitVec 7) (s : State) : Outcome State Fault Refusal :=
  runWord (do
    noPfx
    let va ← readUni a
    let h ← onlyHelpers
    if h then pure () else declareTask va
    retire) s

/-! ### TSIG, TWAIT, TQRY (R247) -/

/-- A tag operand: bits 5:0, the others zero. -/
def tagOf (v : Word) : M Nat := do
  check (decide (v.toNat < 64)) (illegal 7)
  pure v.toNat

def execTsig (a b : BitVec 7) (s : State) : Outcome State Fault Refusal :=
  runWord (do
    noPfx
    let x ← readUni a
    let d ← readUni b
    let h ← onlyHelpers
    if h then retire
    else do
      let t ← tagOf x
      releaseCur 5
      let blk ← curBlk
      let n := (blk.count t : Int) + d.toInt
      check (decide (0 ≤ n ∧ n ≤ 65535)) (illegal 7)
      let s ← get
      modCurBlk fun b => ({ b with counts := b.counts.set t n.toNat } : Block).markReady s.readyNext
      retire) s

/-- Faults of matrix commands and tasks are raised on their issuing threads (R242, R246). -/
def raiseTasks : M Unit := do
  let cs ← dueCmds
  raiseCopy (cs.filter (fun c => c.task.isSome))
  let gs ← grpMats
  raiseMat gs

def execTwait (a : BitVec 7) (s : State) : Outcome State Fault Refusal :=
  runWord (do
    noPfx
    let x ← readUni a
    let t ← tagOf x
    raiseTasks
    let b ← curBlk
    if b.count t ≠ 0 then wait
    let c ← curCore
    acquireFor c 5
    retire) s

def execTqry (a b : BitVec 7) (s : State) : Outcome State Fault Refusal :=
  runWord (do
    noPfx
    let n ← needUni a
    let x ← readUni b
    let t ← tagOf x
    let blk ← curBlk
    writeUni n (BitVec.ofNat 64 (blk.count t + 2 ^ 16 * blk.waitingTasks))
    retire) s

/-! ### TASK_ISSUE (R246) -/

/-- The queue a task is bound for: an engine, or a core's matrix queue. -/
inductive TaskQueue where
  | engine (e : Engine)
  | matrix (core : Nat)
  deriving DecidableEq, Repr, Inhabited

def Task.target (t : Task) (core : Nat) : Option TaskQueue :=
  match taskOp t.word.toNat with
  | some (.copy kind _ _ _) =>
    some (.engine (if kind = .cpyh then .halo (dieOf core)
      else if t.bv.toNat / 4 % 2 = 1 then .bulk (dieOf core) else .chan core (t.bv.toNat % 4)))
  | some (.mat _ _ _ _) => some (.matrix core)
  | none => none

/-- A ready task of the block that enters a queue before one that is the `i`th of its block and ready as number `q`. -/
def Block.before (b : Block) (i core q : Nat) (to_ : Option TaskQueue) : Bool :=
  ((List.range b.tasks.length).zip b.tasks).any fun x =>
    match x.2.ready with
    | some r => !x.2.issued && decide (x.2.target core = to_) && (decide (r < q) || decide (r = q ∧ x.1 < i))
    | none => false

/-- A ready task of some block on a core enters the same queue before task `i` of a block. -/
def State.taskBefore (s : State) (i core : Nat) (t : Task) : Bool :=
  match t.ready with
  | some q => s.blocks.any (fun b => match b.core with
    | some c => !b.ended && b.before i c q (t.target core)
    | none => false)
  | none => false

/-- The command of a task that its issue refused: complete with a status, and no completion word pushed (DESIGN CHOICE, log 136: R246 does
not say). -/
def endTask (op : TaskOp) (i core : Nat) (t : Task) (f : Flt) (status : Nat) : M Unit := do
  let b ← curBlk
  let s ← get
  match op with
  | .copy kind q _ sp => do
    let eng := match t.target core with
      | some (.engine e) => e
      | _ => .halo (dieOf core)
    let c := cmdOf kind q 0 sp (t.arg 0) [] b.ctx s.cur.blk t.grp core t.lanes eng (some t.tag) (some i)
    set { s with cmds := s.cmds ++ [{ c with status := .done, err := status, flt := f, descAt := t.rec_ }] }
  | .mat kind q _ sp => do
    let c := matCmdOf kind q 0 sp (t.arg 0) t.bv (t.arg 1) (t.arg 2) b.ctx s.cur.blk t.grp core t.lanes t.tag (some i) t.rec_
    set { s with mats := s.mats ++ [{ c with status := .done, err := status, flt := f }] }

/-- The same with the fault's cause (spec/06 R134). -/
def failTask (op : TaskOp) (i core : Nat) (t : Task) (f : Flt) : M Unit := endTask op i core t f (statusOf f)

/-- Issue the command of a task, exactly as the declaring thread would. -/
def issueTask (op : TaskOp) (i : Nat) (t : Task) : M Unit :=
  match op with
  | .copy kind q f sp =>
    acceptCopy kind q f sp (t.arg 0) (if kind = .cpyh then 0 else t.bv) t.grp t.lanes (some t.tag) (some i)
  | .mat kind q f sp =>
    acceptMat kind q f sp (t.arg 0) t.bv (t.arg 1) (t.arg 2) t.grp t.lanes t.tag (some i) t.rec_

/-- A ready task enters its queue when there is room and none that became ready earlier waits for the same queue. -/
def execTaskIssue (blk i : Nat) (s : State) : Outcome State Fault Refusal :=
  runEvent (do
    let s ← get
    let b ← needSome (s.blkAt blk)
    let core ← needSome b.core
    let t ← needSome b.tasks[i]?
    need (!b.ended && t.ready.isSome && !t.issued && !s.taskBefore i core t && !s.preempting b.ctx)
    let op ← needSome (taskOp t.word.toNat)
    set { s with cur := ⟨blk, t.grp, 2 ^ 32, t.word, none⟩ }
    let r ← catchFlt (issueTask op i t)
    match r with
    | .ok _ => pure ()
    | .error f =>
      if f.cls = 3 then do
        let s ← get
        need (!s.cows.any (fun w => decide (w.blk = blk ∧ w.task = some i ∧ w.closed = false)))
        set (s.serve ⟨b.ctx, dieOf core, blk, t.grp, t.lanes, f, false, false, none, none, some i⟩)
      else failTask op i core t f
    modify fun s =>
      let waits := match r with
        | .ok _ => true
        | .error f => decide (f.cls ≠ 3)
      s.modBlk blk (fun b => { b with tasks := b.tasks.modify i (fun t => { t with issued := waits }) })) s

end Sys2Proof.Machine
end

