-- ==== Sys2Proof/Machine/Launch.lean ====
section
/-!
DEFINITION. Launch records and their checks (spec/14 R284), user queues (R280), and LAUNCH (R294).
-/

namespace Sys2Proof.Machine

open Host

/-! ### The record (R284) -/

/-- Byte `o` of a record read as dwords. -/
def byteOf (w : List Nat) (o : Nat) : Nat := fld (8 * (o % 8) + 7) (8 * (o % 8)) (wordAt w (o / 8))

def half (w : List Nat) (o : Nat) : Nat := fld (8 * (o % 8) + 31) (8 * (o % 8)) (wordAt w (o / 8))

def launchRec (w : List Nat) : LaunchRec :=
  let dw := fun i : Nat => BitVec.ofNat 64 (wordAt w i)
  { kernel := dw 0, gx := half w 8, gy := half w 12, gz := half w 16, block := byteOf w 20, cluster := byteOf w 21
    vregs := byteOf w 22, uregs := byteOf w 23, scratch := byteOf w 24, mode := byteOf w 25, prio := byteOf w 26
    phases := BitVec.ofNat 8 (byteOf w 27), part := byteOf w 28, target := byteOf w 29, plines := fld 63 48 (wordAt w 3)
    slots := (List.range 8).map (fun i => BitVec.ofNat 32 (half w (32 + 4 * i)))
    params := dw 8, source := dw 9, start := dw 10, signal := dw 11, sigval := dw 12, rq0 := dw 13, rq1 := dw 14
    aff := byteOf w 120, adim := byteOf w 121, abase := dw 16, asx := dw 17, asy := dw 18, asz := dw 19
    clean := decide (fld 63 16 (wordAt w 15) = 0) && (List.range 12).all (fun i => decide (wordAt w (20 + i) = 0)) }

/-- G of R187: groups of a kernel a core holds. -/
def groupLimit (vregs : Nat) : Nat := min 24 (1536 / vregs)

def regsOk (r : LaunchRec) : Bool :=
  decide (16 ≤ r.vregs ∧ r.vregs ≤ 96 ∧ r.vregs % 8 = 0 ∧ 1 ≤ r.uregs ∧ r.uregs ≤ 32 ∧ 1 ≤ r.block)
    && decide (r.block ≤ groupLimit r.vregs)

/-- Dies on which a partition owns cores of the kind a target names (R288). -/
def Part.dies (p : Part) (target : Nat) : List Nat :=
  (List.range 4).filter fun d =>
    let m := (p.sites[d]?).getD 0
    if target = 1 then (List.range 8).any (fun i => m.getLsbD (112 + i))
    else (List.range 108).any (fun i => m.getLsbD i)

/-- The checks of R284 that need only the record and the partition: causes 1, 2, 3, 5, 7 and 8 as a list that holds
those that fail. `pixel` is for a record that a render target names (spec/21 R340). -/
def plainCauses (r : LaunchRec) (partNo : Nat) (p : Part) (pixel : Bool) : List Nat :=
  let bad := fun (c : Nat) (b : Bool) => if b then [c] else []
  bad 1 (!r.clean || decide (3 < r.prio ∨ 256 < r.plines ∨ r.signal.toNat % 8 ≠ 0 ∨ 3 < r.mode ∨ 1 < r.target ∨ 3 < r.aff))
    ++ bad 2 (!regsOk r)
    ++ bad 3 (decide (7 < r.scratch ∨ r.cluster = 0 ∨ 8 < r.cluster))
    ++ bad 5 (decide (r.part ≠ partNo))
    ++ bad 6 (if r.mode = 0 then decide (r.gx = 0 ∨ r.gy = 0 ∨ r.gz = 0 ∨ r.source ≠ 0)
        else decide (r.gx ≠ 0 ∨ r.gy ≠ 0 ∨ r.gz ≠ 0 ∨ (r.mode = 3 ∧ (r.source ≠ 0 ∨ !pixel))))
    ++ bad 6 (pixel && decide (r.mode ≠ 3 ∨ r.target ≠ 0 ∨ r.phases ≠ 0))
    ++ bad 7 (decide ((r.aff = 3 ∧ r.mode ≠ 1) ∨ 2 < r.adim ∨ (r.aff ≠ 1 ∧ r.adim ≠ 0)
        ∨ (r.aff ≠ 2 ∧ (r.abase ≠ 0 ∨ r.asx ≠ 0 ∨ r.asy ≠ 0 ∨ r.asz ≠ 0))))
    ++ bad 8 (decide (r.target = 1) && (decide (r.block ≠ 1 ∨ r.cluster ≠ 1 ∨ (r.mode ≠ 0 ∧ r.mode ≠ 2)) || (p.dies 1).isEmpty))

/-- A dword of memory read at home for the scheduler or for an instruction, in any caller's agency. -/
def readHome (ag : Ag) (va : Word) : M Nat := do
  let tr ← translate ag va .load
  engineRead ag tr 8

def readDwords (ag : Ag) (va : Word) (n : Nat) : M (List Nat) :=
  collect (List.range n) (fun i => readHome ag (va + BitVec.ofNat 64 (8 * i)))

/-- KERNEL is executable (cause 4). -/
def kernelBad (ag : Ag) (r : LaunchRec) : M Bool := do
  let k ← catchFlt (translate ag r.kernel .fetch)
  pure (decide (r.kernel.toNat % 4 ≠ 0) || (match k with
    | .ok _ => false
    | .error _ => true))

/-- A mode-2 record's source queue: causes 6 and 8. -/
def sourceCauses (ag : Ag) (va : Word) (r : LaunchRec) : M (List Nat) :=
  if r.mode = 2 then do
    let d ← catchFlt (readDwords ag r.source 16)
    match d with
    | .error _ => pure [6]
    | .ok d =>
      pure ((if !rqOk d || decide (r.source.toNat % 128 ≠ 0) || decide (rqConsumer d ≠ va)
          || decide (rqBatch d = 0 ∨ 32 * r.block < rqBatch d) then [6] else [])
        ++ (if r.target = 1 ∧ 4 < rqBatch d then [8] else []))
  else pure []

/-- Read and check a record: its fields, and the lowest cause that fails, 0 for none. -/
def checkLaunch (ag : Ag) (va : Word) (pixel : Bool) : M (Option LaunchRec × Nat) := do
  let w ← catchFlt (readDwords ag va 32)
  match w with
  | .error _ => pure (none, 9)
  | .ok w => do
    if va.toNat % 256 ≠ 0 then pure (none, 9)
    else do
      let r := launchRec w
      let s ← get
      let pn := s.partOf ag.ctx
      let p ← needSome (s.parts.find? pn)
      let k ← kernelBad ag r
      let src ← sourceCauses ag va r
      let all := plainCauses r pn p pixel ++ (if k then [4] else []) ++ src
      pure (some r, if all = [] then 0 else all.foldl min 9)

/-! ### User queues (R280) -/

/-- A user-queue descriptor as eight dwords. -/
def uqRing (d : List Nat) : Word := BitVec.ofNat 64 (wordAt d 0)
def uqSize (d : List Nat) : Nat := fld 31 0 (wordAt d 1)
def uqPrio (d : List Nat) : Nat := fld 39 32 (wordAt d 1)
def uqWrite (d : List Nat) : Nat := wordAt d 2
def uqRead (d : List Nat) : Nat := wordAt d 3

/-- A descriptor within R280. A RING that is not 64-byte aligned is taken for one that is not (DESIGN CHOICE, log 137: the layout asks for
the alignment, the list of what stops a queue does not name it). -/
def uqOk (d : List Nat) : Bool :=
  isPow2 (uqSize d) 16 65536 && decide (uqPrio d < 4) && decide (fld 63 40 (wordAt d 1) = 0)
    && decide (wordAt d 0 % 64 = 0) && (List.range 4).all (fun i => decide (wordAt d (4 + i) = 0))
    && decide ((uqWrite d + 2 ^ 64 - uqRead d) % 2 ^ 64 ≤ uqSize d)

/-- Packet `n` of a ring. -/
def uqPacket (d : List Nat) (n : Nat) : Word := uqRing d + BitVec.ofNat 64 (64 * (n % uqSize d))

/-! ### LAUNCH (R294) -/

/-- Write a launch packet and advance WRITE. -/
def writePacket (rec_ q : Word) : M Word := do
  let ag ← curAg
  let d ← collect (List.range 8) (fun i => coreReadHome (q + BitVec.ofNat 64 (8 * i)))
  if uqSize d ≤ (uqWrite d + 2 ^ 64 - uqRead d) % 2 ^ 64 then pure 1
  else do
    let n := uqWrite d
    let at_ := uqPacket d n
    each (List.range 8) (fun i => do
      let tr ← checkedAccess ag (at_ + BitVec.ofNat 64 (8 * i)) 8 .store
      coreWriteHome tr (if i = 0 then 1 else if i = 1 then rec_.toNat else 0))
    let wtr ← checkedAccess ag (q + 16) 8 .atomic
    coreWriteHome wtr ((n + 1) % 2 ^ 64)
    pure (BitVec.ofNat 64 (n * 2 ^ 32))

def launchBody (d a b : BitVec 7) : M Unit := do
  let n ← needUni d
  let x ← readUni a
  let q ← readUni b
  let h ← onlyHelpers
  if h then pure ()
  else do
    releaseCur 5
    let ag ← curAg
    let (_, cause) ← checkLaunch ag x false
    if cause ≠ 0 then writeUni n (BitVec.ofNat 64 (2 + 256 * cause))
    else do
      let s ← get
      check (s.queues.any (fun u => decide (u.va = q ∧ u.ctx = ag.ctx))) (accFlt 2 9 .atomic q 0)
      let r ← writePacket x q
      writeUni n r

def execLaunch (d a b : BitVec 7) (s : State) : Outcome State Fault Refusal :=
  runWord (do
    noPfx
    launchBody d a b
    toNextHeader) s

end Sys2Proof.Machine
end

