-- ==== Sys2Proof/Machine/Pixel.lean ====
section
/-!
DEFINITION. Render targets and their producers (spec/21 R333 to R338), coverage and interpolation (R340, R342), and the
pixel instructions: PEMIT, PEMIT.END, PATTR, PCOV, PEXP, PKILL and PDEPTH.
-/

namespace Sys2Proof.Machine

open Host

/-! ### The render target (R333) -/

def targetOf (w : List Nat) : Target :=
  { color := BitVec.ofNat 64 (wordAt w 0), depth := BitVec.ofNat 64 (wordAt w 1)
    width := fld 15 0 (wordAt w 2), height := fld 31 16 (wordAt w 2), samples := byteOf w 20, colfmt := byteOf w 21
    blend := byteOf w 22, depthctl := byteOf w 23, pat := byteOf w 24, phase := byteOf w 25, nprod := byteOf w 26
    bincap := half w 28, bins := BitVec.ofNat 64 (wordAt w 4), spill := BitVec.ofNat 64 (wordAt w 5)
    prec := BitVec.ofNat 64 (wordAt w 6) }

def sizeOk (n : Nat) : Bool := decide (n % 32 = 0 ∧ 32 ≤ n ∧ n ≤ 16384)

def targetOk (w : List Nat) : Bool :=
  let t := targetOf w
  sizeOk t.width && sizeOk t.height && [1, 2, 4, 8].contains t.samples && decide (t.colfmt < 2 ∧ t.blend < 4)
    && decide (t.depthctl < 8 ∧ t.phase < 8 ∧ 1 ≤ t.nprod ∧ t.nprod ≤ 64) && isPow2 t.bincap 64 65536
    && decide (byteOf w 27 = 0 ∧ wordAt w 7 = 0)
    && [t.color, t.depth, t.bins, t.spill].all (fun a => decide (a.toNat % 128 = 0))

/-- Owner of a super-tile value, folded onto the dies that have shader cores (R334). -/
def foldDie (dies : List Nat) (v : Nat) : Nat := (dies[v % dies.length]?).getD v

/-- Owner of tile (tx, ty). -/
def Target.owner (t : Target) (dies : List Nat) (tx ty : Nat) : Nat :=
  let k := 2 * (ty / 4 % 2) + tx / 4 % 2
  foldDie dies (fld (2 * k + 1) (2 * k) t.pat)

def insertNat (x : Nat) (l : List Nat) : List Nat := if l.contains x then l else l ++ [x]

/-- Each distinct die in PAT. -/
def Target.owners (t : Target) (dies : List Nat) : List Nat :=
  (List.range 4).foldl (fun acc k => insertNat (foldDie dies (fld (2 * k + 1) (2 * k) t.pat)) acc) []

/-- Dies on which the context's partition owns shader cores. -/
def State.shaderDies (s : State) (ctx : Nat) : List Nat :=
  match s.parts.find? (s.partOf ctx) with
  | some p => p.dies 0
  | none => []

/-- An open frame of a descriptor. -/
def State.frameAt (s : State) (ctx : Nat) (va : Word) : Option (Nat × Frame) :=
  ((List.range s.frames.length).zip s.frames).find? (fun x => decide (x.2.ctx = ctx ∧ x.2.descAt = va) && !x.2.closed)

/-- A grid that stands for the blocks a coverage unit starts: the pixel kernel's record (R340). -/
def pixelGrid (ctx : Nat) (va : Word) (r : LaunchRec) : Grid :=
  { ctx := ctx, recVa := va, lrec := r, queue := none, scanned := true, leaves := [], next := 0, ended := 0, done := true
    waitSince := none, ns := 0, qInst := List.replicate 8 0, qSweep := List.replicate 8 none, seen := [] }

def Cover.fresh (die : Nat) : Cover :=
  { die := die, tiles := [], spilled := [], touched := [], work := [], taken := 0, applied := 0, written := false }

def Tile.is (t : Tile) (tx ty : Nat) : Bool := decide (t.tx = tx ∧ t.ty = ty)

def Cover.resident (c : Cover) (tx ty : Nat) : Bool := c.tiles.any (fun t => t.is tx ty)

/-- What a die's units hold for each open frame, with the frame's number. -/
def State.coversOn (s : State) (die : Nat) : List (Nat × Cover) :=
  ((s.frames.mapIdx fun i f => (f.covers.filter (fun c => !f.closed && decide (c.die = die))).map (fun c => (i, c)))).flatten

/-- Tiles resident in the buffers of a die's one coverage unit, of every frame (spec/00 R2, R339). -/
def State.tilesOn (s : State) (die : Nat) : List Tile := ((s.coversOn die).map (fun x => x.2.tiles)).flatten

/-- A buffer of the die's unit is free. -/
def State.tileRoom (s : State) (die : Nat) : Bool := decide ((s.tilesOn die).length < Config.residentTiles)

/-- The owner has quads to start, whose tile is resident or can be (R340, R341). -/
def State.hasNext (s : State) (c : Cover) : Bool :=
  match c.work.find? (fun w => !w.quads.isEmpty) with
  | some w => c.resident w.tx w.ty || s.tileRoom c.die
  | none => false

/-- Dies on which a pixel kernel's grid has a pixel group to start. -/
def State.pixelDies (s : State) (gi : Nat) : List Nat :=
  ((s.frames.filter (fun f => decide (f.grid = gi) && !f.closed)).map fun f =>
    (f.covers.filter s.hasNext).map (·.die)).flatten

/-- Read and check a descriptor, and open a frame of it when none is open; a frame's descriptor may not change. -/
def openTarget (va : Word) : M (Nat × Target) := do
  let w ← readRecord va 8 64
  check (targetOk w) (illegal 4)
  let t := targetOf w
  let ag ← curAg
  let (r, cause) ← checkLaunch ag t.prec true
  check (decide (cause = 0)) (illegal 4)
  let s ← get
  match s.frameAt ag.ctx va with
  | some (i, f) => do
    check (decide (f.target = t)) (illegal 4)
    pure (i, t)
  | none => do
    let dies := s.shaderDies ag.ctx
    match r with
    | none => raise (illegal 4)
    | some r => do
      let f : Frame := ⟨ag.ctx, va, t, s.grids.length, (t.owners dies).map Cover.fresh, false⟩
      set { s with frames := s.frames ++ [f], grids := s.grids ++ [pixelGrid ag.ctx t.prec r] }
      pure (s.frames.length, t)

/-! ### Bins (R335) -/

def Target.markAt (t : Target) (p : Nat) : Word := addI t.bins (8 * p : Nat)

def Target.binAt (t : Target) (d p : Nat) : Word :=
  addI t.bins (512 + (t.nprod * d + p) * (64 + 256 * t.bincap) : Nat)

def Target.entryAt (t : Target) (d p n : Nat) : Word := addI (t.binAt d p) (64 + 256 * (n % t.bincap) : Nat)

/-! ### Snapping and boxes (R338, R340) -/

/-- A position snapped RNE to a multiple of 1/256; none for NaN or infinity. Snapping raises no flag, neither inexact nor invalid (DESIGN
CHOICE, log 131: R338 and R340 do not say). -/
def snap (x : Nat) : Option Int :=
  match fp32.read x with
  | .fin n m e => some (roundInt 0 n m (e + 8)).1
  | _ => none

/-- Snapped vertices, when every position is finite. -/
def snapAll (pos : List (BitVec 32)) : Option (List Int) :=
  (pos.take 6).foldr (fun x acc => match acc, snap x.toNat with
    | some l, some v => some (v :: l)
    | _, _ => none) (some [])

def minInt (l : List Int) : Int := l.foldl min (l.head?.getD 0)
def maxInt (l : List Int) : Int := l.foldl max (l.head?.getD 0)

/-- Tiles the snapped vertex box touches, row by row. -/
def Target.box (t : Target) (pos : List (BitVec 32)) : List (Nat × Nat) :=
  match snapAll pos with
  | some [x0, y0, x1, y1, x2, y2] =>
    let range := fun (l : List Int) (n : Nat) =>
      let lo : Int := max 0 (minInt l / 8192)
      let hi : Int := min (((n / 32 : Nat) : Int) - 1) (maxInt l / 8192)
      (List.range (hi + 1 - lo).toNat).map (fun i => lo.toNat + i)
    let xs := range [x0, x1, x2] t.width
    let ys := range [y0, y1, y2] t.height
    (ys.map fun y => xs.map fun x => (x, y)).flatten
  | _ => []

/-- Owners of the tiles of a box. -/
def Target.boxOwners (t : Target) (dies : List Nat) (pos : List (BitVec 32)) : List Nat :=
  (t.box pos).foldl (fun acc b => insertNat (t.owner dies b.1 b.2) acc) []

/-! ### PEMIT and PEMIT.END (R337, R338) -/

/-- Positions a lane supplies: x0, y0, x1, y1, x2, y2, z0, z1, z2. -/
def lanePos (g : Group) (d l : Nat) : List (BitVec 32) :=
  (List.range 9).map fun i => BitVec.ofNat 32 (elem 32 (i % 2) (laneOf (g.vreg (d + i / 2)) l))

/-- The dwords of a bin entry. -/
def entryWords (s : Nat) (pos : List (BitVec 32)) (attrs : List (BitVec 32 × BitVec 32 × BitVec 32)) : List Nat :=
  let flat := (attrs.map fun a => [a.1.toNat, a.2.1.toNat, a.2.2.toNat]).flatten
  let ws := pos.map (·.toNat) ++ [0] ++ flat ++ List.replicate 28 0
  s :: (List.range 31).map (fun i => (ws[2 * i]?).getD 0 + 2 ^ 32 * (ws[2 * i + 1]?).getD 0)

/-- Write a dword at home in the issuing thread's name. -/
def putHomeWord (va : Word) (v : Nat) : M Unit := do
  let ag ← curAg
  let tr ← checkedAccess ag va 8 .store
  coreWriteHome tr v

/-- Count messages sent in a phase at the issuing core. -/
def countSent (phase n : Nat) : M Unit := do
  let c ← curCore
  let b ← curBlk
  modify fun s => s.count (.core c) b.ctx phase n 0

/-- Sequence numbers within R336 and rising, above the mark. -/
def seqOk (mark : Nat) (l : List Nat) : Bool :=
  match l with
  | [] => true
  | s :: r => decide (s < 2 ^ 44 ∧ 2 ^ 20 ≤ s ∧ mark < s) && seqOk s r

/-- Write one lane's primitive into the bin of one owner. -/
def putEntry (t : Target) (p d s : Nat) (pos : List (BitVec 32)) (attrs : List (BitVec 32 × BitVec 32 × BitVec 32)) :
    M Unit := do
  let n ← coreReadHome (t.binAt d p)
  let at_ := t.entryAt d p n
  each ((List.range 32).zip (entryWords s pos attrs)) (fun (x : Nat × Nat) => putHomeWord (addI at_ (8 * x.1 : Nat)) x.2)
  putHomeWord (t.binAt d p) ((n + 1) % 2 ^ 64)
  countSent t.phase 1

def zeroAttrs : List (BitVec 32 × BitVec 32 × BitVec 32) := List.replicate 8 (0, 0, 0)

def emitBody (d a b : BitVec 7) : M Unit := do
  let rd ← needRange d 5
  let va ← readUni a
  let sv ← readOp b
  let m ← lanes
  each (List.range 5) (fun i => checkReg (rd + i) m)
  let h ← onlyHelpers
  if h then pure ()
  else do
    let (_, t) ← openTarget va
    let blk ← curBlk
    let p := blk.x
    check (decide (p < t.nprod)) (illegal 3)
    let mark ← coreReadHome (t.markAt p)
    let g ← curGrp
    let ls := lanesOf (m &&& ~~~ g.helper)
    let seq := fun l => (laneOf sv l).toNat
    check (seqOk mark (ls.map seq)) (illegal 3)
    let s ← get
    let dies := s.shaderDies blk.ctx
    let owners := fun l => t.boxOwners dies (lanePos g rd l)
    each (t.owners dies) (fun o => do
      let n := (ls.filter (fun l => (owners l).contains o)).length
      if n ≠ 0 then do
        let wc ← coreReadHome (t.binAt o p)
        let rc ← coreReadHome (addI (t.binAt o p) 8)
        if t.bincap < wc - rc + n then wait)
    releaseCur 5
    each ls (fun l =>
      each (owners l) (fun o => putEntry t p o (seq l) (lanePos g rd l) ((g.attrs[l]?).getD zeroAttrs)))
    modifyGet fun s => ((), s.modGrp s.cur.blk s.cur.grp fun g =>
      { g with attrs := setLanes g.attrs (m &&& ~~~ g.helper) zeroAttrs })
    match ls.getLast? with
    | some l => putHomeWord (t.markAt p) (seq l)
    | none => pure ()

def execPemit (d a b : BitVec 7) (s : State) : Outcome State Fault Refusal :=
  runWord (do
    noPfx
    emitBody d a b
    retire) s

def execPemitEnd (a : BitVec 7) (s : State) : Outcome State Fault Refusal :=
  runWord (do
    noPfx
    let va ← readUni a
    let h ← onlyHelpers
    if h then pure ()
    else do
      let (_, t) ← openTarget va
      let blk ← curBlk
      check (decide (blk.x < t.nprod)) (illegal 3)
      let mark ← coreReadHome (t.markAt blk.x)
      check (decide (mark ≠ 2 ^ 64 - 1)) (illegal 3)
      releaseCur 5
      putHomeWord (t.markAt blk.x) (2 ^ 64 - 1)
      let s ← get
      countSent t.phase (t.owners (s.shaderDies blk.ctx)).length
    retire) s

def execPattr (a : BitVec 7) (j : BitVec 3) (s : State) : Outcome State Fault Refusal :=
  runWord (do
    noPfx
    let ra ← needRange a 2
    let m ← lanes
    checkReg ra m
    checkReg (ra + 1) m
    let g ← curGrp
    let e := fun i k l : Nat => BitVec.ofNat 32 (elem 32 k (laneOf (g.vreg (ra + i)) l))
    modCurGrp fun g =>
      { g with attrs := g.attrs.mapIdx fun l x =>
          if (m &&& ~~~ g.helper).getLsbD l then x.set j.toNat (e 0 0 l, e 0 1 l, e 1 0 l) else x }
    retire) s

/-! ### Interpolation (R342) -/

def vertices (p : Prim) : Option (List Int) := snapAll p.pos

/-- Twice the signed area, and the edge ratios' numerators at a point, all in 1/256 pixel. -/
def edgeTerms (v : List Int) (x y : Int) : Int × Int × Int :=
  match v with
  | [x0, y0, x1, y1, x2, y2] =>
    ((x1 - x0) * (y2 - y0) - (y1 - y0) * (x2 - x0),
     (x - x0) * (y2 - y0) - (y - y0) * (x2 - x0),
     (x1 - x0) * (y - y0) - (y1 - y0) * (x - x0))
  | _ => (1, 0, 0)

/-- An exact ratio of integers rounded once to FP32, and its flags. -/
def ratio32 (n a : Int) : Nat × Nat :=
  if n = 0 ∨ a = 0 then (0, 0) else fp32.quot 0 (decide (n < 0) != decide (a < 0)) n.natAbs 0 a.natAbs 0

/-- Barycentrics at a point, (b1, b2) with the flags of both roundings. -/
def Prim.baryFl (p : Prim) (x y : Int) : (Nat × Nat) × Nat :=
  let (a, n1, n2) := edgeTerms ((vertices p).getD []) x y
  let r1 := ratio32 n1 a
  let r2 := ratio32 n2 a
  ((r1.1, r2.1), Nat.lor r1.2 r2.2)

def Prim.bary (p : Prim) (x y : Int) : Nat × Nat := (p.baryFl x y).1

/-- v0 + b1 (v1 − v0) + b2 (v2 − v0), with FMA and RNE, and the flags of its operations. -/
def interpolateFl (b : Nat × Nat) (v : BitVec 32 × BitVec 32 × BitVec 32) : Nat × Nat :=
  let d1 := fp32.sub 0 v.2.1.toNat v.1.toNat
  let d2 := fp32.sub 0 v.2.2.toNat v.1.toNat
  let x := fp32.fma 0 b.1 d1.1 v.1.toNat
  let y := fp32.fma 0 b.2 d2.1 x.1
  (y.1, [d1.2, d2.2, x.2, y.2].foldl Nat.lor 0)

def interpolate (b : Nat × Nat) (v : BitVec 32 × BitVec 32 × BitVec 32) : Nat := (interpolateFl b v).1

def Prim.zs (p : Prim) : BitVec 32 × BitVec 32 × BitVec 32 :=
  ((p.pos[6]?).getD 0, (p.pos[7]?).getD 0, (p.pos[8]?).getD 0)

/-- What PCOV reads of a lane's pixel. -/
def PixelInfo.read (x : PixelInfo) (code l : Nat) : Word :=
  let (px, py) := (x.px[l]?).getD (0, 0)
  let b := x.prim.bary (256 * px + 128 : Nat) (256 * py + 128 : Nat)
  match code with
  | 0 => BitVec.ofNat 64 (px + 2 ^ 16 * py + 2 ^ 32 * ((x.cov[l]?).getD 0).toNat)
  | 1 => packElems 32 [b.1, b.2]
  | 2 => packElems 32 [interpolate b x.prim.zs, 0]
  | 3 => BitVec.ofNat 64 x.prim.seq
  | k => packElems 32 [interpolate b ((x.prim.attrs[k - 8]?).getD (0, 0, 0)), 0]

/-- The flags of what PCOV computes for a lane's pixel (spec/08 R177). -/
def PixelInfo.flags (x : PixelInfo) (code l : Nat) : Nat :=
  let (px, py) := (x.px[l]?).getD (0, 0)
  let (b, fl) := x.prim.baryFl (256 * px + 128 : Nat) (256 * py + 128 : Nat)
  match code with
  | 0 => 0
  | 1 => fl
  | 2 => Nat.lor fl (interpolateFl b x.prim.zs).2
  | 3 => 0
  | k => Nat.lor fl (interpolateFl b ((x.prim.attrs[k - 8]?).getD (0, 0, 0))).2

/-! ### Pixel instructions (R342) -/

/-- The pixels of a block a coverage unit started; the instructions are illegal elsewhere. -/
def pixelBlock : M PixelInfo := do
  let b ← curBlk
  match b.pixel with
  | some x => pure x
  | none => raise (illegal 3)

/-- PCOV of each active lane; what it interpolates raises flags as its operations do (DESIGN CHOICE, log 125: R342 does not say). -/
def execPcov (d : BitVec 7) (c : BitVec 4) (s : State) : Outcome State Fault Refusal :=
  runWord (do
    check (decide (c.toNat < 4 ∨ 8 ≤ c.toNat)) (illegal 1)
    noPfx
    onShaderCore
    let r ← needVec d
    let x ← pixelBlock
    let m ← lanes
    raiseFlags ((lanesOf m).foldl (fun fl l => Nat.lor fl (x.flags c.toNat l)) 0)
    writeLanes r (fun l => x.read c.toNat l)
    retire) s

/-- Lanes a pixel instruction acts in: enabled by MASK, and no helper. -/
def fragLanes : M (List Nat) := do
  let p ← getPfx { mask := true }
  onShaderCore
  let k ← readMask p.mask
  let _ ← pixelBlock
  accessLanes k false

/-- Change the fragments of some lanes. -/
def Group.modFrags (g : Group) (ls : List Nat) (f : Nat → Frag → Frag) : Group :=
  { g with frags := g.frags.mapIdx (fun l x => if ls.contains l then f l x else x) }

def execPexp (a : BitVec 7) (s : State) : Outcome State Fault Refusal :=
  runWord (do
    let _ ← getPfx { mask := true }
    onShaderCore
    let _ ← needVec a
    let la ← readOp a
    let ls ← fragLanes
    let g ← curGrp
    check (ls.all (fun l => ((g.frags[l]?).bind (·.colour)).isNone)) (illegal 3)
    modCurGrp (fun g => g.modFrags ls (fun l x => { x with colour := some (BitVec.ofNat 32 (laneOf la l).toNat) }))
    retire) s

def execPkill (s : State) : Outcome State Fault Refusal :=
  runWord (do
    let ls ← fragLanes
    modCurGrp (fun g => g.modFrags ls (fun _ x => { x with killed := true }))
    retire) s

def execPdepth (a : BitVec 7) (s : State) : Outcome State Fault Refusal :=
  runWord (do
    let _ ← getPfx { mask := true }
    onShaderCore
    let _ ← needVec a
    let la ← readOp a
    let ls ← fragLanes
    modCurGrp (fun g => g.modFrags ls (fun l x => { x with depth := some (BitVec.ofNat 32 (laneOf la l).toNat) }))
    retire) s

/-! ### The end of a pixel group (R343) -/

/-- The fragments of an ended group: those exported and not discarded, of lanes that are no helpers. -/
def Block.fragments (b : Block) : List FragOut :=
  match b.pixel, b.groups[0]? with
  | some x, some g =>
    laneIds.filterMap fun l =>
      match g.frags[l]? with
      | some f =>
        match f.colour with
        | some c =>
          if !f.killed && g.present.getLsbD l && !g.helper.getLsbD l then
            let (px, py) := (x.px[l]?).getD (0, 0)
            some ⟨px, py, (x.cov[l]?).getD 0, c, f.depth⟩
          else none
        | none => none
      | none => none
  | _, _ => []

/-- Hand the fragments of an ended pixel group to its tile's work. -/
def Cover.groupEnds (c : Cover) (blk : Nat) (fs : List FragOut) : Cover :=
  { c with work := c.work.map fun w =>
      if w.running.contains blk then
        { w with running := w.running.filter (fun r => decide (r ≠ blk)), frags := w.frags ++ fs }
      else w }

def State.endPixel (s : State) (blk : Nat) (b : Block) : State :=
  match b.pixel with
  | none => s
  | some x =>
    { s with frames := s.frames.modify x.frame fun f =>
        { f with covers := f.covers.map (fun c => if c.die = x.die then c.groupEnds blk b.fragments else c) } }

end Sys2Proof.Machine
end

