-- ==== Sys2Proof/Machine/Barrier.lean ====
section
/-!
DEFINITION. BAR, BARC and QUIESCE (spec/13 R275 to R279), the barrier watchdog (R277, spec/20 R330, R331), and the
sweeps of the diagonal check.
-/

namespace Sys2Proof.Machine

open Host

/-! ### Waiting and arriving -/

def Wait.isBar (w : Wait) : Bool :=
  match w with
  | .bar => true
  | _ => false

def Wait.isBarc (w : Wait) : Bool :=
  match w with
  | .barc => true
  | _ => false

def Wait.isQuiesce (p : Nat) (w : Wait) : Bool :=
  match w with
  | .quiesce q => decide (q = p)
  | _ => false

/-- A path that waits for a reason, and has not been stopped by a fault. -/
def Path.waitsFor (p : Path) (t : Wait → Bool) : Bool := !p.stopped && ((p.wait.map t).getD false)

/-- Lanes of a group that wait for a reason. -/
def Group.waiting (g : Group) (t : Wait → Bool) : BitVec 32 :=
  g.paths.foldl (fun m p => if p.waitsFor t then m ||| p.lanes else m) 0

/-- Threads a barrier waits for: those that have not exited, helper lanes apart (R275, R267). -/
def Group.awaited (g : Group) : BitVec 32 := g.present &&& ~~~ g.exited &&& ~~~ g.helper

/-- Every thread of the group has exited (R272). -/
def Group.gone (g : Group) : Bool := decide (g.present &&& ~~~ g.exited = 0)

/-- The group has arrived: some lane of it waits, and so does every awaited thread; a group that has exited never arrives. -/
def Group.arrived (g : Group) (t : Wait → Bool) : Bool :=
  decide (g.waiting t ≠ 0) && decide (g.awaited &&& ~~~ (g.waiting t) = 0)

/-- Leave a waiting control word: the lanes go to the next clause header. -/
def Path.leave (p : Path) : Path :=
  let n := match p.words with
    | some (_, some _) => 2
    | _ => 1
  { p with pc := wordAfter p.pc n, cl := none, wait := none, entry := none, left := p.entry }

def Group.leave (g : Group) (t : Wait → Bool) : Group :=
  { g with paths := (g.paths.map fun p => if p.waitsFor t then p.leave else p).foldl joinPath [] }

/-- Numbers of the groups of a block that have arrived, those that had arrived before among them (R276). -/
def Block.arrivals (b : Block) (old : List Nat) (t : Wait → Bool) : List Nat :=
  (List.range b.groups.length).filter fun i => old.contains i || ((b.groups[i]?).map (·.arrived t)).getD false

/-! ### Watchdogs (R277, R330) -/

def BarWatch.is (w : BarWatch) (kind grid key inst : Nat) : Bool :=
  decide (w.kind = kind ∧ w.grid = grid ∧ w.key = key ∧ w.inst = inst)

/-- The first arrival at an instance starts its watchdog with the BARWD in effect. -/
def State.startWatch (s : State) (kind grid key inst ctx : Nat) : State :=
  if s.bars.any (fun w => w.is kind grid key inst) then s
  else
    let limit := ((s.ctxAt ctx).map (·.barwd.toNat)).getD 0
    { s with bars := s.bars ++ [{ kind := kind, grid := grid, key := key, inst := inst, limit := limit, ns := 0 }] }

def State.stopWatch (s : State) (kind grid key inst : Nat) : State :=
  { s with bars := s.bars.filter (fun w => !w.is kind grid key inst) }

/-- Time passes for a watchdog that runs: it keeps when it reached its limit and who had come by then (log 126); 0
disables it. -/
def BarWatch.tick (w : BarWatch) (now : Word) (ns : Nat) (waits : List (Nat × Nat × BitVec 32)) (masks : List (Nat × Nat × Nat)) :
    BarWatch :=
  if w.hit.isNone ∧ w.limit ≠ 0 ∧ 1000 * w.limit ≤ w.ns + ns then
    { w with ns := w.ns + ns, hit := some (now + BitVec.ofNat 64 (1000 * w.limit - w.ns)), waits := waits, masks := masks }
  else { w with ns := w.ns + ns }

/-- The limit was reached before now: an arrival at the very time of the limit wins (R330). -/
def BarWatch.expired (w : BarWatch) (now : Word) : Bool :=
  match w.hit with
  | some t => decide (t ≠ now)
  | none => false

/-- An instance whose watchdog has expired completes no more. -/
def State.barOver (s : State) (kind grid key inst : Nat) : Bool :=
  s.bars.any (fun w => w.is kind grid key inst && w.expired s.time)

/-! ### BAR (R275) -/

/-- Count the arrivals of a block at its BAR, and complete the instance when every group has arrived; one that has timed out counts
none and never completes. -/
def State.settleBar (s : State) (i : Nat) : State :=
  match s.blkAt i with
  | none => s
  | some b =>
    let arr := b.arrivals b.barArr Wait.isBar
    if arr = [] then s
    else if arr.length = b.groups.length ∧ ¬ s.barOver 0 b.grid i b.barInst then
      (s.stopWatch 0 b.grid i b.barInst).modBlk i fun b =>
        { b with barArr := [], barInst := b.barInst + 1, groups := b.groups.map (·.leave Wait.isBar) }
    else if s.barOver 0 b.grid i b.barInst then s
    else (s.startWatch 0 b.grid i b.barInst b.ctx).modBlk i (fun b => { b with barArr := arr })

/-! ### BARC (R275) -/

/-- Blocks of a grid, ended or not. -/
def State.gridBlocks (s : State) (grid : Nat) : List Nat :=
  (List.range s.blocks.length).filter fun i => ((s.blkAt i).map (fun b => decide (b.grid = grid))).getD false

def State.clusterBlocks (s : State) (grid cluster : Nat) : List Nat :=
  (s.gridBlocks grid).filter fun i => ((s.blkAt i).map (fun b => decide (b.cluster = cluster))).getD false

/-- The agent of the scheduler and the work distributor (log 9). -/
def schedAg (ctx : Nat) : Ag := engAg 0 ctx

/-- The source queue of a record-queue grid is closed and every record has been taken (spec/14 R290). -/
def queueDrained (g : Grid) : M Bool := do
  let d ← catchFlt (readDwords (schedAg g.ctx) g.lrec.source 16)
  match d with
  | .ok d => pure (rqClosed d && decide (rqPushed d ≤ rqTaken d))
  | .error _ => pure false

/-- Blocks a grid has in all, when they are known. -/
def Grid.total (g : Grid) : Option Nat :=
  match g.lrec.mode with
  | 0 => some (g.lrec.gx * g.lrec.gy * g.lrec.gz)
  | 1 => if g.scanned then some g.leaves.length else none
  | 3 => some 0
  | _ => none

/-- Every block of a cluster has started. -/
def clusterStarted (g : Grid) (cluster found : Nat) : M Bool :=
  if g.lrec.mode = 3 ∨ g.lrec.cluster ≤ found then pure true
  else
    match g.total with
    | some n => pure (decide (n - g.lrec.cluster * cluster ≤ found))
    | none => queueDrained g

/-- Count the arrivals of a cluster at its BARC, and complete the instance when every group of every block of it has
arrived; leaving is an acquire at cluster scope. -/
def settleBarc (i : Nat) : M Unit := do
  let s ← get
  let b ← needSome (s.blkAt i)
  let g ← needSome (s.grid? b.grid)
  let l := s.clusterBlocks b.grid b.cluster
  let arr := fun j : Nat => ((s.blkAt j).map (fun b => b.arrivals b.barcArr Wait.isBarc)).getD []
  if l.all (fun j => (arr j).isEmpty) then pure ()
  else do
    let full := l.all (fun j => ((s.blkAt j).map (fun b => decide ((arr j).length = b.groups.length))).getD false)
    let all ← clusterStarted g b.cluster l.length
    if full && all && !s.barOver 1 b.grid b.cluster b.barcInst then do
      modify fun s => s.stopWatch 1 b.grid b.cluster b.barcInst
      each l (fun j => do
        modify fun s => s.modBlk j fun b =>
          { b with barcArr := [], barcInst := b.barcInst + 1, groups := b.groups.map (·.leave Wait.isBarc) }
        match (s.blkAt j).bind (·.core) with
        | some c => acquireFor c 3
        | none => pure ())
    else if s.barOver 1 b.grid b.cluster b.barcInst then pure ()
    else do
      modify fun s => s.startWatch 1 b.grid b.cluster b.barcInst b.ctx
      each l (fun j => modify fun s => s.modBlk j (fun b => { b with barcArr := arr j }))

/-! ### QUIESCE (R278) -/

/-- Threads of a phase at instance `n`: they have issued n + 1 QUIESCE words on it. -/
def Group.atInstance (g : Group) (p n : Nat) : Bool :=
  (lanesOf g.awaited).all (fun l => decide ((((g.qcount[p]?).getD [])[l]?).getD 0 = n + 1))

def Group.quiesced (g : Group) (p n : Nat) : Bool := g.arrived (Wait.isQuiesce p) && g.atInstance p n

/-- A block has arrived when each of its groups has exited or arrived. -/
def Block.quiesced (b : Block) (p n : Nat) : Bool := b.ended || b.groups.all (fun g => g.gone || g.quiesced p n)

def Grid.inst (g : Grid) (p : Nat) : Nat := (g.qInst[p]?).getD 0

/-- The first arrival at an instance starts its watchdog. -/
def State.settleQuiesce (s : State) (i p : Nat) : State :=
  match s.blkAt i with
  | none => s
  | some b =>
    match s.grid? b.grid with
    | none => s
    | some g =>
      if b.groups.any (fun k => k.quiesced p (g.inst p)) then s.startWatch 2 b.grid p (g.inst p) b.ctx else s

/-- Faults of copy commands of the phase are raised at a QUIESCE on it (spec/06 R134). -/
def raisePhase (p : Nat) : M Unit := do
  let cs ← curCmds
  raiseCopy (cs.filter (fun c => decide (c.phase = p)))

/-- A thread has issued one more QUIESCE on a phase. -/
def Group.countQuiesce (g : Group) (p : Nat) (m : BitVec 32) : Group :=
  { g with qcount := g.qcount.modify p (fun l => l.mapIdx (fun i n => if m.getLsbD i then n + 1 else n)) }

/-- Every block of the grid has started and has arrived at an instance, or has ended. -/
def quiesceReady (i : Nat) (g : Grid) (p : Nat) : M Bool := do
  let s ← get
  let blocks := s.gridBlocks i
  let here := blocks.all (fun j => ((s.blkAt j).map (fun b => b.quiesced p (g.inst p))).getD true)
  match g.total with
  | some n => pure (here && decide (n ≤ g.next))
  | none => if g.lrec.mode = 1 then pure false else do
      let d ← queueDrained g
      pure (here && d)

/-- Sums over every counting node, for a context and a phase (R279). -/
def State.sweep (s : State) (ctx p : Nat) : Word × Word :=
  let l := s.counters.filter (fun c => decide (c.ctx = ctx ∧ c.phase = p))
  (l.foldl (fun a c => a + c.sent) 0, l.foldl (fun a c => a + c.recv) 0)

/-- The check of an instance has ended: every waiting lane acquires at package scope and goes on. -/
def endQuiesce (i : Nat) (g : Grid) (p : Nat) : M Unit := do
  let s ← get
  modify fun s => (s.stopWatch 2 i p (g.inst p)).modGrid i fun g => { g with qInst := g.qInst.set p (g.inst p + 1) }
  each (s.gridBlocks i) (fun j => do
    modify fun s => s.modBlk j (fun b => { b with groups := b.groups.map (·.leave (Wait.isQuiesce p)) })
    match (s.blkAt j).bind (·.core) with
    | some c => acquireFor c 5
    | none => pure ())

/-- One sweep of the diagonal check, made as one event: the first of a pair is kept, and the second ends the check
when both agree and sent equals received (log 10). -/
def execQuiesceSweep (grid p : Nat) (s : State) : Outcome State Fault Refusal :=
  runEvent (do
    let s ← get
    let g ← needSome (s.grid? grid)
    need (decide (p < 8))
    need ((s.gridBlocks grid).any fun j => ((s.blkAt j).map fun b =>
      b.groups.any (fun k => decide (k.waiting (Wait.isQuiesce p) ≠ 0))).getD false)
    let r ← quiesceReady grid g p
    need (r && !s.barOver 2 grid p (g.inst p))
    let b := s.sweep g.ctx p
    let keep := fun x : Option (Nat × Nat) => modify fun s : State =>
      s.modGrid grid (fun g => { g with qSweep := g.qSweep.set p x })
    match (g.qSweep[p]?).getD none with
    | none => keep (some (b.1.toNat, b.2.toNat))
    | some a => do
      keep none
      if decide (a = (b.1.toNat, b.2.toNat)) && decide (b.1 = b.2) then endQuiesce grid g p) s

/-! ### The words -/

/-- Wait at a barrier word: the first issue releases and begins the wait. -/
def barrierWord (w : Wait) (t : Wait → Bool) (scope : Nat) (settle : Nat → M Unit) : M Unit := do
  noPfx
  let p ← curPath
  let s ← get
  if p.waitsFor t then settle s.cur.blk
  else do
    releaseCur scope
    park w
    settle s.cur.blk

def settleBarM (i : Nat) : M Unit := modify fun s => s.settleBar i

def execBar (s : State) : Outcome State Fault Refusal := runWord (barrierWord .bar Wait.isBar 2 settleBarM) s

def execBarc (s : State) : Outcome State Fault Refusal := runWord (barrierWord .barc Wait.isBarc 3 settleBarc) s

def execQuiesce (p : BitVec 3) (s : State) : Outcome State Fault Refusal :=
  runWord (do
    let g ← curGrid
    check (g.lrec.phases.getLsbD p.toNat) (illegal 1)
    noPfx
    raisePhase p.toNat
    let path ← curPath
    if path.waitsFor (Wait.isQuiesce p.toNat) then pure ()
    else do
      releaseCur 5
      let m ← lanes
      modCurGrp (fun g => g.countQuiesce p.toNat m)
      park (.quiesce p.toNat)
      modify fun s => s.settleQuiesce s.cur.blk p.toNat) s

/-! ### BARRIER_WATCHDOG_EXPIRY (R277, R311, R331) -/

def BarWatch.test (w : BarWatch) : Wait → Bool :=
  match w.kind with
  | 0 => Wait.isBar
  | 1 => Wait.isBarc
  | _ => Wait.isQuiesce w.key

/-- Blocks a watched instance concerns. -/
def State.watched (s : State) (w : BarWatch) : List Nat :=
  match w.kind with
  | 0 => [w.key]
  | 1 => s.clusterBlocks w.grid w.key
  | _ => s.gridBlocks w.grid

/-- Groups that wait at a watched instance, lowest block first, then lowest group, each with the lanes that wait. -/
def State.waiters (s : State) (w : BarWatch) : List (Nat × Nat × BitVec 32) :=
  ((s.watched w).map fun i => match s.blkAt i with
    | some b => ((b.groups.mapIdx fun j g => (i, j, g.waiting w.test))).filter (fun x => decide (x.2.2 ≠ 0))
    | none => []).flatten

/-- Some waiting block is resident (R277). -/
def State.watchRuns (s : State) (w : BarWatch) : Bool :=
  (s.watched w).any fun i => match s.blkAt i with
    | some b => b.core.isSome && b.groups.any (fun g => decide (g.waiting w.test ≠ 0))
    | none => false

def maskNat (l : List Nat) : Nat := l.foldl (fun m i => m + 2 ^ i) 0

/-- Groups of a block that have arrived, and that have exited, as bits. -/
def Block.barMasks (b : Block) (w : BarWatch) : Nat × Nat :=
  let old := match w.kind with
    | 0 => b.barArr
    | 1 => b.barcArr
    | _ => []
  (maskNat (b.arrivals old w.test),
   maskNat ((List.range b.groups.length).filter (fun i => ((b.groups[i]?).map (·.gone)).getD false)))

/-- Those masks of every block that a watched instance concerns. -/
def State.watchMasks (s : State) (w : BarWatch) : List (Nat × Nat × Nat) :=
  (s.watched w).filterMap fun i => (s.blkAt i).map fun b => (i, b.barMasks w)

/-- Make a group of a block the subject of a fault at the path of its lowest lane among some. -/
def State.atGroup (s : State) (blk grp : Nat) (pick : Path → Bool) : State :=
  match s.grpAt blk grp with
  | none => s
  | some g =>
    let low := lowestLane (g.paths.foldl (fun m p => if pick p then m ||| p.lanes else m) 0)
    let i := (g.paths.findIdx? (fun p => pick p && p.lanes.getLsbD low)).getD 0
    let w := ((g.paths[i]?).bind Path.words).getD (0, none)
    { s with cur := ⟨blk, grp, i, w.1, w.2⟩ }

/-- A path that a watchdog may stop: it is not inside a VINS, nor in an MCAS whose event has happened (spec/05 R115, R119). -/
def Path.mayStop (p : Path) : Bool :=
  p.stopped || (match p.wait with
    | some (.vins _) => false
    | some (.mcas m) => m.obs.isNone
    | _ => true)

/-- A watchdog may stop a group: no MCAS of it holds a clamp, and every path of it may be stopped. -/
def State.groupMayStop (s : State) (blk grp : Nat) : Bool :=
  !s.clamps.any (fun c => decide (c.blk = blk ∧ c.grp = grp) && c.granted)
    && ((s.grpAt blk grp).map (fun g => g.paths.all (·.mayStop))).getD true

/-- Stop every path of a group; the clamps that it has asked for are asked for no more. -/
def State.stopGroup (s : State) (blk grp : Nat) : State :=
  ({ s with clamps := s.clamps.filter (fun c => decide (c.blk ≠ blk ∨ c.grp ≠ grp)) } : State).modGrp blk grp fun g =>
    { g with paths := g.paths.map fun p => { p with stopped := true } }

/-- Raise a barrier timeout on a group of which some lanes waited when the watchdog reached its limit. -/
def State.barTimeout (s : State) (w : BarWatch) (blk grp : Nat) (m : BitVec 32) : State :=
  match s.blkAt blk with
  | none => s
  | some b =>
    let s := s.atGroup blk grp (fun p => p.waitsFor w.test && decide (p.lanes &&& m ≠ 0))
    let pc := match s.pathAt blk grp s.cur.path with
      | some p => (match p.words with
        | some (_, some _) => p.pc + 4
        | _ => p.pc)
      | none => 0
    let m := ((w.masks.find? (fun x => decide (x.1 = blk))).map (·.2)).getD (0, 0)
    let f : Flt :=
      { cls := 8, cause := 0, pcAt := some pc
        detail := BitVec.ofNat 64 (m.1 + 2 ^ 32 * m.2)
        detail2 := BitVec.ofNat 64 (w.kind + (if w.kind = 2 then 4 * w.key else 0) + 2 ^ 32 * w.inst) }
    (s.capture b.ctx { faultRec f s with time := w.hit.getD s.time, pfx := 0 }).stopGroup blk grp

/-- The watchdog has reached its limit before now: its faults are raised once, and the instance stays timed out (R277, R330). They wait
for an MCAS with a clamp, and for a VINS, of a group that they stop (spec/05 R115, R119). -/
def execBarrierWatchdogExpiry (i : Nat) (s : State) : Outcome State Fault Refusal :=
  runEvent (do
    let s ← get
    let w ← needSome (s.bars[i]?)
    need (w.expired s.time && !w.raised && w.waits.all (fun x => s.groupMayStop x.1 x.2.1))
    let s := { s with bars := s.bars.modify i (fun w => { w with raised := true }) }
    let s := w.waits.foldl (fun s x => s.barTimeout w x.1 x.2.1 x.2.2) s
    set { s with cur := Cur.none }) s

end Sys2Proof.Machine
end

