-- ==== Sys2Proof/Machine/Control.lean ====
section
/-!
DEFINITION. Branches and calls (spec/13 R269, R270), JMP, RET, EXIT and YIELD (R271 to R273), NOP (R274), TRAP
(spec/19 R317), and the end of groups and blocks (R267, R272).
-/

namespace Sys2Proof.Machine

open Host

/-! ### BRA and CALL (R269, R270) -/

/-- COND and REG within their encoding (spec/02 R47). -/
def guardOk (c r : Nat) : Bool := decide (c < 7) && (decide (c ≠ 0) || decide (r = 0)) && (decide (c < 3) || decide (r < 16))

/-- The guard of each lane active on the issuing path. -/
def guards (c r : Nat) : M (Nat → Bool) := do
  let m ← lanes
  if c = 0 then pure (fun _ => true)
  else if c < 3 then do
    let v ← readUni (BitVec.ofNat 7 (96 + r))
    pure (fun _ => decide (v ≠ 0) == decide (c = 1))
  else do
    let k ← readMask r
    let on := fun l : Nat => laneOn k l
    match c with
    | 3 => pure (fun _ => (lanesOf m).any on)
    | 4 => pure (fun _ => (lanesOf m).all on)
    | 5 => pure (fun _ => !(lanesOf m).any on)
    | _ => pure on

/-- Address of the branch word itself. -/
def branchPc : M Word := do
  let p ← curPath
  let s ← get
  pure (s.cur.wordPc p)

def branchBody (link : Bool) (c : BitVec 4) (r : BitVec 5) (i : BitVec 17) : M Unit := do
  check (guardOk c.toNat r.toNat) (illegal 1)
  noPfx
  let g ← guards c.toNat r.toNat
  let m ← lanes
  let pc ← branchPc
  let target := pc + 4 * i.signExtend 64
  if (lanesOf m).any g then checkTarget target
  if link then
    modCurGrp (fun k => { k with lr := k.lr.mapIdx (fun l x => if m.getLsbD l && g l then pc + 4 else x) })
  moveLanes (fun l => if g l then target else pc + 4)

def execBra (c : BitVec 4) (r : BitVec 5) (i : BitVec 17) (s : State) : Outcome State Fault Refusal :=
  runWord (branchBody false c r i) s

def execCall (c : BitVec 4) (r : BitVec 5) (i : BitVec 17) (s : State) : Outcome State Fault Refusal :=
  runWord (branchBody true c r i) s

/-! ### JMP and RET (R271) -/

/-- Send each lane to its own target, once every distinct target has been checked. -/
def jumpTo (tgt : List Word) : M Unit := do
  let m ← lanes
  each (distinct ((lanesOf m).map (laneOf tgt))) checkTarget
  moveLanes (laneOf tgt)

def execJmp (a : BitVec 7) (s : State) : Outcome State Fault Refusal :=
  runWord (do
    noPfx
    let la ← readOp a
    jumpTo la) s

def execRet (s : State) : Outcome State Fault Refusal :=
  runWord (do
    noPfx
    let g ← curGrp
    jumpTo g.lr) s

def execRetGet (d : BitVec 7) (s : State) : Outcome State Fault Refusal :=
  runWord (do
    noPfx
    let r ← needVec d
    let g ← curGrp
    writeLanes r (laneOf g.lr)
    toNextHeader) s

def execRetSet (a : BitVec 7) (s : State) : Outcome State Fault Refusal :=
  runWord (do
    noPfx
    let la ← readOp a
    let m ← lanes
    modCurGrp (fun g => { g with lr := g.lr.mapIdx (fun l x => if m.getLsbD l then laneOf la l else x) })
    toNextHeader) s

/-! ### EXIT (R272) and helper lanes (R267) -/

/-- Helper lanes of quads whose other threads have all exited. -/
def Group.deadHelpers (g : Group) : BitVec 32 :=
  (lanesOf (g.helper &&& ~~~ g.exited)).foldl (fun m l =>
    let quad := (0xF#32 <<< (4 * (l / 4)))
    if g.present &&& quad &&& ~~~ g.helper &&& ~~~ g.exited = 0 then m ||| BitVec.ofNat 32 (2 ^ l) else m) 0

/-- They end at their next clause boundary: those that stand at one now. -/
def Group.dropHelpers (g : Group) : Group :=
  let dead := g.deadHelpers
  let out := g.paths.foldl (fun m p => if p.atHeader then m ||| (p.lanes &&& dead) else m) 0
  { g with
    exited := g.exited ||| out
    paths := (g.paths.map fun p => if p.atHeader then { p with lanes := p.lanes &&& ~~~ dead } else p).filter
      (fun p => decide (p.lanes ≠ 0)) }

/-- The lanes of the issuing path never issue again. -/
def Group.exitPath (g : Group) (path : Nat) (m : BitVec 32) : Group :=
  { g with exited := g.exited ||| m, paths := g.paths.eraseIdx path }

/-- A block ends when all of its groups have exited: its scratchpad, dependency table and monitor registrations are
discarded, with the tasks that still wait (R272). -/
def State.endBlock (s : State) (i : Nat) : State :=
  match s.blkAt i with
  | none => s
  | some b =>
    if b.ended || !b.groups.all (·.gone) then s
    else
      let s := s.endPixel i b
      let s := { s with
        monitors := s.monitors.filter (fun m => decide (m.blk ≠ i))
        clamps := s.clamps.filter (fun c => decide (c.blk ≠ i)) }
      let s := s.modGrid b.grid (fun g => { g with ended := g.ended + 1 })
      s.modBlk i fun b =>
        { b with ended := true, core := none, scratch := [], scratchPoison := [], tasks := []
                 counts := List.replicate 64 0, held := none }

/-- What the end of some threads may bring about: helper lanes end, barriers see the group anew, the block ends. -/
def afterExit : M Unit := do
  let s ← get
  let i := s.cur.blk
  modCurGrp Group.dropHelpers
  modify fun s => (s.settleBar i)
  settleBarc i
  modify fun s => (List.range 8).foldl (fun s p => s.settleQuiesce i p) s
  modify fun s => s.endBlock i

def execExit (s : State) : Outcome State Fault Refusal :=
  runWord (do
    noPfx
    releaseCur 2
    let cs ← curCmds
    let ms ← curMats
    if !(cs.all (·.isDone) && ms.all (·.isDone)) then wait
    let ds ← dueCmds
    raiseCopy ds
    let gs ← grpMats
    raiseMat gs
    let m ← lanes
    let s ← get
    modCurGrp (fun g => g.exitPath s.cur.path m)
    afterExit) s

/-! ### YIELD and NOP (R273, R274) -/

/-- The group's part of an entry that holds lanes that have yielded, whether they made it or joined it. -/
def Path.yielded (m : BitVec 32) (now : Word) (p : Path) : Path :=
  if p.lanes &&& m = 0 then p else { p with ctr := 0, fair := none, yieldAt := some now }

/-- The entries that hold lanes of the issuing group that have yielded: they are marked in the group, and their wait counters start
anew. -/
def State.markYield (s : State) (m : BitVec 32) : State :=
  let es := (((s.grpAt s.cur.blk s.cur.grp).map (·.paths)).getD []).filterMap fun p => if p.lanes &&& m = 0 then none else p.entry
  (s.othersOn s.cur.blk s.cur.grp (fun q => (q.entry.map es.contains).getD false)).foldl
    (fun s x => s.modPath x.1 x.2.1 x.2.2.1 (fun q => { q with ctr := 0, fair := none }))
    (s.modGrp s.cur.blk s.cur.grp (fun g => { g with paths := g.paths.map (Path.yielded m s.time) }))

/-- The lanes go to the next header and enter the table there; their entry is not chosen for 64 cycles while another can be. -/
def execYield (s : State) : Outcome State Fault Refusal :=
  runWord (do
    noPfx
    let m ← lanes
    toNextHeader
    modify fun s => s.settle.markYield m) s

def execNop (s : State) : Outcome State Fault Refusal :=
  runWord (do
    noPfx
    toNextHeader) s

/-! ### TRAP (spec/19 R317) -/

def execTrap (n : BitVec 7) (s : State) : Outcome State Fault Refusal :=
  runWord (do
    noPfx
    let h ← onlyHelpers
    if h then toNextHeader
    else raise { flt 13 n.toNat with detail := BitVec.ofNat 64 n.toNat }) s

end Sys2Proof.Machine
end

