-- ==== Sys2Proof/Machine/Uniform.lean ====
section
/-!
DEFINITION. The uniform instructions, OP6 0x1A to 0x20 (spec/09 R207 to R211).
-/

namespace Sys2Proof.Machine

open Host

/-! ### 0x1A -/

/-- READLN: a lane's register as last written, active or not (R209). -/
def execReadln (d a b : BitVec 7) (s : State) : Outcome State Fault Refusal :=
  runWord (do
    noPfx
    let n ← needUni d
    let r ← needVec a
    let x ← readUni b
    let l := x.toNat % 32
    checkReg r (BitVec.ofNat 32 (2 ^ l))
    let g ← curGrp
    writeUni n (laneOf (g.vreg r) l)
    retire) s

/-- WRITELN: the register of a lane that is active; otherwise nothing (R209). -/
def execWriteln (d a b : BitVec 7) (s : State) : Outcome State Fault Refusal :=
  runWord (do
    noPfx
    let r ← needVec d
    let x ← readUni a
    let y ← readUni b
    let m ← lanes
    let l := y.toNat % 32
    writeVec r (fun i => if i = l ∧ m.getLsbD l then some x else none)
    retire) s

/-- The special values marked per lane (R210). -/
def perLane (code : Nat) : Bool := code = 0 || code = 1 || code = 14 || code = 16

/-- A special value, in a lane (R210). -/
def specialValue (s : State) (b : Block) (g : Group) (gr : Grid) (c : Ctx) (grp code l : Nat) : Word :=
  let core := b.core.getD 0
  match code with
  | 0 => BitVec.ofNat 64 l
  | 1 => BitVec.ofNat 64 (l / 4)
  | 2 => BitVec.ofNat 64 grp
  | 3 => BitVec.ofNat 64 b.x
  | 4 => BitVec.ofNat 64 b.y
  | 5 => BitVec.ofNat 64 b.z
  | 6 => BitVec.ofNat 64 (b.clusterNo * 2 ^ 32 + b.rank % 8)
  | 7 => BitVec.ofNat 64 gr.lrec.gx
  | 8 => BitVec.ofNat 64 gr.lrec.gy
  | 9 => BitVec.ofNat 64 gr.lrec.gz
  | 10 => BitVec.ofNat 64 core
  | 11 => BitVec.ofNat 64 (dieOf core)
  | 12 => b.leaf
  | 13 => b.leafOrg
  | 14 => (g.records[l]?).getD (BitVec.allOnes 64)
  | 15 => s.time
  | 16 => if g.helper.getLsbD l then 1 else 0
  | _ => BitVec.ofNat 64 c.part

def execSrd (d a : BitVec 7) (s : State) : Outcome State Fault Refusal :=
  runWord (do
    noPfx
    let code := a.toNat
    check (code < 18) (illegal 3)
    let b ← curBlk
    let g ← curGrp
    let gr ← curGrid
    let c ← curCtx
    let s ← get
    let v := specialValue s b g gr c s.cur.grp code
    if isVec d then do
      let r ← needVec d
      writeLanes r v
    else do
      check (!perLane code) (illegal 3)
      let n ← needUni d
      writeUni n (v 0)
    retire) s

/-- The translation LOCQ makes: no permission check, no A or D, no fault (R211). -/
def locate (ag : Ag) (va : Word) : M (Option (Nat × Nat)) := do
  let s ← get
  match s.ctxAt ag.ctx with
  | none => pure none
  | some c =>
    if !canonical va then pure none
    else do
      let hit := fun e : TlbEntry => e.hits c va.toNat
      match (ag.core.bind fun k => (s.coreAt k).tlb.find? hit).or ((s.dieAt ag.die).tlb.find? hit) with
      | some e => pure (some (fld 59 16 e.pte * 4096 + (va.toNat - e.vbase), e.pte))
      | none => do
        let r ← catchFlt (walkFrom va .load 4 (fld 55 12 c.tbr.toNat * 4096) [])
        match r with
        | .error _ => pure none
        | .ok (_, pte, _, _) =>
          let size := pageBytes (fld 63 60 pte)
          pure (some (fld 59 16 pte * 4096 + va.toNat % size, pte))

/-- The word LOCQ writes (R211). -/
def locqWord (s : State) (r : Option (Nat × Nat)) : Word :=
  match r with
  | none => 0
  | some (pa, pte) =>
    let loc := regionOf pa = 0
    BitVec.ofNat 64 (2 ^ 63 + fld 63 60 pte * 2 ^ 20 + regionOf pa * 2 ^ 18 + fld 9 8 pte * 2 ^ 16
      + (if loc ∧ s.spread.getLsbD (fld 36 30 pa) then 2 ^ 15 else 0)
      + (if loc then s.stackOf pa * 2 ^ 8 else 0) + s.storageDie pa * 2 ^ 6 + sliceOf pa)

def execLocq (d a : BitVec 7) (s : State) : Outcome State Fault Refusal :=
  runWord (do
    noPfx
    let ag ← curAg
    if isVec a then do
      let r ← needVec d
      let la ← readOp a
      let m ← lanes
      let ws ← collect (lanesOf m) (fun l => do
        let x ← locate ag (laneOf la l)
        let s ← get
        pure (l, locqWord s x))
      writeLanes r (fun l => ((ws.find? (fun w => w.1 = l)).map (·.2)).getD 0)
    else do
      let x ← readUni a
      let t ← locate ag x
      let s ← get
      if isVec d then do
        let r ← needVec d
        writeLanes r (fun _ => locqWord s t)
      else do
        let n ← needUni d
        writeUni n (locqWord s t)
    retire) s

/-! ### 0x1B to 0x1D (R208) -/

def execSadd (d a b : BitVec 7) (s : State) : Outcome State Fault Refusal := runWord (uniform2 d a b (· + ·)) s
def execSsub (d a b : BitVec 7) (s : State) : Outcome State Fault Refusal := runWord (uniform2 d a b (· - ·)) s
def execSmul (d a b : BitVec 7) (s : State) : Outcome State Fault Refusal := runWord (uniform2 d a b (· * ·)) s
def execSmulh (d a b : BitVec 7) (s : State) : Outcome State Fault Refusal :=
  runWord (uniform2 d a b (fun x y => BitVec.ofNat 64 (mulHighSigned 64 x.toNat y.toNat))) s
def execSand (d a b : BitVec 7) (s : State) : Outcome State Fault Refusal := runWord (uniform2 d a b (· &&& ·)) s
def execSor (d a b : BitVec 7) (s : State) : Outcome State Fault Refusal := runWord (uniform2 d a b (· ||| ·)) s
def execSxor (d a b : BitVec 7) (s : State) : Outcome State Fault Refusal := runWord (uniform2 d a b (· ^^^ ·)) s

/-- SSEL: D takes B when A is not zero; otherwise it is unchanged. -/
def execSsel (d a b : BitVec 7) (s : State) : Outcome State Fault Refusal :=
  runWord (do
    noPfx
    let n ← needUni d
    let x ← readUni a
    let y ← readUni b
    if x ≠ 0 then writeUni n y
    retire) s

def execSshl (d a b : BitVec 7) (s : State) : Outcome State Fault Refusal :=
  runWord (uniform2 d a b (fun x y => BitVec.ofNat 64 (shiftLeft 64 x.toNat y.toNat))) s
def execSshr (d a b : BitVec 7) (s : State) : Outcome State Fault Refusal :=
  runWord (uniform2 d a b (fun x y => BitVec.ofNat 64 (shiftRight 64 x.toNat y.toNat))) s
def execSsar (d a b : BitVec 7) (s : State) : Outcome State Fault Refusal :=
  runWord (uniform2 d a b (fun x y => BitVec.ofNat 64 (shiftArith 64 x.toNat y.toNat))) s

def execSmov (d a : BitVec 7) (s : State) : Outcome State Fault Refusal :=
  runWord (uniform2 d a a (fun x _ => x)) s

/-! ### 0x1E to 0x20 -/

def execScmp (d a b : BitVec 7) (c : BitVec 3) (s : State) : Outcome State Fault Refusal :=
  runWord (uniform2 d a b (fun x y => if holdsCond c.toNat 64 x.toNat y.toNat then 1 else 0)) s

def execSaddi (d a : BitVec 7) (i : BitVec 12) (s : State) : Outcome State Fault Refusal :=
  runWord (uniform2 d a a (fun x _ => x + i.signExtend 64)) s

/-- SMOVW: bits 16p + 15 to 16p take IMM16; with Z every other bit is cleared (R43, R208). -/
def execSmovw (d : BitVec 7) (z : BitVec 1) (p : BitVec 2) (i : BitVec 16) (s : State) : Outcome State Fault Refusal :=
  runWord (do
    noPfx
    let n ← needUni d
    let g ← curGrp
    if z = 0 then checkReg d.toNat 0
    let sh := 16 * p.toNat
    let keep : Word := if z = 1 then 0 else g.sreg n &&& ~~~ (BitVec.ofNat 64 (0xFFFF * 2 ^ sh))
    writeUni n (keep ||| BitVec.ofNat 64 (i.toNat * 2 ^ sh))
    retire) s

end Sys2Proof.Machine
end

