-- ==== Sys2Proof/Machine/System.lean ====
section
/-!
DEFINITION. System registers (spec/19 R318 to R321), TLBINV (R322), ERET (R316), and SNAP with the trigger of the
snapshot sets (R323, spec/22 R352).
-/

namespace Sys2Proof.Machine

open Host

/-! ### Reading a system register (R318, R319) -/

def csrAssigned (n : Nat) : Bool :=
  decide (n ≤ 5) || decide (8 ≤ n ∧ n ≤ 17) || decide (24 ≤ n ∧ n ≤ 47)

/-- EPC and HSCR are held per thread. -/
def csrPerThread (n : Nat) : Bool := decide (n = 2 ∨ n = 5)

/-- Registers that only the host driver and the fault microcontroller write. -/
def csrPrivileged (n : Nat) : Bool := decide (n = 11 ∨ n = 12 ∨ n = 14 ∨ n = 15 ∨ n = 16)

/-- CAUSE, FADDR, ASN, DIEMAP and SITEMAP are read-only. -/
def csrReadOnly (n : Nat) : Bool := decide (n = 3 ∨ n = 4 ∨ n = 13 ∨ n = 17) || decide (24 ≤ n ∧ n ≤ 31)

/-- DIEMAP of a partition (R319). -/
def Part.dieMap (p : Part) : Word :=
  BitVec.ofNat 64 (maskNat (p.dies 0) + 2 ^ 8 * maskNat (p.dies 1) + 2 ^ 16 * (p.dies 0).length)

/-- SITEMAP(i): half `i mod 2` of the map of die `i / 2`. -/
def Part.siteMap (p : Part) (i : Nat) : Word :=
  BitVec.ofNat 64 (((p.sites[i / 2]?).getD 0).toNat / 2 ^ (64 * (i % 2)))

/-- A register held per context, group or partition. -/
def csrValue (c : Ctx) (g : Group) (p : Part) (n : Nat) : Word :=
  if 24 ≤ n ∧ n ≤ 31 then p.siteMap (n - 24)
  else if 32 ≤ n ∧ n ≤ 39 then (c.pmc[n - 32]?).getD 0
  else if 40 ≤ n then (c.pmsel[n - 40]?).getD 0
  else
    match n with
    | 0 => c.fpcr
    | 1 => c.tvec
    | 3 => g.cause
    | 4 => g.faddr
    | 8 => c.fair
    | 9 => c.barwd
    | 10 => c.kwd
    | 11 => c.ctl
    | 12 => c.tbr
    | 13 => BitVec.ofNat 64 (c.asn % 2 ^ 16 + 2 ^ 16 * c.part)
    | 14 => c.frec
    | 15 => c.save
    | 16 => c.cowpool
    | _ => p.dieMap

/-- EPC or HSCR of the threads of a group. -/
def csrThread (g : Group) (n : Nat) : List Word := if n = 2 then g.epc else g.hscr

def Part.none : Part := ⟨false, [], 0, [], []⟩

def State.partAt (s : State) (p : Nat) : Part := s.parts.getD p Part.none

def execCsrrd (d b : BitVec 7) (s : State) : Outcome State Fault Refusal :=
  runWord (do
    noPfx
    let n := b.toNat
    check (csrAssigned n) (illegal 3)
    let g ← curGrp
    if csrPerThread n then do
      let r ← needVec d
      writeLanes r (laneOf (csrThread g n))
    else do
      let r ← needUni d
      let c ← curCtx
      let s ← get
      writeUni r (csrValue c g (s.partAt c.part) n)
    retire) s

/-! ### Writing a system register (R320, R321, spec/22 R354) -/

/-- No reserved bit would be set, and FPCR would name a rounding mode and PMSEL an event that exist. -/
def csrWritable (n v : Nat) : Bool :=
  if n = 0 then decide (fld 63 21 v = 0 ∧ fld 15 13 v = 0 ∧ fld 7 3 v = 0 ∧ fld 2 0 v ≤ 4)
  else if n = 8 then decide (fld 63 16 v = 0)
  else if n = 9 ∨ n = 10 then decide (fld 63 32 v = 0)
  else if 40 ≤ n then decide (fld 63 24 v = 0 ∧ fld 19 17 v = 0 ∧ fld 15 0 v ≤ 16)
  else true

/-- Write a context register. -/
def Ctx.setCsr (c : Ctx) (n : Nat) (v : Word) : Ctx :=
  if 32 ≤ n ∧ n ≤ 39 then { c with pmc := c.pmc.set (n - 32) v }
  else if 40 ≤ n then { c with pmsel := c.pmsel.set (n - 40) v }
  else
    match n with
    | 0 => { c with fpcr := v }
    | 1 => { c with tvec := v }
    | 8 => { c with fair := v }
    | 9 => { c with barwd := v }
    | 10 => { c with kwd := v }
    | _ => c

/-- Write EPC or HSCR in some lanes. -/
def Group.setThreadCsr (g : Group) (n : Nat) (m : BitVec 32) (f : Nat → Word → Word) : Group :=
  let upd := fun l : List Word => l.mapIdx (fun i x => if m.getLsbD i then f i x else x)
  if n = 2 then { g with epc := upd g.epc } else { g with hscr := upd g.hscr }

/-- CSRWR of register `b` from operand `a`; `f` combines the old value and the operand. -/
def csrWrite (a b : BitVec 7) (f : Word → Word → Word) : M Unit := do
  noPfx
  let n := b.toNat
  check (csrAssigned n) (illegal 3)
  let g ← curGrp
  let m ← lanes
  if csrPerThread n then do
    let _ ← needVec a
    let la ← readOp a
    check (decide (n ≠ 2) || decide (m &&& ~~~ g.handler = 0)) (illegal 3)
    modCurGrp (fun g => g.setThreadCsr n m (fun l x => f x (laneOf la l)))
  else do
    let x ← readUni a
    check (!csrPrivileged n) (flt 2 8)
    check (!csrReadOnly n) (illegal 3)
    let c ← curCtx
    let v := f (csrValue c g Part.none n) x
    check (csrWritable n v.toNat) (illegal 3)
    let blk ← curBlk
    modify fun s => s.modCtx blk.ctx (fun c => c.setCsr n v)
  retire

def execCsrwr (a b : BitVec 7) (s : State) : Outcome State Fault Refusal := runWord (csrWrite a b (fun _ x => x)) s

def execCsrwrSet (a b : BitVec 7) (s : State) : Outcome State Fault Refusal :=
  runWord (csrWrite a b (fun old x => old ||| x)) s

def execCsrwrClr (a b : BitVec 7) (s : State) : Outcome State Fault Refusal :=
  runWord (csrWrite a b (fun old x => old &&& ~~~ x)) s

/-! ### Shootdowns (spec/03 R59) and TLBINV (R322) -/

/-- Make a shootdown complete if nothing still uses the named translations: every store made through them is
performed, and every cache drops them. -/
def finishShoot (sh : Shoot) (glob : Bool) : M Bool := do
  let s ← get
  if s.shootBlocked sh then pure false
  else do
    settleStores
    modify fun s => (({ s with shoots := s.shoots.filter (fun x => decide (x ≠ sh)) } : State).dropTlb sh glob).replan sh
    pure true

/-- Begin a shootdown, or complete it. An engine inside a named page holds it until it leaves the page (spec/06
R133). -/
def shootOrWait (sh : Shoot) (glob : Bool) : M Bool := do
  let done ← finishShoot sh glob
  if done then pure true
  else do
    modify fun s => if s.shoots.contains sh then s else { s with shoots := s.shoots ++ [sh] }
    pure false

/-- The bits of sB: a page size code, a count of at least 1, and no others; sA is aligned to the size. -/
def tlbinvOk (va b : Nat) : Bool :=
  decide (fld 3 0 b < 12 ∧ fld 15 4 b = 0 ∧ fld 63 36 b = 0 ∧ 1 ≤ fld 35 16 b ∧ va % pageBytes (fld 3 0 b) = 0)

/-- TLBINV is permitted by CTL bit 0. -/
def needTlbop : M Ctx := do
  let c ← curCtx
  check (c.ctl.getLsbD 0) (flt 2 8)
  pure c

def tlbinvBody (f : Ctx → Shoot) (glob : Bool) : M Unit := do
  let c ← needTlbop
  let done ← shootOrWait (f c) glob
  if done then retire else pure ()

def execTlbinv (a b : BitVec 7) (s : State) : Outcome State Fault Refusal :=
  runWord (do
    noPfx
    let _ ← needTlbop
    let x ← readUni a
    let y ← readUni b
    check (tlbinvOk x.toNat y.toNat) (illegal 3)
    tlbinvBody (fun c =>
      ⟨c.part, c.asn, x.toNat, x.toNat + fld 35 16 y.toNat * pageBytes (fld 3 0 y.toNat)⟩) true) s

def execTlbinvAsn (s : State) : Outcome State Fault Refusal :=
  runWord (do
    noPfx
    tlbinvBody (fun c => ⟨c.part, c.asn, 0, 2 ^ 64⟩) false) s

/-! ### ERET (R316) -/

/-- The clause a lane resumes inside: its EPC lies between the trapping word and the last word of the clause. -/
def resumeIn (epc : Word) (t : Option (Clause × Word)) : Option Clause :=
  match t with
  | none => none
  | some (c, w) =>
    if epc.toNat % 4 = 0 ∧ w.toNat ≤ epc.toNat ∧ epc.toNat < c.after.toNat then some { c with ready := true } else none

/-- Where a lane goes. -/
def Group.eretTo (g : Group) (l : Nat) : Word × Option Clause :=
  let e := laneOf g.epc l
  (e, resumeIn e ((g.traps[l]?).getD none))

/-- Distinct places of a list. -/
def places (l : List (Word × Option Clause)) : List (Word × Option Clause) :=
  l.foldl (fun acc x => if acc.contains x then acc else acc ++ [x]) []

def eretBody : M Unit := do
  noPfx
  let g ← curGrp
  let m ← lanes
  check (decide (m &&& ~~~ g.handler = 0)) (illegal 11)
  let goals := places ((lanesOf m).map g.eretTo)
  each (distinct ((goals.filter (fun x => x.2.isNone)).map (·.1))) checkTarget
  let p ← curPath
  let s ← get
  let parts := goals.map fun x =>
    let here := (lanesOf m).foldl (fun acc l =>
      if g.eretTo l = x then acc ||| BitVec.ofNat 32 (2 ^ l) else acc) (0 : BitVec 32)
    ({ lanes := here, pc := x.1, cl := x.2, ctr := p.ctr, fair := p.fair, yieldAt := p.yieldAt, left := p.entry } : Path)
  modCurGrp fun g =>
    { g with handler := g.handler &&& ~~~ m, paths := parts.foldl joinPath (g.paths.eraseIdx s.cur.path) }

def execEret (s : State) : Outcome State Fault Refusal := runWord eretBody s

/-! ### Snapshot sets (spec/22 R352) and SNAP (R323) -/

/-- A dword at a virtual address as it stands at home, with no effect; a free value where there is none, where its home cannot be
reached, and where it is poisoned, since poison is never turned into data (spec/19 R329, log 111). -/
def peekVa (ag : Ag) (va : Word) : M Word := do
  let t ← locate ag va
  match t with
  | some (pa, _) => do
    let s ← get
    let l := s.resolve (pa / 128)
    if (s.homeGone l).isSome || (s.poisonIn (128 * l + pa % 128) 8).isSome then freeWord
    else pure (BitVec.ofNat 64 (getBytes s.mem (128 * l + pa % 128) 8))
  | none => freeWord

/-- The write pointer of a channel: of the command on it, or of the last it completed (spec/06 R132). -/
def State.channelWp (s : State) (core ch ctx : Nat) : Word := BitVec.ofNat 64 ((s.channelWord core ch ctx).toNat % 2 ^ 40)

/-- The write pointer of the `k`-th command that an engine of a die carries out for a context; 0 when there is none (log 110). -/
def State.enginePtr (s : State) (e : Engine) (k ctx : Nat) : Word :=
  BitVec.ofNat 64 (((((s.cmds.filter (fun c => decide (c.ctx = ctx) && s.carries e c))[k]?).map (·.wp)).getD 0) % 2 ^ 40)

/-- The value of a source. -/
def sourceValue (ctx : Nat) (x : SnapSrc) : M Word := do
  let s ← get
  match x with
  | .pmc i => pure (((s.ctxAt ctx).bind (fun c => c.pmc[i]?)).getD 0)
  | .queueDepth q =>
    match s.queues[q]? with
    | none => pure 0
    | some u => do
      let w ← peekVa (schedAg ctx) (u.va + 16)
      let r ← peekVa (schedAg ctx) (u.va + 24)
      pure (w - r)
  | .writePtr core ch => pure (s.channelWp core ch ctx)
  | .bulkPtr die k => pure (s.enginePtr (.bulk die) k ctx)
  | .haloPtr die k => pure (s.enginePtr (.halo die) k ctx)
  | .errCounter i => pure ((s.errs.getD i 0).setWidth 64)

/-- What a set latches. -/
def latchOf (ctx : Nat) (cfg : SnapCfg) (seq kind : Nat) (tag : BitVec 16) : M Latch := do
  let vs ← collect cfg.sources (sourceValue ctx)
  let s ← get
  pure ⟨s.time, seq, kind, tag, vs⟩

/-- A trigger at one set: an armed set latches, a latched one counts a miss. -/
def triggerSet (ctx seq kind : Nat) (tag : BitVec 16) (i : Nat) : M Unit := do
  let s ← get
  match (s.ctxAt ctx).bind (fun c => c.snaps[i]?) with
  | none => pure ()
  | some x =>
    match x.latched, x.cfg with
    | some _, _ => modify fun s => s.modCtx ctx fun c => { c with snaps := c.snaps.set i { x with missed := x.missed + 1 } }
    | none, some cfg =>
      if x.armed then do
        let l ← latchOf ctx cfg seq kind tag
        modify fun s => s.modCtx ctx fun c => { c with snaps := c.snaps.set i { x with armed := false, latched := some l } }
      else pure ()
    | none, none => pure ()

/-- Fire the trigger of some sets of a context; the sequence number when some set was armed. -/
def fireTrigger (ctx kind : Nat) (tag : BitVec 16) (sets : List Nat) : M (Option Nat) := do
  let s ← get
  match s.ctxAt ctx with
  | none => pure none
  | some c => do
    let armed := sets.any (fun i => ((c.snaps[i]?).map (·.armed)).getD false)
    each sets (triggerSet ctx c.snapSeq kind tag)
    if armed then do
      modify fun s => s.modCtx ctx (fun c => { c with snapSeq := c.snapSeq + 1 })
      pure (some c.snapSeq)
    else pure none

def execSnap (d a : BitVec 7) (s : State) : Outcome State Fault Refusal :=
  runWord (do
    noPfx
    let c ← curCtx
    check (c.ctl.getLsbD 1) (flt 2 8)
    let n ← needUni d
    let x ← readUni a
    let b ← curBlk
    let r ← fireTrigger b.ctx 0 (BitVec.ofNat 16 x.toNat) [0, 1, 2, 3]
    writeUni n (match r with
      | some q => BitVec.ofNat 64 q
      | none => BitVec.allOnes 64)
    retire) s

end Sys2Proof.Machine
end

