-- ==== Sys2Proof/Machine/Issue.lean ====
section
/-!
DEFINITION. The issue table (spec/13 R262 to R265): fetching a clause, meeting its conditions, choosing an entry, and
the resumption of a waiting word (spec/02 R25 to R30).
-/

namespace Sys2Proof.Machine

open Host

/-! ### Units that may issue -/

/-- The context of a block runs: no fatal fault of it is captured, and it is not saved (spec/19 R310, R324). -/
def State.ctxRuns (s : State) (ctx : Nat) : Bool :=
  match s.ctxAt ctx with
  | some c => c.fault.isNone && !c.terminated && !c.preempted
  | none => false

/-- A group inside a clause goes on to its end after a fatal fault of its context (spec/19 R310); it goes on neither once
the context is ended nor while it is saved. -/
def State.ctxIssues (s : State) (ctx : Nat) : Bool :=
  match s.ctxAt ctx with
  | some c => !c.terminated && !c.preempted
  | none => false

/-- A path of a resident block, on cores out of reset, that no fault has stopped. -/
def State.mayIssue (s : State) (blk grp path : Nat) : Bool :=
  match s.blkAt blk, s.pathAt blk grp path with
  | some b, some p =>
    !p.stopped && !b.ended && (match b.core with
      | some c => !(s.dieAt (dieOf c)).coreReset
      | none => false)
  | _, _ => false

/-- Make a path the one in progress, at no word. -/
def State.atHeader (s : State) (blk grp path : Nat) : State := { s with cur := ⟨blk, grp, path, 0, none⟩ }

/-- The outcome of a step at a path's clause header: a fault it meets is taken there. -/
def runHeader (blk grp path : Nat) (m : M Unit) (s : State) : Outcome State Fault Refusal :=
  match m (s.atHeader blk grp path) with
  | .ok (_, t) => .next t
  | .error (.fault f) => .next (takeFault f (s.atHeader blk grp path))
  | .error (.stop f) => .fault f
  | .error _ => .next s

/-! ### CLAUSE_FETCH (spec/02 R26, R29) -/

/-- A path inside a clause that holds no entry of its core's table takes one, or waits until one is free (R262): one that was parked
in a WAITCMP. -/
def takeEntry : M Unit := do
  let s ← get
  let c ← curCore
  let p ← curPath
  if p.entry.isSome then pure ()
  else do
    let e ← needSome (s.freeEntries c).head?
    modCurPath (fun p => { p with entry := some e })

/-- The clause is fetched for the issuing path and for the other members of its entry that stand at the header. -/
def State.fetched (s : State) (p : Path) (c : Clause) : State :=
  (s.othersOn s.cur.blk s.cur.grp (fun q => q.atHeader && q.cl.isNone && decide (q.entry = p.entry ∧ q.pc = p.pc))).foldl
    (fun s x => s.modPath x.1 x.2.1 x.2.2.1 (fun q => { q with cl := some c }))
    (s.modPath s.cur.blk s.cur.grp s.cur.path (fun q => { q with cl := some c }))

/-- Helper lanes that end here leave (spec/13 R267); otherwise the clause of the path's entry is fetched and checked. -/
def fetchBody : M Unit := do
  let g ← curGrp
  let p ← curPath
  if g.deadHelpers &&& p.lanes ≠ 0 then afterExit
  else do
    need p.entry.isSome
    let ag ← curAg
    let c ← fetchClause ag p.pc
    modify fun s => s.fetched p c

def execClauseFetch (blk grp path : Nat) (s : State) : Outcome State Fault Refusal :=
  runHeader blk grp path (do
    let s ← get
    need (s.mayIssue blk grp path)
    let b ← curBlk
    let p ← curPath
    need (s.ctxRuns b.ctx && p.wait.isNone && p.cl.isNone)
    fetchBody) s

/-! ### Conditions of a clause (spec/02 R24, R25) -/

/-- HOLD holds, since every earlier word of the thread has issued in order; SDRAIN drains the stores of the path's
threads; BWAIT awaits their batches, raises what these owe, and clears the core's L1 as WAITB does (spec/12 R255). -/
def clauseConditions (h : Nat) : M Unit := do
  if fld 14 14 h = 1 then releaseCur 2
  let n := fld 13 8 h
  if n ≠ 63 then do
    let g ← curGrp
    awaitBatches (fun l => (g.batch[l]?).getD 0 - n)
    let c ← curCore
    clearL1 c

/-- A path at a fetched header whose conditions do not hold is blocked; a fault they owe does not block it. -/
def State.conditionsHold (s : State) (blk grp path : Nat) (h : Nat) : Bool :=
  match clauseConditions h (s.atHeader blk grp path) with
  | .ok _ => true
  | .error (.fault _) => true
  | .error _ => false

/-- The words at which a wait blocks an entry: a queue pop or push, WAITB and TWAIT (R264); a QPEEK, which waits as the pop does, is
counted among them (DESIGN CHOICE, log 133). -/
def blockingWord (i : Instr) : Bool :=
  match i with
  | .qpop _ _ => true
  | .qpeek _ _ => true
  | .qpush _ _ _ _ => true
  | .rqpush _ _ _ => true
  | .rqpop _ _ _ => true
  | .waitb _ => true
  | .twait _ => true
  | _ => false

/-- A wait that blocks its entry: at a barrier, a QUIESCE, a parked WAITCMP, or one of those words. -/
def Path.blockedAt (p : Path) : Bool :=
  match p.wait with
  | none => false
  | some .bar => true
  | some .barc => true
  | some (.quiesce _) => true
  | some (.cmp _) => true
  | some (.time _) => false
  | some (.service _) => false
  | some (.vins _) => false
  | some (.mcas _) => false
  | some .retry => (match p.words with
    | some (w, _) => (match decodeWord w.toNat with
      | .ok i => blockingWord i
      | .error _ => false)
    | none => false)

/-- A member of an entry is held up by such a wait, and by its header's conditions (R264). -/
def State.memberFree (s : State) (blk grp i : Nat) (p : Path) : Bool :=
  !p.stopped && !p.blockedAt && (match p.cl with
    | some c => c.ready || s.conditionsHold blk grp i c.hdr.toNat
    | none => true)

/-- An entry is blocked while all of its members are held up (R264). -/
def State.unblocked (s : State) (blk : Nat) (p : Path) : Bool :=
  match (s.blkAt blk).bind (·.core), p.entry with
  | some core, some e => (membersOf (s.corePaths core) e).any (fun x => s.memberFree x.1 x.2.1 x.2.2.1 x.2.2.2)
  | _, _ => false

/-! ### The chosen entry (R264, R273) -/

/-- The smallest pc of a list of entries; of several entries at it the first in the list (DESIGN CHOICE, log 134: R264 does not say
which of a group's entries with one pc is chosen). -/
def smallestPc (l : List (Nat × Path)) : Option Nat :=
  match l with
  | [] => none
  | x :: r => some ((r.foldl (fun (b : Nat × Path) y => if y.2.pc.toNat < b.2.pc.toNat then y else b) x).1)

/-- Have `n` cycles of a core passed in `ns` nanoseconds? A shader core makes 33 cycles in 20 ns, a control core 16 in
5 (spec/00 R4, spec/13 R268). -/
def cyclesIn (core ns : Nat) : Nat := if isControl core then ns * 16 / 5 else ns * 33 / 20

/-- The group's part of an entry yielded less than 64 cycles ago, and no other of the group has issued a clause since (R273). -/
def Path.yields (core : Nat) (now : Word) (p : Path) : Bool :=
  match p.yieldAt with
  | some t => decide (cyclesIn core (now - t).toNat < 64)
  | none => false

/-- Unblocked entries of a group, with their places. -/
def State.candidates (s : State) (blk grp : Nat) : List (Nat × Path) :=
  match s.grpAt blk grp with
  | none => []
  | some g => ((List.range g.paths.length).zip g.paths).filter (fun x => s.unblocked blk x.2)

/-- The fairness timer of a block's context; values below 64 act as 64. -/
def State.fairLimit (s : State) (blk : Nat) : Nat :=
  max 64 ((((s.blkAt blk).bind (fun b => s.ctxAt b.ctx)).map (·.fair.toNat)).getD 2048)

/-- A path reached the fairness timer before another; one whose time is not known did so last. -/
def Path.before (p q : Path) : Bool :=
  match p.fair, q.fair with
  | some t, some u => decide (t < u)
  | some _, none => true
  | none, _ => false

/-- The entry of a list that reached the fairness timer first, the first in the list of those that did so in one cycle. -/
def firstReached (l : List (Nat × Path)) : Option Nat :=
  match l with
  | [] => none
  | x :: r => some ((r.foldl (fun (b : Nat × Path) y => if y.2.before b.2 then y else b) x).1)

/-- Unblocked entries of a group that may be chosen: none that yields while there is another. -/
def State.choices (s : State) (blk grp : Nat) : List (Nat × Path) :=
  let l := s.candidates blk grp
  let free := l.filter (fun x => !x.2.yields (((s.blkAt blk).bind (·.core)).getD 0) s.time)
  if free.isEmpty then l else free

/-- Of those that may be chosen: of those whose counters have reached the fairness timer the first to do so; else the smallest pc. -/
def State.chosen (s : State) (blk grp : Nat) : Option Nat :=
  let l := s.choices blk grp
  match firstReached (l.filter (fun x => decide (s.fairLimit blk ≤ x.2.ctr))) with
  | some i => some i
  | none => smallestPc l

/-- The chosen entry begins its clause: other entries that yielded have let one issue. -/
def Group.beginClause (g : Group) (path : Nat) : Group :=
  { g with paths := g.paths.mapIdx fun i p =>
      if i = path then
        { p with cl := p.cl.map (fun c => { c with ready := true }), pc := p.pc + 4, ctr := 0, fair := none }
      else { p with yieldAt := none } }

/-- No lane of a path is a helper lane that ends at this header (R267). -/
def State.noneEnds (s : State) (blk grp : Nat) (p : Path) : Bool :=
  ((s.grpAt blk grp).map (fun g => decide (g.deadHelpers &&& p.lanes = 0))).getD true

/-- A path at a fetched header that its group has chosen and whose conditions hold. -/
def State.canBegin (s : State) (x : Nat × Nat × Nat × Path) : Bool :=
  s.mayIssue x.1 x.2.1 x.2.2.1 && s.noneEnds x.1 x.2.1 x.2.2.2 && s.ctxRuns (((s.blkAt x.1).map (·.ctx)).getD 0)
    && decide (s.chosen x.1 x.2.1 = some x.2.2.1) && (match x.2.2.2.cl with
      | some c => !c.ready && x.2.2.2.wait.isNone && s.conditionsHold x.1 x.2.1 x.2.2.1 c.hdr.toNat
      | none => false)

/-- The chosen entry that has waited longest on the core issues first (R265): no other that can begin has counted more than
this one, or than a member of its entry. -/
def State.oldest (s : State) (blk grp : Nat) (p : Path) : Bool :=
  match (s.blkAt blk).bind (·.core) with
  | none => false
  | some core =>
    let l := s.corePaths core
    let own := (l.filter (fun x => p.headKey.isSome && decide (x.2.2.2.headKey = p.headKey))).foldl
      (fun n x => max n x.2.2.2.ctr) p.ctr
    l.all fun x => decide ((x.1, x.2.1) = (blk, grp)) || decide (x.2.2.2.ctr ≤ own) || !s.canBegin x

/-- Another member of the entry begins its clause with it when its group has chosen it and its conditions hold; it is otherwise
left in place, in the entry, whose wait counter starts anew (R264, R265). -/
def beginFellow (x : Nat × Nat × Nat × Path) : M Unit := fun s =>
  let here := fun t : State => { t with cur := s.cur }
  let left : State := s.modPath x.1 x.2.1 x.2.2.1 (fun p => { p with ctr := 0, fair := none })
  if s.canBegin x then
    match clauseConditions ((x.2.2.2.cl.map (·.hdr.toNat)).getD 0) (s.atHeader x.1 x.2.1 x.2.2.1) with
    | .ok (_, t) => .ok ((), here (t.modGrp x.1 x.2.1 (fun g => g.beginClause x.2.2.1)))
    | .error _ => .ok ((), left)
  else .ok ((), left)

/-- CLAUSE_CONDITIONS_MET: the chosen entry's clause begins to issue once its conditions hold, in every member that can. -/
def execClauseConditionsMet (blk grp path : Nat) (s : State) : Outcome State Fault Refusal :=
  runHeader blk grp path (do
    let s ← get
    need (s.mayIssue blk grp path)
    let b ← curBlk
    let p ← curPath
    need (s.ctxRuns b.ctx && p.wait.isNone && decide (s.chosen blk grp = some path) && s.oldest blk grp p)
    let c ← needSome p.cl
    need (!c.ready && s.noneEnds blk grp p)
    clauseConditions c.hdr.toNat
    bumpCur 1 1
    bumpCur 2 1
    let s ← get
    let p ← curPath
    let others := s.othersOn blk grp (fun q => decide (q.headKey = p.headKey))
    modCurGrp (fun g => g.beginClause path)
    each others beginFellow) s

/-- FAIRNESS_TIMER_EXPIRY: an entry is found to have reached the timer, which is kept with the time, and is chosen unless another
reached it before (R264). Time that passes finds it too. -/
def execFairnessTimerExpiry (blk grp path : Nat) (s : State) : Outcome State Fault Refusal :=
  runEvent (do
    let s ← get
    need (s.mayIssue blk grp path)
    let p ← needSome (s.pathAt blk grp path)
    let core ← needSome ((s.blkAt blk).bind (·.core))
    need (decide (s.fairLimit blk ≤ p.ctr) && p.fair.isNone)
    modify fun s => s.modPath blk grp path (fun p => { p with fair := some (cyclesIn core s.time.toNat) })) s

/-- YIELD_TIMEOUT: 64 cycles after its YIELD an entry may be chosen again (R273). -/
def execYieldTimeout (blk grp path : Nat) (s : State) : Outcome State Fault Refusal :=
  runEvent (do
    let s ← get
    need (s.mayIssue blk grp path)
    let b ← needSome (s.blkAt blk)
    let p ← needSome (s.pathAt blk grp path)
    let t ← needSome p.yieldAt
    need (decide (64 ≤ cyclesIn (b.core.getD 0) (s.time - t).toNat))
    modify fun s => s.modPath blk grp path (fun p => { p with yieldAt := none })) s

/-! ### Issue sets (spec/13 R263, spec/09 R207) -/

/-- Insert a group by number, and by a key among equal numbers. -/
def insertMember (x : Nat × Nat × Nat) (l : List (Nat × Nat × Nat)) : List (Nat × Nat × Nat) :=
  match l with
  | [] => [x]
  | y :: r => if x.1 < y.1 ∨ (x.1 = y.1 ∧ x.2.1 < y.2.1) then x :: y :: r else y :: insertMember x r

/-- Block and group of each member, in ascending %group; groups of equal number in an order that nothing constrains (R207,
log 8). -/
def memberOrder (draw : Nat) (l : List (Nat × Nat)) : List (Nat × Nat) :=
  ((l.mapIdx fun i x => (x.2, (Config.freeWord (draw + i)).toNat, x.1)).foldl (fun acc x => insertMember x acc) []).map
    (fun x => (x.2.2, x.1))

/-- Do something for the path of each member that stands at a word. -/
def forMembers (k : Nat × Word × Word) (f : Nat → Nat → Nat → State → Outcome State Fault Refusal) (l : List (Nat × Nat))
    (s : State) : Outcome State Fault Refusal :=
  match l with
  | [] => .next s
  | x :: r =>
    match (s.grpAt x.1 x.2).bind (fun g => g.paths.findIdx? (fun p => decide (p.setKey = some k))) with
    | none => forMembers k f r s
    | some i =>
      match f x.1 x.2 i s with
      | .next t => forMembers k f r t
      | o => o

/-- Do something for a path and the rest of its issue set. -/
def forSet (blk grp path : Nat) (f : Nat → Nat → Nat → State → Outcome State Fault Refusal) (s : State) :
    Outcome State Fault Refusal :=
  match s.pathAt blk grp path with
  | none => .next s
  | some p =>
    match s.fellows blk grp p, p.setKey with
    | x :: r, some k =>
      let l := (blk, grp) :: (x :: r).map (fun y => (y.1, y.2.1))
      forMembers k f (memberOrder s.freeCtr l) { s with freeCtr := s.freeCtr + l.length }
    | _, _ => f blk grp path s

/-! ### WAITING_WORD_RESUME (spec/02 R30) -/

/-- A waiting word issues again from its start; any other word is not one that waits. -/
def resumeWord (i : Instr) (s : State) : Outcome State Fault Refusal :=
  match i with
  | .qpop q a => execQpop q a s
  | .qpeek q a => execQpeek q a s
  | .qpush q f a b => execQpush q f a b s
  | .waitb a => execWaitb a s
  | .waitcmp d a b c => execWaitcmp d a b c s
  | .waitt d a => execWaitt d a s
  | .twait a => execTwait a s
  | .tdecl a => execTdecl a s
  | .cpyb q p a b => execCpyb q p a b s
  | .cpyt q f p a b => execCpyt q f p a b s
  | .cpyh q p a => execCpyh q p a s
  | .cpyc q p a b => execCpyc q p a b s
  | .mma q f p a b => execMma q f p a b s
  | .mma1 q f p a b => execMma1 q f p a b s
  | .mzero q a b => execMzero q a b s
  | .mout q f a b => execMout q f a b s
  | .bar => execBar s
  | .barc => execBarc s
  | .quiesce p => execQuiesce p s
  | .rqpush d p b => execRqpush d p b s
  | .rqpop d p k => execRqpop d p k s
  | .pemit d a b => execPemit d a b s
  | .exit => execExit s
  | _ => .next s

/-- The path waits at a word of its own, not for the service of a fault and not inside a VINS. -/
def Path.resumes (p : Path) : Bool :=
  match p.wait with
  | none => false
  | some (.service _) => false
  | some (.vins _) => false
  | some (.mcas _) => false
  | some _ => true

/-- One path's waiting word issues again, when it is its turn in its issue set. -/
def resumeOne (blk grp path : Nat) (s : State) : Outcome State Fault Refusal :=
  match issueAt blk grp path s with
  | .error _ => .next s
  | .ok (_, s') =>
    let ok := s.mayIssue blk grp path && ((s.pathAt blk grp path).map (fun p => p.resumes && s.turn blk grp p)).getD false
      && s.ctxRuns s'.curCtxNo
    match decodeWord s'.cur.word.toNat with
    | .ok i => if ok then resumeWord i s' else .next s
    | .error _ => .next s

/-- The word issues again in every member of the issue set that waits at it. -/
def execWaitingWordResume (blk grp path : Nat) (s : State) : Outcome State Fault Refusal := forSet blk grp path resumeOne s

end Sys2Proof.Machine
end

