-- ==== Sys2Proof/Machine/Place.lean ====
section
/-!
DEFINITION. Where blocks may stand: a block's state at its start (spec/13 R261, spec/09 R189), what a core can hold (spec/09
R187, R188, spec/11 R228 to R230), affinity and clusters (spec/14 R283, R288), and the cores a saved block may go on on (spec/19
R326, spec/04 R98).
-/

namespace Sys2Proof.Machine

open Host

/-! ### A block at its start -/

def zeros32 : List Word := List.replicate 32 0

/-- A group at its start: registers zero but for the uniforms the launch sets, one path at the kernel (log 4). -/
def Group.fresh (r : LaunchRec) (present helper : BitVec 32) (s2 s3 : Word) (records : List Word) : Group :=
  { vregs := List.replicate r.vregs zeros32
    sregs := (((List.replicate 32 (0 : Word)).set 1 r.params).set 2 s2).set 3 s3
    kregs := List.replicate 16 0
    lr := zeros32, epc := zeros32, hscr := zeros32, handler := 0, cause := 0, faddr := 0
    traps := List.replicate 32 none
    present := present, helper := helper, exited := 0
    paths := [{ lanes := present, pc := r.kernel }]
    qcount := List.replicate 8 (List.replicate 32 0)
    batch := List.replicate 32 0, opens := List.replicate 32 [], sealed_ := []
    streams := List.replicate 8 none, binds := 0, cqs := List.replicate 4 []
    records := records
    attrs := List.replicate 32 zeroAttrs
    frags := List.replicate 32 ⟨none, false, none⟩
    owed := none, poison := [] }

/-- Coordinates of a block number: of the grid in mode 0, along x alone in the others (R288, spec/07 R170). -/
def LaunchRec.coords (r : LaunchRec) (n : Nat) : Nat × Nat × Nat :=
  if r.mode = 0 then (n % r.gx, n / r.gx % r.gy, n / (r.gx * r.gy)) else (n, 0, 0)

/-- A block at its start on a core. -/
def Block.fresh (gi : Nat) (g : Grid) (n core : Nat) (groups : List Group) : Block :=
  let r := g.lrec
  let (x, y, z) := r.coords n
  { grid := gi, ctx := g.ctx, number := n, x := x, y := y, z := z
    cluster := n / r.cluster, rank := n % r.cluster
    core := some core, last := core, ended := false, swapOk := false, groups := groups
    leaf := ((g.leaves[n]?).map (·.1)).getD 0, leafOrg := ((g.leaves[n]?).map (·.2)).getD 0
    scratch := [], scratchPoison := [], scratchSize := 65536 * r.scratch
    barArr := [], barInst := 0, barcArr := [], barcInst := 0
    counts := List.replicate 64 0, tasks := [], held := none, pixel := none }

/-- Lanes of a full group: four on a control core (spec/13 R268). -/
def fullLanes (core : Nat) : BitVec 32 := if isControl core then 0xF else BitVec.allOnes 32

def noRecords : List Word := List.replicate 32 (BitVec.allOnes 64)

/-! ### What a core can hold (spec/09 R187, R188, spec/11 R230) -/

def State.onCore (s : State) (core : Nat) : List Block := s.blocks.filter (fun b => decide (b.core = some core) && !b.ended)

def State.regsOf (s : State) (b : Block) : Nat := ((s.grid? b.grid).map (·.lrec.vregs)).getD 0

/-- Groups, register entries and scratchpad units fit beside those of the resident blocks. -/
def State.fits (s : State) (core groups vregs units : Nat) : Bool :=
  let l := s.onCore core
  let gs := l.foldl (fun a b => a + b.groups.length) groups
  let es := l.foldl (fun a b => a + b.groups.length * s.regsOf b) (groups * vregs)
  let us := l.foldl (fun a b => a + b.scratchSize / 65536) units
  decide (us ≤ 7) && (if isControl core then decide (gs ≤ 8) else decide (gs ≤ 24 ∧ es ≤ 1536))

/-- No other context holds the pair, and no state of this context waits to be restored there. -/
def State.pairFree (s : State) (core ctx : Nat) : Bool :=
  isControl core || (s.pairOf core ctx).all fun c =>
    let k := (s.coreAt c).mat
    (s.onCore c).all (fun b => decide (b.ctx = ctx)) && (k.clear || decide (k.ctx = some ctx))
      && !s.savedMat.any (fun x => decide (x.1 = ctx ∧ x.2.1 = c))

/-- The core is the context's partition's, and its die's cores are out of reset. -/
def State.ownsCore (s : State) (ctx core : Nat) : Bool :=
  decide (core < 512) && s.ownsSite ctx (BitVec.ofNat 64 core) && !(s.dieAt (dieOf core)).coreReset

/-- A block can be placed on a core. -/
def State.canHold (s : State) (ctx core groups : Nat) (r : LaunchRec) : Bool :=
  s.ownsCore ctx core && decide (isControl core = (r.target == 1)) && s.fits core groups r.vregs r.scratch && s.pairFree core ctx

/-! ### Affinity and clusters (R288, R229) -/

/-- The home die of an address, when it can be translated. -/
def homeDieOf (ctx : Nat) (va : Word) : M (Option Nat) := do
  let t ← locate (schedAg ctx) va
  let s ← get
  pure (t.map (fun x => s.storageDie x.1))

/-- The die a block number is bound to; none for any. -/
def affinityDie (g : Grid) (n : Nat) : M (Option Nat) := do
  let s ← get
  let r := g.lrec
  let ds := (s.partAt (s.partOf g.ctx)).dies r.target
  let (x, y, z) := r.coords n
  let known := fun d : Option Nat => d.bind (fun d => if ds.contains d then some d else none)
  match r.aff with
  | 1 =>
    let (c, e) := match r.adim with
      | 0 => (x, r.gx)
      | 1 => (y, r.gy)
      | _ => (z, r.gz)
    pure (if e = 0 then none else known ds[c * ds.length / e]?)
  | 2 => do
    let d ← homeDieOf g.ctx (r.abase + BitVec.ofNat 64 x * r.asx + BitVec.ofNat 64 y * r.asy + BitVec.ofNat 64 z * r.asz)
    pure (known d)
  | 3 => homeDieOf g.ctx (((g.leaves[n]?).map (·.1)).getD 0)
  | _ => pure none

/-- The core that a block of the grid runs on, or ran on last. -/
def State.coreOfBlock (s : State) (gi n : Nat) : Option Nat :=
  (s.blocks.find? (fun b => decide (b.grid = gi ∧ b.number = n))).map (·.last)

/-- The die on which a block of a cluster is resident. -/
def State.clusterDie (s : State) (gi cluster : Nat) : Option Nat :=
  ((s.blocks.find? (fun b => decide (b.grid = gi ∧ b.cluster = cluster) && b.core.isSome && !b.ended)).bind (·.core)).map dieOf

/-- A cluster is placed on the die of its first block, and stays together where it goes on after it was saved (spec/00 R6). -/
def blockDie (gi : Nat) (g : Grid) (n : Nat) : M (Option Nat) := do
  let s ← get
  let rank := n % g.lrec.cluster
  if rank = 0 then affinityDie g n
  else
    match (s.clusterDie gi (n / g.lrec.cluster)).or ((s.coreOfBlock gi (n - rank)).map dieOf) with
    | some d => pure (some d)
    | none => affinityDie g (n - rank)

/-- Both cores of a pair can take a block. -/
def State.pairHolds (s : State) (ctx leader groups : Nat) (r : LaunchRec) : Bool :=
  decide (leader % 2 = 0) && s.canHold ctx leader groups r && s.canHold ctx (partner leader) groups r

/-- Leaders of a die whose pairs can take two blocks. -/
def State.freePairs (s : State) (ctx die groups : Nat) (r : LaunchRec) : Nat :=
  ((List.range 54).filter (fun j => s.pairHolds ctx (128 * die + 2 * j) groups r)).length

/-- Blocks of the cluster that block `n` belongs to. -/
def Grid.clusterSize (g : Grid) (n : Nat) : Nat :=
  match g.total with
  | some t => min g.lrec.cluster (t - (n - n % g.lrec.cluster))
  | none => g.lrec.cluster

/-- Blocks of rank 2i and 2i + 1 stand on the leader and the follower of a pair; a cluster starts when pairs are free for
all its even ranks, and the last of an odd number may run on any core of the die. -/
def State.clusterOk (s : State) (gi : Nat) (g : Grid) (n core groups : Nat) : Bool :=
  let r := g.lrec
  let rank := n % r.cluster
  let size := g.clusterSize n
  if size < 2 ∨ r.target = 1 then true
  else if rank % 2 = 1 then decide (s.coreOfBlock gi (n - 1) = some (partner core)) && decide (core % 2 = 1)
  else if rank + 1 < size then
    s.pairHolds g.ctx core groups r && (decide (rank ≠ 0) || decide ((size + 1) / 2 ≤ s.freePairs g.ctx (dieOf core) groups r))
  else true

/-- The next block may run on the core's die: a pixel group on that of an owner that has one to start, another block where its
affinity and its cluster let it. -/
def onItsDie (gi : Nat) (g : Grid) (n core : Nat) : M Bool := do
  if g.lrec.mode = 3 then do
    let s ← get
    pure ((s.pixelDies gi).contains (dieOf core))
  else do
    let d ← blockDie gi g n
    pure (decide (d.getD (dieOf core) = dieOf core))

/-- The block may use the core at all: its kind, its owner and its die. -/
def mayUse (gi : Nat) (g : Grid) (n core : Nat) : M Bool := do
  let d ← onItsDie gi g n core
  let s ← get
  pure (d && s.ownsCore g.ctx core && decide (isControl core = (g.lrec.target == 1)))

/-- The next block finds this core free. -/
def findsCore (gi : Nat) (g : Grid) (groups core : Nat) : M Bool := do
  let s ← get
  let u ← mayUse gi g g.next core
  pure (u && s.canHold g.ctx core groups g.lrec && s.clusterOk gi g g.next core groups)

/-! ### Saved blocks (spec/19 R326, spec/04 R98) -/

/-- A swapped block resumes when an entry has become true, a deadline has passed, a wait polls, or its QUIESCE or barrier has
ended; a path that only ran when its block was swapped off does not bring it back (spec/04 R98). -/
def Path.woken (now : Word) (p : Path) : Bool :=
  match p.wait with
  | some (.cmp w) => w.got.isSome || w.polling || (match w.deadline with
      | some t => decide (t ≤ now.toNat)
      | none => false)
  | some (.time t) => decide (t ≤ now.toNat)
  | some _ => false
  | none => !p.paused && !p.stopped

/-- What waits to go on in a block that was swapped off. -/
def Block.woken (b : Block) (now : Word) : Bool := b.groups.any (fun g => g.paths.any (·.woken now))

/-- Feeds and matrix commands of a block stay with its core's matrix state (spec/11 R230). -/
def State.boundTo (s : State) (i core : Nat) : Bool :=
  s.cmds.all (fun c => decide (c.blk ≠ i) || c.isDone || !isFeed c.kind c.q || decide (c.core = core))
    && s.mats.all (fun c => decide (c.blk ≠ i) || c.isDone || decide (c.core = core))

/-- Matrix state that a context left on a core waits to be restored. -/
def State.hasSaved (s : State) (ctx core : Nat) : Bool := s.savedMat.any (fun x => decide (x.1 = ctx ∧ x.2.1 = core))

/-- Saved matrix state of one pair may be restored on another, core by core (spec/11 R244): the other pair is empty and free. -/
def State.canMovePair (s : State) (ctx old new : Nat) : Bool :=
  decide (old / 2 ≠ new / 2 ∧ old % 2 = new % 2) && !s.pairHeld new ctx
    && ((s.pairOf old ctx).length = 1 || (s.pairOf new ctx).length = 2)
    && (s.pairOf new ctx).all (fun c => (s.coreAt c).mat.clear && !s.hasSaved ctx c)

/-- Restore on core `new` what a context left on core `old`, with the commands that belong to it. -/
def State.moveMatrix (s : State) (ctx old new : Nat) : State :=
  match s.savedMat.find? (fun x => decide (x.1 = ctx ∧ x.2.1 = old)) with
  | none => s
  | some x =>
    let mine := fun (c k : Nat) => decide (c = ctx ∧ k = old)
    let s : State := { s with
      savedMat := s.savedMat.filter (fun y => !mine y.1 y.2.1)
      mats := s.mats.map (fun c : MatCmd => if mine c.ctx c.core && !c.isDone then { c with core := new } else c)
      cmds := s.cmds.map (fun c : Cmd =>
        if mine c.ctx c.core && isFeed c.kind c.q && !c.isDone then
          { c with core := new, eng := .chan new (c.eng.index) } else c) }
    s.modMatState new (fun _ => x.2.2)

/-- A block that resumes away from the pair where its matrix state was saved takes the state with it. -/
def takeMatrix (b : Block) (core : Nat) : M Unit := do
  let s ← get
  if !(s.pairOf b.last b.ctx).any (s.hasSaved b.ctx) ∨ core / 2 = b.last / 2 then pure ()
  else do
    need (s.canMovePair b.ctx b.last core)
    modify fun s => (s.moveMatrix b.ctx b.last core).moveMatrix b.ctx (partner b.last) (partner core)

/-- A block of a grid by its number has ended. -/
def State.hasEnded (s : State) (gi n : Nat) : Bool := s.blocks.any (fun b => decide (b.grid = gi ∧ b.number = n) && b.ended)

/-- Pairs for the even ranks of a block's cluster of which some block has still to end. -/
def State.pairsToGo (s : State) (b : Block) (g : Grid) : Nat :=
  let size := g.clusterSize b.number
  let first := b.number - b.rank
  ((List.range 4).filter fun k => decide (2 * k < size)
    && !(s.hasEnded b.grid (first + 2 * k) && (decide (size ≤ 2 * k + 1) || s.hasEnded b.grid (first + 2 * k + 1)))).length

/-- A cluster stays on one die (spec/00 R6): a saved block goes on where the others are, and the first of a saved cluster where pairs
are free for all of it. -/
def State.resumesByCluster (s : State) (b : Block) (g : Grid) (core : Nat) : Bool :=
  match s.clusterDie b.grid b.cluster with
  | some d => decide (d = dieOf core)
  | none => decide (g.lrec.target = 1 ∨ g.clusterSize b.number < 2)
      || decide (s.pairsToGo b g ≤ s.freePairs b.ctx (dieOf core) b.groups.length g.lrec)

/-- The blocks of rank 2i and 2i + 1 resume on the leader and the follower of one pair (spec/11 R229). -/
def State.resumesInPair (s : State) (b : Block) (g : Grid) (core : Nat) : Bool :=
  let mateRank := Nat.xor b.rank 1
  if g.lrec.target = 1 ∨ g.clusterSize b.number ≤ mateRank then true
  else
    decide (core % 2 = b.rank % 2) && (match s.blocks.find? (fun x => decide (x.grid = b.grid ∧ x.number = b.number - b.rank + mateRank)) with
      | none => s.canHold b.ctx (partner core) g.lrec.block g.lrec
      | some m =>
        if m.ended then true
        else match m.core with
          | some c => decide (c = partner core)
          | none => s.canHold b.ctx (partner core) m.groups.length g.lrec)

/-- What a core gives a saved block that goes on on it: its matrix state, room, and a place in its cluster. -/
def resumeRoom (i : Nat) (b : Block) (g : Grid) (core : Nat) : M Unit := do
  takeMatrix b core
  let s ← get
  need (s.boundTo i core && s.canHold b.ctx core b.groups.length g.lrec && s.resumesByCluster b g core && s.resumesInPair b g core)

/-- A saved block that waits for a core: its context runs, and a swapped one has been woken (spec/14 R283). -/
def State.waitsToGo (s : State) (b : Block) : Bool :=
  b.core.isNone && !b.ended && s.ctxRuns b.ctx && (!b.swapOk || b.woken s.time)

/-- A saved block may use a core at all: its kind, its owner, the die of its cluster, and the core of its matrix state, which may
move with it. -/
def State.mayGoOn (s : State) (i : Nat) (b : Block) (g : Grid) (core : Nat) : Bool :=
  s.ownsCore b.ctx core && decide (isControl core = (g.lrec.target == 1))
    && decide ((s.clusterDie b.grid b.cluster).getD (dieOf core) = dieOf core)
    && (s.boundTo i core || (s.pairOf b.last b.ctx).any (s.hasSaved b.ctx))

/-- A saved block may go on on a core's die. -/
def State.mayGoOnDie (s : State) (i : Nat) (b : Block) (g : Grid) (core : Nat) : Bool :=
  s.ownsSite b.ctx (BitVec.ofNat 64 core) && (List.range 128).any (fun k => s.mayGoOn i b g (128 * dieOf core + k))

end Sys2Proof.Machine
end

