-- ==== Sys2Proof/Machine/Blocks.lean ====
section
/-!
DEFINITION. Starting blocks: what waits for a core (spec/14 R283), block starts (R287, R288), record-queue batches (spec/14 R290)
and the leaf scan (spec/07 R170).
-/

namespace Sys2Proof.Machine

open Host

/-! ### What waits to start (R283) -/

/-- When record `n` was pushed, as far as the machine has seen. -/
def Grid.pushTime (g : Grid) (n : Nat) (now : Word) : Word := ((g.seen.find? (fun x => decide (n < x.1))).map (·.2)).getD now

/-- Records of the next batch: a full one, the rest of a closed queue, or those whose oldest has waited FLUSH. -/
def batchSize (d : List Nat) (flushed : Bool) : Nat :=
  let n := rqPushed d - rqTaken d
  if rqBatch d ≤ n ∨ rqClosed d ∨ flushed then min (rqBatch d) n else 0

def Grid.flushed (g : Grid) (d : List Nat) (now : Word) : Bool :=
  decide (rqFlush d ≤ (now - g.pushTime (rqTaken d) now).toNat) && decide (rqTaken d < rqPushed d)

/-- The descriptor of a grid's source queue as it stands, with no effect. -/
def peekQueue (g : Grid) : M (List Nat) :=
  collect (List.range 16) (fun i => do
    let w ← peekVa (schedAg g.ctx) (g.lrec.source + BitVec.ofNat 64 (8 * i))
    pure w.toNat)

/-- Groups of the grid's next block, when there is one to start. -/
def nextGroups (gi : Nat) (g : Grid) : M (Option Nat) := do
  let s ← get
  if !s.ctxRuns g.ctx then pure none
  else if g.lrec.mode = 3 then pure (if s.pixelDies gi = [] then none else some 1)
  else if g.done then pure none
  else
    match g.total with
    | some n => pure (if g.next < n then some g.lrec.block else none)
    | none =>
      if g.lrec.mode = 1 then pure none
      else do
        let d ← peekQueue g
        let k := batchSize d (g.flushed d s.time)
        pure (if k = 0 then none else some ((k + 31) / 32))

/-- Run a question without keeping what it does. -/
def ask {α : Type} (m : M α) (d : α) : M α := fun s =>
  match m s with
  | .ok (a, _) => .ok (a, s)
  | .error _ => .ok (d, s)

/-- Does a question hold of some member of a list? -/
def anyM {α : Type} (l : List α) (f : α → M Bool) : M Bool :=
  match l with
  | [] => pure false
  | a :: r => do
    let b ← f a
    if b then pure true else anyM r f

/-- The next block of a grid finds some core. -/
def startable (gi : Nat) (g : Grid) (groups : Nat) : M Bool := anyM (List.range 512) (findsCore gi g groups)

/-- The next block of a grid may run on a core's die, where its context's partition owns the core (R283). -/
def mayUseDie (hi : Nat) (h : Grid) (core : Nat) : M Bool := do
  let s ← get
  let d ← onItsDie hi h h.next core
  pure (d && s.ownsSite h.ctx (BitVec.ofNat 64 core)
    && ((s.partAt (s.partOf h.ctx)).dies h.lrec.target).contains (dieOf core))

/-- Some of a cluster's blocks have started and its next one has still to: the cores of its pairs are kept for it (R229). -/
def Grid.midCluster (h : Grid) : Bool :=
  decide (h.lrec.target = 0 ∧ h.next % h.lrec.cluster ≠ 0 ∧ h.next % h.lrec.cluster < h.clusterSize h.next)

/-- Cores on which the next block of a grid that may run on a core's die can start: a pixel group is bound to its owner's die. -/
def Grid.coresBeside (h : Grid) (core : Nat) : List Nat :=
  if h.lrec.mode = 3 then (List.range 128).map (128 * dieOf core + ·) else List.range 512

/-- A grid's next block keeps this core from a block of class `prio`: it belongs to a cluster that has begun to start, it is
of a higher class and can start, or it waits, is of that class or a higher one, and may run on the core's die. -/
def keepsCore (prio core hi : Nat) (h : Grid) : M Bool := do
  let n ← nextGroups hi h
  match n with
  | none => pure false
  | some k =>
    if h.midCluster then mayUse hi h h.next core
    else if h.lrec.prio < prio then pure false
    else do
      let can ← anyM (h.coresBeside core) (findsCore hi h k)
      if can then pure (decide (prio < h.lrec.prio)) else mayUseDie hi h core

/-- A saved block finds a core on which to go on. -/
def findsRoom (i : Nat) (b : Block) (g : Grid) : M Bool :=
  anyM (List.range 512) (fun core => ask (do
    resumeRoom i b g core
    pure true) false)

/-- A saved block that is ready to go on keeps this core from a block of class `prio` as the next block of a grid does (R283). -/
def keepsForSaved (prio core i : Nat) (b : Block) : M Bool := do
  let s ← get
  match s.grid? b.grid with
  | none => pure false
  | some g =>
    if !s.waitsToGo b || decide (g.lrec.prio < prio) then pure false
    else do
      let can ← findsRoom i b g
      pure (if can then decide (prio < g.lrec.prio) else s.mayGoOnDie i b g core)

/-- The cores of a grid's cluster that has begun to start are kept from a saved block of another cluster of the grid. -/
def ownCluster (gi core : Nat) (g : Grid) (own : Option Nat) : M Bool := do
  let s ← get
  match own.bind s.blkAt with
  | none => pure false
  | some b => if g.midCluster && decide (b.cluster ≠ g.next / g.lrec.cluster) then mayUse gi g g.next core else pure false

/-- Another grid's next block, or another saved block, keeps a core from a block of grid `gi`: from its next one, or from the saved
block `own`. -/
def keptFrom (gi : Nat) (own : Option Nat) (prio core : Nat) : M Bool := do
  let s ← get
  let byGrid ← anyM ((List.range s.grids.length).zip s.grids) (fun (x : Nat × Grid) =>
    if x.1 = gi then ownCluster gi core x.2 own else keepsCore prio core x.1 x.2)
  let byBlock ← anyM ((List.range s.blocks.length).zip s.blocks) (fun (x : Nat × Block) =>
    if own = some x.1 then pure false else keepsForSaved prio core x.1 x.2)
  pure (byGrid || byBlock)

/-- How far a core stands from the home slice of the address that AFF 2 gives its block; none off the slice's die. -/
def sliceDistance (g : Grid) (core : Nat) : M (Option Nat) := do
  let r := g.lrec
  let (x, y, z) := r.coords g.next
  let t ← locate (schedAg g.ctx) (r.abase + BitVec.ofNat 64 x * r.asx + BitVec.ofNat 64 y * r.asy + BitVec.ofNat 64 z * r.asz)
  let s ← get
  pure (t.bind fun x => if s.storageDie x.1 = dieOf core then some (Config.distance core (sliceOf x.1)) else none)

/-- Under AFF 2 no core that the block finds free is nearer its home slice than this one (R288). -/
def isNearest (gi : Nat) (g : Grid) (groups core : Nat) : M Bool := do
  if g.lrec.aff ≠ 2 ∨ g.lrec.mode = 3 then pure true
  else do
    let here ← sliceDistance g core
    let nearer ← anyM (List.range 512) (fun c => do
      let d ← sliceDistance g c
      match d, here with
      | some a, some b => if a < b then findsCore gi g groups c else pure false
      | _, _ => pure false)
    pure (!nearer)

/-- The next block of a grid may start on a core now. -/
def mayStart (gi : Nat) (g : Grid) (groups core : Nat) : M Bool := do
  let ok ← findsCore gi g groups core
  if !ok then pure false
  else do
    let kept ← keptFrom gi none g.lrec.prio core
    let near ← isNearest gi g groups core
    pure (!kept && near)

/-! ### BLOCK_START (R287, R288) -/

/-- Do something if it can be done. -/
def attempt (m : M Unit) : M Unit := fun s =>
  match m s with
  | .ok r => .ok r
  | .error _ => .ok ((), s)

/-- Parameter lines stand in the die's L2 before the first instruction issues (R285). -/
def prefetchParams (g : Grid) (core : Nat) : M Unit :=
  each (List.range g.lrec.plines) (fun i => attempt (do
    let ag : Ag := ⟨none, dieOf core, g.ctx⟩
    let tr ← translate ag (g.lrec.params + BitVec.ofNat 64 (128 * i)) .load
    let s ← get
    if s.effCl tr.pa tr.pte < 2 then do
      let _ ← dieLine ag (tr.pa / 128) tr.pte
      pure ()))

/-- The walker's leaf cache is emptied (spec/07 R157). -/
def State.emptyLeaves (s : State) (core : Nat) : State := s.modCore core (fun k => { k with leaf := [], leafGrid := none })

/-- Add a block to the grid: it acquires at package scope before its first instruction, and the leaf cache of another
launch goes. -/
def startBlock (gi core : Nat) (b : Block) : M Unit := do
  acquireFor core 5
  modify fun s => if (s.coreAt core).leafGrid = some gi then s else s.emptyLeaves core
  modify fun s => ({ s with blocks := s.blocks ++ [b] } : State).trimL1 core
  modify fun s => s.modGrid gi (fun g => { g with next := g.next + 1, waitSince := none })

def execBlockStart (gi core : Nat) (s : State) : Outcome State Fault Refusal :=
  runEvent (do
    let s ← get
    let g ← needSome (s.grid? gi)
    let n ← needSome g.total
    need (decide (g.next < n) && !g.done && s.ctxRuns g.ctx)
    let ok ← ask (mayStart gi g g.lrec.block core) false
    need ok
    let grp := Group.fresh g.lrec (fullLanes core) 0 0 0 noRecords
    startBlock gi core (Block.fresh gi g g.next core (List.replicate g.lrec.block grp))
    prefetchParams g core) s

/-! ### Record-queue batches (R290) -/

/-- A fault that the scheduler or the launch scan meets: it terminates the launch's context (R290, spec/07 R170). -/
def schedFault (s : State) (g : Grid) (f : Flt) : State :=
  s.capture g.ctx
    { flt := f, core := 0, group := 0, pc := 0, x := 0, y := 0, z := 0, cluster := 0, word := 0, pfx := 0
      launch := g.recVa, time := s.time }

/-- Insert by key, after those of the same key. -/
def insertKey (x : Nat × Nat) (l : List (Nat × Nat)) : List (Nat × Nat) :=
  match l with
  | [] => [x]
  | y :: r => if x.1 < y.1 then x :: y :: r else y :: insertKey x r

/-- A stable sort by key: key and record number. -/
def sortKeys (l : List (Nat × Nat)) : List Nat := (l.foldl (fun acc x => insertKey x acc) []).map (·.2)

/-- The order in which a batch's records are given out. -/
def batchOrder (g : Grid) (d : List Nat) (nums : List Nat) : M (Except Flt (List Nat)) :=
  if rqReorder d = 0 then pure (.ok nums)
  else
    catchFlt (do
      let ks ← collect nums (fun n =>
        onFlt (fun f => { f with unit := 7, addr := rqAddr d n }) (do
          let w ← readHome (schedAg g.ctx) (rqAddr d n)
          pure (w % 2 ^ 16, n)))
      pure (sortKeys ks))

/-- Groups of a batch: dense, the last one perhaps partial. -/
def batchGroups (r : LaunchRec) (d : List Nat) (nums : List Nat) : List Group :=
  (List.range ((nums.length + 31) / 32)).map fun k =>
    let here := (nums.drop (32 * k)).take 32
    Group.fresh r (BitVec.ofNat 32 (2 ^ here.length - 1)) 0 (rqBase d) (BitVec.ofNat 64 (rqCap d - 1))
      ((here.map (fun n => BitVec.ofNat 64 n)) ++ List.replicate (32 - here.length) (BitVec.allOnes 64))

/-- Take a batch of records and start a consumer block for them. -/
def startBatch (gi core : Nat) (flush : Bool) : M Unit := do
  let s ← get
  let g ← needSome (s.grid? gi)
  need (decide (g.lrec.mode = 2) && !g.done && s.ctxRuns g.ctx)
  let d ← catchFlt (readDwords (schedAg g.ctx) g.lrec.source 16)
  match d with
  | .error _ => hold
  | .ok d => do
    need (rqOk d)
    let k := batchSize d (flush && g.flushed d s.time)
    need (decide (k ≠ 0))
    let ok ← ask (mayStart gi g ((k + 31) / 32) core) false
    need ok
    let r ← batchOrder g d ((List.range k).map (fun i => rqTaken d + i))
    match r with
    | .error f => modify fun s => schedFault s g f
    | .ok nums => do
      writeVa (schedAg g.ctx) (g.lrec.source + 32) 8 (rqTaken d + k) .engWrite
      let b := Block.fresh gi g g.next core (batchGroups g.lrec d nums)
      startBlock gi core { b with held := some (g.lrec.source, nums) }
      prefetchParams g core

/-- A full batch, or the last records of a closed queue. -/
def execRqBatchStart (gi core : Nat) (s : State) : Outcome State Fault Refusal := runEvent (startBatch gi core false) s

/-- A partial batch whose oldest record has waited FLUSH ns. -/
def execRqFlushExpiry (gi core : Nat) (s : State) : Outcome State Fault Refusal := runEvent (startBatch gi core true) s

/-! ### LEAF_SCAN (spec/07 R170) -/

/-- A read of the launch scan, at home. -/
def scanRead (ctx : Nat) (va : Word) (n : Nat) : M Nat := readVa (schedAg ctx) va n .walkRead

/-- Children of a node whose mask bits are set, in order. -/
def scanChildren (ctx : Nat) (node : Word) : M (List Nat) := do
  let l ← collect (List.range 64) (fun w => do
    let m ← scanRead ctx (addI node (128 + 8 * w : Nat)) 8
    collect ((List.range 64).filter (fun i => m.testBit i)) (fun i =>
      scanRead ctx (addI node (640 + 4 * (64 * w + i) : Nat)) 4))
  pure (l.flatten.filter (fun c => decide (c ≠ noIndex)))

/-- A leaf counts when some voxel of it is active. Its packed origin, for %leaforg, is the ORIGIN of its header, read with the mask of
every present leaf (DESIGN CHOICE, log 119: R170 does not say where the scan takes it from). -/
def scanLeaf (ctx : Nat) (t : List Nat) (h : Nat) : M (List (Word × Word)) := do
  let a ← leafAddr t h
  let m ← collect (List.range 8) (fun i => scanRead ctx (addI a (8 * i : Nat)) 8)
  let o ← scanRead ctx (addI a 64) 8
  pure (if m.all (fun x => decide (x = 0)) then [] else [(a, BitVec.ofNat 64 o)])

def scanLower (ctx : Nat) (t : List Nat) (l : Nat) : M (List (Word × Word)) := do
  let a ← nodeAddr t true l
  let cs ← scanChildren ctx a
  let r ← collect cs (scanLeaf ctx t)
  pure r.flatten

def scanUpper (ctx : Nat) (t : List Nat) (u : Nat) : M (List (Word × Word)) := do
  let a ← nodeAddr t false u
  let cs ← scanChildren ctx a
  let r ← collect cs (scanLower ctx t)
  pure r.flatten

/-- Root slots ascending. -/
def scanRoot (ctx : Nat) (t : List Nat) (slot : Nat) : M (List (Word × Word)) := do
  let e := addI (treeRoot t) (16 * slot : Nat)
  let key ← scanRead ctx e 8
  if key = 2 ^ 64 - 1 then pure []
  else do
    let c ← scanRead ctx (e + 8) 4
    if c = noIndex then pure [] else scanUpper ctx t c

def scanTree (ctx : Nat) (tree : Word) : M (List (Word × Word)) := do
  check (tree.toNat % 256 = 0) (accFlt 6 0 .walkRead tree 0)
  let t ← collect (List.range 32) (fun i => scanRead ctx (addI tree (8 * i : Nat)) 8)
  check (treeOk t) treeFlt
  let r ← collect (List.range 4096) (scanRoot ctx t)
  pure r.flatten

/-- Number one block for each leaf with an active bit; a scan that faults terminates the context. -/
def execLeafScan (gi : Nat) (s : State) : Outcome State Fault Refusal :=
  runEvent (do
    let s ← get
    let g ← needSome (s.grid? gi)
    need (decide (g.lrec.mode = 1) && !g.scanned && !g.done && s.ctxRuns g.ctx)
    let r ← catchFlt (scanTree g.ctx g.lrec.source)
    match r with
    | .error f => modify fun s => schedFault s g { f with unit := 6 }
    | .ok l => modify fun s => s.modGrid gi fun g =>
        { g with scanned := true, leaves := l, lrec := { g.lrec with gx := l.length, gy := 1, gz := 1 } }) s

end Sys2Proof.Machine
end

