-- ==== Sys2Proof/Machine/Preempt.lean ====
section
/-!
DEFINITION. Pre-emption, swapping and resumption (spec/19 R324 to R326, spec/04 R98, spec/14 R283, spec/13 R276).
-/

namespace Sys2Proof.Machine

open Host

/-! ### Where units stop (R324) -/

/-- A path stands at a clause boundary or waits; a VINS runs to its end first (spec/05 R119). -/
def Path.atStop (p : Path) : Bool :=
  p.stopped || (match p.wait with
    | some (.vins _) => false
    | some (.mcas _) => false
    | some _ => true
    | none => (match p.cl with
      | none => true
      | some c => !c.ready))

def Block.atStop (b : Block) : Bool := b.groups.all (fun g => g.paths.all (·.atStop))

/-- No MCAS of the block holds a clamp (spec/05 R115). -/
def State.noClamp (s : State) (blk : Nat) : Bool := !s.clamps.any (fun c => decide (c.blk = blk) && c.granted)

def State.blockStops (s : State) (i : Nat) : Bool :=
  match s.blkAt i with
  | some b => b.atStop && s.noClamp i
  | none => true

/-- A copy command stands at a granule boundary, or is not running. -/
def Cmd.stops (c : Cmd) : Bool :=
  decide (c.status ≠ .running) || decide (c.kind = .scatter) || c.atGranule

/-- Every unit that works for a block stands where it may be stopped. -/
def State.unitsStop (s : State) (i : Nat) : Bool :=
  s.blockStops i && s.cmds.all (fun c => decide (c.blk ≠ i) || c.stops) && s.mats.all (fun c => decide (c.blk ≠ i) || c.stops)

/-! ### Saving a block (R325). Its image goes to the area that SAVE names; the model restores from what it keeps (log 35) -/

/-- Write an image in the area that SAVE names, through the context's address space; a dword that cannot be written is lost. -/
def spillImage (ctx die : Nat) : M Unit := do
  let s ← get
  let save := ((s.ctxAt ctx).map (·.save)).getD 0
  set { s with freeCtr := s.freeCtr + 1 }
  each (Config.saveImage s.freeCtr) (fun x => attempt (writeVa (engAg die ctx) (save + BitVec.ofNat 64 x.1) 8 x.2 .engWrite))

def State.spill (s : State) (ctx die : Nat) : State :=
  match spillImage ctx die s with
  | .ok (_, t) => t
  | .error _ => s

/-- A WAITCMP whose entry is freed reads at home again before it registers again (spec/04 R98). -/
def Path.unregister (p : Path) : Path :=
  match p.wait with
  | some (.cmp w) => { p with paused := false, wait := some (.cmp { w with polling := false }) }
  | _ => { p with paused := false }

/-- A path that waits at nothing is paused with its swapped block (spec/04 R98). -/
def Path.pause (p : Path) : Path := if p.wait.isNone then { p with paused := true } else p

def Block.eachPath (b : Block) (f : Path → Path) : Block :=
  { b with groups := b.groups.map (fun g : Group => { g with paths := g.paths.map f }) }

/-- Place a block's stores, and those of others that it may have read from its core's buffer or its die's replicas, so that it can go
on elsewhere and reads nothing older there (spec/12 R252). -/
def drainBlock (i : Nat) : M Unit := do
  let s ← get
  match (s.blkAt i).bind (·.core) with
  | some c => do
    drainCore c (fun _ => true)
    flushFwd (fun f => decide (f.die = dieOf c))
  | none => pure ()
  flushFwd (fun f => f.groups.any (fun g => decide (g.1 = i)))

/-- A stopped copy command goes on later with revalidation at its first page (spec/06 R135). -/
def Cmd.leavePages (c : Cmd) : Cmd := { c with srcPg := none, dstPg := none }

/-- A command of a saved block is saved with it. -/
def Cmd.save (c : Cmd) : Cmd :=
  if c.status = .running ∧ c.kind ≠ .scatter then { c.leavePages with status := .stopped } else c.leavePages

/-- A pre-emption frees the monitor entries of a block, on its core or swapped off it (spec/04 R98). -/
def State.dropMonitors (s : State) (i : Nat) : State :=
  ({ s with monitors := s.monitors.filter (fun m => decide (m.blk ≠ i)) } : State).modBlk i fun b =>
    { b.eachPath Path.unregister with swapOk := false }

/-- Matrix state that a context leaves on a pair where no block of it remains is saved with it, the command on its array standing
at a stop point (spec/11 R230). -/
def State.leaveMatrix (s : State) (core ctx : Nat) : State :=
  (s.pairOf core ctx).foldl (fun s c =>
    let k := (s.coreAt c).mat
    if decide (k.ctx = some ctx) && !k.clear && !s.residentOn c ctx && ((k.array.bind s.mat?).map (·.stops)).getD true then
      ({ s with savedMat := s.savedMat ++ [(ctx, c, k)] } : State).modMatState c (fun _ => Core.empty.mat)
    else s) s

/-- Save a block and the commands that work for it: a swap keeps its monitor entries, a pre-emption frees them. -/
def saveBlock (swap : Bool) (i : Nat) : M Unit := do
  drainBlock i
  modify fun s =>
    let core := (s.blkAt i).bind (·.core)
    let ctx := ((s.blkAt i).map (·.ctx)).getD 0
    let s := s.spill ctx (dieOf (core.getD 0))
    let s := if swap then s.modBlk i (fun b => b.eachPath Path.pause) else s.dropMonitors i
    let s := s.modBlk i (fun b => { b with core := none, swapOk := swap, waitSince := none })
    let s : State := { s with cmds := s.cmds.map (fun c : Cmd => if c.blk = i then c.save else c) }
    match core with
    | some c => s.leaveMatrix c ctx
    | none => s

/-- Resident blocks of a context. -/
def State.resident (s : State) (ctx : Nat) : List Nat :=
  (List.range s.blocks.length).filter fun i => match s.blkAt i with
    | some b => decide (b.ctx = ctx) && b.core.isSome && !b.ended
    | none => false

/-- Blocks of a context that were swapped off their cores. -/
def State.swappedOff (s : State) (ctx : Nat) : List Nat :=
  (List.range s.blocks.length).filter fun i => match s.blkAt i with
    | some b => decide (b.ctx = ctx) && b.core.isNone && !b.ended && b.swapOk
    | none => false

/-- PREEMPT_CONTEXT: once every unit of the context stands at a stop point, its state is saved. -/
def execPreemptContext (ctx : Nat) (s : State) : Outcome State Fault Refusal :=
  runEvent (do
    let s ← get
    need (s.ctxRuns ctx)
    let l := s.resident ctx
    need (!l.isEmpty && l.all (fun i => s.unitsStop i))
    need (s.cmds.all (fun c => decide (c.ctx ≠ ctx) || c.stops) && s.mats.all (fun c => decide (c.ctx ≠ ctx) || c.stops))
    let off := s.swappedOff ctx
    each l (saveBlock false)
    modify fun s =>
      let s := off.foldl State.dropMonitors s
      let s := (List.range 512).foldl (fun s c => s.leaveMatrix c ctx) s
      let s : State := { s with cmds := s.cmds.map (fun c : Cmd => if c.ctx = ctx then c.leavePages else c) }
      s.modCtx ctx (fun c => { c with preempted := true })) s

/-- BLOCK_SWAP: a block that is still parked after 4 µs leaves its core, with any groups of it that still run (spec/04 R98). -/
def execBlockSwap (i : Nat) (s : State) : Outcome State Fault Refusal :=
  runEvent (do
    let s ← get
    let b ← needSome (s.blkAt i)
    need (b.swapOk && b.parkedLong s.time && b.core.isSome && !b.ended && s.unitsStop i && s.ctxRuns b.ctx)
    saveBlock true i) s

/-! ### BLOCK_RESUME (R326) -/

/-- Channel commands of a resumed block continue on the channels of its new core. Where they stand among the commands already there
is not said: in the model they keep the order in which commands were accepted, and may exceed the queue (log 115). -/
def Cmd.moveTo (core : Nat) (c : Cmd) : Cmd :=
  match c.eng with
  | .chan _ ch => if isFeed c.kind c.q || c.isDone then c else { c with core := core, eng := .chan core ch }
  | _ => c

/-- Entries of a core's table for the paths of a block that comes to it: members of one entry stay together; what finds no
entry free waits for one (spec/13 R262). -/
def State.reseat (s : State) (i core : Nat) (b : Block) : Block :=
  let here := s.corePaths core
  let used := entriesOf here
  let own := (b.groups.mapIdx fun gi g => g.paths.mapIdx fun pi p => (i, gi, pi, p)).flatten
  let old := entriesOf own
  let free := (List.range (tableSize core)).filter (fun e => !used.contains e)
  b.eachPath fun p => { p with entry := (p.entry.bind fun e => old.findIdx? (fun x => decide (x = e))).bind (fun k => free[k]?) }

/-- A saved block continues on a core. -/
def execBlockResume (i core : Nat) (s : State) : Outcome State Fault Refusal :=
  runEvent (do
    let s ← get
    let b ← needSome (s.blkAt i)
    let g ← needSome (s.grid? b.grid)
    let c ← needSome (s.ctxAt b.ctx)
    need (b.core.isNone && !b.ended && c.fault.isNone && !c.terminated)
    need (!b.swapOk || b.woken s.time)
    resumeRoom i b g core
    let kept ← ask (keptFrom b.grid (some i) g.lrec.prio core) false
    need (!kept)
    acquireFor core 5
    modify fun s =>
      let s := (s.emptyLeaves core).modBlk i (fun b =>
        { (s.reseat i core b).eachPath (fun p => { p with paused := false }) with core := some core, last := core, swapOk := false, waitSince := none })
      let s : State := { s with cmds := s.cmds.map (fun c : Cmd => if c.blk = i then c.moveTo core else c) }
      (s.modCtx b.ctx (fun c => { c with preempted := false })).trimL1 core) s

/-! ### PRIORITY_WAIT_TIMEOUT (spec/14 R283) -/

def State.prioOf (s : State) (b : Block) : Nat := ((s.grid? b.grid).map (·.lrec.prio)).getD 0

/-- What may wait for a core under a grid's class: its next block, the next pixel group of an owner, a saved block of it that is
ready to go on. -/
inductive Waiter where
  | next
  | pixels (die : Nat)
  | saved (i : Nat)
  deriving DecidableEq, Repr, Inhabited

/-- The waiter may use a core. -/
def Waiter.mayUse (w : Waiter) (gi : Nat) (g : Grid) (core : Nat) : M Bool :=
  match w with
  | .next => Sys2Proof.Machine.mayUse gi g g.next core
  | .pixels die => do
    let u ← Sys2Proof.Machine.mayUse gi g g.next core
    pure (u && decide (dieOf core = die))
  | .saved i => do
    let s ← get
    pure (match s.blkAt i with
      | some b => s.mayGoOn i b g core
      | none => false)

/-- A wait of 100 µs is over. -/
def overdue (now : Word) (since : Option Word) : Bool :=
  match since with
  | some t => decide (100000 ≤ (now - t).toNat)
  | none => false

/-- What has waited 100 µs for a core under a grid's class: its next block first. -/
def overdueOf (gi : Nat) (g : Grid) : M (List Waiter) := do
  let s ← get
  let n ← ask (nextGroups gi g) none
  pure ((if overdue s.time g.waitSince && n.isSome then [Waiter.next] else [])
    ++ ((s.frames.filter (fun f => decide (f.grid = gi) && !f.closed)).map fun f =>
        (f.covers.filter (fun c => overdue s.time c.waitSince && s.hasNext c)).map (fun c => Waiter.pixels c.die)).flatten
    ++ (((List.range s.blocks.length).zip s.blocks).filter (fun x =>
        decide (x.2.grid = gi) && s.waitsToGo x.2 && overdue s.time x.2.waitSince)).map (fun x => Waiter.saved x.1))

/-- The waiter begins to wait anew. -/
def Waiter.restart (w : Waiter) (gi : Nat) (s : State) : State :=
  match w with
  | .next => s.modGrid gi (fun g => { g with waitSince := none })
  | .pixels die =>
    { s with frames := s.frames.map fun f : Frame =>
        if f.grid = gi then { f with covers := f.covers.map (fun c => if c.die = die then { c with waitSince := none } else c) }
        else f }
  | .saved i => s.modBlk i (fun b => { b with waitSince := none })

/-- Resident blocks of a class below the grid's on cores that its waiter may use: those of the lowest class. -/
def victims (gi : Nat) (g : Grid) (w : Waiter) : M (List Nat) := do
  let s ← get
  let found ← collect ((List.range s.blocks.length).zip s.blocks) (fun (x : Nat × Block) => do
    match x.2.core with
    | some c =>
      if x.2.ended || decide (g.lrec.prio ≤ s.prioOf x.2) then pure ([] : List (Nat × Nat))
      else do
        let u ← w.mayUse gi g c
        pure (if u then [(x.1, s.prioOf x.2)] else [])
    | none => pure [])
  let l : List (Nat × Nat) := found.flatten
  let low : Nat := l.foldl (fun (a : Nat) x => min a x.2) 4
  pure ((l.filter (fun x => x.2 == low)).map (·.1))

/-- Blocks with the resident blocks of their clusters, which are saved together (spec/11 R230). -/
def State.withClusters (s : State) (l : List Nat) : List Nat :=
  (List.range s.blocks.length).filter fun i => match s.blkAt i with
    | some b => b.core.isSome && !b.ended && l.any (fun k => match s.blkAt k with
        | some v => decide (i = k) || decide (v.grid = b.grid ∧ v.cluster = b.cluster)
        | none => false)
    | none => false

/-- The first of the waiters for which there are blocks to take, with those. -/
def firstServed (gi : Nat) (g : Grid) (ws : List Waiter) : M (Option (Waiter × List Nat)) :=
  match ws with
  | [] => pure none
  | w :: r => do
    let l ← ask (victims gi g w) []
    let s ← get
    let l := s.withClusters l
    if l.isEmpty then firstServed gi g r else pure (some (w, l))

/-- Blocks of the lowest class are taken at clause boundaries for a block that has waited 100 µs: for the first waiter of the grid that
has such blocks on cores it may use. -/
def execPriorityWaitTimeout (gi : Nat) (s : State) : Outcome State Fault Refusal :=
  runEvent (do
    let s ← get
    let g ← needSome (s.grid? gi)
    let ws ← overdueOf gi g
    let r ← firstServed gi g ws
    let (w, l) ← needSome r
    need (l.all (fun i => s.unitsStop i))
    each l (saveBlock false)
    modify (w.restart gi)) s

end Sys2Proof.Machine
end

