-- ==== Sys2Proof/Machine/Cow.lean ====
section
/-!
DEFINITION. Copy-on-write service: the page pool, the copy, the new entries and the shootdown (spec/19 R313, R314,
R356).
-/

namespace Sys2Proof.Machine

open Host

/-! ### The page pool (R356) -/

/-- A dword at a physical address, read at its home. -/
def homeDword (pa : Nat) : M Nat := readPte pa

/-- Write a dword at a physical address, at its home. -/
def putDword (pa v : Nat) : M Unit := do
  let l ← atHome (pa / 128) true
  writeAt l (spanData (pa % 128) 8 v) (spanMask (pa % 128) 8) 0x200

/-- The pool record lies aligned in local memory of the partition. -/
def State.poolOk (s : State) (ctx pool : Nat) : Bool :=
  decide (pool < 2 ^ 56 ∧ pool % 256 = 0 ∧ regionOf pool = 0) && s.owns ctx pool

/-- A page of size code `n` is aligned, and lies wholly in local memory of the partition. -/
def State.poolPage (s : State) (ctx n page : Nat) : Bool :=
  decide (page ≠ 0 ∧ page < 2 ^ 56 ∧ page % pageBytes n = 0)
    && (List.range ((pageBytes n + 2 ^ 30 - 1) / 2 ^ 30)).all (fun i =>
      decide (regionOf (page + i * 2 ^ 30) = 0) && s.owns ctx (page + i * 2 ^ 30))

/-- Take the head of the list of a size; none when the list is empty or its head malformed. -/
def takePage (ctx n : Nat) : M (Option Nat) := do
  let s ← get
  let pool := ((s.ctxAt ctx).map (·.cowpool.toNat)).getD 0
  if !s.poolOk ctx pool then pure none
  else do
    let page ← homeDword (pool + 16 * n)
    if !s.poolPage ctx n page then pure none
    else do
      let next ← homeDword page
      let count ← homeDword (pool + 16 * n + 8)
      putDword (pool + 16 * n) next
      putDword (pool + 16 * n + 8) ((count + 2 ^ 64 - 1) % 2 ^ 64)
      pure (some page)

/-! ### The copy and the entries (R313) -/

/-- Copy a span of bytes to another that does not meet it; what the destination held goes. -/
def copyBytes (m : List Cell) (src dst n : Nat) : List Cell :=
  let kept := m.filter (fun c => !(decide (dst ≤ c.1) && decide (c.1 < dst + n)))
  (m.filter (fun c => decide (src ≤ c.1) && decide (c.1 < src + n))).foldl (fun acc c => putByte acc (c.1 - src + dst) c.2) kept

/-- Copies of the lines of a span go from every L1 and replica store (log 11). -/
def State.dropCopies (s : State) (first n : Nat) : State :=
  let away := fun l : Nat => !(decide (first / 128 ≤ l) && decide (l < (first + n + 127) / 128))
  { s with
    cores := s.cores.map (fun x => (x.1, { x.2 with l1 := x.2.l1.filter (fun r => away r.line) }))
    dies := s.dies.map (fun x => (x.1, { x.2 with replicas := x.2.replicas.filter (fun r => away r.line) })) }

/-- A span copied whole to another with its poison, as a line that moves to a new home is (spec/03 R73, spec/19 R329). -/
def State.copyPage (s : State) (old new n : Nat) : State :=
  let inOld := fun g : Nat => decide (old / 8 ≤ g) && decide (g < (old + n) / 8)
  let inNew := fun g : Nat => decide (new / 8 ≤ g) && decide (g < (new + n) / 8)
  let s := { s with
    mem := copyBytes s.mem old new n
    poison := s.poison.filter (fun g => !inNew g) ++ (s.poison.filter inOld).map (fun g => g - old / 8 + new / 8) }
  s.dropCopies new n

/-- The copy of an old page to a new one by a bulk engine: line by line, each read and written at home (R120). A line that cannot be
reached and a poisoned granule raise the engine's fault (R134). -/
def copyAtHome (old new n : Nat) : M Unit := do
  each (List.range (n / 128)) (fun i => do
    let a ← atHome (old / 128 + i) false
    let s ← get
    match s.poisonIn (128 * a) 128 with
    | some g => raise (poisonFlt (8 * g) 0)
    | none => pure ()
    let b ← atHome (new / 128 + i) true
    writeAt b (BitVec.ofNat 1024 (lineOf s.mem a)) (BitVec.allOnes 128) 0x200)
  modify fun s => s.dropCopies new n

/-- An entry with the new page frame, W = 1, COW = 0 and D = 0, every other field kept. -/
def cowEntry (pte new : Nat) : Nat :=
  let kept := pte - fld 59 16 pte * 2 ^ 16 - fld 14 14 pte * 2 ^ 14 - fld 7 7 pte * 2 ^ 7 - fld 3 3 pte * 2 ^ 3
  kept + new / 4096 * 2 ^ 16 + 2 ^ 3

/-- Physical addresses of the run that holds an entry of this size code. -/
def runOf (at_ n : Nat) : List Nat :=
  let k := 4 ^ (n % 5)
  let base := at_ - 8 * (at_ / 8 % k)
  (List.range k).map (fun i => base + 8 * i)

def rewriteRun (at_ n new : Nat) : M Unit :=
  each (runOf at_ n) (fun a => do
    let pte ← homeDword a
    putDword a (cowEntry pte new))

/-! ### COW_SERVICE (R313, R314) -/

/-- The die's fault microcontroller is busy with another service, or another die's serves the same page. -/
def State.cowBusy (s : State) (i : Nat) (w : CowSvc) : Bool :=
  ((List.range s.cows.length).zip s.cows).any fun x =>
    decide (x.1 ≠ i) && x.2.served && !x.2.closed
      && (decide (x.2.die = w.die) || decide (x.2.ctx = w.ctx ∧ x.2.base = w.base))

/-- The fault of a service that cannot be made, as the record holds it: cause 1 when the page pool is empty (R308, R313), or
the fault that the service itself met. -/
def CowSvc.dead (w : CowSvc) (f : Option Flt) : Flt :=
  match f with
  | none => { w.flt with cause := 1, detail := w.flt.detail / 2 ^ 32 * 2 ^ 32, detail2 := 0 }
  | some f => { f with unit := w.flt.unit, lane := w.flt.lane, index := w.flt.index }

/-- A group whose fault cannot be served stops at the word (R313). -/
def State.cowStop (s : State) (i : Nat) (w : CowSvc) (f : Flt) : State :=
  let s := s.atGroup w.blk w.grp (fun p => decide (p.wait = some (.service i)))
  let s := { s.capture w.ctx (faultRec f s) with cur := Cur.none }
  s.modGrp w.blk w.grp fun g =>
    { g with paths := g.paths.map fun p => if p.wait = some (.service i) then { p with stopped := true } else p }

/-- A task whose copy-on-write page cannot be had ends as a command does. -/
def cowTask (w : CowSvc) (i : Nat) (f : Flt) : M Unit := do
  let s ← get
  let n ← freeBelow 254
  match (s.blkAt w.blk).bind (fun b => b.tasks[i]?) with
  | none => pure ()
  | some t =>
    match taskOp t.word.toNat with
    | none => pure ()
    | some op => do
      modify fun s => { s with cur := ⟨w.blk, t.grp, 2 ^ 32, t.word, none⟩ }
      endTask op i (((s.blkAt w.blk).bind (·.core)).getD 0) t f (n + 1)
      modify fun s => s.modBlk w.blk (fun b =>
        { b with tasks := b.tasks.modify i (fun t => { t with issued := true, done := true }) })

/-- A service whose fault has become fatal is closed. A command is stopped with a status that the spec does not state (log 18),
and its fault is raised later (R305); a unit away from the cores ends its context. -/
def cowFatal (i : Nat) (w : CowSvc) (f : Flt) : M Unit := do
  modify fun s => { s with cows := s.cows.modify i (fun w => { w with closed := true }) }
  match w.cmd, w.mat, w.task with
  | some c, _, _ => do
    let n ← freeBelow 254
    modify fun s => s.failCmd c f (n + 1)
  | none, some m, _ => do
    let n ← freeBelow 254
    modify fun s => s.failMat m f (n + 1)
  | none, none, some i => cowTask w i f
  | none, none, none =>
    if w.lanes = 0 then
      modify fun s => s.capture w.ctx
        { flt := f, core := 0, group := 0, pc := 0, x := 0, y := 0, z := 0, cluster := 0, word := 0, pfx := 0
          launch := 0, time := s.time }
    else modify fun s => s.cowStop i w f

/-- A pool page takes the old page's bytes, the run's entries name it, and a shootdown begins; answers no page when the pool has
none. A fault on a page that is served already finds the new entry. -/
def servePage (w : CowSvc) : M Bool := do
  let pte ← homeDword w.at_
  if fld 14 14 pte = 1 then do
    let n := fld 63 60 pte
    let page ← takePage w.ctx n
    match page with
    | none => pure false
    | some new => do
      copyAtHome (fld 59 16 pte * 4096) new (pageBytes n)
      rewriteRun w.at_ n new
      modify fun s => if s.shoots.contains (s.cowShoot w) then s else { s with shoots := s.shoots ++ [s.cowShoot w] }
      pure true
  else pure true

/-- Serve one fault. -/
def execCowService (i : Nat) (s : State) : Outcome State Fault Refusal :=
  runEvent (do
    let s ← get
    let w ← needSome s.cows[i]?
    need (!w.served && !w.closed && !s.cowBusy i w)
    let r ← catchFlt (servePage w)
    match r with
    | .ok true => modify fun s => { s with cows := s.cows.modify i (fun w => { w with served := true }) }
    | .ok false => cowFatal i w (w.dead none)
    | .error f => cowFatal i w (w.dead (some f))) s

/-- COW_REISSUE: once the shootdown completes, the faulting word issues again. -/
def execCowReissue (i : Nat) (s : State) : Outcome State Fault Refusal :=
  runEvent (do
    let s ← get
    let w ← needSome s.cows[i]?
    need (w.served && !w.closed)
    let done ← if s.shoots.contains (s.cowShoot w) then finishShoot (s.cowShoot w) true else pure true
    need done
    modify fun s =>
      let s := { s with cows := s.cows.modify i (fun w => { w with closed := true }) }
      s.modGrp w.blk w.grp fun g =>
        { g with paths := g.paths.map fun p => if p.wait = some (.service i) then { p with wait := none } else p }) s

/-- COWPOOL_ADD_PAGES: the host driver's pages join a list between services, each at its head (log 12). -/
def execCowpoolAddPages (ctx n : Nat) (pages : List Nat) (s : State) : Outcome State Fault Refusal :=
  runEvent (do
    let s ← get
    let pool := ((s.ctxAt ctx).map (·.cowpool.toNat)).getD 0
    need (decide (n < 12) && s.poolOk ctx pool && pages.all (fun p => decide (p % 8 = 0 ∧ p < 2 ^ 56)))
    each pages (fun p => do
      let head ← homeDword (pool + 16 * n)
      let count ← homeDword (pool + 16 * n + 8)
      putDword p head
      putDword (pool + 16 * n) p
      putDword (pool + 16 * n + 8) ((count + 1) % 2 ^ 64))) s

end Sys2Proof.Machine
end

