-- ==== Sys2Proof/Machine/Terminate.lean ====
section
/-!
DEFINITION. Ending a context after a fatal fault (spec/19 R307, R310, R311, R327), the kernel watchdog (R312), and the
removal of coherence objects (spec/03 R71).
-/

namespace Sys2Proof.Machine

open Host

/-! ### KERNEL_WATCHDOG_EXPIRY (R312) -/

/-- Resident groups of a grid that have not exited and that no fault has stopped: core, block, group. -/
def State.liveGroups (s : State) (gi : Nat) : List (Nat × Nat × Nat) :=
  ((List.range s.blocks.length).map fun i => match s.blkAt i with
    | some b => (match b.core with
      | some c =>
        if b.grid = gi ∧ ¬ b.ended then
          ((List.range b.groups.length).filter fun j => ((b.groups[j]?).map fun g =>
            !g.gone && !g.paths.all (·.stopped)).getD false).map (fun j => (c, i, j))
        else []
      | none => [])
    | none => []).flatten

/-- Insert by core and then group (R311). -/
def insertGroup (x : Nat × Nat × Nat) (l : List (Nat × Nat × Nat)) : List (Nat × Nat × Nat) :=
  match l with
  | [] => [x]
  | y :: r => if x.1 < y.1 ∨ (x.1 = y.1 ∧ x.2.2 < y.2.2) then x :: y :: r else y :: insertGroup x r

/-- A group stands at a boundary or waits, and holds no clamp. -/
def State.groupStops (s : State) (blk grp : Nat) : Bool :=
  match s.grpAt blk grp with
  | some g => g.paths.all (·.atStop) && !s.clamps.any (fun c => decide (c.blk = blk ∧ c.grp = grp) && c.granted)
  | none => false

/-- Raise a kernel watchdog fault on a group. -/
def State.kernelTimeout (s : State) (us : Nat) (x : Nat × Nat × Nat) : State :=
  let s := s.atGroup x.2.1 x.2.2 (fun _ => true)
  let ctx := s.curCtxNo
  (s.capture ctx (faultRec { cls := 9, cause := 0, detail := BitVec.ofNat 64 us } s)).stopGroup x.2.1 x.2.2

/-- Every resident group of a grid whose time has reached KWD raises class 9, at its next clause boundary or where it
waits. -/
def execKernelWatchdogExpiry (gi : Nat) (s : State) : Outcome State Fault Refusal :=
  runEvent (do
    let s ← get
    let g ← needSome (s.grid? gi)
    let kwd := ((s.ctxAt g.ctx).map (·.kwd.toNat)).getD 0
    need (decide (kwd ≠ 0 ∧ 1000 * kwd ≤ g.ns))
    let l := ((s.liveGroups gi).filter (fun x => s.groupStops x.2.1 x.2.2)).foldl (fun acc x => insertGroup x acc) []
    need (!l.isEmpty)
    let s := l.foldl (fun s x => s.kernelTimeout (g.ns / 1000) x) s
    set { s with cur := Cur.none }) s

/-! ### Coherence objects that go (spec/03 R71) -/

/-- Physical lines of an object. -/
def CohObj.lines (o : CohObj) : List Nat :=
  ((List.range o.rows).map fun k => (List.range o.rowLines).map fun i => o.first + k * o.strideLines + i).flatten

/-- A line of an object, where it is held: a line that is being migrated is also the object's at its new home (R71, R73). -/
def State.holdsLine (s : State) (o : CohObj) (line : Nat) : Bool := o.has line || o.has (s.origin line)

/-- Every L2 and replica copy of an object's lines goes, dirty lines having been written back. -/
def State.purge (s : State) (o : CohObj) : State :=
  { s with
    l2 := s.l2.filter (fun h => !s.holdsLine o h.line)
    dies := s.dies.map (fun x => (x.1, { x.2 with replicas := x.2.replicas.filter (fun r => !o.has r.line) })) }

/-- Remove the objects of a context, as OP 2 does. -/
def State.removeObjects (s : State) (ctx : Nat) : State :=
  let s := (s.objs.filter (fun o => decide (o.ctx = ctx))).foldl (fun s o => s.purge o) s
  { s with objs := s.objs.filter (fun o => decide (o.ctx ≠ ctx)) }

/-! ### The fault record (R307, R308) -/

/-- The sixteen dwords of the record. -/
def FaultRec.words (r : FaultRec) (c : Ctx) : List Nat :=
  [r.time.toNat, r.code.toNat, r.pc.toNat, r.flt.addr.toNat,
   r.x % 2 ^ 32 + 2 ^ 32 * (r.y % 2 ^ 32), r.z % 2 ^ 32 + 2 ^ 32 * (r.cluster % 2 ^ 32),
   r.word.toNat + 2 ^ 32 * r.pfx.toNat, r.flt.detail.toNat, r.flt.detail2.toNat, r.launch.toNat,
   c.asn % 2 ^ 16 + 2 ^ 16 * c.part, c.more, 0, 0, 0, 0]

/-- Store dwords at a virtual address in the scheduler's name; does it succeed? -/
def storeDwords (ctx : Nat) (va : Word) (l : List Nat) : M Bool := do
  let trs ← catchFlt (collect (List.range l.length) (fun i =>
    translate (schedAg ctx) (va + BitVec.ofNat 64 (8 * i)) .store))
  match trs with
  | .error _ => pure false
  | .ok ts => do
    let r ← catchFlt (each (ts.zip l) (fun (x : Tr × Nat) => engineWrite (schedAg ctx) x.1 8 x.2))
    match r with
    | .ok _ => pure true
    | .error _ => pure false

/-- Write the record at FREC, or report the context as ended without one. -/
def writeRecord (ctx : Nat) (c : Ctx) (r : FaultRec) : M Unit := do
  let ok ← if c.frec.toNat % 128 = 0 then storeDwords ctx c.frec (r.words c) else pure false
  if ok then pure ()
  else modify fun s => s.modCtx ctx (fun c => { c with noRecord := some r.code })

/-! ### TERMINATE_CONTEXT (R310) -/

/-- Close a record queue: CLOSE is byte 14 of its descriptor. A store that faults is not made; one that must wait at its home holds the
termination up. -/
def closeQueue (ctx : Nat) (q : Word) : M Unit :=
  if q = 0 then pure ()
  else do
    let _ ← catchFlt (do
      let tr ← translate (schedAg ctx) (q + 14) .store
      engineWrite (schedAg ctx) tr 1 1)
    pure ()

/-- Record queues that a grid names. -/
def Grid.recordQueues (g : Grid) : List Word :=
  [g.lrec.rq0, g.lrec.rq1] ++ (if g.lrec.mode = 2 then [g.lrec.source] else [])

/-- Unfinished grids of a context. -/
def State.openGrids (s : State) (ctx : Nat) : List Grid := s.grids.filter (fun g => decide (g.ctx = ctx) && !g.done)

/-- Commands stop and are discarded, monitors are freed, user queues are stopped (steps 1 to 3). -/
def State.stopUnits (s : State) (ctx : Nat) : State :=
  let mine := fun blk : Nat => ((s.blkAt blk).map (fun b => decide (b.ctx = ctx))).getD false
  { s with
    cmds := s.cmds.map (fun c : Cmd => if c.ctx = ctx ∧ ¬ c.isDone then { c with status := .done, raised := true } else c)
    mats := s.mats.map (fun c : MatCmd => if c.ctx = ctx ∧ ¬ c.isDone then { c with status := .done, raised := true } else c)
    monitors := s.monitors.filter (fun m => !mine m.blk)
    clamps := s.clamps.filter (fun m => !mine m.blk)
    queues := s.queues.map (fun q : UQueue =>
      if q.ctx = ctx then { q with stopped := true, slot := none, waitSince := none, pending := none } else q)
    slots := s.slots.map (fun x : Nat × Slot =>
      if ((x.2.q.bind (fun q => s.queues[q]?)).map (fun q => decide (q.ctx = ctx))).getD false then (x.1, ⟨none, 0⟩) else x) }

/-- Cores, scratchpads and matrix state are free, and the context's translations go (step 7). -/
def State.freeContext (s : State) (ctx : Nat) : State :=
  let s := { s with
    blocks := s.blocks.map (fun b : Block =>
      if b.ctx = ctx then
        { b with ended := true, core := none, scratch := [], scratchPoison := [], tasks := [], held := none } else b)
    grids := s.grids.map (fun g : Grid => if g.ctx = ctx then { g with done := true, waitSince := none } else g)
    cores := s.cores.map (fun x : Nat × Core =>
      (x.1, { x.2 with
        mat := if x.2.mat.ctx = some ctx then Core.empty.mat else x.2.mat
        leaf := x.2.leaf.filter (fun e => decide (e.ctx ≠ ctx)) }))
    savedMat := s.savedMat.filter (fun x => decide (x.1 ≠ ctx))
    cows := s.cows.map (fun w : CowSvc => if w.ctx = ctx then { w with closed := true } else w)
    frames := s.frames.map (fun f : Frame => if f.ctx = ctx then { f with closed := true } else f)
    bars := s.bars.filter (fun w => !((s.grid? w.grid).map (fun g : Grid => decide (g.ctx = ctx))).getD false) }
  match s.ctxAt ctx with
  | some c =>
    let sh : Shoot := ⟨c.part, c.asn, 0, 2 ^ 64⟩
    (({ s with shoots := s.shoots.filter (fun x => !decide (x.part = c.part ∧ x.asn = c.asn)) } : State).dropTlb sh true).modCtx
      ctx (fun c => { c with terminated := true, preempted := false, intr := c.intr + 1 })
  | none => s

/-- Stores that the context's groups have had accepted are performed (step 2). -/
def drainContext (ctx : Nat) : M Unit := do
  let s ← get
  each (s.resident ctx) drainBlock
  flushFwd (fun f => f.groups.any (fun g => ((s.blkAt g.1).map (fun b => decide (b.ctx = ctx))).getD false))

/-- End the context whose fatal fault is captured, once its groups have stopped and no MCAS of it holds a clamp. -/
def execTerminateContext (ctx : Nat) (s : State) : Outcome State Fault Refusal :=
  runEvent (do
    let s ← get
    let c ← needSome (s.ctxAt ctx)
    let r ← needSome c.fault
    need (!c.terminated && (s.resident ctx).all (fun i => s.blockStops i))
    drainContext ctx
    modify fun s => (s.stopUnits ctx)
    each ((s.openGrids ctx).map Grid.recordQueues).flatten (closeQueue ctx)
    modify fun s => s.removeObjects ctx
    let _ ← fireTrigger ctx 2 0 [0, 1, 2, 3]
    writeRecord ctx c r
    each (s.openGrids ctx) (fun g =>
      if g.lrec.signal = 0 then pure ()
      else do
        let _ ← storeDwords ctx g.lrec.signal [0xC000000000000000 + r.flt.cls]
        pure ())
    modify fun s => s.freeContext ctx) s

end Sys2Proof.Machine
end

