-- ==== Sys2Proof/Machine/MemEvents.lean ====
section
/-!
DEFINITION. Steps of memory that no word encodes: buffer drains (spec/03 R68), stores forwarded home (R63, R74),
re-encoding (R66), migration (R73), shootdowns (R59), and the reset domains (R75, R76).
-/

namespace Sys2Proof.Machine

open Host

/-! ### Drains and forwarded stores -/

/-- WC_ENTRY_DRAIN: an entry drains at any time (R68). -/
def execWcEntryDrain (core entry : Nat) (s : State) : Outcome State Fault Refusal :=
  runEvent (do
    let s ← get
    let e ← needSome (s.coreAt core).wc[entry]?
    drainEntry core e) s

/-- WC_IDLE_TIMEOUT: an entry drains after 256 cycles without a write (R68). -/
def execWcIdleTimeout (core entry : Nat) (s : State) : Outcome State Fault Refusal :=
  runEvent (do
    let s ← get
    let e ← needSome (s.coreAt core).wc[entry]?
    need (decide (256 ≤ cyclesIn core (s.time - e.last).toNat))
    drainEntry core e) s

/-- No earlier store of the list is to the same line from the same die. -/
def State.firstOfLine (s : State) (i : Nat) (f : Fwd) : Bool :=
  !(s.fwd.take i).any (fun x => decide (x.line = f.line ∧ x.die = f.die))

/-- A store on its way is performed at the home of its line, after earlier ones to the line. -/
def performFwd (i : Nat) (forwarded : Bool) : M Unit := do
  let s ← get
  let f ← needSome s.fwd[i]?
  need (s.firstOfLine i f && (decide (s.resolve f.line = f.line) != forwarded))
  set { s with fwd := s.fwd.eraseIdx i }
  performStore f

def execStoreForwardHome (i : Nat) (s : State) : Outcome State Fault Refusal := runEvent (performFwd i false) s

/-- FORWARDED_ACCESS: a store that meets a forwarded line is performed once, at the new home (R74). -/
def execForwardedAccess (i : Nat) (s : State) : Outcome State Fault Refusal := runEvent (performFwd i true) s

/-! ### L2_REENCODE (R66) -/

def execL2Reencode (line : Nat) (s : State) : Outcome State Fault Refusal :=
  runEvent (do
    let s ← get
    let h ← needSome (s.l2.find? (fun h => decide (h.line = line)))
    let enc := encode65 (lineOf s.mem line)
    need (h.cmp && decide (h.enc ≠ enc) && !(s.dieAt (s.lineDie line)).l2Reset)
    let l := s.l2.map (fun h : HomeLine => if h.line = line then { h with enc := enc } else h)
    need (setFits (({ s with l2 := l } : State).tagsIn (s.lineDie line) line))
    set { s with l2 := l }) s

/-! ### Migration (R73) -/

/-- A monitor entry, and the parked word it serves, follow the line to its new home. -/
def Monitor.follow (old new : Nat) (m : Monitor) : Monitor :=
  if m.pa / 128 = old then { m with pa := 128 * new + m.pa % 128 } else m

def CmpWait.follow (old new : Nat) (w : CmpWait) : CmpWait :=
  if w.pa / 128 = old then { w with pa := 128 * new + w.pa % 128 } else w

def Path.follow (old new : Nat) (p : Path) : Path :=
  match p.wait with
  | some (.cmp w) => { p with wait := some (.cmp (w.follow old new)) }
  | _ => p

def Block.follow (old new : Nat) (b : Block) : Block :=
  { b with groups := b.groups.map (fun g : Group => { g with paths := g.paths.map (Path.follow old new) }) }

/-- A line of local memory. -/
def localLine (line : Nat) : Bool := decide (line < 2 ^ 32)

/-- The old home marks the line moving, with no clamp on it; replicas of the line go. -/
def markMoving (old new : Nat) : M Unit := do
  let s ← get
  need (localLine old && localLine new && decide (old ≠ new))
  need (!s.clamps.any (fun c => decide (c.line = old) && c.granted))
  need (!s.migrs.any (fun m => decide (m.old = new ∨ m.new = new ∨ m.new = old)))
  need (!(s.dieAt (s.lineDie old)).l2Reset && !(s.dieAt (s.lineDie new)).l2Reset)
  modify fun s => { s with
    migrs := s.migrs ++ [⟨old, new, false⟩]
    dies := s.dies.map (fun x => (x.1, x.2.dropReplica old)) }

/-- The line is copied to its new home with its monitor entries, and marked forwarded; it waits for room in its new set. -/
def copyMoving (old new : Nat) : M Unit := do
  let s ← get
  need (!(s.dieAt (s.lineDie old)).l2Reset && !(s.dieAt (s.lineDie new)).l2Reset)
  let t ← needSome (s.rehome old new)
  set (
    let s := t.copyPage (128 * old) (128 * new) 128
    { s with
      monitors := s.monitors.map (Monitor.follow old new)
      blocks := s.blocks.map (Block.follow old new)
      migrs := s.migrs.map (fun m : Migr => if m.old = old then { m with forwarded := true } else m) })

/-- LINE_MIGRATION: a line begins to move, or a moving line is copied and forwarded. -/
def execLineMigration (old new : Nat) (s : State) : Outcome State Fault Refusal :=
  runEvent (do
    let s ← get
    match s.migrs.find? (fun m => decide (m.old = old)) with
    | none => markMoving old new
    | some m => do
      need (decide (m.new = new) && !m.forwarded)
      copyMoving old new) s

/-- A leaf with another page frame. -/
def framedPte (pte new : Nat) : Nat := pte - fld 59 16 pte * 2 ^ 16 + new / 4096 * 2 ^ 16

/-- Objects whose lines lie in a page follow it (R71). -/
def CohObj.follow (old new n : Nat) (o : CohObj) : CohObj :=
  if old / 128 ≤ o.first ∧ o.first < (old + n) / 128 then { o with first := o.first - old / 128 + new / 128 } else o

/-- A leaf found in a context's tables: where it lies, the leaf, and the first address of its page. -/
abbrev Mapped := Nat × Nat × Nat

/-- The entries of a table of a level, by number (spec/03 R54). -/
@[irreducible] def tableSlots (level : Nat) : List Nat := List.range (if level = 4 then 32 else 1024)

/-- Leaves below a table of a level whose addresses start with `va`, as the homes of the entries hold them. -/
def State.leavesIn (s : State) (level table va : Nat) : List Mapped :=
  ((tableSlots level).map fun i =>
    let at_ := table + 8 * i
    let pte := s.pteAt at_
    let here := va + i * 2 ^ (12 + 10 * level)
    if fld 0 0 pte = 0 then []
    else if fld 1 1 pte = 1 then
      match level with
      | 0 => []
      | k + 1 => if pointerMalformed (k + 1) pte then [] else s.leavesIn k (fld 59 16 pte * 4096) here
    else if leafMalformed level pte then [] else [(at_, pte, here)]).flatten

/-- Leaves of a context whose pages lie in `n` bytes from `old`, and those that only meet them. -/
def State.mappings (s : State) (c : Ctx) (old n : Nat) : List Mapped × List Mapped :=
  let l := (s.leavesIn 4 (fld 55 12 c.tbr.toNat * 4096) 0).filter fun x =>
    let pa := fld 59 16 x.2.1 * 4096
    decide (pa < old + n ∧ old < pa + pageBytes (fld 63 60 x.2.1))
  l.partition (fun x => decide (old ≤ fld 59 16 x.2.1 * 4096 ∧ fld 59 16 x.2.1 * 4096 + pageBytes (fld 63 60 x.2.1) ≤ old + n))

/-- The shootdown of a page that a leaf maps. -/
def Ctx.shootOf (c : Ctx) (x : Mapped) : Shoot :=
  let n := pageBytes (fld 63 60 x.2.1)
  let va := if x.2.2 < 2 ^ 56 then x.2.2 else x.2.2 + 2 ^ 64 - 2 ^ 57
  ⟨c.part, c.asn, va - va % n, va - va % n + n⟩

/-- MIGRATION_FINISH: every line of the page being forwarded, the entries of every context that maps it name the new page, a
shootdown of each is made, and the old page is released. -/
def execMigrationFinish (ctx : Nat) (va : Word) (new : Nat) (s : State) : Outcome State Fault Refusal :=
  runEvent (do
    let s ← get
    let c ← needSome (s.ctxAt ctx)
    need (canonical va)
    let (_, pte, _, _) ← walkFrom va .load 4 (fld 55 12 c.tbr.toNat * 4096) []
    let n := pageBytes (fld 63 60 pte)
    let old := fld 59 16 pte * 4096
    need (decide (new % n = 0) && (List.range (n / 128)).all (fun i =>
      s.migrs.contains ⟨old / 128 + i, new / 128 + i, true⟩))
    let live := s.ctxs.filter (fun k => !k.terminated)
    need (live.all (fun k => (s.mappings k old n).2.isEmpty))
    let shoots := (live.map fun k => (s.mappings k old n).1.map k.shootOf).flatten
    need (shoots.all (fun sh => !s.shootBlocked sh))
    settleStores
    each (live.map fun k => (s.mappings k old n).1).flatten.eraseDups (fun (x : Mapped) => do
      let e ← homeDword x.1
      putDword x.1 (framedPte e (fld 59 16 e * 4096 - old + new)))
    modify fun s => { s with objs := s.objs.map (CohObj.follow old new n) }
    each shoots (fun sh => do
      let done ← finishShoot sh true
      need done)
    modify fun s =>
      let s : State := { s with migrs := s.migrs.filter (fun m => !(decide (old / 128 ≤ m.old) && decide (m.old < (old + n) / 128))) }
      s.dropCopies old n) s

/-! ### SHOOTDOWN (R59) -/

/-- The host driver's shootdown of `pages` pages of size code `size`: it begins, or completes. -/
def execShootdown (ctx : Nat) (va : Word) (size pages : Nat) (s : State) : Outcome State Fault Refusal :=
  runEvent (do
    let s ← get
    let c ← needSome (s.ctxAt ctx)
    need (decide (size < 12 ∧ 1 ≤ pages ∧ va.toNat % pageBytes size = 0))
    let _ ← shootOrWait ⟨c.part, c.asn, va.toNat, va.toNat + pages * pageBytes size⟩ true
    pure ()) s

/-! ### Reset domains (R75, R76) -/

/-- A die's L2 domain performs the accesses to a line: a peer's line outside every object is performed at the peer (spec/22 R348). -/
def State.homedOn (s : State) (line die : Nat) : Bool := decide (s.lineDie line = die) && s.atSlice line

/-- Stores accepted by buffers, or on their way, whose home is on the die are discarded; their threads are owed the
fault. -/
def State.discardTo (s : State) (die : Nat) : State :=
  let there := fun line : Nat => s.homedOn (s.resolve line) die
  let lostWc := (s.cores.map (fun x => (x.2.wc.filter (fun e => there e.line)).map (·.groups))).flatten.flatten
  let lostFwd := ((s.fwd.filter (fun f => there f.line)).map (·.groups)).flatten
  let s := (lostWc ++ lostFwd).foldl (fun t bg => t.modGrp bg.1 bg.2 (fun g => { g with owed := g.owed.or (some die) })) s
  { s with
    cores := s.cores.map (fun x => (x.1, { x.2 with wc := x.2.wc.filter (fun e => !there e.line) }))
    fwd := s.fwd.filter (fun f => !there f.line) }

/-- The waiters of a die's monitor entries re-check under the 2 µs rule. -/
def State.freeMonitors (s : State) (die : Nat) : State :=
  let gone := s.monitors.filter (fun m => s.homedOn (m.pa / 128) die)
  let poll := fun (m : Monitor) (now : Word) (p : Path) => match p.wait with
    | some (.cmp w) => if p.lanes = m.lanes ∧ w.got.isNone then { p with wait := some (.cmp { w with polling := true, since := now }) } else p
    | _ => p
  let s := gone.foldl (fun t m => t.modGrp m.blk m.grp (fun g => { g with paths := g.paths.map (poll m t.time) })) s
  { s with monitors := s.monitors.filter (fun m => !s.homedOn (m.pa / 128) die) }

/-- A dirty line that the domain held only in its slice reads as free values afterwards, and poison that it held goes with it; whether a
local line's poisoned granule is poisoned in HBM too nothing constrains (log 14). -/
def loseLine (line : Nat) : M Unit :=
  each (List.range 16) (fun i => do
    let w ← freeWord
    let k ← freeWord
    modify fun s => { s with
      mem := putBytes s.mem (128 * line + 8 * i) 8 w.toNat
      poison := if localLine line && k.getLsbD 0 then s.poison else s.poison.filter (fun g => decide (g ≠ 16 * line + i)) })

/-- The lines that a command has still to write of an element of which it has written a part. -/
def Cmd.restLines (c : Cmd) : List Nat :=
  match c.rest with
  | none => []
  | some r => [c.esz - r.1, c.esz - 1].filterMap fun o : Nat =>
      let va := addI (c.place c.pos).2 o
      ((c.dstPg.bind (·.within va)).or (r.2.2.within va)).map (fun t : Tr => t.pa / 128)

/-- L2_DOMAIN_RESET: it waits for every clamp on the domain's lines (spec/05 R114), and for the rest of an element of which an engine
has written a part (spec/06 R134). -/
def execL2DomainReset (die : Nat) (s : State) : Outcome State Fault Refusal :=
  runEvent (do
    let s ← get
    need (decide (die < 4) && !(s.dieAt die).l2Reset)
    need (!s.clamps.any (fun c => c.granted && decide (s.lineDie c.line = die)))
    let mine := fun line : Nat => decide (s.lineDie line = die)
    need (!s.cmds.any (fun c => decide (c.status = .running) && c.restLines.any (fun l => mine (s.resolve l))))
    modify fun s => (s.discardTo die).freeMonitors die
    each (s.l2.filter (fun h => mine h.line && h.dirty)) (fun h => loseLine h.line)
    modify fun s => ({ s with
      l2 := s.l2.filter (fun h => !mine h.line)
      dies := s.dies.map (fun x => (x.1, { x.2 with replicas := x.2.replicas.filter (fun r => !mine r.line) })) } : State).modDie
        die (fun d => { d with l2Reset := true, replicas := [] })) s

/-- A die that bring-up marked failed stays in reset (spec/22 R350). -/
def State.works (s : State) (die : Nat) : Bool := decide (die < 4) && !s.failed.getLsbD die

/-- Bring-up has completed: no unit leaves reset before its firmware is verified and the steps before it have succeeded (spec/22
R349, R350). -/
def State.up (s : State) : Bool := decide (s.power = 7) && !s.recovery

def execL2DomainOutOfReset (die : Nat) (s : State) : Outcome State Fault Refusal :=
  runEvent (do
    let s ← get
    need (s.up && s.works die && (s.dieAt die).l2Reset)
    modify fun s => s.modDie die (fun d => { d with l2Reset := false })) s

/-- CORE_DOMAIN_RESET: the die's cores stop; its memory answers as before (log 15). -/
def execCoreDomainReset (die : Nat) (s : State) : Outcome State Fault Refusal :=
  runEvent (do
    let s ← get
    need (decide (die < 4) && !(s.dieAt die).coreReset)
    modify fun s => s.modDie die (fun d => { d with coreReset := true })) s

def execCoreDomainOutOfReset (die : Nat) (s : State) : Outcome State Fault Refusal :=
  runEvent (do
    let s ← get
    need (s.up && s.works die && (s.dieAt die).coreReset)
    modify fun s => s.modDie die (fun d => { d with coreReset := false })) s

end Sys2Proof.Machine
end

