-- ==== Sys2Proof/Machine/Sched.lean ====
section
/-!
DEFINITION. The hardware queue scheduler: user queues and packets (spec/14 R280, R281), slots (R282), accepting a launch
(R284, R285), and completing a grid (R286).
-/

namespace Sys2Proof.Machine

open Host

/-! ### Queues -/

def State.queue? (s : State) (q : Nat) : Option UQueue := s.queues[q]?

def State.modQueue (s : State) (q : Nat) (f : UQueue → UQueue) : State := { s with queues := s.queues.modify q f }

def State.slotAt (s : State) (i : Nat) : Slot := s.slots.getD i ⟨none, 0⟩

/-- A queue gives up its slot. -/
def State.unmap (s : State) (q : Nat) : State :=
  match (s.queue? q).bind (·.slot) with
  | some i => ({ s with slots := s.slots.put i ⟨none, 0⟩ } : State).modQueue q (fun u => { u with slot := none })
  | none => s

/-- A queue takes a slot, whose time starts. -/
def State.map (s : State) (q i : Nat) : State :=
  ({ s with slots := s.slots.put i ⟨some q, 0⟩ } : State).modQueue q (fun u => { u with slot := some i, waitSince := none })

/-- A context that no fatal fault has ended. -/
def State.ctxLives (s : State) (ctx : Nat) : Bool :=
  match s.ctxAt ctx with
  | some c => c.fault.isNone && !c.terminated
  | none => false

/-! ### Packets (R281) -/

def pktType (p : List Nat) : Nat := fld 7 0 (wordAt p 0)
def pktBarrier (p : List Nat) : Bool := (wordAt p 0).testBit 8
def pktAddr (p : List Nat) : Word := BitVec.ofNat 64 (wordAt p 1)
def pktValue (p : List Nat) : Nat := wordAt p 2

/-- A packet within the layout: its type, its flags and its reserved bytes. -/
def pktOk (p : List Nat) : Bool :=
  decide (pktType p < 5 ∧ fld 63 9 (wordAt p 0) = 0) && (List.range 5).all (fun i => decide (wordAt p (3 + i) = 0))

/-- A store by the scheduler, as a system-scope release. -/
def schedStore (ctx : Nat) (va : Word) (v : Nat) : M Bool := storeDwords ctx va [v]

/-- Store a refusal word at the SIGNAL of a record, when it names one that can be written. -/
def refuse (ctx : Nat) (r : LaunchRec) (cause : Nat) : M Unit :=
  if r.signal = 0 ∨ r.signal.toNat % 8 ≠ 0 then pure ()
  else do
    let _ ← schedStore ctx r.signal (0x8000000000000000 + cause)
    pure ()

/-- The record of the packet at READ, when that is a readable launch packet. -/
def headRecord (u : UQueue) (d : List Nat) : M (Option LaunchRec) :=
  if uqSize d = 0 then pure none
  else do
    let p ← catchFlt (readDwords (schedAg u.ctx) (uqPacket d (uqRead d)) 8)
    match p with
    | .error _ => pure none
    | .ok p =>
      if pktType p ≠ 1 then pure none
      else do
        let w ← catchFlt (readDwords (schedAg u.ctx) (pktAddr p) 32)
        match w with
        | .error _ => pure none
        | .ok w => pure (some (launchRec w))

/-- Stop a queue (R280): its head launch is refused with cause 1, its slot goes, and the host is told. -/
def stopQueue (q : Nat) (u : UQueue) (d : List Nat) : M Unit := do
  let r ← headRecord u d
  match r with
  | some r => refuse u.ctx r 1
  | none => pure ()
  modify fun s =>
    ((s.unmap q).modQueue q (fun u => { u with stopped := true, waitSince := none, pending := none })).modCtx u.ctx
      (fun c => { c with intr := c.intr + 1 })

/-- The queue's descriptor, when it can be read. -/
def userQueue (u : UQueue) : M (Option (List Nat)) := do
  let d ← catchFlt (readDwords (schedAg u.ctx) u.va 8)
  match d with
  | .error _ => pure none
  | .ok d => pure (some d)

/-- What the scheduler finds at the head of a queue: a breach of R280, nothing, or a packet. -/
inductive Head where
  | bad (d : List Nat)
  | empty
  | packet (d p : List Nat)
  deriving DecidableEq, Repr

def headOf (u : UQueue) : M Head := do
  let d ← userQueue u
  match d with
  | none => pure (.bad [])
  | some d =>
    if !uqOk d || decide (u.va.toNat % 64 ≠ 0) then pure (.bad d)
    else if uqWrite d = uqRead d then pure .empty
    else do
      let p ← catchFlt (readDwords (schedAg u.ctx) (uqPacket d (uqRead d)) 8)
      match p with
      | .error _ => pure (.bad d)
      | .ok p => if pktType p = 0 then pure .empty else if pktOk p then pure (.packet d p) else pure (.bad d)

/-- Every earlier launch of the queue has completed. -/
def State.barrierMet (s : State) (u : UQueue) : Bool := u.grids.all (fun g => ((s.grid? g).map (·.done)).getD true)

/-- Work on the head packet of a mapped queue of one type, once its BARRIER is met; `f` answers whether the queue breaks
R281 there. A queue that breaks R280 is stopped, mapped or not. -/
def onPacket (q : Nat) (f : UQueue → List Nat → List Nat → M Bool) : M Unit := do
  let s ← get
  let u ← needSome (s.queue? q)
  need (!u.stopped && s.ctxRuns u.ctx)
  let h ← headOf u
  match h with
  | .bad d => stopQueue q u d
  | .empty => hold
  | .packet d p => do
    need u.slot.isSome
    let ok ← f u d p
    if ok then pure () else stopQueue q u d

/-- Take the packet: READ advances. A queue whose READ cannot be written is stopped, what the packet did having been done (DESIGN CHOICE,
log 138: R280 does not say). -/
def takePacket (u : UQueue) (d : List Nat) : M Bool := schedStore u.ctx (u.va + 24) ((uqRead d + 1) % 2 ^ 64)

/-- The BARRIER of a packet is met. -/
def needBarrier (u : UQueue) (p : List Nat) : M Unit := do
  let s ← get
  need (!pktBarrier p || s.barrierMet u)

/-! ### PACKET_WAIT, PACKET_SIGNAL -/

def execPacketWait (q : Nat) (s : State) : Outcome State Fault Refusal :=
  runEvent (onPacket q (fun u d p => do
    need (decide (pktType p = 2))
    needBarrier u p
    if (pktAddr p).toNat % 8 ≠ 0 then pure false
    else do
      let w ← catchFlt (readHome (schedAg u.ctx) (pktAddr p))
      match w with
      | .error _ => pure false
      | .ok w => do
        need (decide (pktValue p ≤ w))
        takePacket u d)) s

def execPacketSignal (q : Nat) (s : State) : Outcome State Fault Refusal :=
  runEvent (onPacket q (fun u d p => do
    need (decide (pktType p = 3))
    needBarrier u p
    if (pktAddr p).toNat % 8 ≠ 0 then pure false
    else do
      let ok ← schedStore u.ctx (pktAddr p) (pktValue p)
      if ok then takePacket u d else pure false)) s

/-! ### PACKET_LAUNCH (R284) and LAUNCH_ACCEPT (R285) -/

/-- Read and check the record. A refused launch is taken at once; a good one waits for START and BARRIER, and gives up the
slot when START is more than 10 µs ahead. -/
def execPacketLaunch (q : Nat) (s : State) : Outcome State Fault Refusal :=
  runEvent (onPacket q (fun u d p => do
    need (decide (pktType p = 1) && u.pending.isNone)
    let (r, cause) ← checkLaunch (schedAg u.ctx) (pktAddr p) false
    match r, cause with
    | some r, 0 => do
      modify fun s =>
        let s := s.modQueue q (fun u => { u with pending := some (pktAddr p, r) })
        if s.time.toNat + 10000 < r.start.toNat then s.unmap q else s
      pure true
    | some r, c => do
      needBarrier u p
      refuse u.ctx r c
      takePacket u d
    | none, _ => do
      needBarrier u p
      takePacket u d)) s

/-- An accepted launch. -/
def gridOf (ctx : Nat) (va : Word) (r : LaunchRec) (q : Nat) : Grid :=
  { ctx := ctx, recVa := va, lrec := r, queue := some q, scanned := decide (r.mode ≠ 1), leaves := [], next := 0, ended := 0
    done := false, waitSince := none, ns := 0, qInst := List.replicate 8 0, qSweep := List.replicate 8 none, seen := [] }

/-- START has passed and BARRIER is met: the launch is accepted, and its packet taken. -/
def execLaunchAccept (q : Nat) (s : State) : Outcome State Fault Refusal :=
  runEvent (onPacket q (fun u d p => do
    need (decide (pktType p = 1))
    let (va, r) ← needSome u.pending
    let s ← get
    need (decide (r.start.toNat ≤ s.time.toNat))
    needBarrier u p
    let n := s.grids.length
    modify fun s =>
      ({ s with grids := s.grids ++ [gridOf u.ctx va r q] } : State).modQueue q
        (fun u => { u with pending := none, grids := u.grids ++ [n] })
    takePacket u d)) s

/-! ### Slots (R282, R285) -/

/-- Slots that are the share of a queue's partition. -/
def State.share (s : State) (u : UQueue) : List Nat := (s.partAt (s.partOf u.ctx)).slots

/-- A queue without a slot needs one: its WRITE differs from its READ. One that gave its slot up for a START more than 10 µs ahead does
not until 1 µs before (R285); one that lost it while its launch waited goes on waiting for another (R282). -/
def wantsSlot (u : UQueue) : M Bool := do
  let s ← get
  if u.stopped || u.slot.isSome || !s.ctxRuns u.ctx then pure false
  else
    match u.pending with
    | some x => pure (u.waitSince.isSome || decide (x.2.start.toNat ≤ s.time.toNat + 1000))
    | none => do
      let w ← peekVa (schedAg u.ctx) (u.va + 16)
      let r ← peekVa (schedAg u.ctx) (u.va + 24)
      pure (decide (w ≠ r))

/-- Class of a queue. -/
def classOf (u : UQueue) : M Nat := do
  let d ← peekVa (schedAg u.ctx) (u.va + 8)
  pure (fld 39 32 d.toNat)

/-- Queues that wait for a slot of their share: number, class, and since when. -/
def waiters (slot : Nat) : M (List (Nat × Nat × Nat)) := do
  let s ← get
  let l ← collect ((List.range s.queues.length).zip s.queues) (fun (x : Nat × UQueue) => do
    let w ← wantsSlot x.2
    if w && (s.share x.2).contains slot then do
      let c ← classOf x.2
      pure ([(x.1, c, (x.2.waitSince.getD s.time).toNat)] : List (Nat × Nat × Nat))
    else pure [])
  pure l.flatten

/-- No other waiter is of a higher class, or of this one and earlier. -/
def firstWaiter (l : List (Nat × Nat × Nat)) (q : Nat) : Bool :=
  match l.find? (fun x => x.1 == q) with
  | none => false
  | some a => l.all (fun x => decide (x.2.1 < a.2.1) || (decide (x.2.1 = a.2.1) && decide (a.2.2 ≤ x.2.2)))

/-- The queue is in the middle of a packet: a launch that waits, a wait packet, or one whose BARRIER is unmet. -/
def midPacket (u : UQueue) : M Bool := do
  let s ← get
  let h ← headOf u
  match h with
  | .packet _ p => pure (u.pending.isSome || decide (pktType p = 2) || (pktBarrier p && !s.barrierMet u))
  | _ => pure false

/-- Mapped queues of some slots: slot, queue and class. -/
def mappedOf (l : List Nat) : M (List (Nat × Nat × Nat)) := do
  let s ← get
  let r ← collect l (fun (i : Nat) => match (s.slotAt i).q with
    | some q => (match s.queue? q with
      | some u => do
        let c ← classOf u
        pure ([(i, q, c)] : List (Nat × Nat × Nat))
      | none => pure [])
    | none => pure [])
  pure r.flatten

/-- The queue on a slot is empty, with no launch that waits: it gives the slot up once the slot is wanted. -/
def emptyAt (slot : Nat) : M Bool := do
  let s ← get
  match (s.slotAt slot).q.bind s.queue? with
  | none => pure false
  | some u => do
    let h ← headOf u
    pure (decide (h = .empty) && u.pending.isNone)

/-- The slot that a waiter of a class may take when none is free: of an empty queue, if there is one (log 39), else of the queue
of the lowest class below it, between packets. -/
def displaces (share : List Nat) (cls slot : Nat) : M Bool := do
  let s ← get
  let idle ← anyM share emptyAt
  if idle then do
    let here ← emptyAt slot
    return share.all (fun i => (s.slotAt i).q.isSome) && share.contains slot && here
  let m ← mappedOf share
  match m.find? (fun x => x.1 == slot) with
  | none => pure false
  | some x => do
    match s.queue? x.2.1 with
    | none => pure false
    | some u => do
      let busy ← midPacket u
      pure (share.all (fun i => (s.slotAt i).q.isSome) && decide (x.2.2 < cls) && m.all (fun y => decide (x.2.2 ≤ y.2.2)) && !busy)

/-- Map a waiting queue onto a slot of its partition's share. -/
def mapQueue (q slot : Nat) : M Unit := do
  let s ← get
  let u ← needSome (s.queue? q)
  let l ← ask (waiters slot) []
  need (decide (slot < 64) && firstWaiter l q)
  match (s.slotAt slot).q with
  | none => modify fun s => s.map q slot
  | some old => do
    let c ← ask (classOf u) 0
    let ok ← ask (displaces (s.share u) c slot) false
    need ok
    modify fun s => (s.unmap old).map q slot

def execQueueSlotMap (q slot : Nat) (s : State) : Outcome State Fault Refusal := runEvent (mapQueue q slot) s

/-- SLOT_REMAP_BEFORE_START: 1 µs before the START of its head launch (R285). -/
def execSlotRemapBeforeStart (q slot : Nat) (s : State) : Outcome State Fault Refusal :=
  runEvent (do
    let s ← get
    let u ← needSome (s.queue? q)
    need u.pending.isSome
    mapQueue q slot) s

/-- SLOT_TIME_EXPIRY: after 100 µs of slot time the slot goes to a waiting queue of the same class. -/
def execSlotTimeExpiry (slot : Nat) (s : State) : Outcome State Fault Refusal :=
  runEvent (do
    let s ← get
    let old ← needSome (s.slotAt slot).q
    let u ← needSome (s.queue? old)
    need (decide (100000 ≤ (s.slotAt slot).ns))
    let c ← ask (classOf u) 0
    let l ← ask (waiters slot) []
    let own := l.filter (fun x => x.2.1 == c)
    let q ← needSome ((own.find? (fun x => own.all (fun y => decide (x.2.2 ≤ y.2.2)))).map (·.1))
    modify fun s => (((s.unmap old).modQueue old (fun u => { u with waitSince := some s.time })).map q slot)) s

/-! ### GRID_COMPLETE (R286) -/

/-- Every block has ended, and a source queue is closed and drained. -/
def gridEnded (g : Grid) : M Bool := do
  match g.total with
  | some n => pure (decide (g.next = n ∧ g.ended = n))
  | none =>
    if g.lrec.mode = 2 then do
      let d ← queueDrained g
      pure (d && decide (g.ended = g.next))
    else pure false

/-- Every write of the grid's threads is performed. -/
def releaseGrid (gi : Nat) : M Unit := do
  let s ← get
  let mine := fun bg : Nat × Nat => ((s.blkAt bg.1).map (fun b => decide (b.grid = gi))).getD false
  each s.cores (fun (x : Nat × Core) => drainCore x.1 (fun e => e.groups.any mine))
  flushFwd (fun f => f.groups.any mine)

def execGridComplete (gi : Nat) (s : State) : Outcome State Fault Refusal :=
  runEvent (do
    let s ← get
    let g ← needSome (s.grid? gi)
    need (!g.done && s.ctxLives g.ctx)
    let e ← gridEnded g
    need e
    releaseGrid gi
    if g.lrec.signal ≠ 0 then do
      let _ ← storeDwords g.ctx g.lrec.signal [g.lrec.sigval.toNat]
    modify fun s => s.modGrid gi (fun g => { g with done := true, waitSince := none })) s

end Sys2Proof.Machine
end

