-- ==== Sys2Proof/Machine/Objects.lean ====
section
/-!
DEFINITION. Coherence toward host and peers: shape records and coherence objects (spec/03 R70, R71), and snoops.
-/

namespace Sys2Proof.Machine

open Host

/-! ### Shape records (R71) -/

def shapeBase (w : List Nat) : Word := BitVec.ofNat 64 (wordAt w 0)
def shapeRows (w : List Nat) : Nat := fld 31 0 (wordAt w 1)
def shapeOp (w : List Nat) : Nat := fld 39 32 (wordAt w 1)
def shapeState (w : List Nat) : Nat := fld 47 40 (wordAt w 1)
def shapeRowBytes (w : List Nat) : Nat := wordAt w 2
def shapeStride (w : List Nat) : Nat := if shapeRows w = 1 then wordAt w 2 else wordAt w 3
def shapeHandle (w : List Nat) : Nat := wordAt w 4

/-- The reserved fields are zero and the operation exists; STATE is in range where it is used. -/
def shapePlain (w : List Nat) : Bool :=
  decide (fld 63 48 (wordAt w 1) = 0 ∧ wordAt w 6 = 0 ∧ wordAt w 7 = 0 ∧ shapeOp w ≤ 2)
    && (decide (shapeOp w = 2) || decide (shapeState w ≤ 2))

/-- The geometry of a declaration is in range. -/
def shapeInRange (w : List Nat) : Bool :=
  decide (wordAt w 0 % 128 = 0 ∧ 1 ≤ shapeRows w ∧ shapeRows w ≤ 2 ^ 20)
    && decide (shapeRowBytes w % 128 = 0 ∧ 128 ≤ shapeRowBytes w)
    && decide (shapeStride w % 128 = 0 ∧ shapeRowBytes w ≤ shapeStride w)

/-- Bytes from BASE to the end of the last row. -/
def shapeSpan (w : List Nat) : Nat := (shapeRows w - 1) * shapeStride w + shapeRowBytes w

/-- The object of a record whose base is at a physical address. -/
def shapeObj (ctx handle pa : Nat) (w : List Nat) : CohObj :=
  ⟨ctx, handle, pa / 128, shapeRows w, shapeRowBytes w / 128, shapeStride w / 128, shapeState w⟩

/-! ### Operations (R71) -/

/-- Two objects share a line. -/
def CohObj.meets (a b : CohObj) : Bool := a.lines.any (fun l => b.has l)

def State.homesOn (s : State) (o : CohObj) (die : Nat) : Bool := o.lines.any (fun l => decide (s.lineDie l = die))

/-- A table of 4,096 entries is full on a die that homes one of its lines. -/
def State.tableFull (s : State) (o : CohObj) : Bool :=
  (List.range 4).any fun d => s.homesOn o d && decide (4096 ≤ (s.objs.filter (fun x => s.homesOn x d)).length)

/-- STATUS of a declaration, and the object it enters. Where several apply, 3 goes before 4, 4 before 1, and 1 before 2 (DESIGN
CHOICE, log 36: R71 gives no order). -/
def declareObject (ctx : Nat) (w : List Nat) : M (Nat × Option CohObj) := do
  if !shapeInRange w then pure (3, none)
  else do
    let t ← catchFlt (translate (schedAg ctx) (shapeBase w) .load)
    match t with
    | .error _ => pure (4, none)
    | .ok tr =>
      if tr.vbase + tr.span < (shapeBase w).toNat + shapeSpan w then pure (4, none)
      else do
        let s ← get
        let h := ((s.ctxAt ctx).map (·.handle)).getD 0
        let o := shapeObj ctx h tr.pa w
        pure (if s.objs.any (fun x => o.meets x) then (1, none) else if s.tableFull o then (2, none) else (0, some o))

/-- Lines of an object at their slices become clean. -/
def State.clean (s : State) (o : CohObj) : State :=
  { s with l2 := s.l2.map (fun h : HomeLine => if s.holdsLine o h.line then { h with dirty := false } else h) }

/-- An object enters a state: host-owned gives up its lines, shared keeps clean copies, device-only asks only the host. -/
def State.objectTo (s : State) (o : CohObj) (st : Nat) : State :=
  let s := if st = 2 then s.purge o else if st = 1 then s.clean o else s
  { s with objs := s.objs.map (fun x : CohObj => if x.ctx = o.ctx ∧ x.handle = o.handle then { x with st := st } else x) }

def State.removeObject (s : State) (o : CohObj) : State :=
  let s := s.purge o
  { s with objs := s.objs.filter (fun x => !decide (x.ctx = o.ctx ∧ x.handle = o.handle)) }

/-- Do the operation of a record and store STATUS, with HANDLE after a declaration. -/
def doObject (ctx : Nat) (va : Word) (w : List Nat) : M Unit := do
  let s ← get
  let old := s.objs.find? (fun o => decide (o.ctx = ctx ∧ o.handle = shapeHandle w))
  if !shapePlain w then status 3
  else
    match shapeOp w, old with
    | 0, _ => do
      let (st, o) ← declareObject ctx w
      match o with
      | none => status st
      | some o => do
        modify fun s => ({ s with objs := s.objs ++ [o] } : State).modCtx ctx (fun c => { c with handle := c.handle + 1 })
        modify fun s => s.objectTo o o.st
        let _ ← storeDwords ctx (va + 32) [o.handle, 0]
        pure ()
    | 1, some o => do
      modify fun s => s.objectTo o (shapeState w)
      status 0
    | 2, some o => do
      modify fun s => s.removeObject o
      status 0
    | _, _ => status 3
where
  status (n : Nat) : M Unit := do
    let _ ← storeDwords ctx (va + 40) [n]
    pure ()

/-- The operations that a step stands for: a reserved OP counts with the declarations. -/
def opMatches (want op : Nat) : Bool := decide (op = want) || (decide (want = 0) && decide (2 < op))

/-- A shape record handed over by the host driver. -/
def hostObject (ctx : Nat) (va : Word) (want : Nat) : M Unit := do
  let s ← get
  need (decide (va.toNat % 64 = 0) && s.ctxLives ctx)
  let w ← catchFlt (readDwords (schedAg ctx) va 8)
  match w with
  | .error _ => hold
  | .ok w => do
    need (opMatches want (shapeOp w))
    doObject ctx va w

/-- An object packet of a user queue (R281). -/
def packetObject (q ctx : Nat) (va : Word) (want : Nat) : M Unit :=
  onPacket q (fun u d p => do
    need (decide (pktType p = 4 ∧ u.ctx = ctx ∧ pktAddr p = va))
    needBarrier u p
    if va.toNat % 64 ≠ 0 ∨ pktValue p ≠ 0 then pure false
    else do
      let w ← catchFlt (readDwords (schedAg ctx) va 8)
      match w with
      | .error _ => pure false
      | .ok w => do
        need (opMatches want (shapeOp w))
        doObject ctx va w
        takePacket u d)

/-- `q` 0 is the function's MMIO space; `q` n + 1 is user queue n. -/
def objectStep (q ctx : Nat) (va : Word) (want : Nat) : M Unit :=
  match q with
  | 0 => hostObject ctx va want
  | n + 1 => packetObject n ctx va want

def execObjectDeclare (q ctx : Nat) (va : Word) (s : State) : Outcome State Fault Refusal := runEvent (objectStep q ctx va 0) s

def execObjectSetState (q ctx : Nat) (va : Word) (s : State) : Outcome State Fault Refusal := runEvent (objectStep q ctx va 1) s

def execObjectRemove (q ctx : Nat) (va : Word) (s : State) : Outcome State Fault Refusal := runEvent (objectStep q ctx va 2) s

/-! ### HOST_SNOOP (R70) -/

/-- Lines that a snoop of one line takes: its object's, or those of its 1 GiB region of device memory. -/
def State.snooped (s : State) (line : Nat) (l : Nat) : Bool :=
  match s.objOf line with
  | some o => s.holdsLine o l
  | none => [l, s.origin l].any (fun l => localLine line && decide (l / 2 ^ 23 = line / 2 ^ 23) && (s.objOf l).isNone)

/-- Every line of the object leaves every L2 and replica, dirty lines written back; the object, declared or implicit, moves to
shared or host-owned (R71); the line is answered, but for one that meets poison, which answers no data (spec/19 R329, log 89). It waits
for clamps (spec/05 R114). -/
def execHostSnoop (line : Nat) (own : Bool) (s : State) : Outcome State Fault Refusal :=
  runEvent (do
    let s ← get
    let hit := s.snooped line
    need (localLine line || (s.objOf line).isSome)
    need (!s.clamps.any (fun c => c.granted && hit c.line))
    need (!(s.dieAt (s.lineDie line)).l2Reset)
    modify fun s => { s with
      l2 := s.l2.filter (fun h => !hit h.line)
      dies := s.dies.map (fun x => (x.1, { x.2 with replicas := x.2.replicas.filter (fun r => !hit r.line) }))
      objs := s.objs.map (fun o : CohObj => if o.has line then { o with st := if own then 2 else 1 } else o)
      implicit := if localLine line && (s.objOf line).isNone then s.implicit.put (line / 2 ^ 23) (if own then 2 else 1) else s.implicit }
    modify fun s => { s with
      reply := if (s.poisonIn (128 * s.resolve line) 128).isSome then []
        else (List.range 16).map (fun i => BitVec.ofNat 64 (getBytes s.mem (128 * s.resolve line + 8 * i) 8)) }) s

end Sys2Proof.Machine
end

