-- ==== Sys2Proof/Machine/Host.lean ====
section
/-!
DEFINITION. What the host driver and the physical function do to the part: partitions, windows and functions (spec/22
R346), contexts (R347), registers (spec/19 R318), queues (spec/14 R280), observation (R352, R353), soft-error counters
(R355), attestation (R349), and accesses arriving from the host or a peer (R348).
-/

namespace Sys2Proof.Machine

open Host

/-- A host read answers with words. -/
def answer (l : List Word) : M Unit := modify fun s => { s with reply := l }

/-! ### Partitions (R346) -/

/-- Sites of a die that can be given: enabled shader sites and the control cores, on a die that works. -/
def State.offered (s : State) (die : Nat) : BitVec 120 :=
  if s.works die then (s.dieAt die).enable.setWidth 120 ||| BitVec.ofNat 120 (255 * 2 ^ 112) else 0

def Part.ownsNone (p : Part) (sites : List (BitVec 120)) (sets : BitVec 128) (slots : List Nat) : Bool :=
  !p.live || ((p.sites.zip sites).all (fun x => decide (x.1 &&& x.2 = 0)) && decide (p.sets &&& sets = 0)
    && !p.slots.any (fun i => slots.contains i))

/-- A window is whole pages of 4 KiB (spec/03 R53) within its region. -/
def winOk (w : Window) : Bool :=
  decide (w.base % 4096 = 0 ∧ w.size % 4096 = 0) && (match w.peer with
    | none => decide (w.base + w.size ≤ 2 ^ 54)
    | some d => decide (d < 16384 ∧ w.base + w.size ≤ 2 ^ 40))

/-- The address whose line is stored where that of `a` was before the SPREAD bits of these sets changed (spec/03 R60). -/
def spreadMove (sets : BitVec 128) (a : Nat) : Nat :=
  if regionOf a = 0 ∧ sets.getLsbD (fld 36 30 a) then Nat.xor a (spreadFold a * 2 ^ 37) else a

/-- The SPREAD bits of some sets change: what is stored stays on its die and place (spec/03 R60), and so answers to another
address. No cache keeps a line of those sets under its old address (DESIGN CHOICE, log 124). -/
def State.respread (s : State) (sets : BitVec 128) : State :=
  let stays := fun a : Nat => decide (spreadMove sets a = a)
  { s with
    mem := (s.mem.filter (fun c => !stays c.1)).foldl (fun m c => putByte m (spreadMove sets c.1) c.2)
      (s.mem.filter (fun c => stays c.1))
    poison := s.poison.map (fun g => spreadMove sets (8 * g) / 8)
    l2 := s.l2.filter (fun h => stays (128 * h.line))
    cores := s.cores.map (fun x => (x.1, { x.2 with l1 := x.2.l1.filter (fun r => stays (128 * r.line)) }))
    dies := s.dies.map (fun x => (x.1, { x.2 with replicas := x.2.replicas.filter (fun r => stays (128 * r.line)) })) }

/-- PARTITION_CREATE: what is assigned belongs to no other partition; the placement table's bits of its sets are
written (spec/03 R60). -/
def execPartitionCreate (n : Nat) (cfg : PartCfg) (s : State) : Outcome State Fault Refusal :=
  runEvent (do
    let s ← get
    need (s.up && decide (n < 64) && !(s.partAt n).live)
    let sites := (List.range 4).map (fun d => (cfg.sites[d]?).getD 0 &&& s.offered d)
    need (cfg.slots.all (fun i => decide (i < 64)) && cfg.windows.all winOk)
    need (s.parts.all (fun x => x.2.ownsNone sites cfg.sets cfg.slots))
    modify fun s => { s.respread ((s.spread ^^^ cfg.spread) &&& cfg.sets) with
      parts := s.parts.put n ⟨true, sites, cfg.sets, cfg.windows, cfg.slots⟩
      spread := (s.spread &&& ~~~ cfg.sets) ||| (cfg.spread &&& cfg.sets) }) s

/-- Nothing of a context is unfinished. -/
def State.idle (s : State) (ctx : Nat) : Bool :=
  (s.openGrids ctx).isEmpty && s.cmds.all (fun c => decide (c.ctx ≠ ctx) || c.isDone)
    && s.mats.all (fun c => decide (c.ctx ≠ ctx) || c.isDone)

/-- A context of a destroyed partition ends, with its queues, objects and translations. -/
def State.closeContext (s : State) (ctx : Nat) : State := ((s.stopUnits ctx).removeObjects ctx).freeContext ctx

/-- PARTITION_DESTROY, once no context of it has anything unfinished. -/
def execPartitionDestroy (n : Nat) (s : State) : Outcome State Fault Refusal :=
  runEvent (do
    let s ← get
    need (s.up && (s.partAt n).live)
    let cs := (List.range s.ctxs.length).filter (fun c => match s.ctxAt c with
      | some k => decide (k.part = n) && !k.terminated
      | none => false)
    need (cs.all (fun c => s.idle c))
    settleStores
    modify fun s =>
      let s := cs.foldl (fun s c => s.closeContext c) s
      { s with
        parts := s.parts.put n Part.none
        vfs := s.vfs.filter (fun x => decide (x.2 ≠ n)) }) s

/-- A page of `n` bytes meets a window. -/
def windowMeets (w : Window) (pa n : Nat) : Bool :=
  inWindow w pa || inWindow w (pa + (n - 1))
    || decide (0 < w.size) && (match w.peer with
      | none => decide (regionOf pa = 1 ∧ fld 53 0 pa ≤ w.base ∧ w.base < fld 53 0 pa + n)
      | some d => decide (regionOf pa = 2 ∧ fld 53 40 pa = d ∧ fld 39 0 pa ≤ w.base ∧ w.base < fld 39 0 pa + n))

/-- A context of the partition maps the window, by its tables or by a translation that a TLB still holds. -/
def State.mapsWindow (s : State) (n : Nat) (w : Window) : Bool :=
  let hit := fun e : TlbEntry => decide (e.part = n) && windowMeets w (fld 59 16 e.pte * 4096) e.size
  s.cores.any (fun x => x.2.tlb.any hit) || s.dies.any (fun x => x.2.tlb.any hit)
    || s.ctxs.any (fun c => decide (c.part = n) && !c.terminated
      && (s.leavesIn 4 (fld 55 12 c.tbr.toNat * 4096) 0).any (fun x =>
        windowMeets w (fld 59 16 x.2.1 * 4096) (pageBytes (fld 63 60 x.2.1))))

/-- WINDOW_ASSIGN, while no context of the partition maps the window (log 16). -/
def execWindowAssign (n : Nat) (add : Bool) (w : Window) (s : State) : Outcome State Fault Refusal :=
  runEvent (do
    let s ← get
    let p := s.partAt n
    need (s.up && p.live && winOk w && !s.mapsWindow n w)
    need (add || p.windows.contains w)
    let p' : Part := { p with windows := if add then p.windows ++ [w] else p.windows.erase w }
    modify fun s => { s with parts := s.parts.put n p' }) s

/-- VF_BIND: each of the 192 virtual functions is bound to one partition. -/
def execVfBind (vf n : Nat) (s : State) : Outcome State Fault Refusal :=
  runEvent (do
    let s ← get
    need (s.up && decide (vf < 192) && (s.partAt n).live && (s.vfs.find? vf).isNone)
    modify fun s => { s with vfs := s.vfs.put vf n }) s

/-! ### Contexts (R347, spec/19 R318) -/

/-- Bits that a P register has. -/
def csrBits (reg : Nat) (v : Word) : Word :=
  match reg with
  | 11 => v &&& 3
  | 12 => v &&& BitVec.ofNat 64 (2 ^ 56 - 2 ^ 12)
  | _ => v

def SnapSet.empty : SnapSet := ⟨none, false, none, 0⟩

/-- A context at its creation: every register at its reset value but those the command gives. -/
def Ctx.fresh (part asn : Nat) (cfg : CtxCfg) : Ctx :=
  { part := part, asn := asn, fpcr := 0, tvec := 0, fair := 2048, barwd := 100000, kwd := 10000000, ctl := 0
    tbr := csrBits 12 cfg.tbr, frec := cfg.frec, save := cfg.save, cowpool := cfg.cowpool
    pmc := List.replicate 8 0, pmsel := List.replicate 8 0, fault := none, more := 0, terminated := false
    noRecord := none, intr := 1, handle := 0, snaps := List.replicate 4 SnapSet.empty, snapSeq := 0, preempted := false }

/-- Address-space numbers of a partition that contexts hold. -/
def State.asns (s : State) (n : Nat) : List Nat := (s.ctxs.filter (fun c => decide (c.part = n) && !c.terminated)).map (·.asn)

def freeAsn (used : List Nat) : Option Nat :=
  ((List.range (used.length + 1)).filter (fun i => decide (i < 2 ^ 16))).find? (fun i => !used.contains i)

/-- The pool record of a create command lies in local memory of the partition. -/
def Part.poolInside (p : Part) (pool : Nat) : Bool :=
  decide (pool < 2 ^ 56 ∧ regionOf pool = 0) && p.owns pool && p.owns (pool + 255)

def UQueue.fresh (ctx : Nat) (va : Word) : UQueue :=
  { ctx := ctx, va := va, stopped := false, slot := none, waitSince := none, pending := none, grids := [] }

/-- CONTEXT_CREATE: the context and its queues, and the context-ready interrupt; or a refusal code, whose value the spec
leaves open (log 8). -/
def execContextCreate (vf : Nat) (cfg : CtxCfg) (s : State) : Outcome State Fault Refusal :=
  runEvent (do
    let s ← get
    need s.up
    let n ← needSome (s.vfs.find? vf)
    let p := s.partAt n
    need p.live
    match freeAsn (s.asns n), p.poolInside cfg.cowpool.toNat with
    | some asn, true => do
      let c := s.ctxs.length
      modify fun s => { s with
        ctxs := s.ctxs ++ [Ctx.fresh n asn cfg]
        queues := s.queues ++ cfg.queues.map (UQueue.fresh c) }
      answer [BitVec.ofNat 64 asn]
    | _, _ => do
      let w ← freeWord
      answer [w]) s

/-- Write one of the registers that only the host driver and the fault microcontroller write. -/
def Ctx.setPriv (c : Ctx) (reg : Nat) (v : Word) : Ctx :=
  match reg with
  | 11 => { c with ctl := csrBits 11 v }
  | 12 => { c with tbr := csrBits 12 v }
  | 14 => { c with frec := v }
  | 15 => { c with save := v }
  | 16 => { c with cowpool := v }
  | _ => c

def execHostRegisterWrite (ctx reg : Nat) (val : Word) (s : State) : Outcome State Fault Refusal :=
  runEvent (do
    let s ← get
    need (s.up && csrPrivileged reg && (s.ctxAt ctx).isSome)
    modify fun s => s.modCtx ctx (fun c => c.setPriv reg val)) s

/-- QUEUE_RESTART: a stopped queue takes packets again (spec/14 R280). -/
def execQueueRestart (q : Nat) (s : State) : Outcome State Fault Refusal :=
  runEvent (do
    let s ← get
    let u ← needSome (s.queue? q)
    need (s.up && u.stopped && s.ctxLives u.ctx)
    modify fun s => s.modQueue q (fun u => { u with stopped := false })) s

/-! ### Snapshot sets (R352) -/

def State.snapAt (s : State) (ctx set : Nat) : Option SnapSet := (s.ctxAt ctx).bind (fun c => c.snaps[set]?)

def State.setSnap (s : State) (ctx set : Nat) (x : SnapSet) : State :=
  s.modCtx ctx (fun c => { c with snaps := c.snaps.set set x })

/-- SNAPSHOT_CONFIGURE: up to 16 sources; the set is armed. A latched set is left until it is read. -/
def execSnapshotConfigure (ctx set : Nat) (cfg : SnapCfg) (s : State) : Outcome State Fault Refusal :=
  runEvent (do
    let s ← get
    let x ← needSome (s.snapAt ctx set)
    need (s.up && x.latched.isNone && decide (cfg.sources.length ≤ 16))
    modify fun s => s.setSnap ctx set ⟨some cfg, true, none, x.missed⟩) s

/-- SNAPSHOT_TIME_MATCH: the set's trigger, once, when the timebase has reached the value. -/
def execSnapshotTimeMatch (ctx set : Nat) (s : State) : Outcome State Fault Refusal :=
  runEvent (do
    let s ← get
    let x ← needSome (s.snapAt ctx set)
    let cfg ← needSome x.cfg
    let t ← needSome cfg.timeMatch
    need (decide (t.toNat ≤ s.time.toNat))
    let _ ← fireTrigger ctx 1 0 [set]
    modify fun s => match s.snapAt ctx set with
      | some x => s.setSnap ctx set { x with cfg := some { cfg with timeMatch := none } }
      | none => s) s

/-- The nineteen dwords of a latched set. -/
def Latch.words (l : Latch) (missed : Nat) : List Word :=
  [l.time, BitVec.ofNat 64 l.seq, BitVec.ofNat 64 (l.kind % 4 + 2 ^ 16 * l.tag.toNat + 2 ^ 32 * missed)]
    ++ (List.range 16).map (fun i => (l.vals[i]?).getD 0)

/-- SNAPSHOT_READ_REARM. -/
def execSnapshotReadRearm (ctx set : Nat) (s : State) : Outcome State Fault Refusal :=
  runEvent (do
    let s ← get
    let x ← needSome (s.snapAt ctx set)
    let l ← needSome x.latched
    need s.up
    answer (l.words x.missed)
    modify fun s => s.setSnap ctx set { x with armed := true, latched := none, missed := 0 }) s

/-! ### Monitors (R353) -/

def Hist.empty : Hist := ⟨none, none, List.replicate 16 0⟩

/-- The bucket that counts a value. -/
def bucketOf (v : Nat) : Nat := if v < 2 then 0 else min 15 (Nat.log2 v)

def Hist.sample (h : Hist) (v : Nat) : Hist :=
  { min := some (Nat.min (h.min.getD v) v)
    max := some (Nat.max (h.max.getD v) v)
    buckets := h.buckets.modify (bucketOf v) (fun n => Nat.min (2 ^ 32 - 1) (n + 1)) }

def execMonitorHistogramReset (mon : Nat) (s : State) : Outcome State Fault Refusal :=
  runEvent (do
    let s ← get
    need s.up
    modify fun s => { s with hists := s.hists.put mon Hist.empty }) s

/-! ### Soft-error counters (R355): 0 to 7 corrected on access, 8 to 15 by scrub, by stack; then by die 16 to 19 caches,
20 to 23 registers and stores of a core, 24 to 27 parity, 28 to 31 poisoned; 32 to 39 poisoned, by stack -/

def State.countErr (s : State) (i n : Nat) : State :=
  { s with errs := s.errs.put i (BitVec.ofNat 32 (min (2 ^ 32 - 1) ((s.errs.getD i 0).toNat + n))) }

def execErrorCounterRead (i : Nat) (s : State) : Outcome State Fault Refusal :=
  runEvent (do
    let s ← get
    need (s.up && decide (i < 40))
    answer [(s.errs.getD i 0).setWidth 64]) s

def execErrorCounterClear (i : Nat) (s : State) : Outcome State Fault Refusal :=
  runEvent (do
    let s ← get
    need (s.up && decide (i < 40))
    modify fun s => { s with errs := s.errs.put i 0 }) s

/-! ### Attestation (R349) -/

/-- A wide value as 64-bit words, low first. -/
def wordsOf (n v : Nat) : List Word := (List.range n).map (fun i => BitVec.ofNat 64 (v / 2 ^ (64 * i)))

def Window.words (w : Window) : List Word :=
  [BitVec.ofNat 64 ((w.peer.map (· + 1)).getD 0), BitVec.ofNat 64 w.base, BitVec.ofNat 64 w.size]

def Part.words (p : Part) : List Word :=
  [if p.live then 1 else 0] ++ (p.sites.map (fun m => wordsOf 2 m.toNat)).flatten ++ wordsOf 2 p.sets.toNat
    ++ (p.windows.map Window.words).flatten ++ p.slots.map (BitVec.ofNat 64)

/-- Nonce, measurements, partition table, and the configuration of the requesting partition. -/
def State.report (s : State) (n : Nat) (nonce : List Byte) : List Word :=
  nonce.map (fun b => b.setWidth 64) ++ (s.measured.map (fun m => wordsOf 8 m.toNat)).flatten
    ++ (s.parts.map (fun x => BitVec.ofNat 64 x.1 :: x.2.words)).flatten ++ (s.partAt n).words

/-- ATTESTATION_REPORT: the report and its signature (log 7). -/
def execAttestationReport (n : Nat) (nonce : List Byte) (s : State) : Outcome State Fault Refusal :=
  runEvent (do
    let s ← get
    need (s.up && (s.partAt n).live && decide (nonce.length = 64))
    let r := s.report n nonce
    answer (r ++ Config.signature r)) s

/-- CERTIFICATE_CHAIN_READ, over CXL.io. -/
def execCertificateChainRead (s : State) : Outcome State Fault Refusal :=
  runEvent (do
    let s ← get
    need (decide (3 ≤ s.power) && s.linkUp)
    answer Config.certChain) s

/-! ### Accesses from the host and from peers (R348) -/

/-- The new value of an atomic from outside; ABADD's bound comes in `c`. -/
def extNew (aop w old b c : Nat) : Option Nat := if 14 ≤ aop then none else atomicNew aop w old b c c

/-- A write from outside, once its slice has room; no device write, so it leaves the line's coherence object as it is (spec/03
R71). -/
def extWrite (line pa n v : Nat) : M Unit := do
  let data := spanData (pa % 128) n v
  let mask := spanMask (pa % 128) n
  roomFor line data mask 0x200
  modify fun s => s.putLine line data mask 0x200

/-- Performed at the home of the line: an aligned load or store of at most a line, or an atomic of 4 or 8 bytes. A load
or an atomic that meets poison answers no data. -/
def extBody (a : ExtAccess) : M Unit := do
  let s ← get
  need (s.up && decide (a.pa < 2 ^ 39) && isPow2 a.bytes 1 128 && decide (a.pa % a.bytes = 0))
  let line := a.pa / 128
  match a.kind with
  | .load => do
    let l ← atHome line false
    let pa := 128 * l + a.pa % 128
    if (s.poisonIn pa a.bytes).isSome then answer []
    else answer (wordsOf ((a.bytes + 7) / 8) (getBytes s.mem pa a.bytes))
  | .store v => do
    let l ← atHome line true
    extWrite l a.pa a.bytes v
  | .atomic aop b c => do
    need (decide (a.bytes = 4 ∨ a.bytes = 8) && decide (aop < 14))
    let l ← atHome line true
    if (s.poisonIn (128 * l) 128).isSome then answer []
    else do
      let w := 8 * a.bytes
      let old := getBytes s.mem (128 * l + a.pa % 128) a.bytes
      match extNew aop w old (b % 2 ^ w) (c % 2 ^ w) with
      | some v => extWrite l a.pa a.bytes v
      | none => pure ()
      answer [BitVec.ofNat 64 old]

/-! ### What the host driver reads in MMIO space -/

/-- The words of a monitor; a minimum or maximum before the first sample is a free value (log 8). -/
def monitorWords (h : Hist) : M (List Word) := do
  let a ← freeWord
  let b ← freeWord
  let v := fun (x : Option Nat) (d : Word) => (x.map (BitVec.ofNat 64)).getD d
  pure (v h.min a :: v h.max b :: h.buckets.map (BitVec.ofNat 64))

/-- The words a host read answers. -/
def hostWords (r : HostRead) : M (List Word) := do
  let s ← get
  match r with
  | .enable die => do
    need (decide (die < 4))
    pure (wordsOf 2 (s.dieAt die).enable.toNat)
  | .pool ctx => do
    let c ← needSome (s.ctxAt ctx)
    need (s.poolOk ctx c.cowpool.toNat)
    collect (List.range 12) (fun n => do
      let v ← homeDword (c.cowpool.toNat + 16 * n + 8)
      pure (BitVec.ofNat 64 v))
  | .stopped q => do
    let u ← needSome (s.queue? q)
    need u.stopped
    let v ← peekVa (schedAg u.ctx) (u.va + 24)
    pure [u.va, v]
  | .ended ctx => do
    let c ← needSome (s.ctxAt ctx)
    let code ← needSome c.noRecord
    pure [code]
  | .monitor mon => monitorWords (s.hists.getD mon Hist.empty)
  | .counters ctx => do
    let c ← needSome (s.ctxAt ctx)
    pure c.pmc

/-- The host driver reads. -/
def hostRead (r : HostRead) (s : State) : Outcome State Fault Refusal :=
  runEvent (do
    let s ← get
    need s.up
    let l ← hostWords r
    answer l) s

def execHostOrPeerAccess (a : ExtAccess) (s : State) : Outcome State Fault Refusal := runEvent (extBody a) s

end Sys2Proof.Machine
end

