-- ==== Sys2Proof/Machine/Lanes.lean ====
section
/-!
DEFINITION. Moving elements between lanes, votes, reductions and scans, OP6 0x15 to 0x17 (spec/10 R212 to R220).
-/

namespace Sys2Proof.Machine

open Host

/-- A source register of a cross-lane instruction: every lane's value, a position that holds no thread reading 0 (R212). -/
def readCross (code : BitVec 7) : M (List Word) := do
  needAny code
  if !isVec code then checkReg code.toNat 0
  let g ← curGrp
  pure (if isVec code then laneIds.map (fun l => if g.present.getLsbD l then laneOf (g.vreg code.toNat) l else 0)
    else List.replicate 32 (g.sreg (code.toNat - 96)))

/-- On a control core a lane index counts modulo 4 (spec/13 R268). -/
def laneIndex (core l : Nat) : Nat := if isControl core then l % 4 else l

/-- The lanes a cross-lane instruction reads at enabled positions. -/
def usedLanes (n : Nat) (m : BitVec 32) (k : BitVec 256) (src : Nat → Nat → List Nat) : BitVec 32 :=
  (lanesOf m).foldl (fun acc l => (List.range n).foldl (fun acc j =>
    if k.getLsbD (l * 8 + j) then (src l j).foldl (fun acc i => acc ||| BitVec.ofNat 32 (2 ^ i)) acc else acc) acc) 0

/-- Each enabled position takes one element of A, or 0: `src` names its lane and sub-element. -/
def moveBody (d a : BitVec 7) (b : Option (BitVec 7)) (w : Nat)
    (src : Nat → Nat → (Nat → Nat → Nat) → Nat → Option (Nat × Nat)) : M Unit := do
  let p ← getPfx { mask := true, zm := true, sel := b.isSome }
  let n := 64 / w
  check (selOk p.sel n) (illegal 2)
  let rd ← needVec d
  let la ← readCross a
  let lb ← match b with
    | some b => readOp b
    | none => pure la
  let k ← readMask p.mask
  let m ← lanes
  let c ← curCore
  let g ← curGrp
  let bv := fun l j => elem w (selIndex p.sel j) (laneOf lb l)
  let from_ := fun l j => (src l j bv n).map (fun x => (laneIndex c x.1, x.2))
  if isVec a then checkReg a.toNat (usedLanes n m k (fun l j => ((from_ l j).map (·.1)).toList))
  let (v, _) := vectorEffect w n m k p.zm (g.vreg rd) fun l j =>
    (match from_ l j with
      | some (sl, sj) => elem w sj (laneOf la sl)
      | none => 0, 0)
  putVector rd v m n k p.zm
  retire

/-- An index names lane index >> 3 and sub-element index & 7, if the type has it (R215). -/
def indexed (i n : Nat) : Option (Nat × Nat) := if i % 8 < n then some (i % 256 / 8, i % 8) else none

def execShfl (d a b : BitVec 7) (t : BitVec 3) (s : State) : Outcome State Fault Refusal :=
  runWord (moveBody d a (some b) (tyWidth t.toNat) (fun l j bv n => indexed (bv l j) n)) s

/-- BCAST: one index from a uniform register for every position, its low bits or the sub-element that SEL names (spec/02 R36). -/
def execBcast (d a b : BitVec 7) (t : BitVec 3) (s : State) : Outcome State Fault Refusal :=
  runWord (do
    let p ← getPfx { mask := true, zm := true, sel := true }
    check (selOk p.sel (64 / tyWidth t.toNat)) (illegal 2)
    let _ ← readUni b
    moveBody d a (some b) (tyWidth t.toNat) (fun l _ bv n => indexed (bv l 0) n)) s

/-- PERMB stays in its own lane: a selector with bit 7 set gives 0 (R215). -/
def execPermb (d a b : BitVec 7) (s : State) : Outcome State Fault Refusal :=
  runWord (moveBody d a (some b) 8 (fun l j bv _ => if 128 ≤ bv l j then none else some (l, bv l j % 8))) s

/-- QSWP: the lane across x, y or the diagonal; B codes above 2 are illegal (R214, R216). -/
def execQswp (d a : BitVec 7) (b : BitVec 2) (t : BitVec 3) (s : State) : Outcome State Fault Refusal :=
  runWord (do
    check (b.toNat < 3) (illegal 1)
    moveBody d a none (tyWidth t.toNat) (fun l j _ _ => some (Nat.xor l (b.toNat + 1), j))) s

/-- The pair of lanes whose difference a derivative takes: `dx` 1 or 2 (R216). -/
def derivLanes (dx : Nat) (coarse : Bool) (l : Nat) : Nat × Nat :=
  if coarse then (l / 4 * 4 + dx, l / 4 * 4) else (Nat.lor l dx, Nat.xor (Nat.lor l dx) dx)

/-- DDX and DDY: an FSUB of two lanes of the quad. -/
def derivBody (d a : BitVec 7) (coarse : Bool) (ty dx : Nat) : M Unit := do
  let p ← getPfx { mask := true, zm := true, rm := true }
  let w := tyWidth ty
  let f := fmtOf ty
  let rd ← needVec d
  let la ← readCross a
  let k ← readMask p.mask
  let mode ← roundingMode p.rm
  let m ← lanes
  let g ← curGrp
  if isVec a then
    checkReg a.toNat (usedLanes (64 / w) m k (fun l _ => [(derivLanes dx coarse l).1, (derivLanes dx coarse l).2]))
  let (v, fl) := vectorEffect w (64 / w) m k p.zm (g.vreg rd) fun l j =>
    f.sub mode (elem w j (laneOf la (derivLanes dx coarse l).1)) (elem w j (laneOf la (derivLanes dx coarse l).2))
  raiseFlags fl
  putVector rd v m (64 / w) k p.zm
  retire

def execDdx (d a : BitVec 7) (c : BitVec 1) (t : BitVec 2) (s : State) : Outcome State Fault Refusal :=
  runWord (derivBody d a (decide (c = 1)) (4 + t.toNat) 1) s

def execDdy (d a : BitVec 7) (c : BitVec 1) (t : BitVec 2) (s : State) : Outcome State Fault Refusal :=
  runWord (derivBody d a (decide (c = 1)) (4 + t.toNat) 2) s

/-- ELECT: the lowest active lane that is no helper, with its kA and MASK bits set (R217). -/
def execElect (d a : BitVec 4) (s : State) : Outcome State Fault Refusal :=
  runWord (do
    let p ← getPfx { mask := true, zm := true }
    let ka ← readMask a.toNat
    let mk ← readMask p.mask
    let old ← readMask d.toNat
    let m ← lanes
    let g ← curGrp
    let el := (lanesOf m).find? (fun l => !g.helper.getLsbD l && ka.getLsbD (l * 8) && mk.getLsbD (l * 8))
    writeMask d.toNat (maskOf fun i =>
      let l := i / 8
      if !m.getLsbD l then old.getLsbD i
      else if mk.getLsbD (l * 8) then decide (i % 8 = 0) && decide (el = some l)
      else if p.zm then false else old.getLsbD i)
    retire) s

/-- VOTE: the ballot of active lanes (R218). -/
def execVote (d : BitVec 7) (a : BitVec 4) (s : State) : Outcome State Fault Refusal :=
  runWord (do
    let _ ← getPfx { mask := true, zm := true }
    let n ← needUni d
    let ka ← readMask a.toNat
    let m ← lanes
    writeUni n (BitVec.ofNat 64 ((lanesOf m).foldl (fun x l => if ka.getLsbD (l * 8) then x + 2 ^ l else x) 0))
    retire) s

/-! ### Integer reductions and scans (R219) -/

def redIdentity (op w : Nat) : Nat :=
  match op with
  | 1 => 2 ^ (w - 1) - 1
  | 2 => 2 ^ (w - 1)
  | 3 => 2 ^ w - 1
  | 5 => 2 ^ w - 1
  | _ => 0

def redOp (op w x y : Nat) : Nat :=
  match op with
  | 0 => (x + y) % 2 ^ w
  | 1 => if toInt w x ≤ toInt w y then x else y
  | 2 => if toInt w x ≤ toInt w y then y else x
  | 3 => min x y
  | 4 => max x y
  | 5 => Nat.land x y
  | 6 => Nat.lor x y
  | _ => Nat.xor x y

/-- Positions of a register in order of e = lane × 8 + j, with their values, that take part. -/
def participants (w : Nat) (m : BitVec 32) (k : BitVec 256) (v : List Word) : List (Nat × Nat × Nat) :=
  (lanesOf m).flatMap fun l =>
    ((List.range (64 / w)).filter (fun j => k.getLsbD (l * 8 + j))).map fun j => (l, j, elem w j (laneOf v l))

def execRedi (d a : BitVec 7) (o : BitVec 3) (t : BitVec 2) (s : State) : Outcome State Fault Refusal :=
  runWord (do
    let p ← getPfx { mask := true, zm := true }
    let n ← needUni d
    let la ← readOp a
    let k ← readMask p.mask
    let m ← lanes
    let w := tyWidth t.toNat
    let op := o.toNat
    let r := (participants w m k la).foldl (fun x e => redOp op w x e.2.2) (redIdentity op w)
    writeUni n (if op = 1 ∨ op = 2 then BitVec.ofInt 64 (toInt w r) else BitVec.ofNat 64 r)
    retire) s

/-- The prefix combinations of a list: at each member, of those at or before it, or strictly before it. -/
def scanList (op w : Nat) (excl : Bool) (acc : Nat) (l : List (Nat × Nat × Nat)) : List (Nat × Nat × Nat) :=
  match l with
  | [] => []
  | (ln, j, x) :: r =>
    let next := redOp op w acc x
    (ln, j, if excl then acc else next) :: scanList op w excl next r

def execScani (d a : BitVec 7) (x : BitVec 1) (o : BitVec 3) (t : BitVec 2) (s : State) : Outcome State Fault Refusal :=
  runWord (do
    let p ← getPfx { mask := true, zm := true }
    let rd ← needVec d
    let la ← readOp a
    let k ← readMask p.mask
    let m ← lanes
    let g ← curGrp
    let w := tyWidth t.toNat
    let sc := scanList o.toNat w (decide (x = 1)) (redIdentity o.toNat w) (participants w m k la)
    let (v, _) := vectorEffect w (64 / w) m k p.zm (g.vreg rd) fun l j =>
      (((sc.find? (fun e => decide (e.1 = l ∧ e.2.1 = j))).map (·.2.2)).getD 0, 0)
    putVector rd v m (64 / w) k p.zm
    retire) s

/-! ### Floating-point reductions (R183, R220) -/

/-- One level of the pairwise tree, with the flags of its nodes. -/
def treeLevel (f : Fmt) (mode : Nat) (l : List Nat) : List Nat × Nat :=
  match l with
  | a :: b :: r =>
    let (x, fl) := f.add mode a b
    let (xs, fls) := treeLevel f mode r
    (x :: xs, Nat.lor fl fls)
  | l => (l, 0)

/-- The tree, level by level, for at most `n` levels. -/
def treeSum (f : Fmt) (mode n : Nat) (l : List Nat) : Nat × Nat :=
  match n with
  | 0 => (l.headD 0, 0)
  | k + 1 =>
    let (l', fl) := treeLevel f mode l
    let (r, fls) := treeSum f mode k l'
    (r, Nat.lor fl fls)

/-- The identity of a REDF operation. -/
def redfIdentity (f : Fmt) (op : Nat) : Nat :=
  if op = 0 then f.signed true 0 else if op = 1 ∨ op = 3 then f.infBits else f.signed true f.infBits

/-- The minimum or maximum over every position. -/
def pickAll (f : Fmt) (op : Nat) (l : List Nat) : Nat × Nat :=
  l.tail.foldl (fun acc x =>
    let y := f.pick (decide (op = 2 ∨ op = 4)) (decide (3 ≤ op)) acc.1 x
    (y.1, Nat.lor acc.2 y.2)) (l.headD 0, 0)

def execRedf (d a : BitVec 7) (o : BitVec 3) (t : BitVec 2) (s : State) : Outcome State Fault Refusal :=
  runWord (do
    check (o.toNat < 5) (illegal 1)
    let p ← getPfx { mask := true, zm := true, rm := true }
    let n ← needUni d
    let la ← readOp a
    let k ← readMask p.mask
    let mode ← roundingMode p.rm
    let m ← lanes
    let ty := 4 + t.toNat
    let w := tyWidth ty
    let f := fmtOf ty
    let op := o.toNat
    let vals := laneIds.flatMap fun l => (List.range (64 / w)).map fun j =>
      if m.getLsbD l && k.getLsbD (l * 8 + j) then elem w j (laneOf la l) else redfIdentity f op
    let (r, fl) := if op = 0 then treeSum f mode (Nat.log2 vals.length) vals else pickAll f op vals
    raiseFlags fl
    writeUni n (BitVec.ofNat 64 r)
    retire) s

end Sys2Proof.Machine
end

