-- ==== Sys2Proof/Machine/Masks.lean ====
section
/-!
DEFINITION. The mask instructions and DROPK, OP6 0x18 and 0x19 (spec/10 R221, R222).
-/

namespace Sys2Proof.Machine

open Host

/-- A new mask on the bits of active lanes; the others are kept. -/
def activeMask (m : BitVec 32) (old : BitVec 256) (f : Nat → Bool) : BitVec 256 :=
  maskOf fun i => if m.getLsbD (i / 8) then f i else old.getLsbD i

/-- A mask instruction over masks. -/
def maskBody (d a b : BitVec 4) (f : Bool → Bool → Bool) : M Unit := do
  noPfx
  let ka ← readMask a.toNat
  let kb ← readMask b.toNat
  let old ← readMask d.toNat
  let m ← lanes
  writeMask d.toNat (activeMask m old (fun i => f (ka.getLsbD i) (kb.getLsbD i)))
  retire

def execKand (d a b : BitVec 4) (s : State) : Outcome State Fault Refusal := runWord (maskBody d a b (· && ·)) s
def execKor (d a b : BitVec 4) (s : State) : Outcome State Fault Refusal := runWord (maskBody d a b (· || ·)) s
def execKxor (d a b : BitVec 4) (s : State) : Outcome State Fault Refusal := runWord (maskBody d a b (· != ·)) s
def execKnot (d a : BitVec 4) (s : State) : Outcome State Fault Refusal := runWord (maskBody d a a (fun x _ => !x)) s
def execKmov (d a : BitVec 4) (s : State) : Outcome State Fault Refusal := runWord (maskBody d a a (fun x _ => x)) s

/-- Four uniforms from a number that is a multiple of 4, all declared (R221). -/
def needQuad (code : BitVec 7) : M Nat := do
  let n ← needUni code
  check (n % 4 = 0) (illegal 3)
  let (_, nu) ← allocation
  check (decide (n + 3 < nu)) (illegal 3)
  pure n

/-- KMOV.S: all 256 bits of a mask into four uniforms; a D of s0 discards them all. -/
def execKmovS (d : BitVec 7) (a : BitVec 4) (s : State) : Outcome State Fault Refusal :=
  runWord (do
    noPfx
    let n ← needQuad d
    let ka ← readMask a.toNat
    if n ≠ 0 then each (List.range 4) (fun i => writeUni (n + i) (BitVec.ofNat 64 (ka.toNat / 2 ^ (64 * i))))
    retire) s

/-- KMOV.K: four uniforms into a mask, on the bits of active lanes. -/
def execKmovK (d : BitVec 4) (a : BitVec 7) (s : State) : Outcome State Fault Refusal :=
  runWord (do
    noPfx
    let n ← needQuad a
    let _ ← collect (List.range 4) (fun i => checkReg (96 + n + i) 0)
    let old ← readMask d.toNat
    let m ← lanes
    let g ← curGrp
    writeMask d.toNat (activeMask m old (fun i => (g.sreg (n + i / 64)).getLsbD (i % 64)))
    retire) s

/-- KMOV.V: each lane's eight mask bits. -/
def execKmovV (d : BitVec 7) (a : BitVec 4) (s : State) : Outcome State Fault Refusal :=
  runWord (do
    noPfx
    let rd ← needVec d
    let ka ← readMask a.toNat
    writeLanes rd (fun l => BitVec.ofNat 64 (ka.toNat / 2 ^ (8 * l) % 256))
    retire) s

/-- Set bits of a mask over the active lanes, in order. -/
def activeBits (m : BitVec 32) (k : BitVec 256) : List Nat :=
  (List.range 256).filter (fun i => m.getLsbD (i / 8) && k.getLsbD i)

def execKpop (d : BitVec 7) (a : BitVec 4) (s : State) : Outcome State Fault Refusal :=
  runWord (do
    noPfx
    let n ← needUni d
    let ka ← readMask a.toNat
    let m ← lanes
    writeUni n (BitVec.ofNat 64 (activeBits m ka).length)
    retire) s

def execKfirst (d : BitVec 7) (a : BitVec 4) (s : State) : Outcome State Fault Refusal :=
  runWord (do
    noPfx
    let n ← needUni d
    let ka ← readMask a.toNat
    let m ← lanes
    writeUni n (match (activeBits m ka).head? with
      | some e => BitVec.ofNat 64 e
      | none => BitVec.allOnes 64)
    retire) s

/-- mix of R222. -/
def mix (x : BitVec 32) : BitVec 32 :=
  let x := (x ^^^ (x >>> 16)) * 0x6A09E667#32
  let x := (x ^^^ (x >>> 15)) * 0xBB67AE85#32
  x ^^^ (x >>> 16)

/-- The keep bit of a counter under a seed and a probability (R222). -/
def keeps (seed ctr : BitVec 32) (p16 : Nat) : Bool := decide ((mix (ctr ^^^ mix seed) >>> 16).toNat < p16)

def execDropk (d : BitVec 4) (a b : BitVec 7) (t : BitVec 3) (s : State) : Outcome State Fault Refusal :=
  runWord (do
    let p ← getPfx { mask := true }
    let la ← readOp a
    let x ← readUni b
    let k ← readMask p.mask
    let old ← readMask d.toNat
    let m ← lanes
    let n := tyCount t.toNat
    let seed := BitVec.ofNat 32 (x.toNat / 2 ^ 32)
    writeMask d.toNat (maskOf fun i =>
      if m.getLsbD (i / 8) && decide (i % 8 < n) && k.getLsbD i then
        keeps seed (BitVec.ofNat 32 ((laneOf la (i / 8)).toNat + i % 8)) (x.toNat % 2 ^ 16)
      else old.getLsbD i)
    retire) s

end Sys2Proof.Machine
end

