-- ==== Sys2Proof/Machine/Power.lean ====
section
/-!
DEFINITION. Bring-up and power (spec/22 R349 to R351), soft errors and patrol scrub (spec/19 R328, R329, spec/22 R355).
-/

namespace Sys2Proof.Machine

open Host

/-! ### POWER_GOOD (R350) -/

/-- The security processor accepts an image: the fuses hold its key's hash, its signature verifies, and its number is not below the
fused rollback counter (R349). -/
def imageAccepted (s : State) (i : Image) : Bool :=
  decide (i.key = s.vendorKey) && Config.ecdsa i.key i.digest i.sig && decide (s.rollback ≤ i.rollback)

/-- Sites set in a bitmap. -/
def siteCount (m : BitVec 108) : Nat := ((List.range 108).filter (fun i => m.getLsbD i)).length

/-- Steps 4 to 6 on one die: its failure at any of them marks it failed; what came before stays. -/
def bringDie (b : BootCfg) (d : Nat) : Die × Bool :=
  if !b.hbmOk.getLsbD d then (Die.empty, true)
  else if !b.l2Ok.getLsbD d then (Die.empty, true)
  else if !b.coreOk.getLsbD d then ({ Die.empty with l2Reset := false }, true)
  else ({ Die.empty with l2Reset := false, coreReset := false, enable := (b.bitmaps[d]?).getD 0 }, false)

/-- Steps 4 to 7. -/
def State.bringDies (s : State) (b : BootCfg) : State :=
  let ds := (List.range 4).map (fun d => (d, bringDie b d))
  { s with
    power := 7
    dies := ds.map (fun x => (x.1, x.2.1))
    failed := BitVec.ofNat 4 (bitsOf (ds.map (fun x => x.2.2)))
    mem := s.mem.filter (fun c => decide (regionOf c.1 ≠ 0))
    poison := s.poison.filter (fun g => decide (regionOf (8 * g) ≠ 0))
    peers := if b.perramOk then b.peers else []
    time := b.timebase }

/-- Bring-up in order. A published bitmap has at least 96 sites (spec/00 R3). -/
def execPowerGood (b : BootCfg) (s : State) : Outcome State Fault Refusal :=
  runEvent (do
    let s ← get
    need (decide (s.power = 0))
    need ((List.range 4).all (fun d => decide (96 ≤ siteCount ((b.bitmaps[d]?).getD 0))))
    if !b.images.all (imageAccepted s) then
      set { s with power := 1, recovery := true }
    else if !b.linkTrained then
      set { s with power := 2, recovery := true, measured := b.images.map (fun (i : Image) => i.digest) }
    else
      set (({ s with measured := b.images.map (fun (i : Image) => i.digest), linkUp := true } : State).bringDies b)) s

/-! ### POWER_REMOVE (R351) -/

/-- Every memory, register and counter of the part goes; fuses stay, and memory outside the part (log 91). -/
def State.powerless (s : State) : State :=
  { State.reset with
    moves := s.moves
    drawCtr := s.drawCtr
    freeCtr := s.freeCtr
    rollback := s.rollback
    vendorKey := s.vendorKey
    mem := s.mem.filter (fun c => decide (regionOf c.1 ≠ 0))
    poison := s.poison.filter (fun g => decide (regionOf (8 * g) ≠ 0)) }

/-- A host or peer line whose newest bytes only a slice of the part held loses them (log 14). -/
def execPowerRemove (s : State) : Outcome State Fault Refusal :=
  runEvent (do
    let s ← get
    each (s.l2.filter (fun h => h.dirty && decide (regionOf (128 * h.line) ≠ 0))) (fun h => loseLine h.line)
    modify State.powerless) s

/-! ### SOFT_ERROR (R328) -/

def State.poisonGranule (s : State) (g : Nat) : State :=
  if s.poison.contains g then s else { s with poison := s.poison ++ [g] }

/-- Poison a register entry of a group: operand code and lane. -/
def Group.poisonReg (g : Group) (code lane : Nat) : Group :=
  if g.poison.contains (code, lane) then g else { g with poison := g.poison ++ [(code, lane)] }

def Slice.taint (l : List Slice) (i : Nat) : List Slice := l.modify i (fun x => { x with poisoned := true })

def MatState.taint (m : MatState) (f i : Nat) : MatState :=
  if f = 8 then { m with q8 := Slice.taint m.q8 i } else { m with q9 := Slice.taint m.q9 i }

/-- An error in HBM of a line that no slice holds. -/
def hbmError (pa : Nat) (ok : Bool) : M Unit := do
  let s ← get
  need (decide (pa < 2 ^ 39) && !s.l2.any (fun h => decide (h.line = pa / 128)))
  if ok then modify fun s => s.countErr (s.stackOf pa) 1
  else modify fun s => (s.poisonGranule (pa / 8)).countErr (32 + s.stackOf pa) 1

/-- An error in L2 data: a clean line is fetched again, a dirty one is poisoned. -/
def l2Error (pa : Nat) (ok : Bool) : M Unit := do
  let s ← get
  let h ← needSome (s.l2.find? (fun h => decide (h.line = pa / 128)))
  let d := s.lineDie h.line
  if ok then modify fun s => s.countErr (16 + d) 1
  else if h.dirty then modify fun s => (s.poisonGranule (pa / 8)).countErr (28 + d) 1
  else modify fun s => { s with l2 := s.l2.filter (fun x => decide (x.line ≠ h.line)) }

/-- An error in a copy of a line, which its home still has: corrected, or the copy goes and the line is fetched again. -/
def copyError (die : Nat) (held ok : Bool) (drop : State → State) : M Unit := do
  need held
  modify fun s => if ok then s.countErr (16 + die) 1 else drop s

/-- An error in a store of a core on a die: corrected, or the entry is poisoned. -/
def entryError (core : Nat) (ok : Bool) (f : State → State) : M Unit :=
  modify fun s => if ok then s.countErr (20 + dieOf core) 1 else (f s).countErr (28 + dieOf core) 1

def softError (e : SoftErr) : M Unit := do
  let s ← get
  need s.up
  match e.site with
  | .hbm pa => hbmError pa e.correctable
  | .l2 pa => l2Error pa e.correctable
  | .l1 core line =>
    copyError (dieOf core) ((s.coreAt core).l1.any (fun r => decide (r.line = line))) e.correctable
      (fun s => s.modCore core (fun c => c.dropL1 line))
  | .replica die line =>
    copyError die ((s.dieAt die).replicas.any (fun r => decide (r.line = line))) e.correctable
      (fun s => s.modDie die (fun d => d.dropReplica line))
  | .reg blk grp code lane => do
    let c ← needSome ((s.blkAt blk).bind (·.core))
    entryError c e.correctable (fun s => s.modGrp blk grp (fun g => g.poisonReg code lane))
  | .scratch blk off => do
    let b ← needSome (s.blkAt blk)
    let c ← needSome b.core
    need (decide (off < b.scratchSize))
    entryError c e.correctable (fun s => s.modBlk blk (fun b =>
      { b with scratchPoison := if b.scratchPoison.contains (off / 8) then b.scratchPoison else b.scratchPoison ++ [off / 8] }))
  | .fifo core f i => do
    let m := (s.coreAt core).mat
    need (decide (f = 8 ∧ i < m.q8.length) || decide (f = 9 ∧ i < m.q9.length))
    entryError core e.correctable (fun s => s.modCore core (fun c => { c with mat := c.mat.taint f i }))
  | .scale core f i => do
    let m := (s.coreAt core).mat
    need (decide (f = 8 ∧ i < m.q8.length) || decide (f = 9 ∧ i < m.q9.length))
    entryError core e.correctable (fun s => s.modCore core (fun c => { c with mat := c.mat.taint f i }))
  | .parity die => do
    need (e.correctable && decide (die < 4))
    modify fun s => s.countErr (24 + die) 1

/-- SOFT_ERROR: corrected errors change no value; others poison a granule or an entry. -/
def execSoftError (e : SoftErr) (s : State) : Outcome State Fault Refusal := runEvent (softError e) s

/-- PATROL_SCRUB: the scrubber of a stack has corrected some errors. -/
def execPatrolScrub (stack corrected : Nat) (s : State) : Outcome State Fault Refusal :=
  runEvent (do
    let s ← get
    need (s.up && decide (stack < 8) && s.works (stack / 2))
    modify fun s => s.countErr (8 + stack) corrected) s

end Sys2Proof.Machine
end

