-- ==== Sys2Proof/Machine/Render.lean ====
section
/-!
DEFINITION. The coverage and ordered-blend units: merged-order consumption (spec/21 R339), rasterisation and pixel
groups (R340), resident tiles and the spill area (R341), blending (R343) and the end of a frame (R344).
-/

namespace Sys2Proof.Machine

open Host

/-! ### What the units of a frame's owner share -/

def State.frame? (s : State) (i : Nat) : Option Frame := s.frames[i]?

def Frame.coverOf (f : Frame) (die : Nat) : Option Cover := f.covers.find? (fun c => decide (c.die = die))

def State.modCover (s : State) (i die : Nat) (g : Cover → Cover) : State :=
  { s with frames := s.frames.modify i fun f => { f with covers := f.covers.map (fun c => if c.die = die then g c else c) } }

/-- A fault that a unit away from the cores meets (log 13): a copy-on-write page is served on the device; any other fault
ends the frame's context. -/
def unitFault (s : State) (ctx die : Nat) (launch : Word) (f : Flt) : State :=
  if f.cls = 3 then
    if s.cows.any (fun w => decide (w.ctx = ctx ∧ w.lanes = 0 ∧ w.flt.addr = f.addr) && !w.closed) then s
    else s.serve ⟨ctx, die, 0, 0, 0, { f with unit := 7 }, false, false, none, none, none⟩
  else
    s.capture ctx
      { flt := { f with unit := 7 }, core := 0, group := 0, pc := 0, x := 0, y := 0, z := 0, cluster := 0, word := 0
        pfx := 0, launch := launch, time := s.time }

/-- Run a piece of a unit's work for a frame; a fault undoes it and is dealt with. -/
def unitDo (f : Frame) (die : Nat) (m : M Unit) : M Unit := do
  let r ← catchFlt m
  match r with
  | .ok _ => pure ()
  | .error x => modify fun s => unitFault s f.ctx die f.target.prec x

/-- An open frame of a running context and the cover of an owner. -/
def openCover (i die : Nat) : M (Frame × Cover) := do
  let s ← get
  let f ← needSome (s.frame? i)
  let c ← needSome (f.coverOf die)
  need (!f.closed && s.ctxRuns f.ctx)
  pure (f, c)

def Frame.ag (f : Frame) (die : Nat) : Ag := engAg die f.ctx

def Frame.read (f : Frame) (die : Nat) (va : Word) (n : Nat) : M Nat := readVa (f.ag die) va n .load

def Frame.write (f : Frame) (die : Nat) (va : Word) (n v : Nat) : M Unit := writeVa (f.ag die) va n v .store

/-! ### Coverage (R340) -/

/-- Sample positions in 1/16 pixel. -/
def samplePos (samples : Nat) : List (Nat × Nat) :=
  match samples with
  | 1 => [(8, 8)]
  | 2 => [(4, 4), (12, 12)]
  | 4 => [(6, 2), (14, 6), (2, 10), (10, 14)]
  | _ => [(9, 5), (7, 11), (13, 9), (5, 3), (3, 13), (1, 7), (11, 15), (15, 1)]

/-- A point on the inner side of the edge from A to B, or on it when it is a top or left edge; the interior lies to the
right of A to B as rows grow downward. -/
def insideEdge (ax ay bx bY x y : Int) : Bool :=
  let e := (bx - ax) * (y - ay) - (bY - ay) * (x - ax)
  decide (0 < e) || (decide (e = 0) && (decide (bY < ay) || (decide (bY = ay) && decide (ax < bx))))

/-- Does a triangle of snapped vertices cover a point? Both windings count; no area covers nothing. -/
def covers (v : List Int) (x y : Int) : Bool :=
  match v with
  | [x0, y0, x1, y1, x2, y2] =>
    let a := (x1 - x0) * (y2 - y0) - (y1 - y0) * (x2 - x0)
    if 0 < a then insideEdge x0 y0 x1 y1 x y && insideEdge x1 y1 x2 y2 x y && insideEdge x2 y2 x0 y0 x y
    else if a < 0 then insideEdge x0 y0 x2 y2 x y && insideEdge x2 y2 x1 y1 x y && insideEdge x1 y1 x0 y0 x y
    else false
  | _ => false

/-- Place of sample `k` of a pixel in 1/256 pixel. -/
def sampleAt (samples x y k : Nat) : Int × Int :=
  let o := ((samplePos samples)[k]?).getD (8, 8)
  (((256 * x + 16 * o.1 : Nat) : Int), ((256 * y + 16 * o.2 : Nat) : Int))

/-- Covered samples of a pixel. -/
def pixelCover (v : List Int) (samples x y : Nat) : BitVec 8 :=
  BitVec.ofNat 8 (bitsOf ((List.range samples).map fun k =>
    let p := sampleAt samples x y k
    covers v p.1 p.2))

/-- Quads of a tile that hold a covered sample, in row-major order: origin and the four pixels' samples. -/
def tileQuads (v : List Int) (samples tx ty : Nat) : List (Nat × Nat × List (BitVec 8)) :=
  ((List.range 16).map fun j => (List.range 16).map fun i =>
    let x := 32 * tx + 2 * i
    let y := 32 * ty + 2 * j
    (x, y, [pixelCover v samples x y, pixelCover v samples (x + 1) y,
      pixelCover v samples x (y + 1), pixelCover v samples (x + 1) (y + 1)])).flatten.filter
    (fun q => q.2.2.any (fun c => decide (c ≠ 0)))

/-- Work of a primitive on an owner's tiles. -/
def rasterise (t : Target) (dies : List Nat) (die : Nat) (p : Prim) : List TileWork :=
  (((t.box p.pos).filter (fun b => decide (t.owner dies b.1 b.2 = die))).map fun b =>
    ({ prim := p, tx := b.1, ty := b.2, quads := tileQuads ((vertices p).getD []) t.samples b.1 b.2, running := [], frags := [] }
      : TileWork)).filter (fun w => !w.quads.isEmpty)

/-! ### COVERAGE_TAKE_PRIMITIVE (R339) -/

/-- Bin heads of an owner: sequence number, producer, and RCOUNT, of each bin that is not empty. -/
def binHeads (f : Frame) (die : Nat) : M (List (Nat × Nat × Nat)) := do
  let l ← collect (List.range f.target.nprod) (fun p => do
    let wc ← f.read die (f.target.binAt die p) 8
    let rc ← f.read die (addI (f.target.binAt die p) 8) 8
    if wc = rc then pure []
    else do
      let q ← f.read die (f.target.entryAt die p rc) 8
      pure [((q, p, rc) : Nat × Nat × Nat)])
  pure l.flatten

def readMarks (f : Frame) (die : Nat) : M (List Nat) :=
  collect (List.range f.target.nprod) (fun p => f.read die (f.target.markAt p) 8)

/-- A bin entry as a primitive. -/
def readPrim (f : Frame) (die p rc : Nat) : M Prim := do
  let w ← collect (List.range 32) (fun i => f.read die (addI (f.target.entryAt die p rc) (8 * i : Nat)) 8)
  let at32 := fun i : Nat => BitVec.ofNat 32 (half w (8 + 4 * i))
  pure
    { seq := wordAt w 0
      producer := p
      pos := (List.range 9).map at32
      attrs := (List.range 8).map fun j => (at32 (10 + 3 * j), at32 (11 + 3 * j), at32 (12 + 3 * j)) }

/-- Least by sequence number. -/
def leastHead (l : List (Nat × Nat × Nat)) : Option (Nat × Nat × Nat) :=
  match l with
  | [] => none
  | x :: r => some (r.foldl (fun b y => if y.1 < b.1 then y else b) x)

/-- A primitive is received once its fragments have been applied: at once when it covers nothing here (R344). -/
def State.received (s : State) (f : Frame) (die n : Nat) : State := s.count (.cover die) f.ctx f.target.phase 0 n

def takePrimitive (i die : Nat) (f : Frame) : M Unit := do
  let heads ← binHeads f die
  let marks ← readMarks f die
  match leastHead heads with
  | none => hold
  | some (h, p, rc) => do
    need (marks.all (fun m => decide (h ≤ m)))
    let prim ← readPrim f die p rc
    f.write die (addI (f.target.binAt die p) 8) 8 ((rc + 1) % 2 ^ 64)
    let s ← get
    let ws := rasterise f.target (s.shaderDies f.ctx) die prim
    modify fun s =>
      let s := s.modCover i die (fun c => { c with work := c.work ++ ws, taken := c.taken + 1 })
      if ws.isEmpty then s.received f die 1 else s

def execCoverageTakePrimitive (i die : Nat) (s : State) : Outcome State Fault Refusal :=
  runEvent (do
    let (f, _) ← openCover i die
    unitDo f die (takePrimitive i die f)) s

/-! ### Resident tiles (R339, R341) -/

/-- Address of a sample of a surface. -/
def Target.sampleAddr (t : Target) (base : Word) (x y k : Nat) : Word :=
  addI base (4 * ((y * t.width + x) * t.samples + k) : Nat)

/-- Address of a tile's bytes in the spill area. -/
def Target.spillAt (t : Target) (tx ty : Nat) : Word := addI t.spill (8192 * t.samples * (ty * (t.width / 32) + tx) : Nat)

/-- Samples of a tile in buffer order: pixel within the tile and sample. -/
def Target.tileSamples (t : Target) : List (Nat × Nat × Nat) :=
  ((List.range 1024).map fun p => (List.range t.samples).map fun k => (p % 32, p / 32, k)).flatten

/-- Load a tile from its surfaces, or from the spill area where it was flushed to. -/
def loadTile (f : Frame) (die : Nat) (c : Cover) (tx ty : Nat) : M Tile := do
  let t := f.target
  let ss := t.tileSamples
  if c.spilled.contains (tx, ty) then do
    let a := t.spillAt tx ty
    let cs ← collect (List.range ss.length) (fun j => f.read die (addI a (4 * j : Nat)) 4)
    let ds ← collect (List.range ss.length) (fun j => f.read die (addI a (4096 * t.samples + 4 * j : Nat)) 4)
    pure ⟨tx, ty, cs.map (BitVec.ofNat 32), ds.map (BitVec.ofNat 32), 0⟩
  else do
    let at_ := fun (base : Word) (q : Nat × Nat × Nat) => t.sampleAddr base (32 * tx + q.1) (32 * ty + q.2.1) q.2.2
    let cs ← collect ss (fun q => f.read die (at_ t.color q) 4)
    let ds ← collect ss (fun q => f.read die (at_ t.depth q) 4)
    pure ⟨tx, ty, cs.map (BitVec.ofNat 32), ds.map (BitVec.ofNat 32), 0⟩

/-- The use of a tile that comes after all others of the die's unit. -/
def State.nextTileUse (s : State) (die : Nat) : Nat := (s.tilesOn die).foldl (fun n t => max n t.used) 0 + 1

/-- The tile is resident and most recently used; the die's unit has buffers for 16 tiles, whichever frames they are of. -/
def ensureTile (i die : Nat) (f : Frame) (tx ty : Nat) : M Unit := do
  let s ← get
  let f' ← needSome (s.frame? i)
  let c ← needSome (f'.coverOf die)
  let n := s.nextTileUse die
  if c.resident tx ty then
    modify fun s => s.modCover i die fun c =>
      { c with tiles := c.tiles.map (fun t => if t.is tx ty then { t with used := n } else t) }
  else do
    need (s.tileRoom die)
    let t ← loadTile f die c tx ty
    modify fun s => s.modCover i die fun c =>
      { c with
        tiles := c.tiles ++ [{ t with used := n }]
        touched := if c.touched.contains (tx, ty) then c.touched else c.touched ++ [(tx, ty)] }

/-- A pixel group of the tile runs, or an export waits to be applied. -/
def Cover.busy (c : Cover) (tx ty : Nat) : Bool :=
  c.work.any (fun w => decide (w.tx = tx ∧ w.ty = ty) && (!w.running.isEmpty || !w.frags.isEmpty))

/-- Write a tile's samples to the spill area. -/
def spillTile (f : Frame) (die : Nat) (t : Tile) : M Unit := do
  let a := f.target.spillAt t.tx t.ty
  each ((List.range t.colour.length).zip t.colour) (fun (x : Nat × BitVec 32) => f.write die (addI a (4 * x.1 : Nat)) 4 x.2.toNat)
  each ((List.range t.depth.length).zip t.depth) (fun (x : Nat × BitVec 32) =>
    f.write die (addI a (4096 * f.target.samples + 4 * x.1 : Nat)) 4 x.2.toNat)

/-- The least recently used of some tiles, each with its frame. -/
def leastUsed (l : List (Nat × Tile)) : Option (Nat × Tile) :=
  match l with
  | [] => none
  | x :: r => some (r.foldl (fun b y => if y.2.used < b.2.used then y else b) x)

/-- The tile that a die's unit flushes, with its frame: of those with no work in flight, in every frame, the least recently used. -/
def State.tileVictim (s : State) (die : Nat) : Option (Nat × Tile) :=
  leastUsed ((s.coversOn die).map fun x => (x.2.tiles.filter (fun t => !x.2.busy t.tx t.ty)).map (fun t => (x.1, t))).flatten

/-- TILE_FLUSH: every buffer of the die's unit is in use and a primitive of the frame needs another tile; the least recently used
idle tile goes. -/
def execTileFlush (i die : Nat) (s : State) : Outcome State Fault Refusal :=
  runEvent (do
    let (_, c) ← openCover i die
    let s ← get
    need (!s.tileRoom die)
    need (c.work.any (fun w => !w.quads.isEmpty && !c.resident w.tx w.ty))
    let (k, t) ← needSome (s.tileVictim die)
    let f ← needSome (s.frame? k)
    unitDo f die (do
      spillTile f die t
      bump f.ctx 15 1 die
      modify fun s => s.modCover k die fun c =>
        { c with
          tiles := c.tiles.filter (fun x => !x.is t.tx t.ty)
          spilled := if c.spilled.contains (t.tx, t.ty) then c.spilled else c.spilled ++ [(t.tx, t.ty)] })) s

/-! ### PIXEL_GROUP_START (R340) -/

/-- Pixel and covered samples of each lane of up to eight quads. -/
def laneQuads (qs : List (Nat × Nat × List (BitVec 8))) : List (Nat × Nat) × List (BitVec 8) :=
  let one := fun l : Nat =>
    match qs[l / 4]? with
    | some q => ((q.1 + l % 2, q.2.1 + l / 2 % 2), (q.2.2[l % 4]?).getD 0)
    | none => ((0, 0), 0)
  (laneIds.map (fun l => (one l).1), laneIds.map (fun l => (one l).2))

/-- A pixel group of quads as a block of one group, the `n`th of its frame and a cluster of its own; uncovered pixels of a quad
are helper lanes. -/
def pixelBlockOf (f : Frame) (i die core n : Nat) (g : Grid) (w : TileWork) (qs : List (Nat × Nat × List (BitVec 8))) : Block :=
  let (px, cov) := laneQuads qs
  let present := BitVec.ofNat 32 (2 ^ (4 * qs.length) - 1)
  let helper := (lanesOf present).foldl (fun m l =>
    if (cov[l]?).getD 0 = 0 then m ||| BitVec.ofNat 32 (2 ^ l) else m) (0 : BitVec 32)
  { Block.fresh f.grid g 0 core [Group.fresh g.lrec present helper 0 0 noRecords] with
    number := n, cluster := n, pixel := some ⟨i, die, w.tx, w.ty, w.prim, px, cov⟩ }

/-- The next eight quads of the first primitive that has some start as a pixel group on a shader core of the owner. -/
def execPixelGroupStart (i die core : Nat) (s : State) : Outcome State Fault Refusal :=
  runEvent (do
    let (f, c) ← openCover i die
    let s ← get
    let g ← needSome (s.grid? f.grid)
    let k ← needSome (c.work.findIdx? (fun w => !w.quads.isEmpty))
    let w ← needSome c.work[k]?
    need (decide (dieOf core = die))
    let ok ← ask (mayStart f.grid g 1 core) false
    need ok
    unitDo f die (do
      ensureTile i die f w.tx w.ty
      let qs := w.quads.take 8
      let b := pixelBlockOf f i die core g.next g w qs
      startBlock f.grid core b
      modify fun s =>
        let n := s.blocks.length - 1
        s.modCover i die fun c =>
          { c with
            work := c.work.modify k fun w => { w with quads := w.quads.drop 8, running := w.running ++ [n] }
            waitSince := none })) s

/-! ### ORDERED_BLEND_APPLY (R343) -/

/-- The depth test. -/
def depthPasses (ctl : Nat) (zf d : Nat) : Bool :=
  match ctl % 4 with
  | 0 => true
  | 1 => FVal.holds 2 (fp32.read zf) (fp32.read d)
  | 2 => FVal.holds 6 (fp32.read zf) (fp32.read d)
  | _ => FVal.holds 7 (fp32.read zf) (fp32.read d)

/-- Channel by channel on RGBA8. -/
def perChannel (f : Nat → Nat → Nat) (a b : Nat) : Nat := packNat 8 ((List.range 4).map (fun i => f (elem 8 i (BitVec.ofNat 64 a)) (elem 8 i (BitVec.ofNat 64 b))))

/-- Blend an exported colour over a sample's. -/
def blendColour (colfmt blend : Nat) (old new : Nat) : Nat :=
  if colfmt = 0 then
    match blend with
    | 0 => new
    | 1 => (fp32.add 0 old new).1
    | 2 => (fp32.pick false false old new).1
    | _ => (fp32.pick true false old new).1
  else
    match blend with
    | 0 => new
    | 1 => perChannel (fun x y => min 255 (x + y)) old new
    | 2 => perChannel min old new
    | _ => perChannel max old new

/-- Depth of a fragment's sample: the value PDEPTH set, or the plane depth there. -/
def sampleDepth (t : Target) (p : Prim) (fr : FragOut) (k : Nat) : Nat :=
  match fr.depth with
  | some d => d.toNat
  | none =>
    let q := sampleAt t.samples fr.x fr.y k
    interpolate (p.bary q.1 q.2) p.zs

/-- Apply one sample of a fragment. -/
def applySample (t : Target) (p : Prim) (fr : FragOut) (tile : Tile) (k : Nat) : Tile :=
  if !fr.cov.getLsbD k then tile
  else
    let j := (32 * (fr.y % 32) + fr.x % 32) * t.samples + k
    let zf := sampleDepth t p fr k
    if depthPasses t.depthctl zf ((tile.depth[j]?).getD 0).toNat then
      { tile with
        depth := if t.depthctl.testBit 2 then tile.depth.set j (BitVec.ofNat 32 zf) else tile.depth
        colour := tile.colour.set j (BitVec.ofNat 32 (blendColour t.colfmt t.blend ((tile.colour[j]?).getD 0).toNat fr.colour.toNat)) }
    else tile

def applyFrags (t : Target) (w : TileWork) (tile : Tile) : Tile :=
  w.frags.foldl (fun tile fr => (List.range t.samples).foldl (applySample t w.prim fr) tile) tile

/-- The smallest primitive on a tile is applied once all of its pixel groups have ended. -/
def execOrderedBlendApply (i die tile : Nat) (s : State) : Outcome State Fault Refusal :=
  runEvent (do
    let (f, c) ← openCover i die
    let t := f.target
    let here := fun w : TileWork => decide (w.ty * (t.width / 32) + w.tx = tile)
    let k ← needSome (c.work.findIdx? here)
    let w ← needSome c.work[k]?
    need (w.quads.isEmpty && w.running.isEmpty)
    need (w.frags.isEmpty || c.resident w.tx w.ty)
    modify fun s =>
      let s := s.modCover i die fun c =>
        { c with
          tiles := c.tiles.map (fun x => if x.is w.tx w.ty then applyFrags t w x else x)
          work := c.work.eraseIdx k }
      if (c.work.eraseIdx k).any (fun x => decide (x.prim.seq = w.prim.seq ∧ x.prim.producer = w.prim.producer)) then s
      else (s.modCover i die (fun c => { c with applied := c.applied + 1 })).received f die 1) s

/-! ### FRAME_WRITEBACK (R344) -/

/-- Write a tile to COLOR and DEPTH. -/
def writeTile (f : Frame) (die : Nat) (x : Tile) : M Unit := do
  let t := f.target
  each (t.tileSamples.zip (x.colour.zip x.depth)) (fun (q : (Nat × Nat × Nat) × BitVec 32 × BitVec 32) => do
    let px := 32 * x.tx + q.1.1
    let py := 32 * x.ty + q.1.2.1
    f.write die (t.sampleAddr t.color px py q.1.2.2) 4 q.2.1.toNat
    f.write die (t.sampleAddr t.depth px py q.1.2.2) 4 q.2.2.toNat)

def writeback (i die : Nat) (f : Frame) (c : Cover) : M Unit := do
  let heads ← binHeads f die
  let marks ← readMarks f die
  need (heads.isEmpty && marks.all (fun m => decide (m = 2 ^ 64 - 1)))
  each c.touched (fun (b : Nat × Nat) => do
    let t ← match c.tiles.find? (fun t => t.is b.1 b.2) with
      | some t => pure t
      | none => loadTile f die c b.1 b.2
    writeTile f die t)
  modify fun s =>
    let s := (s.modCover i die (fun c => { c with written := true, tiles := [] })).received f die f.target.nprod
    { s with frames := s.frames.modify i (fun f => { f with closed := f.covers.all (·.written) }) }

def execFrameWriteback (i die : Nat) (s : State) : Outcome State Fault Refusal :=
  runEvent (do
    let (f, c) ← openCover i die
    need (c.work.isEmpty && !c.written)
    unitDo f die (writeback i die f c)) s

end Sys2Proof.Machine
end

