-- ==== Sys2Proof/Machine/Special.lean ====
section
/-!
DEFINITION. The special functions, OP6 0x11 to 0x13 (spec/10 R226, R227). R227's exact results are computed; every
other result is a free choice of Config among the patterns within the bound of R226, the same for the same operand on every core,
odd or even where R226 says so (log 5).
-/

namespace Sys2Proof.Machine

open Host Config

/-- |a| ≥ 2^k, |a| < 2^k for a finite nonzero mantissa and exponent: the exponent of the leading one. -/
def leadExp (m : Nat) (e : Int) : Int := e + Nat.log2 m

def oneBit (m : Nat) : Bool := m = 2 ^ Nat.log2 m

/-- Is ±m·2^e an integer? -/
def isInteger (m : Nat) (e : Int) : Bool := decide (0 ≤ e) || decide (m % 2 ^ (-e).toNat = 0)

/-- The integer part of m·2^e. -/
def intPart (m : Nat) (e : Int) : Nat := if 0 ≤ e then m * 2 ^ e.toNat else m / 2 ^ (-e).toNat

/-- Is m·2^e an integer plus one half? -/
def isHalf (m : Nat) (e : Int) : Bool := isInteger (2 * m) e && intPart (2 * m) e % 2 = 1

/-! ### Enclosures of the exact values, in fixed point with 512 fraction bits -/

/-- An exact value: its sign, and bounds lo·2^exp and hi·2^exp of its magnitude. -/
structure Near where
  neg : Bool
  lo : Nat
  hi : Nat
  exp : Int
  deriving DecidableEq, Repr, Inhabited

def fixOne : Nat := 2 ^ 512

/-- π and ln 2 in fixed point, rounded down. -/
def fixPi : Nat :=
  0x3243f6a8885a308d313198a2e03707344a4093822299f31d0082efa98ec4e6c89452821e638d01377be5466cf34e90c6cc0ac29b7c97c50dd3f84d5b5b5470917

def fixLn2 : Nat :=
  0xb17217f7d1cf79abc9e3b39803f2f6af40f343267298b62d8a0d175b8baafa2be7b876206debac98559552fb4afa1b10ed2eae35c138214427573b291169b825

/-- 2 ÷ √π in fixed point. -/
def fixTwoOverRootPi : Nat := isqrtFrom 1100 (4 * 2 ^ 1536 / fixPi) 0

/-- m·2^e in fixed point, rounded down. -/
def fixOf (m : Nat) (e : Int) : Nat := intPart m (e + 512)

/-- A value known in fixed point to well within 2^-256. -/
def Near.of (neg : Bool) (x : Nat) : Near := ⟨neg, x - 2 ^ 256, x + 2 ^ 256, -512⟩

/-- f(m·2^e) for a function that a small argument takes to c times itself, within one part in 2^190. -/
def Near.linear (neg : Bool) (c m : Nat) (e : Int) : Near := ⟨neg, m * (c - c / 2 ^ 190), m * (c + 1), e - 512⟩

/-- An argument so small that its square is lost beside 1. -/
def isSmall (m : Nat) (e : Int) : Bool := decide (leadExp m e < -100)

/-- Taylor series from the term of x^k ÷ k! on, `n` terms: every term, or the terms of a sine or cosine. -/
def expSum (n k x term : Nat) : Nat :=
  match n with
  | 0 => 0
  | j + 1 => term + expSum j (k + 1) x (term * x / fixOne / (k + 1))

def trigSum (n k x term : Nat) : Int :=
  match n with
  | 0 => 0
  | j + 1 => term - trigSum j (k + 2) x (term * x * x / (fixOne * fixOne) / ((k + 1) * (k + 2)))

/-- Series of erf: `p` is x^(2k+1) ÷ k!. -/
def erfSum (n k x p : Nat) : Int :=
  match n with
  | 0 => 0
  | j + 1 => (p / (2 * k + 1) : Nat) - erfSum j (k + 1) x (p * x * x / (fixOne * fixOne) / (k + 1))

/-- 2^r for r in [0, 1). -/
def fixExp2 (r : Nat) : Nat := expSum 128 0 (r * fixLn2 / fixOne) fixOne

/-- The sine of x + q·π ÷ 2. -/
def fixSin (q x : Nat) : Near :=
  let k := x / (fixPi / 2) + q
  let r := x % (fixPi / 2)
  Near.of (decide (2 ≤ k % 4)) (if k % 2 = 0 then trigSum 96 1 r r else trigSum 96 0 r fixOne).toNat

/-- Fraction bits of the logarithm of z in [1, 2), `n` of them. -/
def log2Bits (n z acc : Nat) : Nat :=
  match n with
  | 0 => acc
  | j + 1 =>
    let y := z * z / fixOne
    if 2 * fixOne ≤ y then log2Bits j (y / 2) (2 * acc + 1) else log2Bits j y (2 * acc)

/-- 2^a for a of either sign; far below every format when a is less than −4,000. -/
def Near.exp2 (neg : Bool) (m : Nat) (e : Int) : Near :=
  if neg ∧ 4000 < intPart m e then ⟨false, 0, 1, -4000⟩
  else
    let x : Int := if neg then -(fixOf m e : Int) else fixOf m e
    let v := fixExp2 (x % fixOne).toNat
    ⟨false, v - 2 ^ 256, v + 2 ^ 256, x / fixOne - 512⟩

def Near.log2 (m : Nat) (e : Int) : Near :=
  let x : Int := leadExp m e * 2 ^ 200 + log2Bits 200 (m * fixOne / 2 ^ Nat.log2 m) 0
  if 0 ≤ x then ⟨false, (x - 1).toNat, (x + 2).toNat, -200⟩ else ⟨true, (-x - 2).toNat, (-x + 1).toNat, -200⟩

def Near.rcp (neg : Bool) (m : Nat) (e : Int) : Near := ⟨neg, 2 ^ 600 / m, 2 ^ 600 / m + 1, -e - 600⟩

def Near.rsq (m : Nat) (e : Int) : Near :=
  let m' := if e % 2 = 0 then m else 2 * m
  let r := isqrtFrom 601 (2 ^ 1200 / m') 0
  ⟨false, r, r + 1, -(e / 2) - 600⟩

def Near.sin (m : Nat) (e : Int) : Near := if isSmall m e then .linear false fixOne m e else fixSin 0 (fixOf m e)

def Near.cos (m : Nat) (e : Int) : Near := fixSin 1 (fixOf m e)

/-- sin πa and cos πa for a in (0, 1). -/
def Near.sinpi (m : Nat) (e : Int) : Near :=
  if isSmall m e then .linear false fixPi m e else fixSin 0 (fixOf m e * fixPi / fixOne)

def Near.cospi (m : Nat) (e : Int) : Near := fixSin 1 (fixOf m e * fixPi / fixOne)

/-- Just below 1. -/
def Near.one : Near := ⟨false, fixOne - 2 ^ 432, fixOne, -512⟩

def Near.tanh (m : Nat) (e : Int) : Near :=
  if isSmall m e then .linear false fixOne m e
  else if 6 ≤ leadExp m e then .one
  else
    let x := 2 * fixOf m e * fixOne / fixLn2
    let y := fixExp2 (x % fixOne) * 2 ^ (x / fixOne)
    .of false ((y - fixOne) * fixOne / (y + fixOne))

def Near.erf (m : Nat) (e : Int) : Near :=
  if isSmall m e then .linear false fixTwoOverRootPi m e
  else if 3 ≤ leadExp m e then .one
  else .of false ((erfSum 448 0 (fixOf m e) (fixOf m e)).toNat * fixTwoOverRootPi / fixOne)

/-! ### The result within its bound (R226) -/

/-- The factor k of the table, for a function and a type. -/
def ulps (fn : SpecialFn) (ty : Nat) : Nat :=
  match fn with
  | .sin => if 6 ≤ ty then 2 else 1
  | .cos => if 6 ≤ ty then 2 else 1
  | .tanh => if 6 ≤ ty then 2 else 1
  | .erf => if 6 ≤ ty then 2 else 1
  | _ => 1

/-- A pattern that nothing constrains but the bound, |result − y| ≤ k ulps of the format at y, with its flags: inexact, and underflow
when the exact value rounded to the precision, to nearest even, lies below the smallest normal (R177). RM being ignored, the rule names
no mode for that rounding (DESIGN CHOICE, log 123). The choice depends on the operand `a` alone. -/
def freeResult (fn : SpecialFn) (t : Fmt) (ty a : Nat) (y : Near) : Nat × Nat :=
  let e := max t.emin (leadExp y.lo y.exp)
  let q := min y.exp (min (e - t.f) (t.emin - t.f - 2))
  let at_ := fun (m : Nat) (x : Int) => m * 2 ^ (x - q).toNat
  let slack := at_ (ulps fn ty) (e - t.f)
  let first := (t.round 3 false (at_ y.hi y.exp - slack) q).1
  let last := (t.round 1 false (at_ y.lo y.exp + slack) q).1
  let tiny := decide (at_ y.hi y.exp < at_ (2 ^ (t.f + 2) - 1) (t.emin - t.f - 2))
  (t.signed y.neg (first + special fn ty a % (last + 1 - first)), fInexact + (if tiny then fUnderflow else 0))

/-- Give an odd function's result the operand's sign. -/
def oddSign (t : Fmt) (neg : Bool) (r : Nat × Nat) : Nat × Nat := (if neg then Nat.xor r.1 t.signBit else r.1, r.2)

def Fmt.one (t : Fmt) : Nat := (t.ofInteger 0 1).1

def Fmt.exp2 (t : Fmt) (ty a : Nat) : Nat × Nat :=
  match t.read a with
  | .nan s => t.nan s
  | .inf n => if n then (0, 0) else (t.infBits, 0)
  | .fin n m e =>
    if m = 0 then (t.one, 0)
    else
      let big := !n && decide (t.bias + 1 ≤ (intPart m e : Int))
      if big then (t.infBits, fOverflow + fInexact)
      else if isInteger m e && decide (!n ∨ (intPart m e : Int) ≤ t.f - t.emin) then
        t.round 0 false 1 (if n then -(intPart m e : Int) else intPart m e)
      else freeResult .exp2 t ty a (.exp2 n m e)

def Fmt.log2 (t : Fmt) (ty a : Nat) : Nat × Nat :=
  match t.read a with
  | .nan s => t.nan s
  | .inf n => if n then t.nan true else (t.infBits, 0)
  | .fin n m e =>
    if m = 0 then (t.signed true t.infBits, fDivZero)
    else if n then t.nan true
    else if oneBit m then ((t.ofInteger 0 (leadExp m e)).1, 0)
    else freeResult .log2 t ty a (.log2 m e)

def Fmt.rcp (t : Fmt) (ty a : Nat) : Nat × Nat :=
  match t.read a with
  | .nan s => t.nan s
  | .inf n => (t.signed n 0, 0)
  | .fin n m e =>
    if m = 0 then (t.signed n t.infBits, fDivZero)
    else if oneBit m then t.round 0 n 1 (-(leadExp m e))
    else if leadExp m e < -(t.bias + 1) then (t.signed n t.infBits, fOverflow + fInexact)
    else freeResult .rcp t ty a (.rcp n m e)

def Fmt.rsq (t : Fmt) (ty a : Nat) : Nat × Nat :=
  match t.read a with
  | .nan s => t.nan s
  | .inf n => if n then t.nan true else (0, 0)
  | .fin n m e =>
    if m = 0 then (t.signed n t.infBits, fDivZero)
    else if n then t.nan true
    else if oneBit m ∧ leadExp m e % 2 = 0 then t.round 0 false 1 (-(leadExp m e / 2))
    else freeResult .rsq t ty a (.rsq m e)

/-- |a| > 2^16 (R227). -/
def beyond (m : Nat) (e : Int) : Bool := decide (16 < leadExp m e) || (decide (leadExp m e = 16) && !oneBit m)

def Fmt.sin (t : Fmt) (ty a : Nat) : Nat × Nat :=
  match t.read a with
  | .nan s => t.nan s
  | .inf _ => t.nan true
  | .fin n m e =>
    if m = 0 then (a, 0)
    else if beyond m e then t.nan true
    else oddSign t n (freeResult .sin t ty (a % t.signBit) (.sin m e))

def Fmt.cos (t : Fmt) (ty a : Nat) : Nat × Nat :=
  match t.read a with
  | .nan s => t.nan s
  | .inf _ => t.nan true
  | .fin _ m e =>
    if m = 0 then (t.one, 0)
    else if beyond m e then t.nan true
    else freeResult .cos t ty (a % t.signBit) (.cos m e)

/-- |a| modulo 2, folded onto (0, 1) about 1: the mantissa that stands with e, and whether it was folded. -/
def foldTurn (m : Nat) (e : Int) : Nat × Bool :=
  let d := 2 ^ (-e).toNat
  let r := m % (2 * d)
  if d < r then (2 * d - r, true) else (r, false)

def Fmt.sinpi (t : Fmt) (ty a : Nat) : Nat × Nat :=
  match t.read a with
  | .nan s => t.nan s
  | .inf _ => t.nan true
  | .fin n m e =>
    if isInteger m e then (t.signed n 0, 0)
    else if isHalf m e then (t.signed (n != decide (intPart m e % 2 = 1)) t.one, 0)
    else
      let r := foldTurn m e
      oddSign t (n != r.2) (freeResult .sinpi t ty (t.round 0 false r.1 e).1 (.sinpi r.1 e))

def Fmt.cospi (t : Fmt) (ty a : Nat) : Nat × Nat :=
  match t.read a with
  | .nan s => t.nan s
  | .inf _ => t.nan true
  | .fin _ m e =>
    if isInteger m e then (t.signed (decide (intPart m e % 2 = 1)) t.one, 0)
    else if isHalf m e then (0, 0)
    else
      let r := foldTurn m e
      freeResult .cospi t ty (t.round 0 false r.1 e).1 (.cospi r.1 e)

/-- TANH and ERF: ±0 exact, ±∞ give ±1, odd. -/
def Fmt.sigmoid (t : Fmt) (fn : SpecialFn) (ty a : Nat) : Nat × Nat :=
  match t.read a with
  | .nan s => t.nan s
  | .inf n => (t.signed n t.one, 0)
  | .fin n m e =>
    if m = 0 then (a, 0)
    else oddSign t n (freeResult fn t ty (a % t.signBit) (if fn = .tanh then .tanh m e else .erf m e))

/-- The function that a name stands for. -/
def Fmt.special (t : Fmt) (fn : SpecialFn) (ty a : Nat) : Nat × Nat :=
  match fn with
  | .exp2 => t.exp2 ty a
  | .log2 => t.log2 ty a
  | .rcp => t.rcp ty a
  | .rsq => t.rsq ty a
  | .sin => t.sin ty a
  | .cos => t.cos ty a
  | .sinpi => t.sinpi ty a
  | .cospi => t.cospi ty a
  | .tanh => t.sigmoid .tanh ty a
  | .erf => t.sigmoid .erf ty a

/-- A special function on TY 4 + t; RM is accepted and ignored (R214). -/
def specialOp (d a : BitVec 7) (t : BitVec 2) (f : Fmt → Nat → Nat → Nat × Nat) (s : State) : Outcome State Fault Refusal :=
  runWord (fpBody d a none (4 + t.toNat) false (fun _ x _ _ => f (fmtOf (4 + t.toNat)) (4 + t.toNat) x)) s

def execExp2 (d a : BitVec 7) (t : BitVec 2) (s : State) : Outcome State Fault Refusal := specialOp d a t Fmt.exp2 s
def execLog2 (d a : BitVec 7) (t : BitVec 2) (s : State) : Outcome State Fault Refusal := specialOp d a t Fmt.log2 s
def execRcp (d a : BitVec 7) (t : BitVec 2) (s : State) : Outcome State Fault Refusal := specialOp d a t Fmt.rcp s
def execRsq (d a : BitVec 7) (t : BitVec 2) (s : State) : Outcome State Fault Refusal := specialOp d a t Fmt.rsq s
def execSin (d a : BitVec 7) (t : BitVec 2) (s : State) : Outcome State Fault Refusal := specialOp d a t Fmt.sin s
def execCos (d a : BitVec 7) (t : BitVec 2) (s : State) : Outcome State Fault Refusal := specialOp d a t Fmt.cos s
def execSinpi (d a : BitVec 7) (t : BitVec 2) (s : State) : Outcome State Fault Refusal := specialOp d a t Fmt.sinpi s
def execCospi (d a : BitVec 7) (t : BitVec 2) (s : State) : Outcome State Fault Refusal := specialOp d a t Fmt.cospi s
def execTanh (d a : BitVec 7) (t : BitVec 2) (s : State) : Outcome State Fault Refusal :=
  specialOp d a t (fun f => f.sigmoid .tanh) s
def execErf (d a : BitVec 7) (t : BitVec 2) (s : State) : Outcome State Fault Refusal :=
  specialOp d a t (fun f => f.sigmoid .erf) s

end Sys2Proof.Machine
end

