-- ==== Sys2Proof/Machine/Dispatch.lean ====
section
/-!
DEFINITION. The meaning of each instruction and step, one arm per row of spec/opcode_table.json.
-/

namespace Sys2Proof.Machine

open Host

def exec (i : Instr) (s : State) : Host.Outcome State Fault Refusal :=
  match i with
  | .iadd d a b t => Sys2Proof.Machine.execIadd d a b t s
  | .isub d a b t => Sys2Proof.Machine.execIsub d a b t s
  | .iadds d a b t => Sys2Proof.Machine.execIadds d a b t s
  | .isubs d a b t => Sys2Proof.Machine.execIsubs d a b t s
  | .imul d a b t => Sys2Proof.Machine.execImul d a b t s
  | .imulh d a b t => Sys2Proof.Machine.execImulh d a b t s
  | .imulhu d a b t => Sys2Proof.Machine.execImulhu d a b t s
  | .imad d a b t => Sys2Proof.Machine.execImad d a b t s
  | .imin d a b t => Sys2Proof.Machine.execImin d a b t s
  | .imax d a b t => Sys2Proof.Machine.execImax d a b t s
  | .iminu d a b t => Sys2Proof.Machine.execIminu d a b t s
  | .imaxu d a b t => Sys2Proof.Machine.execImaxu d a b t s
  | .iabs d a t => Sys2Proof.Machine.execIabs d a t s
  | .ineg d a t => Sys2Proof.Machine.execIneg d a t s
  | .popc d a t => Sys2Proof.Machine.execPopc d a t s
  | .clz d a t => Sys2Proof.Machine.execClz d a t s
  | .vand d a b t => Sys2Proof.Machine.execVand d a b t s
  | .vor d a b t => Sys2Proof.Machine.execVor d a b t s
  | .vxor d a b t => Sys2Proof.Machine.execVxor d a b t s
  | .vandn d a b t => Sys2Proof.Machine.execVandn d a b t s
  | .shl d a b t => Sys2Proof.Machine.execShl d a b t s
  | .shr d a b t => Sys2Proof.Machine.execShr d a b t s
  | .sar d a b t => Sys2Proof.Machine.execSar d a b t s
  | .rot d a b t => Sys2Proof.Machine.execRot d a b t s
  | .bfx d a b t => Sys2Proof.Machine.execBfx d a b t s
  | .bfxu d a b t => Sys2Proof.Machine.execBfxu d a b t s
  | .bfi d a b t => Sys2Proof.Machine.execBfi d a b t s
  | .brev d a t => Sys2Proof.Machine.execBrev d a t s
  | .icmpSet k c a b t => Sys2Proof.Machine.execIcmpSet k c a b t s
  | .icmpAnd k c a b t => Sys2Proof.Machine.execIcmpAnd k c a b t s
  | .icmpOr k c a b t => Sys2Proof.Machine.execIcmpOr k c a b t s
  | .sel d a b t => Sys2Proof.Machine.execSel d a b t s
  | .mov d a t => Sys2Proof.Machine.execMov d a t s
  | .movs d a t => Sys2Proof.Machine.execMovs d a t s
  | .iaddi d a xi => Sys2Proof.Machine.execIaddi d a xi s
  | .movi d t xi => Sys2Proof.Machine.execMovi d t xi s
  | .zip d a b t => Sys2Proof.Machine.execZip d a b t s
  | .unzip d a b t => Sys2Proof.Machine.execUnzip d a b t s
  | .packlo d a b t => Sys2Proof.Machine.execPacklo d a b t s
  | .packhi d a b t => Sys2Proof.Machine.execPackhi d a b t s
  | .fadd d a b t => Sys2Proof.Machine.execFadd d a b t s
  | .fsub d a b t => Sys2Proof.Machine.execFsub d a b t s
  | .fmul d a b t => Sys2Proof.Machine.execFmul d a b t s
  | .fma d a b t => Sys2Proof.Machine.execFma d a b t s
  | .fmin d a b t => Sys2Proof.Machine.execFmin d a b t s
  | .fmax d a b t => Sys2Proof.Machine.execFmax d a b t s
  | .fminn d a b t => Sys2Proof.Machine.execFminn d a b t s
  | .fmaxn d a b t => Sys2Proof.Machine.execFmaxn d a b t s
  | .fabs d a t => Sys2Proof.Machine.execFabs d a t s
  | .fneg d a t => Sys2Proof.Machine.execFneg d a t s
  | .fclass d a t => Sys2Proof.Machine.execFclass d a t s
  | .frnd d a t => Sys2Proof.Machine.execFrnd d a t s
  | .fcmpSet k c a b t => Sys2Proof.Machine.execFcmpSet k c a b t s
  | .fcmpAnd k c a b t => Sys2Proof.Machine.execFcmpAnd k c a b t s
  | .fcmpOr k c a b t => Sys2Proof.Machine.execFcmpOr k c a b t s
  | .fdiv d a b t => Sys2Proof.Machine.execFdiv d a b t s
  | .fsqrt d a t => Sys2Proof.Machine.execFsqrt d a t s
  | .fscale d a b t => Sys2Proof.Machine.execFscale d a b t s
  | .flogb d a t => Sys2Proof.Machine.execFlogb d a t s
  | .exp2 d a t => Sys2Proof.Machine.execExp2 d a t s
  | .log2 d a t => Sys2Proof.Machine.execLog2 d a t s
  | .rcp d a t => Sys2Proof.Machine.execRcp d a t s
  | .rsq d a t => Sys2Proof.Machine.execRsq d a t s
  | .sin d a t => Sys2Proof.Machine.execSin d a t s
  | .cos d a t => Sys2Proof.Machine.execCos d a t s
  | .sinpi d a t => Sys2Proof.Machine.execSinpi d a t s
  | .cospi d a t => Sys2Proof.Machine.execCospi d a t s
  | .tanh d a t => Sys2Proof.Machine.execTanh d a t s
  | .erf d a t => Sys2Proof.Machine.execErf d a t s
  | .cvt d a u p xs t => Sys2Proof.Machine.execCvt d a u p xs t s
  | .cvts d a u p xs t => Sys2Proof.Machine.execCvts d a u p xs t s
  | .cvtb d a xs => Sys2Proof.Machine.execCvtb d a xs s
  | .cvtbx d a xs => Sys2Proof.Machine.execCvtbx d a xs s
  | .shfl d a b t => Sys2Proof.Machine.execShfl d a b t s
  | .bcast d a b t => Sys2Proof.Machine.execBcast d a b t s
  | .permb d a b => Sys2Proof.Machine.execPermb d a b s
  | .qswp d a b t => Sys2Proof.Machine.execQswp d a b t s
  | .ddx d a c t => Sys2Proof.Machine.execDdx d a c t s
  | .ddy d a c t => Sys2Proof.Machine.execDdy d a c t s
  | .elect d a => Sys2Proof.Machine.execElect d a s
  | .vote d a => Sys2Proof.Machine.execVote d a s
  | .redi d a o t => Sys2Proof.Machine.execRedi d a o t s
  | .redf d a o t => Sys2Proof.Machine.execRedf d a o t s
  | .scani d a x o t => Sys2Proof.Machine.execScani d a x o t s
  | .kand d a b => Sys2Proof.Machine.execKand d a b s
  | .kor d a b => Sys2Proof.Machine.execKor d a b s
  | .kxor d a b => Sys2Proof.Machine.execKxor d a b s
  | .knot d a => Sys2Proof.Machine.execKnot d a s
  | .kmov d a => Sys2Proof.Machine.execKmov d a s
  | .kmovS d a => Sys2Proof.Machine.execKmovS d a s
  | .kmovK d a => Sys2Proof.Machine.execKmovK d a s
  | .kmovV d a => Sys2Proof.Machine.execKmovV d a s
  | .kpop d a => Sys2Proof.Machine.execKpop d a s
  | .kfirst d a => Sys2Proof.Machine.execKfirst d a s
  | .dropk d a b t => Sys2Proof.Machine.execDropk d a b t s
  | .readln d a b => Sys2Proof.Machine.execReadln d a b s
  | .writeln d a b => Sys2Proof.Machine.execWriteln d a b s
  | .srd d a => Sys2Proof.Machine.execSrd d a s
  | .locq d a => Sys2Proof.Machine.execLocq d a s
  | .sadd d a b => Sys2Proof.Machine.execSadd d a b s
  | .ssub d a b => Sys2Proof.Machine.execSsub d a b s
  | .smul d a b => Sys2Proof.Machine.execSmul d a b s
  | .smulh d a b => Sys2Proof.Machine.execSmulh d a b s
  | .sand d a b => Sys2Proof.Machine.execSand d a b s
  | .sor d a b => Sys2Proof.Machine.execSor d a b s
  | .sxor d a b => Sys2Proof.Machine.execSxor d a b s
  | .ssel d a b => Sys2Proof.Machine.execSsel d a b s
  | .sshl d a b => Sys2Proof.Machine.execSshl d a b s
  | .sshr d a b => Sys2Proof.Machine.execSshr d a b s
  | .ssar d a b => Sys2Proof.Machine.execSsar d a b s
  | .smov d a => Sys2Proof.Machine.execSmov d a s
  | .scmp d a b c => Sys2Proof.Machine.execScmp d a b c s
  | .saddi d a xi => Sys2Proof.Machine.execSaddi d a xi s
  | .smovw d z p xi => Sys2Proof.Machine.execSmovw d z p xi s
  | .ld d a xs p o => Sys2Proof.Machine.execLd d a xs p o s
  | .st d a xs p o => Sys2Proof.Machine.execSt d a xs p o s
  | .lds d a xs o => Sys2Proof.Machine.execLds d a xs o s
  | .sts d a xs o => Sys2Proof.Machine.execSts d a xs o s
  | .ldu d a xs p o => Sys2Proof.Machine.execLdu d a xs p o s
  | .stu d a xs p o => Sys2Proof.Machine.execStu d a xs p o s
  | .atomW d a b o r => Sys2Proof.Machine.execAtomW d a b o r s
  | .atomD d a b o r => Sys2Proof.Machine.execAtomD d a b o r s
  | .mcas d a => Sys2Proof.Machine.execMcas d a s
  | .waitcmp d a b c => Sys2Proof.Machine.execWaitcmp d a b c s
  | .fence k => Sys2Proof.Machine.execFence k s
  | .cmnt a k => Sys2Proof.Machine.execCmnt a k s
  | .qpush q f a b => Sys2Proof.Machine.execQpush q f a b s
  | .qpop q a => Sys2Proof.Machine.execQpop q a s
  | .qpeek q a => Sys2Proof.Machine.execQpeek q a s
  | .qstat q a => Sys2Proof.Machine.execQstat q a s
  | .cpyb q xs a b => Sys2Proof.Machine.execCpyb q xs a b s
  | .cpyt q f xs a b => Sys2Proof.Machine.execCpyt q f xs a b s
  | .cpyh q xs a => Sys2Proof.Machine.execCpyh q xs a s
  | .cpyc q xs a b => Sys2Proof.Machine.execCpyc q xs a b s
  | .seal a => Sys2Proof.Machine.execSeal a s
  | .waitb a => Sys2Proof.Machine.execWaitb a s
  | .rdwp q a => Sys2Proof.Machine.execRdwp q a s
  | .strm q a => Sys2Proof.Machine.execStrm q a s
  | .vlk d a b => Sys2Proof.Machine.execVlk d a b s
  | .vld1 d a b t => Sys2Proof.Machine.execVld1 d a b t s
  | .vld7 d a b => Sys2Proof.Machine.execVld7 d a b s
  | .vld27 d a b => Sys2Proof.Machine.execVld27 d a b s
  | .vst1 d a b t => Sys2Proof.Machine.execVst1 d a b t s
  | .vact a b xs => Sys2Proof.Machine.execVact a b xs s
  | .vmarch d a b => Sys2Proof.Machine.execVmarch d a b s
  | .vins d a b => Sys2Proof.Machine.execVins d a b s
  | .mma q f xs a b => Sys2Proof.Machine.execMma q f xs a b s
  | .mma1 q f xs a b => Sys2Proof.Machine.execMma1 q f xs a b s
  | .mzero q a b => Sys2Proof.Machine.execMzero q a b s
  | .mout q f a b => Sys2Proof.Machine.execMout q f a b s
  | .tdecl a => Sys2Proof.Machine.execTdecl a s
  | .tsig a b => Sys2Proof.Machine.execTsig a b s
  | .twait a => Sys2Proof.Machine.execTwait a s
  | .tqry a b => Sys2Proof.Machine.execTqry a b s
  | .taskIssue blk task => Sys2Proof.Machine.execTaskIssue blk task s
  | .bra c r xi => Sys2Proof.Machine.execBra c r xi s
  | .call c r xi => Sys2Proof.Machine.execCall c r xi s
  | .jmp a => Sys2Proof.Machine.execJmp a s
  | .ret => Sys2Proof.Machine.execRet s
  | .retGet d => Sys2Proof.Machine.execRetGet d s
  | .retSet a => Sys2Proof.Machine.execRetSet a s
  | .exit => Sys2Proof.Machine.execExit s
  | .yield => Sys2Proof.Machine.execYield s
  | .bar => Sys2Proof.Machine.execBar s
  | .barc => Sys2Proof.Machine.execBarc s
  | .quiesce p => Sys2Proof.Machine.execQuiesce p s
  | .nop => Sys2Proof.Machine.execNop s
  | .launch d a b => Sys2Proof.Machine.execLaunch d a b s
  | .rqpush d a b => Sys2Proof.Machine.execRqpush d a b s
  | .rqpop d a b => Sys2Proof.Machine.execRqpop d a b s
  | .trap n => Sys2Proof.Machine.execTrap n s
  | .pemit d a b => Sys2Proof.Machine.execPemit d a b s
  | .pemitEnd a => Sys2Proof.Machine.execPemitEnd a s
  | .pattr a j => Sys2Proof.Machine.execPattr a j s
  | .pcov d c => Sys2Proof.Machine.execPcov d c s
  | .pexp a => Sys2Proof.Machine.execPexp a s
  | .pkill => Sys2Proof.Machine.execPkill s
  | .pdepth a => Sys2Proof.Machine.execPdepth a s
  | .csrrd d b => Sys2Proof.Machine.execCsrrd d b s
  | .csrwr a b => Sys2Proof.Machine.execCsrwr a b s
  | .csrwrSet a b => Sys2Proof.Machine.execCsrwrSet a b s
  | .csrwrClr a b => Sys2Proof.Machine.execCsrwrClr a b s
  | .tlbinv a b => Sys2Proof.Machine.execTlbinv a b s
  | .tlbinvAsn => Sys2Proof.Machine.execTlbinvAsn s
  | .eret => Sys2Proof.Machine.execEret s
  | .snap d a => Sys2Proof.Machine.execSnap d a s
  | .waitt d a => Sys2Proof.Machine.execWaitt d a s
  | .clauseFetch blk grp path => Sys2Proof.Machine.execClauseFetch blk grp path s
  | .clauseConditionsMet blk grp path => Sys2Proof.Machine.execClauseConditionsMet blk grp path s
  | .waitingWordResume blk grp path => Sys2Proof.Machine.execWaitingWordResume blk grp path s
  | .fairnessTimerExpiry blk grp path => Sys2Proof.Machine.execFairnessTimerExpiry blk grp path s
  | .yieldTimeout blk grp path => Sys2Proof.Machine.execYieldTimeout blk grp path s
  | .wcEntryDrain core entry => Sys2Proof.Machine.execWcEntryDrain core entry s
  | .wcIdleTimeout core entry => Sys2Proof.Machine.execWcIdleTimeout core entry s
  | .storeForwardHome idx => Sys2Proof.Machine.execStoreForwardHome idx s
  | .waitcmpPoll blk grp path => Sys2Proof.Machine.execWaitcmpPoll blk grp path s
  | .waitcmpDeadline blk grp path => Sys2Proof.Machine.execWaitcmpDeadline blk grp path s
  | .parkSwapTimeout blk => Sys2Proof.Machine.execParkSwapTimeout blk s
  | .waittWake blk grp path => Sys2Proof.Machine.execWaittWake blk grp path s
  | .l2Reencode line => Sys2Proof.Machine.execL2Reencode line s
  | .clampGrant blk grp path => Sys2Proof.Machine.execClampGrant blk grp path s
  | .lineMigration old new => Sys2Proof.Machine.execLineMigration old new s
  | .migrationFinish ctx va new => Sys2Proof.Machine.execMigrationFinish ctx va new s
  | .forwardedAccess idx => Sys2Proof.Machine.execForwardedAccess idx s
  | .shootdown ctx va size pages => Sys2Proof.Machine.execShootdown ctx va size pages s
  | .hostSnoop line own => Sys2Proof.Machine.execHostSnoop line own s
  | .objectDeclare q ctx va => Sys2Proof.Machine.execObjectDeclare q ctx va s
  | .objectSetState q ctx va => Sys2Proof.Machine.execObjectSetState q ctx va s
  | .objectRemove q ctx va => Sys2Proof.Machine.execObjectRemove q ctx va s
  | .l2DomainReset die => Sys2Proof.Machine.execL2DomainReset die s
  | .coreDomainReset die => Sys2Proof.Machine.execCoreDomainReset die s
  | .copyCommandStart cmd => Sys2Proof.Machine.execCopyCommandStart cmd s
  | .copyElementWrite cmd => Sys2Proof.Machine.execCopyElementWrite cmd s
  | .engineShootdownResume cmd => Sys2Proof.Machine.execEngineShootdownResume cmd s
  | .copyComplete cmd => Sys2Proof.Machine.execCopyComplete cmd s
  | .completionQueuePush cmd => Sys2Proof.Machine.execCompletionQueuePush cmd s
  | .streamGatherPrefetch blk grp q => Sys2Proof.Machine.execStreamGatherPrefetch blk grp q s
  | .streamScatterWrite blk grp q => Sys2Proof.Machine.execStreamScatterWrite blk grp q s
  | .matrixCommandStart core => Sys2Proof.Machine.execMatrixCommandStart core s
  | .mmaKBlock core => Sys2Proof.Machine.execMmaKBlock core s
  | .mmaRetire core => Sys2Proof.Machine.execMmaRetire core s
  | .matrixMerge cmd elem => Sys2Proof.Machine.execMatrixMerge cmd elem s
  | .matrixCommandComplete cmd => Sys2Proof.Machine.execMatrixCommandComplete cmd s
  | .matrixStateSave core => Sys2Proof.Machine.execMatrixStateSave core s
  | .matrixStateRestore core ctx => Sys2Proof.Machine.execMatrixStateRestore core ctx s
  | .barrierWatchdogExpiry inst => Sys2Proof.Machine.execBarrierWatchdogExpiry inst s
  | .quiesceSweep grid phase => Sys2Proof.Machine.execQuiesceSweep grid phase s
  | .kernelWatchdogExpiry grid => Sys2Proof.Machine.execKernelWatchdogExpiry grid s
  | .packetLaunch q => Sys2Proof.Machine.execPacketLaunch q s
  | .packetWait q => Sys2Proof.Machine.execPacketWait q s
  | .packetSignal q => Sys2Proof.Machine.execPacketSignal q s
  | .launchAccept q => Sys2Proof.Machine.execLaunchAccept q s
  | .queueSlotMap q slot => Sys2Proof.Machine.execQueueSlotMap q slot s
  | .slotTimeExpiry slot => Sys2Proof.Machine.execSlotTimeExpiry slot s
  | .slotRemapBeforeStart q slot => Sys2Proof.Machine.execSlotRemapBeforeStart q slot s
  | .leafScan grid => Sys2Proof.Machine.execLeafScan grid s
  | .blockStart grid core => Sys2Proof.Machine.execBlockStart grid core s
  | .priorityWaitTimeout grid => Sys2Proof.Machine.execPriorityWaitTimeout grid s
  | .gridComplete grid => Sys2Proof.Machine.execGridComplete grid s
  | .rqBatchStart grid core => Sys2Proof.Machine.execRqBatchStart grid core s
  | .rqFlushExpiry grid core => Sys2Proof.Machine.execRqFlushExpiry grid core s
  | .preemptContext ctx => Sys2Proof.Machine.execPreemptContext ctx s
  | .blockSwap blk => Sys2Proof.Machine.execBlockSwap blk s
  | .blockResume blk core => Sys2Proof.Machine.execBlockResume blk core s
  | .cowService idx => Sys2Proof.Machine.execCowService idx s
  | .cowReissue idx => Sys2Proof.Machine.execCowReissue idx s
  | .terminateContext ctx => Sys2Proof.Machine.execTerminateContext ctx s
  | .coverageTakePrimitive frame die => Sys2Proof.Machine.execCoverageTakePrimitive frame die s
  | .pixelGroupStart frame die core => Sys2Proof.Machine.execPixelGroupStart frame die core s
  | .tileFlush frame die => Sys2Proof.Machine.execTileFlush frame die s
  | .orderedBlendApply frame die tile => Sys2Proof.Machine.execOrderedBlendApply frame die tile s
  | .frameWriteback frame die => Sys2Proof.Machine.execFrameWriteback frame die s
  | .partitionCreate part cfg => Sys2Proof.Machine.execPartitionCreate part cfg s
  | .partitionDestroy part => Sys2Proof.Machine.execPartitionDestroy part s
  | .windowAssign part add win => Sys2Proof.Machine.execWindowAssign part add win s
  | .vfBind vf part => Sys2Proof.Machine.execVfBind vf part s
  | .contextCreate vf cfg => Sys2Proof.Machine.execContextCreate vf cfg s
  | .queueRestart q => Sys2Proof.Machine.execQueueRestart q s
  | .cowpoolAddPages ctx size pages => Sys2Proof.Machine.execCowpoolAddPages ctx size pages s
  | .snapshotConfigure ctx xset cfg => Sys2Proof.Machine.execSnapshotConfigure ctx xset cfg s
  | .snapshotTimeMatch ctx xset => Sys2Proof.Machine.execSnapshotTimeMatch ctx xset s
  | .snapshotReadRearm ctx xset => Sys2Proof.Machine.execSnapshotReadRearm ctx xset s
  | .monitorHistogramReset mon => Sys2Proof.Machine.execMonitorHistogramReset mon s
  | .errorCounterRead ctr => Sys2Proof.Machine.execErrorCounterRead ctr s
  | .errorCounterClear ctr => Sys2Proof.Machine.execErrorCounterClear ctr s
  | .attestationReport part nonce => Sys2Proof.Machine.execAttestationReport part nonce s
  | .certificateChainRead => Sys2Proof.Machine.execCertificateChainRead s
  | .powerGood boot => Sys2Proof.Machine.execPowerGood boot s
  | .powerRemove => Sys2Proof.Machine.execPowerRemove s
  | .softError err => Sys2Proof.Machine.execSoftError err s
  | .patrolScrub stack corrected => Sys2Proof.Machine.execPatrolScrub stack corrected s
  | .l2DomainOutOfReset die => Sys2Proof.Machine.execL2DomainOutOfReset die s
  | .coreDomainOutOfReset die => Sys2Proof.Machine.execCoreDomainOutOfReset die s
  | .hostRegisterWrite ctx reg val => Sys2Proof.Machine.execHostRegisterWrite ctx reg val s
  | .hostOrPeerAccess acc => Sys2Proof.Machine.execHostOrPeerAccess acc s

end Sys2Proof.Machine
end

