-- ==== Sys2Proof/Machine/Run.lean ====
section
/-!
DEFINITION. What one move of the agenda does (log 1): a path issues its next word (spec/02 R28 to R31), a step of the part
happens, time passes (spec/00 R4) with the timers that count it, or a cache gives something up (spec/03 R58, R67).
-/

namespace Sys2Proof.Machine

open Host

/-! ### Issuing a word -/

/-- The answer to a question, or a default. -/
def State.askD {α : Type} (s : State) (m : M α) (d : α) : α :=
  match m s with
  | .ok (a, _) => a
  | .error _ => d

/-- A path goes on to its next word: it waits at none, or is inside a VINS (spec/05 R118). -/
def Path.goesOn (p : Path) : Bool :=
  match p.wait with
  | none => true
  | some (.vins _) => true
  | some (.mcas _) => true
  | some _ => false

/-- The state in which a path's next word issues, when it can: `cur` names the path, its word and its prefix word. -/
def State.issuing (s : State) (blk grp path : Nat) : Option State :=
  match issueAt blk grp path s with
  | .ok (_, s') =>
    if s.mayIssue blk grp path && ((s.pathAt blk grp path).map (·.goesOn)).getD false && s.ctxIssues s'.curCtxNo then
      (match takeEntry s' with
        | .ok (_, t) => some t
        | .error _ => none)
    else none
  | .error _ => none

/-- The lanes of an issued vector instruction are counted (spec/22 R354, event 3). -/
def State.countLanes (s : State) : State :=
  if opClass (fld 31 26 s.cur.word.toNat) = 1 then
    s.bumped s.curCtxNo 3 (lanesOf s.curLanes).length (dieOf (((s.blkAt s.cur.blk).bind (·.core)).getD 0))
  else s

/-- An RQPUSH or RQPOP word that names a port other than q10 and q11 (spec/14 R291). -/
def namesNoPort (w : Nat) : Bool :=
  decide (fld 31 26 w = 0x37) && (decide (fld 1 0 w = 1) || decide (fld 1 0 w = 2)) && decide (fld 18 13 w ≠ 5)

/-- The instruction of an issuing word: two prefix words in a row, or a word that decodes to none, are illegal (R31, R51, R291).
Where a word breaks several rules of R51 at once its encoding is found first; the meaning of a word that decodes tests its
prefix word and then its core before its operands (DESIGN CHOICE, log 37: the spec gives no order of the sub-causes). -/
def issuedInstr (c : Cur) : Except Flt Instr :=
  if isPrefixWord c.word.toNat then .error (illegal 2)
  else
    match decodeWord c.word.toNat with
    | .ok i => .ok i
    | .error _ => .error (illegal (if namesNoPort c.word.toNat then 8 else 1))

/-- A prefix word that follows a prefix word is at fault itself (R31). -/
def State.atSecondPrefix (s : State) : State :=
  if isPrefixWord s.cur.word.toNat && s.cur.pfx.isSome then
    { s.modPath s.cur.blk s.cur.grp s.cur.path (fun p => { p with pc := p.pc + 4 }) with cur := { s.cur with pfx := none } }
  else s

/-- One path issues its next word, when it is its turn in its issue set: the decoded instruction runs. -/
def issueOne (blk grp path : Nat) (s : State) : Outcome State Fault Refusal :=
  match s.issuing blk grp path with
  | none => .next s
  | some s' =>
    if !((s.pathAt blk grp path).map (s.turn blk grp)).getD false then .next s
    else match issuedInstr s'.cur with
    | .ok i => exec i s'.countLanes
    | .error f => .next (takeFault f s'.atSecondPrefix)

/-- An issue set issues its next word, each member in turn (spec/13 R263). -/
def issueWord (blk grp path : Nat) (s : State) : Outcome State Fault Refusal := forSet blk grp path issueOne s

/-! ### Time -/

/-- A path counts cycles, and keeps when its counter reached the fairness timer. -/
def Path.tick (p : Path) (now cycles limit : Nat) : Path :=
  { p with
    ctr := p.ctr + cycles
    fair := if p.fair.isNone ∧ limit ≤ p.ctr + cycles then some (now + (limit - p.ctr)) else p.fair }

/-- Some paths count cycles. -/
def Group.tickPaths (g : Group) (now cycles limit : Nat) (counts : Path → Bool) : Group :=
  { g with paths := g.paths.map (fun p => if counts p then p.tick now cycles limit else p) }

def Path.midClause (p : Path) : Bool :=
  match p.cl with
  | some c => c.ready
  | none => false

/-- What time does to a saved block: how long it has been ready to go on and found no core (spec/14 R283). -/
def State.tickSaved (s : State) (i : Nat) (b : Block) : Block :=
  let stuck := s.waitsToGo b && (match s.grid? b.grid with
    | some g => !s.askD (findsRoom i b g) false
    | none => false)
  { b with waitSince := if stuck then b.waitSince.or (some s.time) else none }

/-- An entry that is unblocked and does not issue counts cycles (spec/13 R264): one of which no member is inside a clause and goes on. -/
def State.countsWait (s : State) (core blk : Nat) (p : Path) : Bool :=
  s.unblocked blk p && (match p.entry with
    | some e => (membersOf (s.corePaths core) e).all (fun x => !(x.2.2.2.midClause && x.2.2.2.goesOn && !x.2.2.2.stopped))
    | none => false)

def State.tickBlocks (s : State) (ns : Nat) : State :=
  { s with
    blocks := s.blocks.mapIdx fun bi b =>
      match b.core with
      | some c =>
        { b with groups := b.groups.map fun g =>
            g.tickPaths (cyclesIn c s.time.toNat) (cyclesIn c ns) (s.fairLimit bi) (s.countsWait c bi) }
      | none => s.tickSaved bi b }

/-- A path is parked in a WAITCMP or a WAITT, for which the kernel watchdog keeps counting (spec/04 R99, spec/14 R295). -/
def Path.timedWait (p : Path) : Bool :=
  match p.wait with
  | some (.time _) => true
  | some (.cmp _) => true
  | _ => false

/-- A block is resident, or was swapped off its core and waits ready for one, in a WAITCMP or in a WAITT. -/
def Block.timed (b : Block) (now : Word) : Bool :=
  b.core.isSome || (b.swapOk && (b.woken now || b.groups.any (fun g => g.paths.any (·.timedWait))))

/-- The time of a grid counts while a block of it is resident or waits ready for a core, and stops while the grid is pre-empted
(spec/19 R312). -/
def State.gridRuns (s : State) (gi : Nat) (g : Grid) (next : Option Nat) : Bool :=
  let mine := s.blocks.filter (fun b => decide (b.grid = gi) && !b.ended)
  s.ctxRuns g.ctx && (mine.any (fun b => b.timed s.time) || (next.isSome && mine.all (fun b => b.core.isSome || b.swapOk)))

/-- How far a record queue's pushes have come, and when that was first so. -/
def Grid.see (g : Grid) (pushed taken : Nat) (now : Word) : Grid :=
  let l := g.seen.filter (fun x => decide (taken < x.1))
  { g with seen := if (g.seen.any (fun x => decide (pushed ≤ x.1))) then l else l ++ [(pushed, now)] }

/-- What time does to a grid: its watchdog, how long its next block has waited for a core, and its queue's pushes. -/
def State.tickGrid (s : State) (ns gi : Nat) (g : Grid) : Grid :=
  let next := s.askD (nextGroups gi g) none
  let stuck := match next with
    | some k => decide (g.lrec.mode ≠ 3) && !s.askD (startable gi g k) false
    | none => false
  let g : Grid := { g with
    ns := if !g.done && s.gridRuns gi g next then g.ns + ns else g.ns
    waitSince := if stuck then g.waitSince.or (some s.time) else none }
  if g.lrec.mode = 2 ∧ ¬ g.done then
    let d := s.askD (peekQueue g) []
    g.see (rqPushed d) (rqTaken d) s.time
  else g

/-- What time does to a frame: how long the next pixel group of each owner has found no core of its die (spec/14 R283). -/
def State.tickFrame (s : State) (f : Frame) : Frame :=
  { f with covers := f.covers.map fun c =>
      let stuck := !f.closed && s.ctxRuns f.ctx && s.hasNext c && (match s.grid? f.grid with
        | some g => !s.askD (anyM ((List.range 128).map (128 * c.die + ·)) (findsCore f.grid g 1)) false
        | none => false)
      { c with waitSince := if stuck then c.waitSince.or (some s.time) else none } }

/-- A wait that the performance counters count cycles of: 14 a PEMIT's, 16 a barrier's (spec/22 R354). -/
def Path.countedWait (p : Path) : Option Nat :=
  match p.wait with
  | some .bar => some 16
  | some .barc => some 16
  | some (.quiesce _) => some 16
  | some .retry => (match p.words with
    | some (w, _) => (match decodeWord w.toNat with
      | .ok (.pemit _ _ _) => some 14
      | _ => none)
    | none => none)
  | _ => none

/-- Cycles in which the groups on cores waited, counted once for each group. -/
def State.countWaits (s : State) (ns : Nat) : State :=
  s.blocks.foldl (fun s b => match b.core with
    | some c => b.groups.foldl (fun s g => [14, 16].foldl (fun s e =>
        if g.paths.any (fun p => decide (p.countedWait = some e)) then
          s.bumped b.ctx e (cyclesIn c ns) (dieOf c) else s) s) s
    | none => s) s

/-- Time passes: the timebase, and every timer that counts (R264, R277, R282, R283, R290, R312). -/
def State.tick (s : State) (ns : Nat) : State :=
  let t := (s.tickBlocks ns).countWaits ns
  { t with
    time := s.time + BitVec.ofNat 64 ns
    bars := s.bars.map (fun w => if s.watchRuns w then w.tick s.time ns (s.waiters w) (s.watchMasks w) else w)
    grids := s.grids.mapIdx (fun i g => s.tickGrid ns i g)
    frames := s.frames.map s.tickFrame
    slots := s.slots.map (fun x => (x.1, if x.2.q.isSome then { x.2 with ns := x.2.ns + ns } else x.2))
    queues := s.queues.map (fun u =>
      { u with waitSince := if s.askD (wantsSlot u) false then u.waitSince.or (some s.time) else none }) }

/-! ### What caches give up -/

def State.evictTlb (s : State) (core vbase : Nat) : State :=
  let keep := fun e : TlbEntry => decide (e.vbase ≠ vbase)
  let s := s.modCore core (fun c => { c with tlb := c.tlb.filter keep })
  s.modDie (dieOf core) (fun d => { d with
    tlb := d.tlb.filter keep
    walk := d.walk.filter (fun w => decide (w.vpfx ≠ vbase % 2 ^ 57 / 2 ^ (12 + 10 * w.level))) })

/-! ### A move -/

/-- A row of the table that no word encodes. -/
def isStep (i : Instr) : Bool := (encode i).isNone

/-- Helper lanes whose quad has no other thread left stand at a clause boundary (R267). -/
def Group.endsHelpers (g : Group) : Bool :=
  decide (g.helper ≠ 0) && g.paths.any (fun p => p.atHeader && decide (g.deadHelpers &&& p.lanes ≠ 0))

/-- They end there, which may bring about what the end of any thread does. -/
def State.endHelpers (s : State) : State :=
  (s.seatedGroups.filter (fun x => x.2.2.2.endsHelpers)).foldl (fun s x =>
    match afterExit { s with cur := ⟨x.1, x.2.1, 0, 0, none⟩ } with
    | .ok (_, t) => { t with cur := s.cur }
    | .error _ => s) s

/-- After a move helper lanes end, and what has come to a header enters the issue table (spec/13 R262, R263, R267). -/
def settled (o : Outcome State Fault Refusal) : Outcome State Fault Refusal :=
  match o with
  | .next t => .next t.endHelpers.settle
  | o => o

def runMove (m : Move) (s : State) : Outcome State Fault Refusal :=
  match m with
  | .issue blk grp path => issueWord blk grp path s
  | .event i => if isStep i then exec i s else .next s
  | .tick ns => .next (s.tick ns)
  | .evictL1 core line => .next (s.modCore core (fun c => c.dropL1 line))
  | .evictReplica die line => .next (s.modDie die (fun d => d.dropReplica line))
  | .evictTlb core vbase => .next (s.evictTlb core vbase)
  | .hostRead r => hostRead r s
  | .sample mon v => .next { s with hists := s.hists.put mon ((s.hists.getD mon Hist.empty).sample v) }

/-! ### A word to be run first -/

/-- A partition with one core, a context, a grid of one block of one group, resident and about to issue. -/
def State.loaded (s : State) : State :=
  let r : LaunchRec := { launchRec [] with gx := 1, gy := 1, gz := 1, block := 1, cluster := 1, vregs := 96, uregs := 32, phases := 255 }
  let g : Grid := gridOf 0 0 r 0
  let grp := Group.fresh r (BitVec.allOnes 32) 0 0 0 noRecords
  { s with
    power := 7
    parts := [(0, ⟨true, [1, 0, 0, 0], BitVec.allOnes 128, [], [0]⟩)]
    ctxs := [Ctx.fresh 0 0 ⟨0, 0, 0, 0, []⟩]
    dies := [(0, { Die.empty with l2Reset := false, coreReset := false, enable := 1 })]
    grids := [{ g with queue := none, next := 1 }]
    blocks := [Block.fresh 0 g 0 0 [grp]] }

/-- Path 0 of group 0 of block 0 may issue. -/
def State.fetches (s : State) : Bool :=
  s.mayIssue 0 0 0 && s.ctxRuns (((s.blkAt 0).map (·.ctx)).getD 0)

/-- A clause of one word, about to issue. -/
def oneWordClause (pc : Word) (w : Code) : Clause := ⟨pc, BitVec.ofNat 32 (0x3D * 2 ^ 26 + 63 * 2 ^ 8 + 1), [w], true⟩

def State.placeWord (s : State) (w : Nat) : State :=
  let t := if s.fetches then s else s.loaded
  let t := t.modPath 0 0 0 fun p =>
    { p with pc := 4, cl := some (oneWordClause 0 (BitVec.ofNat 32 w)), wait := none }
  { t with moves := [.issue 0 0 0] }

end Sys2Proof.Machine
end

