-- ==== Sys2Proof/Machine/Step.lean ====
section
/-!
DEFINITION. One step: the next move of the agenda, or, when it is empty, a move that nothing constrains (log 1). And a
word placed where the next step fetches it (log 17).
-/

namespace Sys2Proof.Machine

def step (s : State) : Host.Outcome State Fault Refusal :=
  match s.moves with
  | m :: r => settled (runMove m { s with moves := r })
  | [] => settled (runMove (Config.nextMove s.drawCtr) { s with drawCtr := s.drawCtr + 1 })

/-- The word stands in the clause buffer of the path that the next step issues; where nothing is resident, one group is
(log 17). -/
def State.withFetchWord (s : State) (nbits w : Nat) : State := s.placeWord (w % 2 ^ min nbits 32)

end Sys2Proof.Machine
end

