-- ==== Sys2Proof/Safety.lean ====
section
/-!
DEFINITION. What counts as a sound state and a safe run, in the terms claims use; and the bound that spec/10 R226 sets on
the special functions, whose values inside it are free (log 5).
-/

namespace Sys2Proof.Safety

open Sys2Proof.Machine Sys2Proof.Config

/-! ### Sound states -/

/-- Memory is in its canonical form: equal memories are equal data. -/
def MemOk (s : State) : Prop := Memory.wf s.mem = true

/-- Each line stands at most once in the slices. -/
def SlicesOk (s : State) : Prop := (s.l2.map (·.line)).Nodup

/-- Every block's grid and context exist. -/
def IndexOk (s : State) : Prop := ∀ b ∈ s.blocks, b.grid < s.grids.length ∧ b.ctx < s.ctxs.length

/-- `n` steps, all of which answer a next state. -/
def Runs (n : Nat) (s t : State) : Prop :=
  match n with
  | 0 => s = t
  | k + 1 => ∃ u, step s = .next u ∧ Runs k u t

/-- A run is safe when it never stops: no step ends in a fault of the model or a refusal. -/
def Safe (s : State) : Prop := ∀ n t, Runs n s t → ∃ u, step t = .next u

/-! ### The issue in progress -/

/-- Everything an instruction word is issued by: its block, group, path, grid and context, the core, and the prefix fields
that apply (spec/02 R31, spec/13 R261). -/
structure Scene where
  blk : Block
  grp : Group
  path : Path
  grid : Grid
  ctx : Ctx
  core : Nat
  pfx : Pfx

/-- The fields of the prefix word in progress, for an instruction that accepts the fields `u` (spec/02 R32): neutral with no
prefix word, none where the prefix word is illegal there. -/
def pfxFor (s : State) (u : PfxUse) : Option Pfx :=
  match s.cur.pfx with
  | none => some Pfx.neutral
  | some w => if pfxBad w.toNat = false ∧ (Pfx.ofCode w.toNat).fits u = true then some (Pfx.ofCode w.toNat) else none

/-- A word that accepts the prefix fields `u` is being issued in `s` by the scene `e`. -/
structure Issues (s : State) (u : PfxUse) (e : Scene) : Prop where
  blk : s.blkAt s.cur.blk = some e.blk
  grp : e.blk.groups[s.cur.grp]? = some e.grp
  path : e.grp.paths[s.cur.path]? = some e.path
  grid : s.grids[e.blk.grid]? = some e.grid
  ctx : s.ctxAt e.blk.ctx = some e.ctx
  core : e.blk.core = some e.core
  pfx : pfxFor s u = some e.pfx

namespace Scene

/-- No register entry that a read of this code in these lanes takes in is poisoned (spec/19 R329). -/
def clear (e : Scene) (code : Nat) (m : BitVec 32) : Prop :=
  ∀ q ∈ e.grp.poison, q.1 = code → q.2 ≠ 32 ∧ m.getLsbD q.2 = false

/-- The kernel has this vector register (spec/02 R38). -/
def hasVec (e : Scene) (d : BitVec 7) : Prop := d.toNat < 96 ∧ d.toNat < e.grid.lrec.vregs

/-- The kernel has this uniform register. -/
def hasUni (e : Scene) (d : BitVec 7) : Prop := 96 ≤ d.toNat ∧ d.toNat - 96 < e.grid.lrec.uregs

/-- The operand can be read: a register the kernel has, and not poisoned. -/
def reads (e : Scene) (a : BitVec 7) : Prop := (e.hasVec a ∨ e.hasUni a) ∧ e.clear a.toNat e.path.lanes

/-- The uniform operand can be read. -/
def readsUni (e : Scene) (a : BitVec 7) : Prop := e.hasUni a ∧ e.clear a.toNat 0#32

/-- The mask register can be read. -/
def readsMask (e : Scene) (k : Nat) : Prop := e.clear (maskCode k) 0#32

/-- The operand of a cross-lane instruction can be read in every lane (spec/10 R212). -/
def readsAll (e : Scene) (a : BitVec 7) : Prop := (e.hasVec a ∨ e.hasUni a) ∧ e.clear a.toNat (BitVec.allOnes 32)

/-- The lanes of an operand: a uniform register gives every lane its value (spec/02 R38). -/
def operand (e : Scene) (a : BitVec 7) : List Word :=
  if isVec a then e.grp.vreg a.toNat else List.replicate 32 (e.grp.sreg (a.toNat - 96))

/-- Sub-element `j` of lane `l` of an operand, of width `w` (spec/02 R39, spec/09 R190). -/
def sub (e : Scene) (a : BitVec 7) (w l j : Nat) : Nat := elem w j (laneOf (e.operand a) l)

/-- The same of B, where SEL chooses the sub-element (spec/02 R36). -/
def subSel (e : Scene) (b : BitVec 7) (w l j : Nat) : Nat := elem w (selIndex e.pfx.sel j) (laneOf (e.operand b) l)

/-- The fourth operand (spec/02 R35). -/
def op4 (e : Scene) : BitVec 7 := BitVec.ofNat 7 e.pfx.op4

/-- Every lane of a source of a cross-lane instruction; a position that holds no thread reads 0 (spec/10 R212). -/
def cross (e : Scene) (a : BitVec 7) : List Word :=
  if isVec a then laneIds.map fun l => if e.grp.present.getLsbD l then laneOf (e.grp.vreg a.toNat) l else 0
  else List.replicate 32 (e.grp.sreg (a.toNat - 96))

/-- A uniform operand's value. -/
def uni (e : Scene) (a : BitVec 7) : Word := e.grp.sreg (a.toNat - 96)

/-- The mask of the prefix word (spec/02 R33). -/
def mask (e : Scene) : BitVec 256 := e.grp.kreg e.pfx.mask

/-- The rounding mode: the prefix word's, or the context's (spec/02 R34). -/
def mode (e : Scene) : Nat := if e.pfx.rm = 5 then fld 2 0 e.ctx.fpcr.toNat else e.pfx.rm

end Scene

/-- The issuing group after a change, its path at the next word; all else is as it was. -/
def wrote (s : State) (f : Group → Group) : State :=
  s.modGrp s.cur.blk s.cur.grp fun g => (f g).advance s.cur.path s.cur.size

/-- The result list of a vector effect (spec/09 R193): `n` elements of width `w`. -/
def vecList (e : Scene) (d : BitVec 7) (w n : Nat) (f : Nat → Nat → Nat × Nat) : List Word × Nat :=
  vectorEffect w n e.path.lanes e.mask e.pfx.zm (e.grp.vreg d.toNat) f

/-- The group with a vector register written; a lane written whole loses its poison. -/
def putVec (e : Scene) (d : BitVec 7) (n : Nat) (v : List Word) (g : Group) : Group :=
  (g.setVreg d.toNat v).clean d.toNat (fun l => e.path.lanes.getLsbD l && laneWritten n e.mask e.pfx.zm l)

/-- The state after a vector instruction that raises no flag. -/
def vecNext (s : State) (e : Scene) (d : BitVec 7) (w n : Nat) (f : Nat → Nat → Nat) : State :=
  wrote s (putVec e d n (vecList e d w n (fun l j => (f l j, 0))).1)

/-- FLG of the issuing context takes these flags too (spec/19 R320). -/
def flagged (s : State) (e : Scene) (fl : Nat) : State := s.modCtx e.blk.ctx (fun c => c.orFlags fl)

/-- The state after a floating-point vector instruction: the register and FLG. -/
def fpNext (s : State) (e : Scene) (d : BitVec 7) (w n : Nat) (f : Nat → Nat → Nat × Nat) : State :=
  wrote (flagged s e (vecList e d w n f).2) (putVec e d n (vecList e d w n f).1)

/-- A flag that the instruction raises is enabled to trap (spec/09 R194). -/
def traps (e : Scene) (fl : Nat) : Prop := fl &&& trapEnables e.ctx.fpcr ≠ 0

/-- The group with part of a vector register written by CVT or CVTS; ZM can only clear a lane whole where every position is
governed (spec/10 R223). -/
def putPart (e : Scene) (d : BitVec 7) (n : Nat) (whole : Bool) (v : List Word) (g : Group) : Group :=
  (g.setVreg d.toNat v).clean d.toNat (fun l => e.path.lanes.getLsbD l && laneWritten n e.mask (e.pfx.zm && whole) l)

/-- Which source element gives position `j` of CVT or CVTS: `sd` destination and `ss` source sub-elements (spec/10 R223). -/
def partPos (part sd ss j : Nat) : Option Nat :=
  if sd ≤ ss then some (part * sd + j) else if part * ss ≤ j ∧ j < part * ss + ss then some (j - part * ss) else none

/-- The result of CVT or CVTS under a conversion of one element. -/
def partList (e : Scene) (d a : BitVec 7) (part src dst : Nat) (conv : Nat → Nat × Nat) : List Word × Nat :=
  partEffect (tyWidth dst) (tyCount dst) e.path.lanes e.mask e.pfx.zm (e.grp.vreg d.toNat) fun l j =>
    (partPos part (tyCount dst) (tyCount src) j).map fun i => conv (e.sub a (tyWidth src) l i)

/-- The state after CVT or CVTS. -/
def partNext (s : State) (e : Scene) (d a : BitVec 7) (part src dst : Nat) (conv : Nat → Nat × Nat) : State :=
  wrote (flagged s e (partList e d a part src dst conv).2)
    (putPart e d (tyCount dst) (decide (tyCount dst ≤ tyCount src)) (partList e d a part src dst conv).1)

/-- The floating-point trap for these raised flags is taken from the state before the instruction (spec/09 R194, spec/19 R304). -/
def trapNext (s : State) (e : Scene) (fl : Nat) : Host.Outcome State Fault Refusal :=
  .next (takeFault (trapFlt fl (trapEnables e.ctx.fpcr)) s)

/-- A signalling NaN stands at an enabled position of A or B (spec/09 R206). -/
def snanAt (e : Scene) (a b : BitVec 7) (ty : Nat) : Bool :=
  (lanesOf e.path.lanes).any fun l => (List.range (64 / tyWidth ty)).any fun j =>
    e.mask.getLsbD (l * 8 + j) && (((fmtOf ty).read (e.sub a (tyWidth ty) l j)).isSnan
      || ((fmtOf ty).read (e.subSel b (tyWidth ty) l j)).isSnan)

/-- The state after a uniform register is written. -/
def uniNext (s : State) (d : BitVec 7) (v : Word) : State :=
  wrote s fun g => (g.setSreg (d.toNat - 96) v).clean (96 + (d.toNat - 96)) (fun _ => true)

/-- The state after a mask register is written. -/
def maskNext (s : State) (k : Nat) (v : BitVec 256) : State :=
  wrote s fun g => (g.setKreg k v).clean (maskCode k) (fun _ => true)

/-! ### Memory accesses -/

/-- Nothing is on its way between the issuing core and the homes of lines, and no home makes an access wait. -/
structure Quiet (s : State) (e : Scene) : Prop where
  clamps : s.clamps = []
  migrs : s.migrs = []
  poison : s.poison = []
  monitors : s.monitors = []
  fwd : s.fwd = []
  wc : (s.coreAt e.core).wc = []
  owed : e.grp.owed = none

/-- The core's L1 and its die's replicas are empty, so that a load is served from the homes of its lines. -/
structure Cold (s : State) (e : Scene) : Prop where
  l1 : (s.coreAt e.core).l1 = []
  replicas : (s.dieAt (dieOf e.core)).replicas = []

/-- An address that the core's TLB translates, by an entry for whole pages, with an access that its leaf permits, of a page the
partition owns, in no copy-on-write service, and a home that can be reached (spec/03 R52, R53, R57, R58, R76, spec/19 R314). -/
structure Reaches (s : State) (e : Scene) (va : Word) (acc : Acc) (tr : Tr) : Prop where
  canon : canonical va = true
  hit : (s.coreAt e.core).tlb.find? (fun q => q.hits e.ctx va.toNat
    && !(acc.writes && fld 3 3 q.pte = 1 && fld 7 7 q.pte = 0)) = some ⟨e.ctx.part, e.ctx.asn, tr.vbase, tr.span, tr.pte, tr.at_⟩
  perm : permits tr.pte acc = none
  own : s.owns e.blk.ctx tr.pa = true
  noCow : acc.writes = true → fld 14 14 tr.pte = 0
  unheld : acc.writes = true → s.cowHeld e.blk.ctx va = false
  page : tr.vbase % 4096 = 0
  pa : tr.pa = fld 59 16 tr.pte * 4096 + (va.toNat - tr.vbase)
  home : s.homeGone (tr.pa / 128) = none

/-- A context without its performance counters, which accesses also move (spec/22 R354). -/
def sansPmc (c : Ctx) : Ctx := { c with pmc := [] }

/-- What an access leaves as it was: every register, special register and accumulator outside `f`'s group, the grids,
partitions, commands and clock. -/
def SameBut (s t : State) (f : Group → Group) : Prop :=
  t.blocks = (wrote s f).blocks ∧ t.grids = s.grids ∧ t.parts = s.parts ∧ t.time = s.time ∧ t.cmds = s.cmds ∧
    t.mats = s.mats ∧ t.queues = s.queues ∧ t.ctxs.map sansPmc = s.ctxs.map sansPmc

/-- Lanes of a vector memory instruction that access memory: active, with the mask bit of sub-element 0, and no helper
where helpers make no access (spec/02 R33, spec/04 R79). -/
def Scene.accesses (e : Scene) (helpers : Bool) (l : Nat) : Bool :=
  decide (l < 32) && e.path.lanes.getLsbD l && e.mask.getLsbD (l * 8) && (helpers || !e.grp.helper.getLsbD l)

/-- The group after a vector load of a size: enabled lanes take their value, disabled ones keep theirs or take 0. -/
def loaded (e : Scene) (r : Nat) (f : Nat → Word) (g : Group) : Group :=
  (g.setVreg r (laneIds.map fun l =>
    if e.path.lanes.getLsbD l then (if e.mask.getLsbD (l * 8) then f l else if e.pfx.zm then 0 else laneOf (g.vreg r) l)
    else laneOf (g.vreg r) l)).clean r
      (fun l => decide (l < 32) && e.path.lanes.getLsbD l && (e.mask.getLsbD (l * 8) || e.pfx.zm))

/-- The byte of memory that the issuing core itself sees: in its write-combining buffer, on its way home, or at home
(spec/03 R62, R68). -/
def seen (s : State) (core a : Nat) : Byte :=
  match (s.coreAt core).wc.find? (fun w => decide (w.line = a / 128) && w.mask.getLsbD (a % 128)) with
  | some w => BitVec.ofNat 8 (w.data.toNat / 256 ^ (a % 128))
  | none =>
    match (s.fwd.filter (fun f => decide (f.die = dieOf core) && decide (f.line = a / 128) && f.mask.getLsbD (a % 128))).getLast? with
    | some f => BitVec.ofNat 8 (f.data.toNat / 256 ^ (a % 128))
    | none => getByte s.mem a

/-- A byte map with `n` bytes of `v` stored at `pa`, little-endian. -/
def stored (m : Nat → Byte) (pa n v : Nat) (a : Nat) : Byte :=
  if pa ≤ a ∧ a < pa + n then BitVec.ofNat 8 (v / 256 ^ (a - pa)) else m a

/-- An acquire of this scope by a core: its L1 goes, and from 5 on the die's replica generation moves (spec/04 R101). -/
def acquired (s : State) (core scope : Nat) : State :=
  if scope < 3 then s
  else
    let t := s.modCore core (fun c => { c with l1 := [] })
    if 5 ≤ scope then t.modDie (dieOf core) Die.nextGen else t

/-- What SCOPE asks of an instruction with no fourth operand of its own: the remote scope comes with an acquire and names, in a
uniform register, a core site that the partition owns (spec/02 R37, spec/12 R259), here one with an empty write-combining
buffer; no other scope has an OP4. -/
def Scoped (s : State) (e : Scene) : Prop :=
  if e.pfx.scope = 7 then (e.pfx.ord = 1 ∨ e.pfx.ord = 3) ∧ e.pfx.op4 ≠ 0x7F ∧ e.readsUni e.op4 ∧
    s.ownsSite e.blk.ctx (e.uni e.op4) = true ∧ (s.coreAt (e.uni e.op4).toNat).wc = []
  else e.pfx.op4 = 0x7F

/-- The remote side of an acquire: the L1 of the core that a remote scope names goes (spec/04 R101). -/
def promoted (s : State) (e : Scene) : State :=
  if e.pfx.scope = 7 then s.modCore (e.uni e.op4).toNat (fun c => { c with l1 := [] }) else s

/-- Every copy and matrix command of the issuing lanes is complete, and no command owes them a fault: a copy command of theirs or
of a task of their group (spec/06 R134, spec/11 R246), or a matrix command of their group (spec/11 R242). -/
def EnginesDone (s : State) (e : Scene) : Prop :=
  (∀ c ∈ s.cmds, c.ofLanes s.cur.blk s.cur.grp e.path.lanes = true → c.status = .done) ∧
  (∀ c ∈ s.mats, c.ofLanes s.cur.blk s.cur.grp e.path.lanes = true → c.status = .done) ∧
  (∀ c ∈ s.cmds, c.blk = s.cur.blk ∧ c.grp = s.cur.grp ∧ (c.lanes &&& e.path.lanes ≠ 0#32 ∨ c.task.isSome = true) →
    c.err = 0 ∨ c.raised = true ∨ c.status ≠ .done) ∧
  (∀ c ∈ s.mats, c.blk = s.cur.blk ∧ c.grp = s.cur.grp → c.err = 0 ∨ c.raised = true ∨ c.status ≠ .done)

/-! ### Control -/

/-- The active lanes have gone to their own addresses (spec/13 R263), with the age counter and yield mark they
carry, and the entry that they leave. -/
def moved (s : State) (e : Scene) (tgt : Nat → Word) : State :=
  s.modGrp s.cur.blk s.cur.grp fun g =>
    { g with
      paths := ((distinct ((lanesOf e.path.lanes).map tgt)).map fun t =>
        ({ lanes := lanesAt e.path.lanes tgt t, pc := t, ctr := e.path.ctr, fair := e.path.fair, yieldAt := e.path.yieldAt
           left := e.path.entry } : Path)).foldl joinPath
          (g.paths.eraseIdx s.cur.path) }

/-- The address of the next clause header, where every control word sends its lanes (spec/13 R274). -/
def nextHeader (s : State) (e : Scene) : Word := wordAfter e.path.pc s.cur.size

/-- The guard of a lane (spec/02 R47, spec/13 R269). -/
def Scene.guard (e : Scene) (c r : Nat) (l : Nat) : Bool :=
  match c with
  | 0 => true
  | 1 => decide (e.grp.sreg r ≠ 0)
  | 2 => decide (e.grp.sreg r = 0)
  | 3 => (lanesOf e.path.lanes).any fun i => (e.grp.kreg r).getLsbD (i * 8)
  | 4 => (lanesOf e.path.lanes).all fun i => (e.grp.kreg r).getLsbD (i * 8)
  | 5 => !(lanesOf e.path.lanes).any fun i => (e.grp.kreg r).getLsbD (i * 8)
  | _ => (e.grp.kreg r).getLsbD (l * 8)

/-- What a guard reads can be read. -/
def Scene.guardReads (e : Scene) (c r : Nat) : Prop :=
  (c = 1 ∨ c = 2 → e.readsUni (BitVec.ofNat 7 (96 + r))) ∧ (3 ≤ c → e.readsMask r)

/-- The clauses at these targets can be fetched and are legal (spec/02 R26, R29); fetching moves caches alone. -/
def Fetches (s : State) (ts : List Word) (u : State) : Prop :=
  each ts checkTarget s = .ok ((), u) ∧ u.blocks = s.blocks ∧ u.cur = s.cur ∧ u.mem = s.mem

/-- The path waits at its word from now on (spec/02 R30); a WAITCMP leaves the issue table (spec/04 R98). -/
def parkedAt (s : State) (w : Wait) : State :=
  s.modPath s.cur.blk s.cur.grp s.cur.path fun p =>
    { p with
      wait := some w, since := if p.wait.isSome then p.since else s.time
      entry := if w.keepsEntry then p.entry else none }

/-! ### What a word or a step learns, and what it enters -/

/-- Reading answers `a` and leaves the issue in progress, the blocks, grids, partitions and commands as they were: it moves
caches, performance counters and A bits alone. -/
structure Learns {α : Type} (m : M α) (s : State) (a : α) (u : State) : Prop where
  answers : m s = .ok (a, u)
  blocks : u.blocks = s.blocks
  cur : u.cur = s.cur
  grids : u.grids = s.grids
  parts : u.parts = s.parts
  ctxs : u.ctxs.map sansPmc = s.ctxs.map sansPmc
  cmds : u.cmds = s.cmds
  mats : u.mats = s.mats
  clamps : u.clamps = s.clamps
  queues : u.queues = s.queues
  frames : u.frames = s.frames

/-- The state a step that no word encodes is made in: no word is being issued. -/
def atRest (s : State) : State := { s with cur := Cur.none }

/-- A path with a lane that is no helper. -/
def Scene.works (e : Scene) : Prop := e.path.lanes &&& ~~~ e.grp.helper ≠ 0

/-- A lane value written into the active lanes of a vector register. -/
def putLanes (e : Scene) (d : BitVec 7) (f : Nat → Word) (g : Group) : Group :=
  (g.setVreg d.toNat (laneIds.map fun l => if e.path.lanes.getLsbD l then f l else laneOf (g.vreg d.toNat) l)).clean d.toNat
    (fun l => e.path.lanes.getLsbD l)

/-- A vector register in which some lanes take a value. -/
def putSome (r : Nat) (f : Nat → Option Word) (g : Group) : Group :=
  (g.setVreg r (laneIds.map fun l => (f l).getD (laneOf (g.vreg r) l))).clean r (fun l => (f l).isSome)

/-- A uniform register written. -/
def putUni (d : BitVec 7) (v : Word) (g : Group) : Group :=
  (g.setSreg (d.toNat - 96) v).clean (96 + (d.toNat - 96)) (fun _ => true)

/-- The agent of the issuing core. -/
def Scene.ag (e : Scene) : Ag := ⟨some e.core, dieOf e.core, e.blk.ctx⟩

/-- The eight bits of k15 of each enabled lane; other active lanes keep or zero theirs (spec/07 R159). -/
def putK15 (e : Scene) (bits : Nat → Nat) (g : Group) : Group :=
  (g.setKreg 15 (BitVec.ofNat 256 (packNat 8 (laneIds.map fun l =>
    if e.accesses true l then bits l % 256
    else if e.path.lanes.getLsbD l && e.pfx.zm then 0 else fld (8 * l + 7) (8 * l) (g.kreg 15).toNat)))).clean (maskCode 15)
      (fun _ => true)

/-- A copy command has entered its engine's queue: counted as sent in its phase, and open in its lanes (spec/06 R136, R146). -/
def entered (s : State) (c : Cmd) : State :=
  (({ s with cmds := s.cmds ++ [c] } : State).count (.core c.core) c.ctx c.phase 1 0).modGrp c.blk c.grp
    (fun g => g.openCmd c.lanes s.cmds.length)

/-- A matrix command has entered its core's queue (spec/11 R238). -/
def enqueued (s : State) (c : MatCmd) : State :=
  ({ s with mats := s.mats ++ [c] } : State).modCore c.core fun k =>
    { k with mat := { k.mat with queue := k.mat.queue ++ [s.mats.length], ctx := some c.ctx } }

/-- The part of an engine's work has been done: its result; or a stop with the fault's cause (spec/06 R134); or a pause, for a
copy-on-write service or at a page boundary while a shootdown is under way (R133). -/
def engineResult (i : Nat) (m : M Unit) (s t : State) : Prop :=
  m s = .ok ((), t) ∨ (∃ f, m s = .error (.fault f) ∧ f.cls ≠ 3 ∧ t = s.failCmd i f (statusOf f)) ∨
    (∃ f, m s = .error (.fault f) ∧ f.cls = 3 ∧ t = s.engineCow i f) ∨ (m s = .error .wait ∧ t = s.modCmd i Cmd.pause)

/-- The core pair or core that a matrix word needs (spec/11 R228). -/
def Scene.matrixCore (e : Scene) (s : State) (kind : MatKind) : Prop :=
  isControl e.core = false ∧ (kind = .mma → s.pairedLeader e.blk.ctx e.core = true)

/-- A path's word in progress: the path stands at it, under this prefix word or none (spec/02 R31). -/
def atWord (s : State) (blk grp path : Nat) (w : Code) (pf : Option Code) : State := { s with cur := ⟨blk, grp, path, w, pf⟩ }

/-- A block has started on a core: it has acquired at package scope, the leaf cache of another launch is gone, and the core's L1
keeps what its scratchpad leaves room for (spec/14 R288, spec/07 R157, spec/09 R188). -/
def begun (s : State) (gi core : Nat) (b : Block) : State :=
  let t := acquired s core 5
  let t := if (t.coreAt core).leafGrid = some gi then t else t.emptyLeaves core
  (({ t with blocks := t.blocks ++ [b] } : State).trimL1 core).modGrid gi fun g => { g with next := g.next + 1, waitSince := none }

/-- The scheduler works on the packet at the head of a mapped queue: the descriptor, the packet, and the state after they
have been read (spec/14 R281). -/
structure AtPacket (s : State) (q : Nat) (u : UQueue) (d p : List Nat) (v : State) : Prop where
  queue : s.queue? q = some u
  mapped : u.slot.isSome = true
  going : u.stopped = false
  runs : s.ctxRuns u.ctx = true
  head : headOf u (atRest s) = .ok (.packet d p, v)

/-- Nothing on its way, and every line's home answers: what reads and writes made at home meet nothing. -/
structure Still (s : State) : Prop where
  clamps : s.clamps = []
  migrs : s.migrs = []
  poison : s.poison = []
  monitors : s.monitors = []
  fwd : s.fwd = []
  homes : ∀ l, s.homeGone l = none

/-! ### The bound of R226 -/

/-- The rational a finite pattern stands for. -/
def valueOf (t : Fmt) (a : Nat) : Option ℚ :=
  match t.read a with
  | .fin n m e => some ((if n then -1 else 1) * m * (2 : ℚ) ^ e)
  | _ => none

/-- `y` is the exact value of the function at `x`. -/
def Exact (fn : SpecialFn) (x y : ℝ) : Prop :=
  match fn with
  | .exp2 => y = (2 : ℝ) ^ x
  | .log2 => 0 < x ∧ y = Real.logb 2 x
  | .rcp => x ≠ 0 ∧ y = 1 / x
  | .rsq => 0 < x ∧ y = 1 / Real.sqrt x
  | .sin => y = Real.sin x
  | .cos => y = Real.cos x
  | .sinpi => y = Real.sin (Real.pi * x)
  | .cospi => y = Real.cos (Real.pi * x)
  | .tanh => y = Real.tanh x
  | .erf => y = 2 / Real.sqrt Real.pi * ∫ t in (0 : ℝ)..x, Real.exp (-(t * t))

/-- `u` is the spacing of the format at `y`, the subnormal spacing included. -/
def Spacing (t : Fmt) (y u : ℝ) : Prop :=
  ∃ e : ℤ, t.emin ≤ e ∧ u = (2 : ℝ) ^ (e - t.f) ∧ |y| < (2 : ℝ) ^ (e + 1) ∧ (e = t.emin ∨ (2 : ℝ) ^ e ≤ |y|)

/-- The results of the special functions lie within the bound: freeResult chooses among such patterns, by the enclosures of
Machine/Special.lean. A claim that needs it takes it as a hypothesis. -/
def SpecialBound : Prop :=
  ∀ fn ty a x r y u, 4 ≤ ty → ty ≤ 7 → valueOf (fmtOf ty) a = some x → (fn = .sin ∨ fn = .cos → |x| ≤ 65536) →
    valueOf (fmtOf ty) ((fmtOf ty).special fn ty a).1 = some r → Exact fn x y → Spacing (fmtOf ty) y u →
    |(r : ℝ) - y| ≤ ulps fn ty * u

end Sys2Proof.Safety
end

