-- ==== Sys2Proof/Certificates/Slice0/Obligations.lean ====
section
/-!
DEFINITION. The statements for the provers, from the numbered rules of spec/. Instruction words: Safety.Issues says that a
word is being issued; each result names the whole next state, so that whatever it does not change is unchanged.
-/

open Sys2Proof Sys2Proof.Machine Sys2Proof.Safety Host

/-! ### Vector instructions -/

/-- R192, R193: the elements of a vector result. An enabled position takes the operation's element, a position of an active
lane whose mask bit is 0 keeps its element or takes 0 under ZM, and a lane that is not active keeps its register. -/
def Obligations.VectorEffect : Prop :=
  ∀ (w n : Nat) (m : BitVec 32) (k : BitVec 256) (zm : Bool) (old : List Word) (f : Nat → Nat → Nat × Nat) (l : Nat),
    0 < w → w * n = 64 → l < 32 → (∀ j, j < n → (f l j).1 < 2 ^ w) →
      (vectorEffect w n m k zm old f).1.length = 32 ∧
      (m.getLsbD l = false → laneOf (vectorEffect w n m k zm old f).1 l = laneOf old l) ∧
      (m.getLsbD l = true → ∀ j, j < n →
        elem w j (laneOf (vectorEffect w n m k zm old f).1 l) =
          if k.getLsbD (l * 8 + j) then (f l j).1 else if zm then 0 else elem w j (laneOf old l))

/-- R196: what each integer instruction computes on the elements of its operands, for every TY: `popCount` counts the set
bits of an element, `leadingZeros` its leading zero bits, and `bitReverse` moves bit i to bit w - 1 - i. -/
def Obligations.IntegerVector : Prop :=
  (∀ (w x : Nat), x < 2 ^ w →
    popCount w x = ((List.range w).filter (fun i => x.testBit i)).length ∧
    (∀ i, i < w → (bitReverse w x).testBit i = x.testBit (w - 1 - i)) ∧ bitReverse w x < 2 ^ w ∧
    leadingZeros w x ≤ w ∧ (∀ i, w - leadingZeros w x ≤ i → x.testBit i = false) ∧
    (leadingZeros w x < w → x.testBit (w - 1 - leadingZeros w x) = true)) ∧
  (∀ (s : State) (e : Scene) (d a b : BitVec 7) (t : BitVec 2) (w : Nat),
    w = tyWidth t.toNat → selOk e.pfx.sel (64 / w) = true →
    e.hasVec d → e.reads a → e.reads b → e.readsMask e.pfx.mask →
    (Issues s { mask := true, zm := true, sel := true } e →
      exec (.iadd d a b t) s = .next (vecNext s e d w (64 / w) fun l j => (e.sub a w l j + e.subSel b w l j) % 2 ^ w) ∧
      exec (.isub d a b t) s = .next (vecNext s e d w (64 / w) fun l j => (e.sub a w l j + 2 ^ w - e.subSel b w l j) % 2 ^ w) ∧
      exec (.iadds d a b t) s = .next (vecNext s e d w (64 / w) fun l j =>
        ofInt w (max (-(2 ^ (w - 1) : Nat)) (min ((2 ^ (w - 1) : Nat) - 1)
          (toInt w (e.sub a w l j) + toInt w (e.subSel b w l j))))) ∧
      exec (.isubs d a b t) s = .next (vecNext s e d w (64 / w) fun l j =>
        ofInt w (max (-(2 ^ (w - 1) : Nat)) (min ((2 ^ (w - 1) : Nat) - 1)
          (toInt w (e.sub a w l j) - toInt w (e.subSel b w l j))))) ∧
      exec (.imul d a b t) s = .next (vecNext s e d w (64 / w) fun l j => e.sub a w l j * e.subSel b w l j % 2 ^ w) ∧
      exec (.imulh d a b t) s = .next (vecNext s e d w (64 / w) fun l j =>
        ofInt w (toInt w (e.sub a w l j) * toInt w (e.subSel b w l j) / (2 ^ w : Nat))) ∧
      exec (.imulhu d a b t) s = .next (vecNext s e d w (64 / w) fun l j => e.sub a w l j * e.subSel b w l j / 2 ^ w) ∧
      exec (.imin d a b t) s = .next (vecNext s e d w (64 / w) fun l j =>
        if toInt w (e.sub a w l j) ≤ toInt w (e.subSel b w l j) then e.sub a w l j else e.subSel b w l j) ∧
      exec (.imax d a b t) s = .next (vecNext s e d w (64 / w) fun l j =>
        if toInt w (e.sub a w l j) ≤ toInt w (e.subSel b w l j) then e.subSel b w l j else e.sub a w l j) ∧
      exec (.iminu d a b t) s = .next (vecNext s e d w (64 / w) fun l j => min (e.sub a w l j) (e.subSel b w l j)) ∧
      exec (.imaxu d a b t) s = .next (vecNext s e d w (64 / w) fun l j => max (e.sub a w l j) (e.subSel b w l j))) ∧
    (Issues s { mask := true, zm := true } e →
      exec (.iabs d a t) s = .next (vecNext s e d w (64 / w) fun l j => ofInt w (toInt w (e.sub a w l j)).natAbs) ∧
      exec (.ineg d a t) s = .next (vecNext s e d w (64 / w) fun l j => (2 ^ w - e.sub a w l j) % 2 ^ w) ∧
      exec (.popc d a t) s = .next (vecNext s e d w (64 / w) fun l j => popCount w (e.sub a w l j)) ∧
      exec (.clz d a t) s = .next (vecNext s e d w (64 / w) fun l j => leadingZeros w (e.sub a w l j)) ∧
      exec (.brev d a t) s = .next (vecNext s e d w (64 / w) fun l j => bitReverse w (e.sub a w l j)) ∧
      (t.toNat < 3 → exec (.movs d a t) s = .next (vecNext s e d 64 1 fun l _ =>
        ofInt 64 (toInt w (elem w 0 (laneOf (e.operand a) l)))))) ∧
    (Issues s { mask := true, zm := true, op4 := true, sel := true } e → e.pfx.op4 ≠ 0x7F → e.reads e.op4 →
      exec (.imad d a b t) s = .next (vecNext s e d w (64 / w) fun l j =>
        (e.sub a w l j * e.subSel b w l j + e.sub e.op4 w l j) % 2 ^ w))) ∧
  (∀ (s : State) (e : Scene) (d a b : BitVec 7) (t : BitVec 3) (w : Nat),
    w = tyWidth t.toNat → selOk e.pfx.sel (64 / w) = true →
    e.hasVec d → e.reads a → e.reads b → e.readsMask e.pfx.mask →
    (Issues s { mask := true, zm := true, sel := true } e →
      exec (.vand d a b t) s = .next (vecNext s e d w (64 / w) fun l j => e.sub a w l j &&& e.subSel b w l j) ∧
      exec (.vor d a b t) s = .next (vecNext s e d w (64 / w) fun l j => e.sub a w l j ||| e.subSel b w l j) ∧
      exec (.vxor d a b t) s = .next (vecNext s e d w (64 / w) fun l j => e.sub a w l j ^^^ e.subSel b w l j) ∧
      exec (.vandn d a b t) s = .next (vecNext s e d w (64 / w) fun l j => e.sub a w l j &&& (2 ^ w - 1 - e.subSel b w l j))) ∧
    (Issues s { mask := true, zm := true } e →
      exec (.mov d a t) s = .next (vecNext s e d w (64 / w) fun l j => e.sub a w l j)) ∧
    (Issues s { mask := true, zm := true, op4 := true, sel := true } e → e.pfx.op4 ≠ 0x7F → e.reads e.op4 →
      exec (.sel d a b t) s = .next (vecNext s e d w (64 / w) fun l j =>
        if e.sub e.op4 w l j ≠ 0 then e.sub a w l j else e.subSel b w l j)))

/-- R197: the shifts and bit fields on elements of width w. `rotateLeft` brings bit i + w - b mod w to bit i; a bit field is
clipped to the element and extended from its top bit or with zeros; BFI replaces the field that c names. -/
def Obligations.ShiftsAndBitFields : Prop :=
  (∀ (w a b c i : Nat), w ∈ [8, 16, 32, 64] → a < 2 ^ w → i < w →
    (rotateLeft w a b).testBit i = a.testBit ((i + (w - b % w)) % w) ∧
    (∀ (sg : Bool) (n : Nat), (w ≤ b ∨ c = 0 → bitField sg w a b c = 0) ∧
      (b < w → c ≠ 0 → n = min c (w - b) → (bitField sg w a b c).testBit i =
        if i < n then a.testBit (b + i) else sg && a.testBit (b + n - 1))) ∧
    (∀ off n, off = c % w → n = min (c / w % (2 * w)) (w - off) →
      (bitInsert w a b c).testBit i = if off ≤ i ∧ i < off + n then b.testBit (i - off) else a.testBit i) ∧
    rotateLeft w a b < 2 ^ w ∧ bitField false w a b c < 2 ^ w ∧ bitField true w a b c < 2 ^ w ∧ bitInsert w a b c < 2 ^ w) ∧
  (∀ (s : State) (e : Scene) (d a b : BitVec 7) (t : BitVec 2) (w : Nat),
    w = tyWidth t.toNat → selOk e.pfx.sel (64 / w) = true →
    e.hasVec d → e.reads a → e.reads b → e.readsMask e.pfx.mask →
    (Issues s { mask := true, zm := true, sel := true } e →
      exec (.shl d a b t) s = .next (vecNext s e d w (64 / w) fun l j =>
        if w ≤ e.subSel b w l j then 0 else e.sub a w l j * 2 ^ e.subSel b w l j % 2 ^ w) ∧
      exec (.shr d a b t) s = .next (vecNext s e d w (64 / w) fun l j =>
        if w ≤ e.subSel b w l j then 0 else e.sub a w l j / 2 ^ e.subSel b w l j) ∧
      exec (.sar d a b t) s = .next (vecNext s e d w (64 / w) fun l j =>
        ofInt w (toInt w (e.sub a w l j) / (2 ^ (if w ≤ e.subSel b w l j then w else e.subSel b w l j) : Nat))) ∧
      exec (.rot d a b t) s = .next (vecNext s e d w (64 / w) fun l j => rotateLeft w (e.sub a w l j) (e.subSel b w l j))) ∧
    (Issues s { mask := true, zm := true, op4 := true, sel := true } e → e.pfx.op4 ≠ 0x7F → e.reads e.op4 →
      exec (.bfx d a b t) s = .next (vecNext s e d w (64 / w) fun l j =>
        bitField true w (e.sub a w l j) (e.subSel b w l j) (e.sub e.op4 w l j)) ∧
      exec (.bfxu d a b t) s = .next (vecNext s e d w (64 / w) fun l j =>
        bitField false w (e.sub a w l j) (e.subSel b w l j) (e.sub e.op4 w l j)) ∧
      exec (.bfi d a b t) s = .next (vecNext s e d w (64 / w) fun l j =>
        bitInsert w (e.sub a w l j) (e.subSel b w l j) (e.sub e.op4 w l j))))

/-- R198: IADDI and MOVI, and MOVI's fault for a byte with high bits. R199: ZIP, UNZIP, PACKLO and PACKHI, and the fault for a
TY they do not accept. Both: a prefix word with a field other than MASK and ZM is illegal.
The model's choices here: the sub-cause of each of these faults, and which is found first where several apply (log 37). -/
def Obligations.ImmediatesAndPacking : Prop :=
  ∀ (s : State) (e : Scene) (d a b : BitVec 7) (t : BitVec 3) (t2 : BitVec 2) (i : BitVec 12) (x : BitVec 16),
    (Issues s { mask := true, zm := true } e → e.hasVec d → e.reads a → e.reads b → e.readsMask e.pfx.mask →
      exec (.iaddi d a i) s = .next (vecNext s e d 64 1 fun l _ => (laneOf (e.operand a) l + i.signExtend 64).toNat) ∧
      (t.toNat ≠ 0 ∨ x.toNat < 256 → exec (.movi d t x) s =
        .next (vecNext s e d (tyWidth t.toNat) (64 / tyWidth t.toNat) fun _ _ =>
          match t.toNat with
          | 0 => x.toNat
          | 2 => (x.signExtend 32).toNat
          | 3 => (x.signExtend 64).toNat
          | 6 => x.toNat * 2 ^ 16
          | 7 => x.toNat * 2 ^ 48
          | _ => x.toNat)) ∧
      (∀ w, t.toNat ≠ 3 → t.toNat ≠ 7 → w = tyWidth t.toNat →
        exec (.zip d a b t) s = .next (vecNext s e d w (64 / w) fun l j =>
          if j % 2 = 0 then e.sub a w l (j / 2) else e.sub b w l (j / 2)) ∧
        exec (.unzip d a b t) s = .next (vecNext s e d w (64 / w) fun l j =>
          if j < 64 / w / 2 then e.sub a w l (2 * j) else e.sub b w l (2 * (j - 64 / w / 2)))) ∧
      (∀ h, t2.toNat ≠ 0 → 2 * h = tyWidth t2.toNat →
        exec (.packlo d a b t2) s = .next (vecNext s e d h (2 * (64 / (2 * h))) fun l j =>
          (if j < 64 / (2 * h) then e.sub a (2 * h) l j else e.sub b (2 * h) l (j - 64 / (2 * h))) % 2 ^ h) ∧
        exec (.packhi d a b t2) s = .next (vecNext s e d h (2 * (64 / (2 * h))) fun l j =>
          (if j < 64 / (2 * h) then e.sub a (2 * h) l j else e.sub b (2 * h) l (j - 64 / (2 * h))) / 2 ^ h))) ∧
    (t.toNat = 0 → 256 ≤ x.toNat → exec (.movi d t x) s = .next (takeFault (illegal 3) s)) ∧
    (t.toNat = 3 ∨ t.toNat = 7 → exec (.zip d a b t) s = .next (takeFault (illegal 1) s) ∧
      exec (.unzip d a b t) s = .next (takeFault (illegal 1) s)) ∧
    (t2.toNat = 0 → exec (.packlo d a b t2) s = .next (takeFault (illegal 1) s) ∧
      exec (.packhi d a b t2) s = .next (takeFault (illegal 1) s)) ∧
    (∀ c, s.cur.pfx = some c → (Pfx.ofCode c.toNat).fits { mask := true, zm := true } = false →
      exec (.iaddi d a i) s = .next (takeFault (illegal 2) s) ∧
      (t.toNat ≠ 0 ∨ x.toNat < 256 → exec (.movi d t x) s = .next (takeFault (illegal 2) s)) ∧
      (t.toNat ≠ 3 → t.toNat ≠ 7 → exec (.zip d a b t) s = .next (takeFault (illegal 2) s) ∧
        exec (.unzip d a b t) s = .next (takeFault (illegal 2) s)) ∧
      (t2.toNat ≠ 0 → exec (.packlo d a b t2) s = .next (takeFault (illegal 2) s) ∧
        exec (.packhi d a b t2) s = .next (takeFault (illegal 2) s)))

/-- R200: each bit of a compare's mask. At an enabled position it becomes the word's condition on a and b, alone or with AND
or OR of the old bit; at a disabled one of an active lane it keeps its bit, or takes 0 under ZM; bits of other lanes, and
bits j from S on, are unchanged. Writing k0 has no effect. -/
def Obligations.IntegerCompare : Prop :=
  (∀ (s : State) (e : Scene) (k : BitVec 4) (c : BitVec 3) (a b : BitVec 7) (t : BitVec 2) (w : Nat),
    w = tyWidth t.toNat → Issues s { mask := true, zm := true, sel := true } e → selOk e.pfx.sel (64 / w) = true →
    e.reads a → e.reads b → e.readsMask e.pfx.mask → e.readsMask k.toNat →
    ∀ (r : Nat → Nat → Bool), (r = fun l j =>
        match c.toNat with
        | 0 => decide (e.sub a w l j = e.subSel b w l j)
        | 1 => decide (e.sub a w l j ≠ e.subSel b w l j)
        | 2 => decide (toInt w (e.sub a w l j) < toInt w (e.subSel b w l j))
        | 3 => decide (toInt w (e.subSel b w l j) ≤ toInt w (e.sub a w l j))
        | 4 => decide (e.sub a w l j < e.subSel b w l j)
        | 5 => decide (e.subSel b w l j ≤ e.sub a w l j)
        | 6 => decide (toInt w (e.sub a w l j) ≤ toInt w (e.subSel b w l j))
        | _ => decide (toInt w (e.subSel b w l j) < toInt w (e.sub a w l j))) →
      ∀ (i : Instr) (f : Bool → Bool → Bool), (i, f) ∈ ([(.icmpSet k c a b t, fun _ x => x), (.icmpAnd k c a b t, (· && ·)),
          (.icmpOr k c a b t, (· || ·))] : List (Instr × (Bool → Bool → Bool))) →
        ∃ v : BitVec 256, exec i s = .next (maskNext s k.toNat v) ∧ ∀ l j, l < 32 → j < 8 →
          v.getLsbD (l * 8 + j) =
            if e.path.lanes.getLsbD l = false ∨ 64 / w ≤ j then (e.grp.kreg k.toNat).getLsbD (l * 8 + j)
            else if e.mask.getLsbD (l * 8 + j) then f ((e.grp.kreg k.toNat).getLsbD (l * 8 + j)) (r l j)
            else if e.pfx.zm then false else (e.grp.kreg k.toNat).getLsbD (l * 8 + j)) ∧
  (∀ (g : Group) (v : BitVec 256), g.setKreg 0 v = g)

/-- R201 to R205: the floating-point instructions of two operands and of one, rounding by the prefix word or the context,
when no enabled flag is raised: the register, and FLG ORed with the flags of the enabled positions (R194). -/
def Obligations.FloatVector : Prop :=
  ∀ (s : State) (e : Scene) (d a b : BitVec 7) (t : BitVec 2) (w : Nat) (f : Fmt),
    w = tyWidth (4 + t.toNat) → f = fmtOf (4 + t.toNat) → selOk e.pfx.sel (64 / w) = true →
    e.hasVec d → e.reads a → e.reads b → e.readsMask e.pfx.mask →
    (Issues s { mask := true, zm := true, rm := true, sel := true } e →
      ∀ (i : Instr) (r : Nat → Nat → Nat × Nat), (i, r) ∈ ([
          (.fadd d a b t, fun l j => f.add e.mode (e.sub a w l j) (e.subSel b w l j)),
          (.fsub d a b t, fun l j => f.sub e.mode (e.sub a w l j) (e.subSel b w l j)),
          (.fmul d a b t, fun l j => f.mul e.mode (e.sub a w l j) (e.subSel b w l j)),
          (.fdiv d a b t, fun l j => f.div e.mode (e.sub a w l j) (e.subSel b w l j)),
          (.fmin d a b t, fun l j => f.pick false false (e.sub a w l j) (e.subSel b w l j)),
          (.fmax d a b t, fun l j => f.pick true false (e.sub a w l j) (e.subSel b w l j)),
          (.fminn d a b t, fun l j => f.pick false true (e.sub a w l j) (e.subSel b w l j)),
          (.fmaxn d a b t, fun l j => f.pick true true (e.sub a w l j) (e.subSel b w l j)),
          (.fscale d a b t, fun l j => f.scale e.mode (e.sub a w l j) (toInt w (e.subSel b w l j)))] :
          List (Instr × (Nat → Nat → Nat × Nat))) →
        ¬ traps e (vecList e d w (64 / w) r).2 → exec i s = .next (fpNext s e d w (64 / w) r)) ∧
    (Issues s { mask := true, zm := true, rm := true } e →
      ∀ (i : Instr) (r : Nat → Nat → Nat × Nat), (i, r) ∈ ([
          (.fabs d a t, fun l j => (e.sub a w l j % f.signBit, 0)),
          (.fneg d a t, fun l j => (Nat.xor (e.sub a w l j) f.signBit, 0)),
          (.fclass d a t, fun l j => (f.classify (e.sub a w l j), 0)),
          (.frnd d a t, fun l j => f.integral e.mode (e.sub a w l j)),
          (.fsqrt d a t, fun l j => f.sqrt e.mode (e.sub a w l j)),
          (.flogb d a t, fun l j => f.logb (e.sub a w l j))] : List (Instr × (Nat → Nat → Nat × Nat))) →
        ¬ traps e (vecList e d w (64 / w) r).2 → exec i s = .next (fpNext s e d w (64 / w) r)) ∧
    (Issues s { mask := true, zm := true, rm := true, op4 := true, sel := true } e → e.pfx.op4 ≠ 0x7F → e.reads e.op4 →
      ∀ (r : Nat → Nat → Nat × Nat),
        (r = fun l j => f.fma e.mode (e.sub a w l j) (e.subSel b w l j) (e.sub e.op4 w l j)) →
        ¬ traps e (vecList e d w (64 / w) r).2 → exec (.fma d a b t) s = .next (fpNext s e d w (64 / w) r))

/-- R206: the floating-point compares; invalid only for a signalling NaN at an enabled position. R194, R303: when a flag
that an instruction raises is enabled, no destination is written and the floating-point trap is taken, from the state before the
instruction: of every instruction that raises flags. R315, R320: the trap ORs the raised flags into FLG first; with a handler set
and the threads outside it, EPC of each active lane is the faulting word's address (that of its prefix word, when it has one),
handler mode is set, CAUSE and FADDR are written and the path stands at TVEC, every other register as it was; else, or when TVEC
fails as a branch target, it is fatal. -/
def Obligations.FloatCompareAndTrap : Prop :=
  (∀ (s : State) (e : Scene) (k : BitVec 4) (c : BitVec 3) (a b : BitVec 7) (t : BitVec 2) (w fl : Nat) (f : Fmt),
      w = tyWidth (4 + t.toNat) → f = fmtOf (4 + t.toNat) → Issues s { mask := true, zm := true, sel := true } e →
      selOk e.pfx.sel (64 / w) = true → e.reads a → e.reads b → e.readsMask e.pfx.mask → e.readsMask k.toNat →
      fl = (if snanAt e a b (4 + t.toNat) then fInvalid else 0) → ¬ traps e fl →
      ∀ (r : Nat → Nat → Bool) (put : BitVec 256 → (Bool → Bool → Bool) → Prop),
        (r = fun l j => FVal.holds c.toNat (f.read (e.sub a w l j)) (f.read (e.subSel b w l j))) →
        (put = fun v h => ∀ l j, l < 32 → j < 8 → v.getLsbD (l * 8 + j) =
          if e.path.lanes.getLsbD l = false ∨ 64 / w ≤ j then (e.grp.kreg k.toNat).getLsbD (l * 8 + j)
          else if e.mask.getLsbD (l * 8 + j) then h ((e.grp.kreg k.toNat).getLsbD (l * 8 + j)) (r l j)
          else if e.pfx.zm then false else (e.grp.kreg k.toNat).getLsbD (l * 8 + j)) →
        (∃ v, exec (.fcmpSet k c a b t) s = .next (maskNext (flagged s e fl) k.toNat v) ∧ put v fun _ x => x) ∧
        (∃ v, exec (.fcmpAnd k c a b t) s = .next (maskNext (flagged s e fl) k.toNat v) ∧ put v (· && ·)) ∧
        (∃ v, exec (.fcmpOr k c a b t) s = .next (maskNext (flagged s e fl) k.toNat v) ∧ put v (· || ·))) ∧
  (∀ (s : State) (e : Scene) (k : BitVec 4) (c : BitVec 3) (a b : BitVec 7) (t : BitVec 2) (fl : Nat),
      Issues s { mask := true, zm := true, sel := true } e → selOk e.pfx.sel (64 / tyWidth (4 + t.toNat)) = true →
      e.reads a → e.reads b → e.readsMask e.pfx.mask → e.readsMask k.toNat →
      fl = (if snanAt e a b (4 + t.toNat) then fInvalid else 0) → traps e fl →
        exec (.fcmpSet k c a b t) s = trapNext s e fl ∧ exec (.fcmpAnd k c a b t) s = trapNext s e fl ∧
          exec (.fcmpOr k c a b t) s = trapNext s e fl) ∧
  (∀ (s : State) (e : Scene) (d a b : BitVec 7) (t : BitVec 2) (w : Nat) (f : Fmt) (i : Instr) (r : Nat → Nat → Nat × Nat),
      w = tyWidth (4 + t.toNat) → f = fmtOf (4 + t.toNat) → selOk e.pfx.sel (64 / w) = true →
      e.hasVec d → e.reads a → e.reads b → e.readsMask e.pfx.mask → traps e (vecList e d w (64 / w) r).2 →
      (Issues s { mask := true, zm := true, rm := true, sel := true } e → (i, r) ∈ ([
          (.fadd d a b t, fun l j => f.add e.mode (e.sub a w l j) (e.subSel b w l j)),
          (.fsub d a b t, fun l j => f.sub e.mode (e.sub a w l j) (e.subSel b w l j)),
          (.fmul d a b t, fun l j => f.mul e.mode (e.sub a w l j) (e.subSel b w l j)),
          (.fdiv d a b t, fun l j => f.div e.mode (e.sub a w l j) (e.subSel b w l j)),
          (.fmin d a b t, fun l j => f.pick false false (e.sub a w l j) (e.subSel b w l j)),
          (.fmax d a b t, fun l j => f.pick true false (e.sub a w l j) (e.subSel b w l j)),
          (.fminn d a b t, fun l j => f.pick false true (e.sub a w l j) (e.subSel b w l j)),
          (.fmaxn d a b t, fun l j => f.pick true true (e.sub a w l j) (e.subSel b w l j)),
          (.fscale d a b t, fun l j => f.scale e.mode (e.sub a w l j) (toInt w (e.subSel b w l j)))] :
          List (Instr × (Nat → Nat → Nat × Nat))) →
        exec i s = trapNext s e (vecList e d w (64 / w) r).2) ∧
      (Issues s { mask := true, zm := true, rm := true } e → (i, r) ∈ ([
          (.frnd d a t, fun l j => f.integral e.mode (e.sub a w l j)),
          (.fsqrt d a t, fun l j => f.sqrt e.mode (e.sub a w l j)),
          (.flogb d a t, fun l j => f.logb (e.sub a w l j)),
          (.exp2 d a t, fun l j => f.exp2 (4 + t.toNat) (e.sub a w l j)),
          (.log2 d a t, fun l j => f.log2 (4 + t.toNat) (e.sub a w l j)),
          (.rcp d a t, fun l j => f.rcp (4 + t.toNat) (e.sub a w l j)),
          (.rsq d a t, fun l j => f.rsq (4 + t.toNat) (e.sub a w l j)),
          (.sin d a t, fun l j => f.sin (4 + t.toNat) (e.sub a w l j)),
          (.cos d a t, fun l j => f.cos (4 + t.toNat) (e.sub a w l j)),
          (.sinpi d a t, fun l j => f.sinpi (4 + t.toNat) (e.sub a w l j)),
          (.cospi d a t, fun l j => f.cospi (4 + t.toNat) (e.sub a w l j)),
          (.tanh d a t, fun l j => f.sigmoid .tanh (4 + t.toNat) (e.sub a w l j)),
          (.erf d a t, fun l j => f.sigmoid .erf (4 + t.toNat) (e.sub a w l j))] : List (Instr × (Nat → Nat → Nat × Nat))) →
        exec i s = trapNext s e (vecList e d w (64 / w) r).2) ∧
      (Issues s { mask := true, zm := true, rm := true, op4 := true, sel := true } e → e.pfx.op4 ≠ 0x7F → e.reads e.op4 →
        (r = fun l j => f.fma e.mode (e.sub a w l j) (e.subSel b w l j) (e.sub e.op4 w l j)) →
        exec (.fma d a b t) s = trapNext s e (vecList e d w (64 / w) r).2) ∧
      (∀ (c : BitVec 1) (dx : Nat), Issues s { mask := true, zm := true, rm := true } e → e.readsAll a →
        (i = .ddx d a c t ∧ dx = 1 ∨ i = .ddy d a c t ∧ dx = 2) →
        (r = fun l j => if c = 1
          then f.sub e.mode (elem w j (laneOf (e.cross a) (l / 4 * 4 + dx))) (elem w j (laneOf (e.cross a) (l / 4 * 4)))
          else f.sub e.mode (elem w j (laneOf (e.cross a) (Nat.lor l dx))) (elem w j (laneOf (e.cross a) (Nat.xor (Nat.lor l dx) dx)))) →
        exec i s = trapNext s e (vecList e d w (64 / w) r).2)) ∧
  (∀ (s : State) (e : Scene) (d a : BitVec 7) (u : BitVec 1) (p : BitVec 2) (st t : BitVec 3) (fl : Nat),
      Issues s { mask := true, zm := true, rm := true } e → e.hasVec d → e.reads a → e.readsMask e.pfx.mask →
      (4 ≤ st.toNat ∨ 4 ≤ t.toNat) → (u = 1 → st.toNat < 4 ∨ t.toNat < 4) →
      p.toNat < max (tyCount t.toNat) (tyCount st.toNat) / min (tyCount t.toNat) (tyCount st.toNat) →
      fl = (partList e d a p.toNat st.toNat t.toNat (convElem t.toNat st.toNat (decide (u = 1)) e.mode)).2 → traps e fl →
        exec (.cvt d a u p st t) s = trapNext s e fl) ∧
  (∀ (s : State) (e : Scene) (d a : BitVec 7) (sl : BitVec 3) (sw : Code) (vals : List FVal) (r : List Int × Nat × Nat),
      Issues s { mask := true, zm := true, rm := true } e → isControl e.core = false → e.hasVec d → e.reads a →
      e.readsMask e.pfx.mask → sw = slotOf e.grid.lrec sl.toNat → slotClean sw = true → 2 ≤ slotOut sw → slotOut sw ≤ 8 →
      (vals = (List.range 64).map fun i =>
        if e.path.lanes.getLsbD (i / 2) && e.mask.getLsbD (i / 2 * 8 + i % 2) then fp32.read (e.sub a 32 (i / 2) (i % 2))
        else .fin false 0 0) →
      r = bfpEncode vals (slotOut sw) (slotRnd sw) (slotSat sw) → traps e r.2.2 →
        exec (.cvtb d a sl) s = trapNext s e r.2.2) ∧
  (∀ (s : State) (e : Scene) (d a : BitVec 7) (o : BitVec 3) (t : BitVec 2) (w : Nat) (vals : List Nat) (r : Nat × Nat),
      Issues s { mask := true, zm := true, rm := true } e → o.toNat < 5 → e.hasUni d → e.reads a → e.readsMask e.pfx.mask →
      w = tyWidth (4 + t.toNat) →
      (vals = laneIds.flatMap fun ln => (List.range (64 / w)).map fun j =>
        if e.path.lanes.getLsbD ln && e.mask.getLsbD (ln * 8 + j) then e.sub a w ln j
        else redfIdentity (fmtOf (4 + t.toNat)) o.toNat) →
      (r = if o.toNat = 0 then treeSum (fmtOf (4 + t.toNat)) e.mode (Nat.log2 vals.length) vals
        else vals.tail.foldl (fun acc y =>
          (((fmtOf (4 + t.toNat)).pick (decide (o.toNat = 2 ∨ o.toNat = 4)) (decide (3 ≤ o.toNat)) acc.1 y).1,
            Nat.lor acc.2 ((fmtOf (4 + t.toNat)).pick (decide (o.toNat = 2 ∨ o.toNat = 4)) (decide (3 ≤ o.toNat)) acc.1 y).2))
          (vals.headD 0, 0)) →
      traps e r.2 → exec (.redf d a o t) s = trapNext s e r.2) ∧
  (∀ (s u : State) (use : PfxUse) (e : Scene) (f : Flt) (t : State), Issues s use e → (∀ c ∈ s.clamps, s.ownClamp c = false) →
      f.cls = 12 → f.unit = 0 → t = flagged s e f.detail.toNat →
      (e.ctx.tvec = 0 ∨ e.grp.handler &&& e.path.lanes ≠ 0 →
        (e.ctx.fault = none → takeFault f s = (t.modCtx e.blk.ctx fun c => { c with fault := some (faultRec f s) }).modPath
          s.cur.blk s.cur.grp s.cur.path fun p => { p with stopped := true }) ∧
        (e.ctx.fault ≠ none → takeFault f s = (t.modCtx e.blk.ctx fun c => { c with more := c.more + 1 }).modPath
          s.cur.blk s.cur.grp s.cur.path fun p => { p with stopped := true })) ∧
      (e.ctx.tvec ≠ 0 → e.grp.handler &&& e.path.lanes = 0 →
        (∀ x, checkTarget e.ctx.tvec t = .error (.fault x) → takeFault f s = t.fatal x) ∧
        (checkTarget e.ctx.tvec t = .ok ((), u) → takeFault f s = t.modGrp s.cur.blk s.cur.grp fun g =>
          { g with
            epc := g.epc.mapIdx fun l x => if e.path.lanes.getLsbD l then e.path.pc else x
            handler := g.handler ||| e.path.lanes
            cause := (faultRec f s).code
            faddr := f.addr
            traps := g.traps.mapIdx fun l x =>
              if e.path.lanes.getLsbD l then e.path.cl.map (fun c => (c, e.path.pc)) else x
            paths := (g.paths.modify s.cur.path fun p =>
              { p with pc := e.ctx.tvec, cl := none, wait := none, entry := none, left := p.entry }).foldl joinPath [] })))

/-- R175: rounding a value that the format holds, zeros of either sign among them, gives that value, in every mode, and raises no
flag. -/
def Obligations.RoundExact : Prop :=
  ∀ (ty mode x : Nat) (n : Bool) (m : Nat) (q : Int), 4 ≤ ty → ty ≤ 7 → x < 2 ^ (fmtOf ty).width →
    (fmtOf ty).read x = .fin n m q → (fmtOf ty).round mode n m q = (x, 0)

/-- R226, R227: the special functions write their result and raise its flags. RM is accepted and changes nothing. R227: exact
results of the special functions at zeros, ones and infinities.
The model's choices here: where R227 names no exact result, which pattern a function returns (log 5). -/
def Obligations.SpecialFunctions : Prop :=
  (∀ (s : State) (e : Scene) (d a : BitVec 7) (t : BitVec 2) (w : Nat) (f : Fmt),
      w = tyWidth (4 + t.toNat) → f = fmtOf (4 + t.toNat) → selOk e.pfx.sel (64 / w) = true →
      e.hasVec d → e.reads a → e.readsMask e.pfx.mask → Issues s { mask := true, zm := true, rm := true } e →
      ∀ (i : Instr) (g : Nat → Nat × Nat), (i, g) ∈ ([(.exp2 d a t, f.exp2 (4 + t.toNat)), (.log2 d a t, f.log2 (4 + t.toNat)),
          (.rcp d a t, f.rcp (4 + t.toNat)), (.rsq d a t, f.rsq (4 + t.toNat)), (.sin d a t, f.sin (4 + t.toNat)),
          (.cos d a t, f.cos (4 + t.toNat)), (.sinpi d a t, f.sinpi (4 + t.toNat)), (.cospi d a t, f.cospi (4 + t.toNat)),
          (.tanh d a t, f.sigmoid .tanh (4 + t.toNat)), (.erf d a t, f.sigmoid .erf (4 + t.toNat))] :
          List (Instr × (Nat → Nat × Nat))) →
        ¬ traps e (vecList e d w (64 / w) (fun l j => g (e.sub a w l j))).2 →
        exec i s = .next (fpNext s e d w (64 / w) fun l j => g (e.sub a w l j))) ∧
  (∀ (ty : Nat) (f : Fmt), 4 ≤ ty → ty ≤ 7 → f = fmtOf ty →
      f.exp2 ty 0 = (f.one, 0) ∧ f.exp2 ty f.infBits = (f.infBits, 0) ∧ f.exp2 ty (f.infBits + f.signBit) = (0, 0) ∧
      f.log2 ty 0 = (f.infBits + f.signBit, fDivZero) ∧ f.log2 ty f.infBits = (f.infBits, 0) ∧ f.log2 ty f.one = (0, 0) ∧
      f.log2 ty (f.infBits + f.signBit) = (f.canonNan, fInvalid) ∧
      f.rcp ty 0 = (f.infBits, fDivZero) ∧ f.rcp ty f.signBit = (f.infBits + f.signBit, fDivZero) ∧
      f.rcp ty f.infBits = (0, 0) ∧ f.rcp ty f.one = (f.one, 0) ∧
      f.rsq ty 0 = (f.infBits, fDivZero) ∧ f.rsq ty f.infBits = (0, 0) ∧ f.rsq ty f.one = (f.one, 0) ∧
      f.sin ty 0 = (0, 0) ∧ f.sin ty f.signBit = (f.signBit, 0) ∧ f.sin ty f.infBits = (f.canonNan, fInvalid) ∧
      f.cos ty 0 = (f.one, 0) ∧ f.cos ty f.infBits = (f.canonNan, fInvalid) ∧
      f.sinpi ty f.one = (0, 0) ∧ f.cospi ty f.one = (f.one + f.signBit, 0) ∧
      f.sigmoid .tanh ty f.infBits = (f.one, 0) ∧ f.sigmoid .erf ty (f.infBits + f.signBit) = (f.one + f.signBit, 0))

/-! ### Conversions, lanes, masks and uniform registers -/

/-- R223, R224: CVT and CVTS convert a part of the wider side, element by element, under conv(); positions that are not
governed keep what they hold. R224: conv() between integers clamps, and from floating point to an integer clamps with
invalid; a NaN gives 0. R225: CVTB and CVTBX, on a shader core, with a format slot that the instruction accepts. -/
def Obligations.Conversions : Prop :=
  (∀ (s : State) (e : Scene) (d a : BitVec 7) (u : BitVec 1) (p : BitVec 2) (st t : BitVec 3) (t2 : BitVec 2),
      Issues s { mask := true, zm := true, rm := true } e → e.hasVec d → e.reads a → e.readsMask e.pfx.mask →
        ((4 ≤ st.toNat ∨ 4 ≤ t.toNat) → (u = 1 → st.toNat < 4 ∨ t.toNat < 4) →
          p.toNat < max (tyCount t.toNat) (tyCount st.toNat) / min (tyCount t.toNat) (tyCount st.toNat) →
          ¬ traps e (partList e d a p.toNat st.toNat t.toNat (convElem t.toNat st.toNat (decide (u = 1)) e.mode)).2 →
          exec (.cvt d a u p st t) s =
            .next (partNext s e d a p.toNat st.toNat t.toNat (convElem t.toNat st.toNat (decide (u = 1)) e.mode))) ∧
        (st.toNat < 4 → p.toNat < max (tyCount t2.toNat) (tyCount st.toNat) / min (tyCount t2.toNat) (tyCount st.toNat) →
          exec (.cvts d a u p st t2) s =
            .next (partNext s e d a p.toNat st.toNat t2.toNat (clampElem t2.toNat st.toNat (decide (u = 1)))))) ∧
  (∀ (dst src w mode x : Nat) (v : FVal) (n : Bool) (m : Nat) (q : Int), dst < 4 → src < 4 → x < 2 ^ tyWidth src → 0 < w →
      (clampElem dst src true x).1 = min x (2 ^ tyWidth dst - 1) ∧
      toInt (tyWidth dst) (clampElem dst src false x).1 =
        max (-((2 ^ (tyWidth dst - 1) : Nat) : Int)) (min (((2 ^ (tyWidth dst - 1) : Nat) : Int) - 1) (toInt (tyWidth src) x)) ∧
      floatToInt w true mode (.nan n) = (0, fInvalid) ∧ floatToInt w false mode (.nan n) = (0, fInvalid) ∧
      floatToInt w true mode (.inf false) = (2 ^ w - 1, fInvalid) ∧ floatToInt w true mode (.inf true) = (0, fInvalid) ∧
      (v = .fin n m q → (floatToInt w false mode v).1 < 2 ^ w ∧
        toInt w (floatToInt w false mode v).1 =
          max (-((2 ^ (w - 1) : Nat) : Int)) (min (((2 ^ (w - 1) : Nat) : Int) - 1) (roundInt mode n m q).1))) ∧
  (∀ (s : State) (e : Scene) (d a : BitVec 7) (sl : BitVec 3) (sw : Code) (vals : List FVal) (r : List Int × Nat × Nat),
      Issues s { mask := true, zm := true, rm := true } e → isControl e.core = false → e.hasVec d → e.readsMask e.pfx.mask →
      sw = slotOf e.grid.lrec sl.toNat → slotClean sw = true →
      (2 ≤ slotOut sw → slotOut sw ≤ 8 → e.reads a →
        (vals = (List.range 64).map fun i =>
          if e.path.lanes.getLsbD (i / 2) && e.mask.getLsbD (i / 2 * 8 + i % 2) then fp32.read (e.sub a 32 (i / 2) (i % 2))
          else .fin false 0 0) →
        r = bfpEncode vals (slotOut sw) (slotRnd sw) (slotSat sw) → ¬ traps e r.2.2 →
        exec (.cvtb d a sl) s = .next (wrote (flagged s e r.2.2) (putVec e d 1 (vecList e d 64 1 fun l _ =>
          (if l < slotOut sw then bfpBits (slotOut sw) r.1 / 2 ^ (64 * l) % 2 ^ 64 else r.2.1, 0)).1))) ∧
      (2 ≤ slotA sw → slotA sw ≤ 8 → e.readsAll a →
        exec (.cvtbx d a sl) s = .next (vecNext s e d 32 2 fun l j =>
          (fp32.convert 0 (bfpVal (slotA sw) ((laneOf (e.cross a) 31).toNat % 256)
            (bfpMant (slotA sw) (packNat 64 ((List.range (slotA sw)).map fun i => (laneOf (e.cross a) i).toNat))
              (2 * l + j)))).1)))

/-- R214, R215: SHFL, BCAST, PERMB and QSWP read an element of the lane and sub-element that their index names, 0 where it
names none. R216: DDX and DDY subtract across the quad, rounding and raising the flags of FSUB. R217, R218: ELECT sets one
bit, that of the lowest active lane that is no helper and whose bits of kA and MASK are set; VOTE writes the ballot of the
active lanes. -/
def Obligations.CrossLane : Prop :=
  (∀ (s : State) (e : Scene) (d a b : BitVec 7) (t : BitVec 3) (qb : BitVec 2) (w : Nat),
      w = tyWidth t.toNat → e.hasVec d → e.readsAll a → e.readsMask e.pfx.mask →
      (Issues s { mask := true, zm := true, sel := true } e → selOk e.pfx.sel (64 / w) = true →
        (e.reads b → exec (.shfl d a b t) s = .next (vecNext s e d w (64 / w) fun l j =>
          if e.subSel b w l j % 8 < 64 / w then
            elem w (e.subSel b w l j % 8) (laneOf (e.cross a) (laneIndex e.core (e.subSel b w l j % 256 / 8))) else 0)) ∧
        (e.reads b → e.hasUni b → exec (.bcast d a b t) s = .next (vecNext s e d w (64 / w) fun l _ =>
          if e.subSel b w l 0 % 8 < 64 / w then
            elem w (e.subSel b w l 0 % 8) (laneOf (e.cross a) (laneIndex e.core (e.subSel b w l 0 % 256 / 8))) else 0))) ∧
      (Issues s { mask := true, zm := true, sel := true } e → selOk e.pfx.sel 8 = true → e.reads b →
        exec (.permb d a b) s = .next (vecNext s e d 8 8 fun l j =>
          if 128 ≤ e.subSel b 8 l j then 0
          else elem 8 (e.subSel b 8 l j % 8) (laneOf (e.cross a) (laneIndex e.core l)))) ∧
      (Issues s { mask := true, zm := true } e → e.pfx.sel = 0 → qb.toNat < 3 →
        exec (.qswp d a qb t) s = .next (vecNext s e d w (64 / w) fun l j =>
          elem w j (laneOf (e.cross a) (laneIndex e.core (Nat.xor l (qb.toNat + 1))))))) ∧
  (∀ (s : State) (e : Scene) (d a : BitVec 7) (c : BitVec 1) (t : BitVec 2) (ty w : Nat),
      ty = 4 + t.toNat → w = tyWidth ty → Issues s { mask := true, zm := true, rm := true } e →
      e.hasVec d → e.readsAll a → e.readsMask e.pfx.mask →
      ∀ (i : Instr) (dx : Nat) (r : Nat → Nat → Nat × Nat), (i = .ddx d a c t ∧ dx = 1 ∨ i = .ddy d a c t ∧ dx = 2) →
        (r = fun l j => if c = 1
          then (fmtOf ty).sub e.mode (elem w j (laneOf (e.cross a) (l / 4 * 4 + dx))) (elem w j (laneOf (e.cross a) (l / 4 * 4)))
          else (fmtOf ty).sub e.mode (elem w j (laneOf (e.cross a) (Nat.lor l dx)))
            (elem w j (laneOf (e.cross a) (Nat.xor (Nat.lor l dx) dx)))) →
        ¬ traps e (vecList e d w (64 / w) r).2 → exec i s = .next (fpNext s e d w (64 / w) r)) ∧
  (∀ (s : State) (e : Scene) (k a : BitVec 4) (d : BitVec 7), Issues s { mask := true, zm := true } e →
      e.readsMask a.toNat → e.readsMask e.pfx.mask → e.readsMask k.toNat →
        (∃ v : BitVec 256, exec (.elect k a) s = .next (maskNext s k.toNat v) ∧
          ∀ l j, l < 32 → j < 8 → v.getLsbD (l * 8 + j) =
            if e.path.lanes.getLsbD l = false then (e.grp.kreg k.toNat).getLsbD (l * 8 + j)
            else if e.mask.getLsbD (l * 8) then
              decide (j = 0 ∧ (e.grp.helper.getLsbD l = false ∧ (e.grp.kreg a.toNat).getLsbD (l * 8) = true) ∧
                ∀ i < l, ¬ (e.path.lanes.getLsbD i = true ∧ e.grp.helper.getLsbD i = false ∧
                  (e.grp.kreg a.toNat).getLsbD (i * 8) = true ∧ e.mask.getLsbD (i * 8) = true))
            else if e.pfx.zm then false else (e.grp.kreg k.toNat).getLsbD (l * 8 + j)) ∧
        (e.hasUni d → ∃ v : Word, exec (.vote d a) s = .next (uniNext s d v) ∧
          ∀ l, l < 64 → v.getLsbD l =
            (decide (l < 32) && e.path.lanes.getLsbD l && (e.grp.kreg a.toNat).getLsbD (l * 8))))

/-- R183, R219, R220: REDI, SCANI and REDF over the enabled positions in order. -/
def Obligations.Reductions : Prop :=
  ∀ (s : State) (e : Scene) (d a : BitVec 7) (x : BitVec 1) (o : BitVec 3) (t : BitVec 2) (w : Nat)
    (l : List (Nat × Nat × Nat)),
    e.reads a → e.readsMask e.pfx.mask →
    (Issues s { mask := true, zm := true } e → w = tyWidth t.toNat → l = participants w e.path.lanes e.mask (e.operand a) →
      (e.hasUni d → exec (.redi d a o t) s = .next (uniNext s d
        (if o.toNat = 1 ∨ o.toNat = 2
          then BitVec.ofInt 64 (toInt w (l.foldl (fun acc y => redOp o.toNat w acc y.2.2) (redIdentity o.toNat w)))
          else BitVec.ofNat 64 (l.foldl (fun acc y => redOp o.toNat w acc y.2.2) (redIdentity o.toNat w))))) ∧
      (e.hasVec d → exec (.scani d a x o t) s = .next (vecNext s e d w (64 / w) fun ln j =>
        (((scanList o.toNat w (decide (x = 1)) (redIdentity o.toNat w) l).find?
          (fun y => decide (y.1 = ln ∧ y.2.1 = j))).map (·.2.2)).getD 0))) ∧
    (Issues s { mask := true, zm := true, rm := true } e → o.toNat < 5 → e.hasUni d → w = tyWidth (4 + t.toNat) →
      ∀ (vals : List Nat) (r : Nat × Nat),
        (vals = laneIds.flatMap fun ln => (List.range (64 / w)).map fun j =>
          if e.path.lanes.getLsbD ln && e.mask.getLsbD (ln * 8 + j) then e.sub a w ln j
          else redfIdentity (fmtOf (4 + t.toNat)) o.toNat) →
        (r = if o.toNat = 0 then treeSum (fmtOf (4 + t.toNat)) e.mode (Nat.log2 vals.length) vals
          else vals.tail.foldl (fun acc y =>
            (((fmtOf (4 + t.toNat)).pick (decide (o.toNat = 2 ∨ o.toNat = 4)) (decide (3 ≤ o.toNat)) acc.1 y).1,
              Nat.lor acc.2 ((fmtOf (4 + t.toNat)).pick (decide (o.toNat = 2 ∨ o.toNat = 4)) (decide (3 ≤ o.toNat)) acc.1 y).2))
            (vals.headD 0, 0)) →
        ¬ traps e r.2 → exec (.redf d a o t) s = .next (uniNext (flagged s e r.2) d (BitVec.ofNat 64 r.1)))

/-- R221: the mask instructions act on the bits of active lanes and keep the others. R221: mask registers to and from
uniform and vector registers, which four uniform registers must suit, and the counts of their bits. Writing k0 or s0 has no
effect. R222: DROPK keeps position (lane, j) when the mixed counter
falls below the probability. -/
def Obligations.Masks : Prop :=
  (∀ (s : State) (e : Scene) (d a b : BitVec 4), Issues s {} e → e.readsMask a.toNat → e.readsMask b.toNat →
      e.readsMask d.toNat → ∀ (i : Instr) (f : Bool → Bool → Bool), (i, f) ∈ ([(.kand d a b, (· && ·)), (.kor d a b, (· || ·)),
          (.kxor d a b, (· != ·)), (.knot d a, fun x _ => !x), (.kmov d a, fun x _ => x)] : List (Instr × (Bool → Bool → Bool))) →
        ∃ v : BitVec 256, exec i s = .next (maskNext s d.toNat v) ∧
          ∀ p, p < 256 → v.getLsbD p = if e.path.lanes.getLsbD (p / 8)
            then f ((e.grp.kreg a.toNat).getLsbD p) ((e.grp.kreg b.toNat).getLsbD p) else (e.grp.kreg d.toNat).getLsbD p) ∧
  (∀ (s : State) (e : Scene) (k : BitVec 4) (d : BitVec 7), Issues s {} e → e.readsMask k.toNat →
      (e.hasUni d → d.toNat % 4 ≠ 0 ∨ e.grid.lrec.uregs ≤ d.toNat - 96 + 3 →
        exec (.kmovS d k) s = .next (takeFault (illegal 3) s) ∧ exec (.kmovK k d) s = .next (takeFault (illegal 3) s)) ∧
      (e.hasUni d → d.toNat % 4 = 0 → d.toNat - 96 + 3 < e.grid.lrec.uregs →
        (d.toNat = 96 → exec (.kmovS d k) s = .next (wrote s id)) ∧
        (d.toNat ≠ 96 → exec (.kmovS d k) s = .next (wrote s (fun g => (List.range 4).foldl (fun g i =>
          (g.setSreg (d.toNat - 96 + i) (BitVec.ofNat 64 ((e.grp.kreg k.toNat).toNat / 2 ^ (64 * i)))).clean
            (96 + (d.toNat - 96 + i)) (fun _ => true)) g))) ∧
        ((∀ i < 4, e.clear (d.toNat + i) 0#32) →
          ∃ v : BitVec 256, exec (.kmovK k d) s = .next (maskNext s k.toNat v) ∧
            ∀ p, p < 256 → v.getLsbD p = if e.path.lanes.getLsbD (p / 8)
              then (e.grp.sreg (d.toNat - 96 + p / 64)).getLsbD (p % 64) else (e.grp.kreg k.toNat).getLsbD p)) ∧
      (e.hasVec d → exec (.kmovV d k) s = .next (wrote s fun g =>
        (g.setVreg d.toNat (laneIds.map fun l => if e.path.lanes.getLsbD l
          then BitVec.ofNat 64 ((e.grp.kreg k.toNat).toNat / 2 ^ (8 * l) % 256) else laneOf (g.vreg d.toNat) l)).clean d.toNat
            (fun l => e.path.lanes.getLsbD l))) ∧
      (e.hasUni d → exec (.kpop d k) s = .next (uniNext s d (BitVec.ofNat 64
        ((List.range 256).filter (fun i => e.path.lanes.getLsbD (i / 8) && (e.grp.kreg k.toNat).getLsbD i)).length)) ∧
        exec (.kfirst d k) s = .next (uniNext s d
          (match (List.range 256).find? (fun i => e.path.lanes.getLsbD (i / 8) && (e.grp.kreg k.toNat).getLsbD i) with
            | some i => BitVec.ofNat 64 i
            | none => BitVec.allOnes 64)))) ∧
  (∀ (s : State) (e : Scene) (k : BitVec 4) (a b : BitVec 7) (t : BitVec 3), Issues s { mask := true } e →
      e.reads a → e.readsUni b → e.readsMask e.pfx.mask → e.readsMask k.toNat →
        ∃ v : BitVec 256, exec (.dropk k a b t) s = .next (maskNext s k.toNat v) ∧
          ∀ l j, l < 32 → j < 8 → v.getLsbD (l * 8 + j) =
            if e.path.lanes.getLsbD l = true ∧ j < tyCount t.toNat ∧ e.mask.getLsbD (l * 8 + j) = true then
              decide ((mix (BitVec.ofNat 32 ((laneOf (e.operand a) l).toNat + j) ^^^
                mix (BitVec.ofNat 32 ((e.uni b).toNat / 2 ^ 32))) >>> 16).toNat < (e.uni b).toNat % 2 ^ 16)
            else (e.grp.kreg k.toNat).getLsbD (l * 8 + j)) ∧
  (∀ (g : Group) (v : BitVec 256) (x : Word), g.setKreg 0 v = g ∧ g.setSreg 0 x = g)

/-- R207, R208: the uniform arithmetic instructions, modulo 2^64; writing s0 has no effect. R209, R210, R43: READLN,
WRITELN, SRD and SMOVW. -/
def Obligations.UniformInstructions : Prop :=
  (∀ (s : State) (e : Scene) (d a b : BitVec 7) (c : BitVec 3) (i : BitVec 12), Issues s {} e →
      e.hasUni d → e.readsUni a → e.readsUni b →
        exec (.sadd d a b) s = .next (uniNext s d (e.uni a + e.uni b)) ∧
        exec (.ssub d a b) s = .next (uniNext s d (e.uni a - e.uni b)) ∧
        exec (.smul d a b) s = .next (uniNext s d (e.uni a * e.uni b)) ∧
        exec (.smulh d a b) s = .next (uniNext s d (BitVec.ofInt 64 ((e.uni a).toInt * (e.uni b).toInt / 2 ^ 64))) ∧
        exec (.sand d a b) s = .next (uniNext s d (e.uni a &&& e.uni b)) ∧
        exec (.sor d a b) s = .next (uniNext s d (e.uni a ||| e.uni b)) ∧
        exec (.sxor d a b) s = .next (uniNext s d (e.uni a ^^^ e.uni b)) ∧
        exec (.sshl d a b) s = .next (uniNext s d (e.uni a <<< (e.uni b).toNat)) ∧
        exec (.sshr d a b) s = .next (uniNext s d (e.uni a >>> (e.uni b).toNat)) ∧
        exec (.ssar d a b) s = .next (uniNext s d ((e.uni a).sshiftRight (e.uni b).toNat)) ∧
        exec (.smov d a) s = .next (uniNext s d (e.uni a)) ∧
        exec (.scmp d a b c) s = .next (uniNext s d (if (match c.toNat with
          | 0 => decide (e.uni a = e.uni b)
          | 1 => decide (e.uni a ≠ e.uni b)
          | 2 => decide ((e.uni a).toInt < (e.uni b).toInt)
          | 3 => decide ((e.uni b).toInt ≤ (e.uni a).toInt)
          | 4 => decide ((e.uni a).toNat < (e.uni b).toNat)
          | 5 => decide ((e.uni b).toNat ≤ (e.uni a).toNat)
          | 6 => decide ((e.uni a).toInt ≤ (e.uni b).toInt)
          | _ => decide ((e.uni b).toInt < (e.uni a).toInt)) then 1 else 0)) ∧
        exec (.saddi d a i) s = .next (uniNext s d (e.uni a + i.signExtend 64)) ∧
        exec (.ssel d a b) s = .next (if e.uni a ≠ 0 then uniNext s d (e.uni b) else wrote s id)) ∧
  (∀ (s : State) (e : Scene) (d a b : BitVec 7) (z : BitVec 1) (p : BitVec 2) (i : BitVec 16), Issues s {} e →
      (e.hasUni d → e.hasVec a → e.readsUni b → e.clear a.toNat (BitVec.ofNat 32 (2 ^ ((e.uni b).toNat % 32))) →
        exec (.readln d a b) s = .next (uniNext s d (laneOf (e.grp.vreg a.toNat) ((e.uni b).toNat % 32)))) ∧
      (e.hasVec d → e.readsUni a → e.readsUni b →
        exec (.writeln d a b) s = .next (wrote s fun g =>
          (g.setVreg d.toNat (laneIds.map fun l => if l = (e.uni b).toNat % 32 ∧ e.path.lanes.getLsbD l = true then e.uni a
            else laneOf (g.vreg d.toNat) l)).clean d.toNat
              (fun l => decide (l = (e.uni b).toNat % 32 ∧ e.path.lanes.getLsbD ((e.uni b).toNat % 32) = true)))) ∧
      (a.toNat < 18 → e.hasVec d → exec (.srd d a) s = .next (wrote s fun g =>
        (g.setVreg d.toNat (laneIds.map fun l => if e.path.lanes.getLsbD l
          then specialValue s e.blk e.grp e.grid e.ctx s.cur.grp a.toNat l else laneOf (g.vreg d.toNat) l)).clean d.toNat
            (fun l => e.path.lanes.getLsbD l))) ∧
      (a.toNat < 18 → perLane a.toNat = false → e.hasUni d →
        exec (.srd d a) s = .next (uniNext s d (specialValue s e.blk e.grp e.grid e.ctx s.cur.grp a.toNat 0))) ∧
      (e.hasUni d → (z = 0 → e.clear d.toNat 0#32) →
        ∃ v : Word, exec (.smovw d z p i) s = .next (uniNext s d v) ∧ ∀ n, n < 64 → v.getLsbD n =
          if 16 * p.toNat ≤ n ∧ n < 16 * p.toNat + 16 then i.getLsbD (n - 16 * p.toNat)
          else if z = 1 then false else (e.uni d).getLsbD n))

/-! ### Loads, stores, atomics and fences -/

/-- R44, R77, R78, R82: LD and LDU read the bytes at the homes of their lines, with nothing buffered or cached on the way:
each enabled lane's register takes the bytes, extended; memory and every other register are unchanged. -/
def Obligations.Loads : Prop :=
  ∀ (s : State) (e : Scene) (d a : BitVec 7) (sz : BitVec 3) (pol : BitVec 2) (o : BitVec 7) (n : Nat),
    MemOk s → Quiet s e → Cold s e → pol ≠ 3 → n = sizeBytes sz.toNat → e.pfx.ord < 2 → Scoped s e →
    (∀ (tr : Nat → Tr), Issues s { mask := true, zm := true, op4 := true, mem := true } e → e.hasVec d →
      (sz = 7 → d.toNat % 2 = 0 ∧ e.hasVec (d + 1)) → e.reads a → e.readsMask e.pfx.mask →
      (∀ l, e.accesses true l = true → (effAddr (laneOf (e.operand a) l) o n).toNat % n = 0 ∧
        Reaches s e (effAddr (laneOf (e.operand a) l) o n) .load (tr l)) →
      ∃ t, exec (.ld d a sz pol o) s = .next t ∧ t.mem = s.mem ∧ SameBut s t fun g =>
        let g := loaded e d.toNat (fun l => extend sz.toNat (getBytes s.mem (tr l).pa n)) g
        if sz = 7 then loaded e (d.toNat + 1) (fun l => BitVec.ofNat 64 (getBytes s.mem (tr l).pa n / 2 ^ 64)) g else g) ∧
    (∀ (tr : Tr), Issues s { op4 := true, mem := true } e → e.hasUni d →
      (sz = 7 → d.toNat % 2 = 0 ∧ e.hasUni (d + 1)) → e.readsUni a → (effAddr (e.uni a) o n).toNat % n = 0 →
      Reaches s e (effAddr (e.uni a) o n) .load tr →
      ∃ t, exec (.ldu d a sz pol o) s = .next t ∧ t.mem = s.mem ∧ SameBut s t fun g =>
        let g := (g.setSreg (d.toNat - 96) (extend sz.toNat (getBytes s.mem tr.pa n))).clean d.toNat (fun _ => true)
        if sz = 7 then (g.setSreg (d.toNat - 96 + 1) (BitVec.ofNat 64 (getBytes s.mem tr.pa n / 2 ^ 64))).clean
          (d.toNat + 1) (fun _ => true) else g)

/-- R77, R83, R84: ST and STU store the low bytes of their operand, in ascending lane order, so that the issuing core sees
them; no other byte it sees changes, no register changes, and helper lanes store nothing (R79). -/
def Obligations.Stores : Prop :=
  ∀ (s : State) (e : Scene) (d a : BitVec 7) (sz : BitVec 3) (pol : BitVec 2) (o : BitVec 7) (n : Nat) (v : Nat → Nat),
    MemOk s → Quiet s e → pol ≠ 3 → (sz.toNat % 2 = 0 ∨ sz = 7) → n = sizeBytes sz.toNat →
    (e.pfx.ord = 0 ∨ e.pfx.ord = 2) → e.pfx.scope ≠ 7 → e.pfx.op4 = 0x7F →
    e.reads d → (sz = 7 → d.toNat % 2 = 0 ∧ e.reads (d + 1)) →
    (v = fun l => (laneOf (e.operand d) l).toNat + if sz = 7 then 2 ^ 64 * (laneOf (e.operand (d + 1)) l).toNat else 0) →
    (∀ (tr : Nat → Tr), Issues s { mask := true, op4 := true, mem := true } e → e.reads a → e.readsMask e.pfx.mask →
      (∀ l, e.accesses false l = true → (effAddr (laneOf (e.operand a) l) o n).toNat % n = 0 ∧
        Reaches s e (effAddr (laneOf (e.operand a) l) o n) .store (tr l)) →
      ∃ t, exec (.st d a sz pol o) s = .next t ∧ SameBut s t id ∧ ∀ x, seen t e.core x =
        ((laneIds.filter (e.accesses false)).foldl (fun m l => stored m (tr l).pa n (v l)) (seen s e.core)) x) ∧
    (∀ (tr : Tr), Issues s { op4 := true, mem := true } e → e.hasUni d → (sz = 7 → e.hasUni (d + 1)) → e.readsUni a →
      e.path.lanes &&& ~~~ e.grp.helper ≠ 0 → (effAddr (e.uni a) o n).toNat % n = 0 →
      Reaches s e (effAddr (e.uni a) o n) .store tr →
      ∃ t, exec (.stu d a sz pol o) s = .next t ∧ SameBut s t id ∧ t.mem = s.mem ∧
        ∀ x, seen t e.core x = stored (seen s e.core) tr.pa n (v 0) x)

/-- R85: LDS and STS access the block's scratchpad at aligned offsets within it. R77, R78: a load or store whose lowest accessing
lane is not aligned, or a uniform one that is not, raises the misalignment fault before any access is performed. -/
def Obligations.ScratchpadAndAlignment : Prop :=
  (∀ (s : State) (e : Scene) (d a : BitVec 7) (sz : BitVec 3) (o : BitVec 7) (n : Nat) (off v : Nat → Nat),
      n = sizeBytes sz.toNat → (e.pfx.scope < 3 ∨ e.pfx.scope = 5) → e.reads a → e.readsMask e.pfx.mask →
      (off = fun l => (effAddr (laneOf (e.operand a) l) o n).toNat) →
      (Issues s { mask := true, zm := true, mem := true } e → e.pfx.ord < 2 → e.hasVec d →
        (∀ l, e.accesses true l = true → off l % n = 0 ∧ off l + n ≤ e.blk.scratchSize) →
        (sz = 7 → d.toNat % 2 = 0 ∧ e.hasVec (d + 1)) → e.blk.scratchPoison = [] →
        exec (.lds d a sz o) s = .next (wrote s fun g =>
          let g := loaded e d.toNat (fun l => extend sz.toNat (getBytes e.blk.scratch (off l) n)) g
          if sz = 7 then loaded e (d.toNat + 1) (fun l => BitVec.ofNat 64 (getBytes e.blk.scratch (off l) n / 2 ^ 64)) g
          else g)) ∧
      (Issues s { mask := true, mem := true } e → (e.pfx.ord = 0 ∨ e.pfx.ord = 2 ∧ Quiet s e) →
        (∀ l, e.accesses false l = true → off l % n = 0 ∧ off l + n ≤ e.blk.scratchSize) →
        (sz.toNat % 2 = 0 ∨ sz = 7) → e.reads d → (sz = 7 → d.toNat % 2 = 0 ∧ e.reads (d + 1)) →
        (v = fun l => (laneOf (e.operand d) l).toNat + if sz = 7 then 2 ^ 64 * (laneOf (e.operand (d + 1)) l).toNat else 0) →
        exec (.sts d a sz o) s = .next (wrote (s.modBlk s.cur.blk fun b =>
          (laneIds.filter (e.accesses false)).foldl (fun b l => b.scratchPut (off l) n (v l)) b) id))) ∧
  (∀ (s : State) (e : Scene) (d a : BitVec 7) (sz : BitVec 3) (pol : BitVec 2) (o : BitVec 7) (n l : Nat) (va : Word),
      pol ≠ 3 → n = sizeBytes sz.toNat → (sz = 7 → d.toNat % 2 = 0) →
      (va = effAddr (laneOf (e.operand a) l) o n → va.toNat % n ≠ 0 → e.reads a → e.readsMask e.pfx.mask →
        (e.accesses true l = true → (∀ i < l, e.accesses true i = false) → e.pfx.ord < 2 → e.hasVec d →
          (sz = 7 → e.hasVec (d + 1)) →
          (Issues s { mask := true, zm := true, op4 := true, mem := true } e → Scoped s e →
            exec (.ld d a sz pol o) s = .next (takeFault { accFlt 6 0 .load va 0 with lane := l } s)) ∧
          (Issues s { mask := true, zm := true, mem := true } e → (e.pfx.scope < 3 ∨ e.pfx.scope = 5) →
            exec (.lds d a sz o) s = .next (takeFault { accFlt 6 0 .load va 0 with lane := l } s))) ∧
        (e.accesses false l = true → (∀ i < l, e.accesses false i = false) → (e.pfx.ord = 0 ∨ e.pfx.ord = 2) → e.reads d →
          (sz.toNat % 2 = 0 ∨ sz = 7 ∧ e.reads (d + 1)) →
          (Issues s { mask := true, op4 := true, mem := true } e → e.pfx.scope ≠ 7 → e.pfx.op4 = 0x7F →
            exec (.st d a sz pol o) s = .next (takeFault { accFlt 6 0 .store va 0 with lane := l } s)) ∧
          (Issues s { mask := true, mem := true } e → (e.pfx.scope < 3 ∨ e.pfx.scope = 5) →
            exec (.sts d a sz o) s = .next (takeFault { accFlt 6 0 .store va 0 with lane := l } s)))) ∧
      (va = effAddr (e.uni a) o n → va.toNat % n ≠ 0 → Issues s { op4 := true, mem := true } e → e.readsUni a → e.hasUni d →
        (sz = 7 → e.hasUni (d + 1)) →
        (e.pfx.ord < 2 → Scoped s e → exec (.ldu d a sz pol o) s = .next (takeFault (accFlt 6 0 .load va 0) s)) ∧
        ((e.pfx.ord = 0 ∨ e.pfx.ord = 2) → e.pfx.scope ≠ 7 → e.pfx.op4 = 0x7F → (sz.toNat % 2 = 0 ∨ sz = 7) →
          e.works → e.readsUni d → (sz = 7 → e.readsUni (d + 1)) →
          exec (.stu d a sz pol o) s = .next (takeFault (accFlt 6 0 .store va 0) s))))

/-- R89 to R92: the value each atomic stores, or that it stores nothing. R88, R93: an atomic reads and writes its word at home
once for each enabled lane, in ascending lane order; helper lanes make no access and take 0. -/
def Obligations.Atomics : Prop :=
  (∀ (w old b x c : Nat), w = 32 ∨ w = 64 → old < 2 ^ w → b < 2 ^ w →
    atomicNew 0 w old b x c = some ((old + b) % 2 ^ w) ∧ atomicNew 1 w old b x c = some ((old + 2 ^ w - b) % 2 ^ w) ∧
    (∃ y, atomicNew 2 w old b x c = some y ∧ (y = old ∨ y = b) ∧ toInt w y ≤ toInt w old ∧ toInt w y ≤ toInt w b) ∧
    (∃ y, atomicNew 3 w old b x c = some y ∧ (y = old ∨ y = b) ∧ toInt w old ≤ toInt w y ∧ toInt w b ≤ toInt w y) ∧
    atomicNew 4 w old b x c = some (min old b) ∧ atomicNew 5 w old b x c = some (max old b) ∧
    atomicNew 6 w old b x c = some (old &&& b) ∧ atomicNew 7 w old b x c = some (old ||| b) ∧
    atomicNew 8 w old b x c = some (old ^^^ b) ∧ atomicNew 9 w old b x c = some b ∧
    atomicNew 10 w old b x c = (if old = c then some b else none) ∧
    atomicNew 11 w old b x c = some (if b ≤ old then 0 else old + 1) ∧
    atomicNew 12 w old b x c = (if x ≤ old then none else some (min (old + b) x)) ∧
    atomicNew 13 w old b x c = some ((if w = 32 then fp32 else fp64).add 0 old b).1) ∧
  (∀ (s : State) (e : Scene) (d a b : BitVec 7) (o : BitVec 4) (r : BitVec 1) (tr : Nat → Tr) (w n : Nat) (i : Instr)
    (r1 : List Cell × List (Nat × Nat)),
    (w = 32 ∧ i = .atomW d a b o r ∨ w = 64 ∧ i = .atomD d a b o r) → n = w / 8 →
    Issues s { mask := true, zm := decide (r = 1), op4 := true, mem := true } e → MemOk s → Quiet s e → o.toNat < 14 →
    (r = 0 → d = 0) → (r = 1 → e.hasVec d) → e.reads a → e.reads b → e.readsMask e.pfx.mask → e.pfx.ord < 4 →
    (o.toNat ≠ 10 → Scoped s e) → (o.toNat = 10 → e.pfx.scope ≠ 7 ∧ e.pfx.op4 ≠ 0x7F ∧ e.reads e.op4) →
    (o.toNat = 12 ∧ w = 64 → b.toNat % 2 = 0 ∧ e.reads (b + 1)) →
    (∀ l, e.accesses false l = true → (laneOf (e.operand a) l).toNat % n = 0 ∧
      Reaches s e (laneOf (e.operand a) l) .atomic (tr l)) →
    r1 = ((laneIds.filter (e.accesses false)).foldl (fun x l =>
      (match atomicNew o.toNat w (getBytes x.1 (tr l).pa n) ((laneOf (e.operand b) l).toNat % 2 ^ w)
          (if w = 64 then (laneOf (e.operand (if o.toNat = 12 then b + 1 else b)) l).toNat
            else (laneOf (e.operand b) l).toNat / 2 ^ 32)
          ((laneOf (e.operand (if o.toNat = 10 then e.op4 else b)) l).toNat % 2 ^ w) with
        | some new => putBytes x.1 (tr l).pa n new
        | none => x.1, x.2 ++ [(l, getBytes x.1 (tr l).pa n)])) (s.mem, [])) →
      ∃ t, exec i s = .next t ∧ (∀ x, getByte t.mem x = getByte r1.1 x) ∧ SameBut s t fun g =>
        if r = 1 then loaded e d.toNat (fun l => match r1.2.find? (fun y => y.1 = l) with
          | some y => BitVec.ofNat 64 y.2
          | none => 0) g else g)

/-- R100, R101: FENCE with nothing buffered; with K it waits for the engines' commands. An acquire empties the L1 and, from
package scope on, moves the replica generation; a remote one empties the named core's L1 too. R102, R103: CMNT on the lines its lanes name: a zeroing kind writes zeros to
them, no other kind changes memory. -/
def Obligations.FenceAndMaintenance : Prop :=
  (∀ (s : State) (e : Scene) (k : BitVec 1), Issues s { op4 := true, mem := true } e → Quiet s e → Scoped s e →
      1 ≤ e.pfx.ord → e.pfx.ord ≤ 3 → (k = 1 → 2 ≤ e.pfx.ord → EnginesDone s e) →
        exec (.fence k) s = .next (wrote (if e.pfx.ord % 2 = 1 then acquired (promoted s e) e.core e.pfx.scope else s) id)) ∧
  (∀ (s : State) (e : Scene) (a : BitVec 7) (k : BitVec 3) (tr : Nat → Tr) (named : Nat → Prop),
      Issues s {} e → MemOk s → Quiet s e → Cold s e → k.toNat < 6 → e.reads a →
      (named = fun l => if isVec a then l < 32 ∧ e.path.lanes.getLsbD l = true ∧ (2 ≤ k.toNat → e.grp.helper.getLsbD l = false)
        else l = 0 ∧ (2 ≤ k.toNat → e.path.lanes &&& ~~~ e.grp.helper ≠ 0)) →
      (∀ l, named l → Reaches s e (BitVec.ofNat 64 ((laneOf (e.operand a) l).toNat / 128 * 128))
        (if k = 5 then .store else .load) (tr l)) →
        ∃ t, exec (.cmnt a k) s = .next t ∧ SameBut s t id ∧ (k ≠ 5 → t.mem = s.mem) ∧
          (k = 5 → ∀ x, ((∃ l, named l ∧ (tr l).pa / 128 = x / 128) → getByte t.mem x = 0) ∧
            (¬ (∃ l, named l ∧ (tr l).pa / 128 = x / 128) → getByte t.mem x = getByte s.mem x)))

/-- R101, R259: after a release, no earlier store of the group is in the core's write-combining buffer; from scope 5 on none is
on its way home, and at scopes 3 and 4 none that no replica takes. After the remote side of an acquire, the named core
has nothing buffered, nothing on its way home and an empty L1.
The model's choices here: a release performs its stores in one step (log 94). -/
def Obligations.ReleaseDrains : Prop :=
  (∀ (s t : State) (core blk grp scope : Nat), 2 ≤ scope → releaseFor core blk grp scope s = .ok ((), t) →
    (∀ w ∈ (t.coreAt core).wc, (blk, grp) ∉ w.groups) ∧ (5 ≤ scope → ∀ f ∈ t.fwd, (blk, grp) ∉ f.groups) ∧
    (3 ≤ scope → ∀ f ∈ t.fwd, (blk, grp) ∈ f.groups → s.effCl (128 * f.line) f.pte < 2 ∧ s.migrating f.line = false)) ∧
  (∀ (s t : State) (core : Nat), promote core s = .ok ((), t) →
    (t.coreAt core).wc = [] ∧ (t.coreAt core).l1 = [] ∧ ∀ f ∈ t.fwd, f.core ≠ core)

/-! ### Compare-and-swap, waits and control -/

/-- R105, R108, R109: MCAS compares every entry at home and, when all match, writes every new value as one event; otherwise it
writes none of them, and with WBO it stores what it observed to its block. Its result word is written; a path of helper
lanes makes no access and takes 0. Each line stands once in the slices, as MemoryKept keeps it. -/
def Obligations.MultiCompareSwap : Prop :=
  ∀ (s u : State) (e : Scene) (d a : BitVec 7) (es : List McasEntry) (wb : List Tr) (obs : List Nat),
    Issues s {} e → e.hasUni d → e.readsUni a →
    (¬ e.works → exec (.mcas d a) s = .next (uniNext s d 0)) ∧
    (e.works → e.path.wait = none → Quiet s e → mcasPlan (e.uni a) s = .ok ((es, wb), u) →
      u.blocks = s.blocks → u.cur = s.cur → u.grids = s.grids → u.ctxs.length = s.ctxs.length → Quiet u e → MemOk u →
      SlicesOk u →
      (∀ en ∈ es, u.homeGone (en.tr.pa / 128) = none ∧ (en.bytes = 4 ∨ en.bytes = 8) ∧ en.tr.pa % en.bytes = 0 ∧
        en.new < 256 ^ en.bytes) →
      es.Pairwise (fun x y => x.tr.pa + x.bytes ≤ y.tr.pa ∨ y.tr.pa + y.bytes ≤ x.tr.pa) →
      (∀ tr ∈ wb, u.homeGone (tr.pa / 128) = none ∧ tr.pa % 8 = 0) → wb.Pairwise (fun x y => x.pa ≠ y.pa) →
      obs = es.map (fun en => getBytes u.mem en.tr.pa en.bytes) →
      ∃ t, exec (.mcas d a) s = .next (uniNext t d (mcasResult t es (mismatch es obs) (dieOf e.core))) ∧
        t.blocks = s.blocks ∧ t.cur = s.cur ∧
        ((∃ x ∈ es.zip obs, x.1.expected ≠ x.2) →
          (∀ x ∈ wb.zip obs, getBytes t.mem x.1.pa 8 = x.2) ∧
          ∀ x, (∀ tr ∈ wb, ¬ (tr.pa ≤ x ∧ x < tr.pa + 8)) → getByte t.mem x = getByte u.mem x) ∧
        ((∀ x ∈ es.zip obs, x.1.expected = x.2) → (∀ en ∈ es, getBytes t.mem en.tr.pa en.bytes = en.new) ∧
          ∀ x, (∀ en ∈ es, ¬ (en.tr.pa ≤ x ∧ x < en.tr.pa + en.bytes)) → getByte t.mem x = getByte u.mem x))

/-- R96, R97: WAITCMP returns the word when its condition holds, or with a timeout of 0; a later issue returns the value
that made it true. R97: otherwise the path parks at the word, with a monitor entry at the line's slice, or polling where the
line's cache level is 3 or the slice has no entry free. R295:
WAITT writes the timebase once its deadline has come, and waits until then. -/
def Obligations.Waits : Prop :=
  (∀ (s : State) (e : Scene) (d a b : BitVec 7) (c : BitVec 3) (tr : Tr) (x : Word) (w : CmpWait),
      Issues s { op4 := true, mem := true } e → e.readsUni d → e.readsUni a → b.toNat % 2 = 0 → e.readsUni b →
      e.readsUni (b + 1) → e.pfx.ord < 2 → Scoped s e →
      (MemOk s → Quiet s e → (e.uni a).toNat % 8 = 0 → Reaches s e (e.uni a) .load tr → (∀ v, e.path.wait ≠ some (.cmp v)) →
        x = BitVec.ofNat 64 (getBytes s.mem tr.pa 8) → (cmpHolds c (e.uni b) (e.uni (b + 1)) x = true ∨ e.uni d = 0) →
        ∃ t, exec (.waitcmp d a b c) s = .next t ∧ t.mem = s.mem ∧ t.blocks = (uniNext s d x).blocks) ∧
      (e.path.wait = some (.cmp w) → w.got = some x →
        ∃ t, exec (.waitcmp d a b c) s = .next t ∧ t.mem = s.mem ∧ t.blocks = (uniNext s d x).blocks ∧
          ∀ m ∈ t.monitors, ¬ (m.blk = s.cur.blk ∧ m.grp = s.cur.grp ∧ m.lanes = e.path.lanes))) ∧
  (∀ (s : State) (e : Scene) (d a b : BitVec 7) (c : BitVec 3) (tr : Tr) (x : Word),
      Issues s { op4 := true, mem := true } e → e.readsUni d → e.readsUni a → b.toNat % 2 = 0 → e.readsUni b →
      e.readsUni (b + 1) → e.pfx.ord < 2 → Scoped s e → MemOk s → Quiet s e →
      (e.uni a).toNat % 8 = 0 → Reaches s e (e.uni a) .load tr → e.path.wait = none → s.effCl tr.pa tr.pte < 3 →
      x = BitVec.ofNat 64 (getBytes s.mem tr.pa 8) → cmpHolds c (e.uni b) (e.uni (b + 1)) x = false → e.uni d ≠ 0 →
        ∃ t w, exec (.waitcmp d a b c) s = .next t ∧ t.blocks = (parkedAt s (.cmp w)).blocks ∧ w.got = none ∧ w.last = x ∧
          w.polling = false ∧
          (⟨tr.pa, c, e.uni b, e.uni (b + 1), s.cur.blk, s.cur.grp, e.path.lanes⟩ : Monitor) ∈ t.monitors) ∧
  (∀ (s : State) (e : Scene) (d a b : BitVec 7) (c : BitVec 3) (tr : Tr) (x : Word),
      Issues s { op4 := true, mem := true } e → e.readsUni d → e.readsUni a → b.toNat % 2 = 0 → e.readsUni b →
      e.readsUni (b + 1) → e.pfx.ord < 2 → Scoped s e → MemOk s → s.clamps = [] → s.migrs = [] → s.poison = [] → s.fwd = [] →
      (s.coreAt e.core).wc = [] → e.grp.owed = none → (s.effCl tr.pa tr.pte = 3 ∨ s.monitorFree (tr.pa / 128) = false) →
      (s.slices (tr.pa / 128) tr.pte (lineOf s.mem (tr.pa / 128)) false).isSome = true →
      (e.uni a).toNat % 8 = 0 → Reaches s e (e.uni a) .load tr → e.path.wait = none →
      x = BitVec.ofNat 64 (getBytes s.mem tr.pa 8) → cmpHolds c (e.uni b) (e.uni (b + 1)) x = false → e.uni d ≠ 0 →
        ∃ t w, exec (.waitcmp d a b c) s = .next t ∧ t.blocks = (parkedAt s (.cmp w)).blocks ∧ w.got = none ∧ w.last = x ∧
          w.polling = true ∧ w.since = s.time ∧ t.monitors = s.monitors) ∧
  (∀ (s : State) (e : Scene) (d a : BitVec 7) (t : Nat), Issues s {} e → e.hasUni d → e.readsUni a →
      (t = match e.path.wait with
        | some (.time x) => x
        | _ => (e.uni a).toNat) →
        (t ≤ s.time.toNat → exec (.waitt d a) s = .next (uniNext s d s.time)) ∧
        (s.time.toNat < t → exec (.waitt d a) s = .next (parkedAt s (.time t))))

/-- R269, R270: BRA and CALL send each lane by its guard to the target, which must be a clause that can be fetched, or to
the next word; CALL sets the link register of the lanes that go. R271, R273, R274: JMP and RET send each lane to its own
target; RETGET and RETSET move the link register; NOP and YIELD go to the next clause header, and the entry that holds the lanes of a
YIELD has a new age counter and its yield mark. -/
def Obligations.BranchesAndJumps : Prop :=
  (∀ (s u : State) (e : Scene) (c : BitVec 4) (r : BitVec 5) (i : BitVec 17) (pc target : Word), Issues s {} e →
      c.toNat < 7 → (c = 0 → r = 0) → (3 ≤ c.toNat → r.toNat < 16) → e.guardReads c.toNat r.toNat →
      pc = s.cur.wordPc e.path → target = pc + 4 * i.signExtend 64 →
      Fetches s (if (lanesOf e.path.lanes).any (e.guard c.toNat r.toNat) then [target] else []) u →
        exec (.bra c r i) s = .next (moved u e fun l => if e.guard c.toNat r.toNat l then target else pc + 4) ∧
        exec (.call c r i) s = .next (moved
          (u.modGrp s.cur.blk s.cur.grp fun g =>
            { g with lr := g.lr.mapIdx fun l x => if e.path.lanes.getLsbD l && e.guard c.toNat r.toNat l then pc + 4 else x })
          e fun l => if e.guard c.toNat r.toNat l then target else pc + 4)) ∧
  (∀ (s u : State) (e : Scene) (a d : BitVec 7), Issues s {} e →
      (e.reads a → Fetches s (distinct ((lanesOf e.path.lanes).map (laneOf (e.operand a)))) u →
        exec (.jmp a) s = .next (moved u e (laneOf (e.operand a)))) ∧
      (Fetches s (distinct ((lanesOf e.path.lanes).map (laneOf e.grp.lr))) u →
        exec .ret s = .next (moved u e (laneOf e.grp.lr))) ∧
      (e.hasVec d → exec (.retGet d) s = .next (moved (s.modGrp s.cur.blk s.cur.grp fun g =>
        (g.setVreg d.toNat (laneIds.map fun l => if e.path.lanes.getLsbD l then laneOf e.grp.lr l
          else laneOf (g.vreg d.toNat) l)).clean d.toNat (fun l => e.path.lanes.getLsbD l)) e (fun _ => nextHeader s e))) ∧
      (e.reads a → exec (.retSet a) s = .next (moved (s.modGrp s.cur.blk s.cur.grp fun g =>
        { g with lr := g.lr.mapIdx fun l x => if e.path.lanes.getLsbD l then laneOf (e.operand a) l else x }) e
          (fun _ => nextHeader s e))) ∧
      exec .nop s = .next (moved s e (fun _ => nextHeader s e)) ∧
      exec .yield s = .next ((moved s e (fun _ => nextHeader s e)).settle.markYield e.path.lanes) ∧
      (∀ g, ((moved s e (fun _ => nextHeader s e)).settle.markYield e.path.lanes).grpAt s.cur.blk s.cur.grp = some g →
        ∀ q ∈ g.paths, q.lanes &&& e.path.lanes ≠ 0 → q.ctr = 0 ∧ q.yieldAt = some s.time))

/-- R263: after lanes have moved, each active lane stands at its own target, and on one path alone when the group's paths shared
no lane before; the lanes of the other paths stand where they stood. Entering the issue table, which ends every step, leaves each
lane at its address, on one path. -/
def Obligations.LanesMove : Prop :=
  ∀ (s : State) (e : Scene) (tgt : Nat → Word), Issues s {} e → ∃ g,
    (moved s e tgt).grpAt s.cur.blk s.cur.grp = some g ∧
    (∀ l, l < 32 → e.path.lanes.getLsbD l = true → ∃ q ∈ g.paths, q.lanes.getLsbD l = true ∧ q.pc = tgt l) ∧
    (∀ q ∈ e.grp.paths.eraseIdx s.cur.path, ∀ l, l < 32 → q.lanes.getLsbD l = true →
      ∃ q' ∈ g.paths, q'.lanes.getLsbD l = true ∧ q'.pc = q.pc) ∧
    (∀ q ∈ g.paths, ∀ l, q.lanes.getLsbD l = true → ∃ q' ∈ e.grp.paths, q'.lanes.getLsbD l = true) ∧
    (e.grp.paths.Pairwise (fun p q => p.lanes &&& q.lanes = 0) →
      g.paths.Pairwise (fun p q => p.lanes &&& q.lanes = 0) ∧
      ∀ q ∈ g.paths, ∀ l, e.path.lanes.getLsbD l = true → q.lanes.getLsbD l = true → q.pc = tgt l) ∧
    (∀ (blk grp : Nat) (k : Group), s.grpAt blk grp = some k → k.paths.Pairwise (fun p q => p.lanes &&& q.lanes = 0) →
      ∃ k', s.settle.grpAt blk grp = some k' ∧ k'.paths.Pairwise (fun p q => p.lanes &&& q.lanes = 0) ∧
        ∀ l pc, (∃ q ∈ k.paths, q.lanes.getLsbD l = true ∧ q.pc = pc) ↔ ∃ q ∈ k'.paths, q.lanes.getLsbD l = true ∧ q.pc = pc)

/-- R272: the lanes of an EXIT never issue again, once the engines' commands of its lanes are complete: they stand on no path.
R275, R276, R278: BAR, BARC and QUIESCE wait at their word, after a release, and their arrival is counted. R275: when the last
group of a block, or of every block of a cluster, arrives before the barrier's watchdog has expired, every waiting path goes to its
next clause header, the other paths stand where they stood, and the next instance of the barrier begins with no arrival.
The model's choices here: the sub-cause of a QUIESCE on a phase that the launch does not enable (log 72). -/
def Obligations.ExitAndBarriers : Prop :=
  (∀ (s : State) (e : Scene), Issues s {} e → Quiet s e → EnginesDone s e →
      (e.grid.total ≠ none ∨ e.grid.lrec.cluster ≤ 1) → ∃ t g, exec .exit s = .next t ∧ t.grpAt s.cur.blk s.cur.grp = some g ∧ t.mem = s.mem ∧
        ∀ l, l < 32 → e.path.lanes.getLsbD l = true → g.exited.getLsbD l = true ∧
          (e.grp.paths.Pairwise (fun p q => p.lanes &&& q.lanes = 0) → ∀ q ∈ g.paths, q.lanes.getLsbD l = false)) ∧
  (∀ (s : State) (e : Scene) (p : BitVec 3), Issues s {} e → Quiet s e →
      (e.path.waitsFor Wait.isBar = false → exec .bar s = .next ((parkedAt s .bar).settleBar s.cur.blk)) ∧
      (e.path.waitsFor Wait.isBar = true → exec .bar s = .next (s.settleBar s.cur.blk)) ∧
      (e.path.waitsFor Wait.isBarc = false → (e.grid.total ≠ none ∨ e.grid.lrec.cluster ≤ 1) →
        ∃ t, settleBarc s.cur.blk (parkedAt s .barc) = .ok ((), t) ∧ exec .barc s = .next t ∧ t.mem = s.mem) ∧
      (e.path.waitsFor Wait.isBarc = true → (e.grid.total ≠ none ∨ e.grid.lrec.cluster ≤ 1) →
        ∃ t, settleBarc s.cur.blk s = .ok ((), t) ∧ exec .barc s = .next t ∧ t.mem = s.mem) ∧
      (e.grid.lrec.phases.getLsbD p.toNat = true → EnginesDone s e →
        (e.path.waitsFor (Wait.isQuiesce p.toNat) = false →
          exec (.quiesce p) s = .next ((parkedAt (s.modGrp s.cur.blk s.cur.grp fun g => g.countQuiesce p.toNat e.path.lanes)
            (.quiesce p.toNat)).settleQuiesce s.cur.blk p.toNat)) ∧
        (e.path.waitsFor (Wait.isQuiesce p.toNat) = true → exec (.quiesce p) s = .next s)) ∧
      (e.grid.lrec.phases.getLsbD p.toNat = false → exec (.quiesce p) s = .next (takeFault (illegal 1) s))) ∧
  (∀ (s : State) (i : Nat) (b : Block), s.blkAt i = some b → b.groups ≠ [] → s.barOver 0 b.grid i b.barInst = false →
      (b.arrivals b.barArr Wait.isBar).length = b.groups.length →
        ∃ b', (s.settleBar i).blkAt i = some b' ∧ b'.barArr = [] ∧ b'.barInst = b.barInst + 1 ∧
          b'.groups = b.groups.map (·.leave Wait.isBar) ∧ (∀ g ∈ b'.groups, ∀ q ∈ g.paths, q.waitsFor Wait.isBar = false) ∧
          (s.settleBar i).mem = s.mem) ∧
  (∀ (s t u : State) (i : Nat) (b : Block) (g : Grid) (l : List Nat), s.blkAt i = some b → s.grid? b.grid = some g →
      l = s.clusterBlocks b.grid b.cluster →
      (∀ j ∈ l, ∀ c, s.blkAt j = some c → c.groups ≠ [] ∧ (c.arrivals c.barcArr Wait.isBarc).length = c.groups.length) →
      clusterStarted g b.cluster l.length s = .ok (true, u) → u.blocks = s.blocks →
      s.barOver 1 b.grid b.cluster b.barcInst = false → settleBarc i s = .ok ((), t) →
        ∀ j ∈ l, ∀ c, s.blkAt j = some c → ∃ c', t.blkAt j = some c' ∧ c'.barcArr = [] ∧ c'.barcInst = c.barcInst + 1 ∧
          c'.groups = c.groups.map (·.leave Wait.isBarc) ∧ ∀ k, c.core = some k → (t.coreAt k).l1 = []) ∧
  (∀ (g : Group) (t : Wait → Bool) (l : Nat),
      (∀ q ∈ g.paths, q.lanes.getLsbD l = true → ∃ q' ∈ (g.leave t).paths, q'.lanes.getLsbD l = true ∧
        (q.waitsFor t = true → q'.atHeader = true ∧
          q'.pc = q.pc + (if (q.words.bind (·.2)).isSome then 8 else 4)) ∧
        (q.waitsFor t = false → q'.pc = q.pc)) ∧
      (∀ q' ∈ (g.leave t).paths, q'.lanes.getLsbD l = true → ∃ q ∈ g.paths, q.lanes.getLsbD l = true))

/-! ### Copy commands and queues -/

/-- R121 to R124, R136, R146: a copy word enters its command on the engine its selector names, as its descriptor says, or
waits for room; a path of helper lanes enters nothing; any prefix word before it is illegal. -/
def Obligations.CopyWords : Prop :=
  ∀ (s u : State) (e : Scene) (q : BitVec 4) (f sp : BitVec 3) (a b : BitVec 7) (i : Instr) (kind : CopyKind) (fs : Nat)
    (sel : Word) (d : List Nat) (eng : Engine),
    (i, kind, fs, sel) ∈ ([(.cpyb q sp a b, .cpyb, 0, e.uni b), (.cpyt q f sp a b, .cpyt, f.toNat, e.uni b),
      (.cpyh q sp a, .cpyh, 0, 0), (.cpyc q sp a b, .cpyc, 0, e.uni b)] : List (Instr × CopyKind × Nat × Word)) →
    (copyFieldsOk kind q.toNat fs = false → exec i s = .next (takeFault (illegal 1) s)) ∧
    (copyFieldsOk kind q.toNat fs = true → ∀ c, s.cur.pfx = some c → exec i s = .next (takeFault (illegal 2) s)) ∧
    (Issues s {} e → s.cur.pfx = none → e.readsUni a → (kind ≠ .cpyh → e.readsUni b) → copyFieldsOk kind q.toNat fs = true →
    (¬ e.works → exec i s = .next (wrote s id)) ∧
    (e.works → (isFeed kind q.toNat = true → isControl e.core = false ∧ sel.toNat < 4) → sel.toNat < 8 →
      eng = (if kind = .cpyh then .halo (dieOf e.core) else if sel.toNat / 4 = 1 then .bulk (dieOf e.core)
        else .chan e.core (sel.toNat % 4)) →
      Learns (readRecord (e.uni a) 8 64) s d u → descOk kind q.toNat d = true →
      (u.engineRoom eng = true → exec i s = .next (wrote (entered u (cmdOf kind q.toNat (slotOf e.grid.lrec fs) sp.toNat
        (e.uni a) d e.blk.ctx s.cur.blk s.cur.grp e.core e.path.lanes eng none none)) id)) ∧
      (u.engineRoom eng = false → exec i s = .next s.parkRetry)))

/-- R132, R136: SEAL closes the open copies of its threads into their next batch; WAITB waits for the batches up to a number;
RDWP reads a channel's completion word and acquires. -/
def Obligations.Batches : Prop :=
  ∀ (s : State) (e : Scene) (q : BitVec 2) (a : BitVec 7), Issues s {} e →
    (e.hasUni a → e.grp.batch.length = 32 → exec (.seal a) s = .next (uniNext
      (s.modGrp s.cur.blk s.cur.grp fun g => g.sealBatches e.path.lanes) a
      (BitVec.ofNat 64 ((lanesOf e.path.lanes).foldl (fun m l => max m ((e.grp.batch[l]?).getD 0 + 1)) 0)))) ∧
    (e.readsUni a → s.allDone (e.grp.batchesTo e.path.lanes fun _ => (e.uni a).toNat).flatten = false →
      exec (.waitb a) s = .next s.parkRetry) ∧
    (e.readsUni a → s.allDone (e.grp.batchesTo e.path.lanes fun _ => (e.uni a).toNat).flatten = true →
      (∀ i ∈ (e.grp.batchesTo e.path.lanes fun _ => (e.uni a).toNat).flatten, ∀ c, s.cmd? i = some c →
        c.err = 0 ∨ c.raised = true) →
      exec (.waitb a) s = .next (wrote (s.modCore e.core fun c => { c with l1 := [] }) id)) ∧
    (e.hasUni a → exec (.rdwp q a) s = .next (uniNext (acquired s e.core 5) a (s.channelWord e.core q.toNat e.blk.ctx)))

/-- R120, R125, R130 to R135: a copy command of a block that is not saved starts, goes on after a stop, delivers its next
elements, resumes, completes and pushes its completion word. A fault of its work stops it with the fault's cause; one of the
flag leaves the last mirror store standing. A mirror store that had to wait comes before the next element.
The model's choices here: a running command takes no place in its queue (log 46). -/
def Obligations.CopySteps : Prop :=
  ∀ (s : State) (i : Nat) (c : Cmd), s.cmd? i = some c →
    (c.kind ≠ .scatter → s.ahead i c.eng < c.eng.servers → s.serving c.eng < c.eng.servers → c.start.toNat ≤ s.time.toNat →
      s.preempting c.ctx = false → s.shootPending c.ctx = false → s.blkSaved c.blk = false →
      (c.status = .stopped ∨ c.status = .queued ∧ c.kind = .cpyb →
        exec (.copyCommandStart i) s = .next ((atRest s).modCmd i fun c => { c with status := .running })) ∧
      (∀ t, c.status = .queued → engineResult i (startWork i) ((atRest s).modCmd i fun c => { c with status := .running }) t →
        exec (.copyCommandStart i) s = .next t)) ∧
    (c.status = .running → c.kind ≠ .scatter → c.paused = false → s.copyMayRun c = true →
      (c.counting = true ∨ c.mirrorOwed = true ∨ c.pos < c.units) →
      ∀ t, engineResult i (if c.counting then countStep i
        else if c.mirrorOwed then mirrorStore i (c.wp - c.wp % c.gran) else if isFeed c.kind c.q then feedStep i
        else if c.pos < c.total then elementStep i else positionStep i) (atRest s) t →
        exec (.copyElementWrite i) s = .next t) ∧
    (c.paused = true → s.shootPending c.ctx = false → (∀ w ∈ s.cows, w.cmd = some i → w.closed = true) →
      exec (.engineShootdownResume i) s = .next ((atRest s).modCmd i fun c => { c with paused := false })) ∧
    (c.status = .running → c.kind ≠ .scatter → c.paused = false → c.counting = false → c.units ≤ c.pos →
      s.blkSaved c.blk = false → (c.mirrorOwed = true → c.wp % c.gran = 0) →
      ((c.wpmo = 0 ∨ c.wp ≤ c.mirrored) → (c.fen = true → s.shootPending c.ctx = false) →
        (c.fen = false → exec (.copyComplete i) s = .next ((atRest s).endCmd i)) ∧
        (∀ t, c.fen = true → writeVa (engAg c.eng.die c.ctx) c.flag 4 c.fval .engWrite (atRest s) = .ok ((), t) →
          exec (.copyComplete i) s = .next (t.endCmd i))) ∧
      (∀ t f, c.wpmo ≠ 0 → c.mirrored < c.wp → mirrorStore i c.wp (atRest s) = .ok ((), t) →
        storeFlag i t = .error (.fault f) → f.cls ≠ 3 →
        exec (.copyComplete i) s = .next (t.failCmd i f (statusOf f)))) ∧
    (∀ g, c.status = .pushing → s.blkSaved c.blk = false → s.grpAt c.blk c.grp = some g → g.cqRoom c.q = true →
      exec (.completionQueuePush i) s = .next (((atRest s).modGrp c.blk c.grp fun g =>
        g.cqPush c.q (completionWord c.tag c.err c.wp)).closeCmd i))

/-- R120, R126, R130: a CPYB inside the pages it has entered copies its next elements of up to 8 bytes, those of one aligned 8 of
the destination, byte for byte, and changes no other byte; its write pointer moves by as much. Of an element of 16 bytes the
second 8 are written as the step that follows the first, which has seen that they can be.
The model's choices here: where a copy step ends (log 59). -/
def Obligations.CopyBytes : Prop :=
  ∀ (s : State) (i : Nat) (c : Cmd) (src dst : Tr) (sp dp : Nat), s.cmd? i = some c → c.kind = .cpyb → c.status = .running →
    c.paused = false → c.pos < c.total → c.wpmo = 0 → MemOk s → s.clamps = [] → s.migrs = [] → s.poison = [] →
    s.monitors = [] → s.copyMayRun c = true → c.src.toNat % c.esz = 0 → c.dst.toNat % c.esz = 0 →
    c.srcPg = some src → c.dstPg = some dst → (∀ l, s.homeGone l = none) →
    src.pa % 4096 = 0 → dst.pa % 4096 = 0 → src.vbase % 4096 = 0 → dst.vbase % 4096 = 0 →
    dst.vbase ≤ (c.place c.pos).2.toNat → (c.place c.pos).2.toNat < dst.vbase + dst.span → dst.vbase + dst.span ≤ 2 ^ 64 →
    sp = src.pa + ((c.place c.pos).1.toNat - src.vbase) → dp = dst.pa + ((c.place c.pos).2.toNat - dst.vbase) →
    (∀ k, (c.esz = 1 ∨ c.esz = 2 ∨ c.esz = 4 ∨ c.esz = 8) → c.rest = none → s.owns c.ctx dp = true →
      k = 1 + c.runFrom (c.pos + 1) (8 - ((c.place c.pos).2.toNat % 8 : Nat) - c.esz : Int) 8 →
      src.vbase ≤ (c.place c.pos).1.toNat → (c.place c.pos).1.toNat + k * c.esz ≤ src.vbase + src.span →
      src.vbase + src.span ≤ 2 ^ 64 → (∀ j < k, s.owns c.ctx (sp + j * c.esz) = true) →
      ∃ t, exec (.copyElementWrite i) s = .next t ∧
        t.cmd? i = some { c with pos := c.pos + k, wp := c.wp + k * c.esz } ∧
        ∀ x, getByte t.mem x = if dp ≤ x ∧ x < dp + k * c.esz then getByte s.mem (sp + (x - dp)) else getByte s.mem x) ∧
    (∀ v pg, c.esz = 16 → c.rest = some (8, v, pg) → v < 2 ^ 64 →
      (c.place c.pos).2.toNat + 8 < dst.vbase + dst.span →
      ∃ t, exec (.copyElementWrite i) s = .next t ∧
        t.cmd? i = some { c with pos := c.pos + 1, wp := c.wp + 16, rest := none } ∧ getBytes t.mem (dp + 8) 8 = v ∧
        ∀ x, ¬ (dp + 8 ≤ x ∧ x < dp + 16) → getByte t.mem x = getByte s.mem x)

/-- R138, R139, R142, R145, R236: QPEEK and QPOP write the head of a queue register, or what a stream past its end reads, to
every lane of A; QSTAT writes its fill state; QPUSH appends A, or waits while the queue is full.
The model's choices here: a pop writes all lanes of its register (log 47). -/
def Obligations.QueueWords : Prop :=
  ∀ (s : State) (e : Scene) (q : BitVec 4) (f : BitVec 3) (a b : BitVec 7), Issues s {} e →
    (∀ (x : Stream) (l : List Word), q.toNat < 8 → e.hasVec a → e.grp.streams[q.toNat]? = some (some x) → x.dir ≠ some true →
      ((∃ r, x.buf = .vals l :: r) ∨ (x.buf = [] ∧ x.mode = 0 ∧ x.entries ≤ x.pops ∧ l = List.replicate 32 0) ∨
        (x.buf = [] ∧ x.mode ≠ 0 ∧ x.ended = true ∧ l = List.replicate 32 (if x.coord then BitVec.allOnes 64 else 0))) →
      exec (.qpeek q a) s = .next (wrote s fun g =>
        (g.setVreg a.toNat (laneIds.map (laneOf l))).clean a.toNat fun _ => true) ∧
      exec (.qpop q a) s = .next (wrote s fun g =>
        ((g.setVreg a.toNat (laneIds.map (laneOf l))).clean a.toNat fun _ => true).modStream q.toNat fun x =>
        { x with dir := some false, pops := x.pops + 1, buf := x.buf.tail })) ∧
    (∀ (w : Word) (r : List Word), 12 ≤ q.toNat → e.hasUni a → e.grp.cqs[q.toNat - 12]? = some (w :: r) →
      exec (.qpeek q a) s = .next (uniNext s a w) ∧
      exec (.qpop q a) s = .next (uniNext (s.modGrp s.cur.blk s.cur.grp fun g =>
        { g with cqs := g.cqs.modify (q.toNat - 12) List.tail }) a w)) ∧
    (12 ≤ q.toNat → e.hasUni a → e.grp.cqs[q.toNat - 12]? = some [] → exec (.qpop q a) s = .next s.parkRetry) ∧
    (∀ (x : Stream), q.toNat < 8 → e.hasUni a → e.grp.streams[q.toNat]? = some (some x) →
      exec (.qstat q a) s = .next (uniNext s a (streamStat s q.toNat x))) ∧
    (8 ≤ q.toNat → q.toNat < 10 → e.hasUni a → exec (.qstat q a) s = .next (uniNext s a
      (statWord ((s.coreAt e.core).mat.used q.toNat) (Config.fifoEntries - (s.coreAt e.core).mat.used q.toNat) 0))) ∧
    (∀ (v : Word) (u : State), 10 ≤ q.toNat → q.toNat < 12 → e.hasUni a → Learns (portStat (q.toNat - 10)) s v u →
      exec (.qstat q a) s = .next (uniNext u a v)) ∧
    (∀ (l : List Word), 12 ≤ q.toNat → e.hasUni a → e.grp.cqs[q.toNat - 12]? = some l →
      exec (.qstat q a) s = .next (uniNext s a (statWord l.length (16 - l.length) 0))) ∧
    (∀ (x : Stream), q.toNat < 8 → e.hasVec a → e.clear a.toNat (BitVec.allOnes 32) → f = 0 → b = 0 →
      e.grp.streams[q.toNat]? = some (some x) → x.mode = 0 → x.dir ≠ some false →
      (s.pendingPushes s.cur.blk s.cur.grp q.toNat < 4 → exec (.qpush q f a b) s = .next (wrote
        { s with cmds := s.cmds ++ [scatterCmd x x.pushes q.toNat (e.grp.vreg a.toNat) e.grp.helper e.blk.ctx s.cur.blk
            s.cur.grp e.core e.path.lanes] }
        fun g => (g.openCmd e.path.lanes s.cmds.length).modStream q.toNat fun x =>
          { x with dir := some true, pushes := x.pushes + 1, buf := [], part := [] })) ∧
      (4 ≤ s.pendingPushes s.cur.blk s.cur.grp q.toNat → exec (.qpush q f a b) s = .next s.parkRetry)) ∧
    (∀ (m : Nat) (w : Code), 8 ≤ q.toNat → q.toNat < 10 → e.hasVec a → e.hasVec b → isControl e.core = false →
      w = slotOf e.grid.lrec f.toNat → m = (if q.toNat = 8 then slotA w else slotB w) → slotClean w = true → 2 ≤ m → m ≤ 8 →
      (¬ e.works → exec (.qpush q f a b) s = .next (wrote s id)) ∧
      (e.works → e.clear a.toNat (BitVec.allOnes 32) → e.clear b.toNat (BitVec.allOnes 32) →
      (∀ p, (if q.toNat = 8 then (s.coreAt e.core).mat.part8 else (s.coreAt e.core).mat.part9) = some p →
        p.fslot = f.toNat ∧ p.m = m ∧ p.window = slotScale w) →
      (s.coreAt e.core).mat.used q.toNat < Config.fifoEntries →
      exec (.qpush q f a b) s = .next (wrote (s.modCore e.core fun k =>
        { k with mat := k.mat.addPush q.toNat e.blk.ctx f.toNat m (slotScale w) (e.cross a) (e.cross b) }) id)))

/-- R139 to R145: STRM binds a stream register to its record, and for a fibre the register after it; the channel reads ahead
one lane or one move of the walk, a fault taking the entry's place; it writes a push lane by lane. -/
def Obligations.Streams : Prop :=
  (∀ (s u : State) (e : Scene) (q : BitVec 3) (a : BitVec 7) (w : List Nat), Issues s {} e → e.readsUni a →
    Learns (readRecord (e.uni a) 4 32) s w u → streamOk w = true → (fld 39 32 (wordAt w 2) = 1 → q.toNat % 2 = 0) →
      exec (.strm q a) s = .next (wrote u fun g =>
        { g with
          streams := if fld 39 32 (wordAt w 2) = 1
            then (g.streams.set q.toNat (some (streamOf w false g.binds))).set (q.toNat + 1) (some (streamOf w true g.binds))
            else g.streams.set q.toNat (some (streamOf w false g.binds))
          binds := g.binds + 1 })) ∧
  (∀ (s : State) (blk grp q core : Nat) (b : Block) (g : Group) (x : Stream), s.blkAt blk = some b →
    s.grpAt blk grp = some g → b.core = some core → g.streams[q]? = some (some x) → x.wants = true →
    s.shootPending b.ctx = false → s.preempting b.ctx = false →
    (∀ y t, (if x.mode = 0 then gatherStep (engAg (dieOf core) b.ctx) x else fibreStep (engAg (dieOf core) b.ctx) x) (atRest s) =
      .ok (y, t) → exec (.streamGatherPrefetch blk grp q) s = .next (t.modGrp blk grp fun g => g.modStream q fun _ => y)) ∧
    (∀ f, (if x.mode = 0 then gatherStep (engAg (dieOf core) b.ctx) x else fibreStep (engAg (dieOf core) b.ctx) x) (atRest s) =
      .error (.fault f) → exec (.streamGatherPrefetch blk grp q) s = .next ((atRest s).modGrp blk grp fun g =>
        g.modStream q fun _ => { x with buf := x.buf ++ [.flt f], part := [] }))) ∧
  (∀ (s t : State) (blk grp q i : Nat) (c : Cmd),
    (s.cmds.findIdx? fun c => decide (c.kind = .scatter ∧ c.blk = blk ∧ c.grp = grp ∧ c.q = q) && !c.isDone) = some i →
    s.cmd? i = some c → c.paused = false → s.preempting c.ctx = false → s.blkSaved c.blk = false →
    engineResult i (scatterStep i) (atRest s) t →
      exec (.streamScatterWrite blk grp q) s = .next t)

/-! ### The voxel tree -/

/-- R154 to R164, R167: the lookups of the enabled lanes write their leaves, values, neighbourhoods or marches, and k15. -/
def Obligations.TreeLookups : Prop :=
  ∀ (s u v w : State) (e : Scene) (d a b : BitVec 7) (ty : BitVec 2) (t ls : List Nat),
    Issues s { mask := true, zm := true } e → e.hasVec d → e.readsUni a → e.reads b → e.readsMask e.pfx.mask →
    Learns (walkerUnit (readTree (e.uni a))) s t u → ls = laneIds.filter (e.accesses true) →
    (∀ (leaf : Nat → Option Word),
      Learns (walkerUnit (collect ls fun l => atLane l (do
        let f ← findLeafAt (e.uni a) t (some (laneOf (e.operand b) l).toNat)
        pure (l, f)))) u (ls.map fun l => (l, leaf l)) v →
      exec (.vlk d a b) s = .next (wrote v fun g => putK15 e (fun l => if (leaf l).isSome then 0 else 1)
        (loaded e d.toNat (fun l => (leaf l).getD 0) g))) ∧
    (∀ (place : Nat → Option Tr) (val : Nat → Nat), treeTy t = 4 + ty.toNat →
      Learns (walkerUnit (collect ls fun l => atLane l (do
        let x ← placeOf (e.uni a) t (some (laneOf (e.operand b) l).toNat) .walkRead
        pure (l, x)))) u (ls.map fun l => (l, place l)) v →
      Learns (walkerUnit (collect (ls.map fun l => (l, place l)) fun x => atLane x.1 (do
        let y ← voxelValue t x.2
        pure (x.1, BitVec.ofNat 64 y)))) v (ls.map fun l => (l, BitVec.ofNat 64 (val l))) w →
      exec (.vld1 d a b ty) s = .next (wrote w fun g => putK15 e (fun l => if (place l).isSome then 0 else 1)
        (loaded e d.toNat (fun l => BitVec.ofNat 64 (val l)) g))) ∧
    (∀ (gone : Nat → List Bool) (vals : Nat → List Nat), d.toNat + 4 ≤ e.grid.lrec.vregs →
      Learns (walkerUnit (neighbours (e.uni a) t (e.operand b) ls offsets7)) u (ls.map fun l => (l, gone l, vals l)) v →
      exec (.vld7 d a b) s = .next (wrote v fun g => putK15 e (fun l => bitsOf (gone l))
        ((List.range 4).foldl (fun g r => loaded e (d.toNat + r) (fun l =>
          packElems 32 [((vals l)[2 * r]?).getD 0, ((vals l)[2 * r + 1]?).getD 0]) g) g))) ∧
    (∀ (gone : Nat → List Bool) (vals : Nat → List Nat), d.toNat + 14 ≤ e.grid.lrec.vregs →
      Learns (walkerUnit (neighbours (e.uni a) t (e.operand b) ls offsets27)) u (ls.map fun l => (l, gone l, vals l)) v →
      exec (.vld27 d a b) s = .next (wrote v fun g =>
        putK15 e (fun l => if isNull (laneOf (e.operand b) l).toNat then 255
          else bitsOf ((List.range 8).map fun o => ((gone l)[octantSlot (laneOf (e.operand b) l).toNat o]?).getD true))
        ((List.range 14).foldl (fun g r => loaded e (d.toNat + r) (fun l =>
          packElems 32 [((vals l)[2 * r]?).getD 0, ((vals l)[2 * r + 1]?).getD 0]) g) g))) ∧
    (∀ (march : Nat → March), d.toNat + 2 ≤ e.grid.lrec.vregs → b.toNat + 4 ≤ e.grid.lrec.vregs → e.hasVec b →
      (∀ i < 4, e.clear (b.toNat + i) e.path.lanes) →
      Learns (walkerUnit (collect ls fun l => atLane l (do
        let src := fun i j : Nat => elem 32 j (laneOf (e.grp.vreg (b.toNat + i)) l)
        let x ← marchRay (e.uni a) t ⟨[src 0 0, src 0 1, src 1 0], [src 1 1, src 2 0, src 2 1], src 3 0, src 3 1⟩
        pure (l, x)))) u (ls.map fun l => (l, march l)) v →
      exec (.vmarch d a b) s = .next (wrote v fun g => putK15 e (fun l => (march l).kind)
        (loaded e (d.toNat + 1) (fun l => BitVec.ofNat 64 (march l).voxel)
          (loaded e d.toNat (fun l => packElems 32 [(march l).t, (march l).value]) g))))

/-- R118, R119, R158, R165, R166, R168, R169: VST1 stores and VACT sets or clears, in ascending lane order, at the voxels whose
leaves exist, with nothing buffered on the way; no other byte changes; helper lanes make no access; VINS takes the next step
of its lanes' insertions, and at their end writes its results.
The model's choices here: each MCAS of a VINS is a step (log 95). -/
def Obligations.TreeWrites : Prop :=
  (∀ (s u v : State) (e : Scene) (d a b : BitVec 7) (ty : BitVec 2) (on : BitVec 1) (t ls : List Nat),
    e.readsUni a → e.reads b → e.readsMask e.pfx.mask →
    Learns (walkerUnit (readTree (e.uni a))) s t u → ls = laneIds.filter (e.accesses true) →
    (∀ (place : Nat → Option Tr), Issues s { mask := true } e → e.reads d → treeTy t = 4 + ty.toNat →
      Learns (walkerUnit (collect ls fun l => atLane l (do
        let x ← if e.grp.helper.getLsbD l then pure none
          else placeOf (e.uni a) t (some (laneOf (e.operand b) l).toNat) .walkWrite
        pure (l, x)))) u (ls.map fun l => (l, place l)) v →
      Quiet v e → MemOk v → (∀ l tr, place l = some tr → v.homeGone (tr.pa / 128) = none ∧ tr.pa % valBytes t = 0) →
      ∃ w, exec (.vst1 d a b ty) s = .next (wrote w (putK15 e fun l => writeBits e.grp.helper l (place l).isSome)) ∧
        w.blocks = s.blocks ∧ w.cur = s.cur ∧ ∀ x, seen w e.core x = (ls.foldl (fun m l => match place l with
          | some tr => stored m tr.pa (valBytes t) (laneOf (e.operand d) l).toNat
          | none => m) (seen v e.core)) x) ∧
    (∀ (place : Nat → Option Tr), Issues s { mask := true } e →
      Learns (walkerUnit (collect ls fun l => atLane l (do
        let f ← if e.grp.helper.getLsbD l then pure none
          else findLeafAt (e.uni a) t (some (laneOf (e.operand b) l).toNat)
        match f with
        | none => pure (l, none)
        | some leaf => do
          let tr ← checkedAccess e.ag (addI leaf (8 * (voxelNo (laneOf (e.operand b) l).toNat / 64) : Nat)) 8 .walkAtomic
          pure (l, some tr)))) u (ls.map fun l => (l, place l)) v →
      Quiet v e → MemOk v → (∀ l tr, place l = some tr → v.homeGone (tr.pa / 128) = none ∧ tr.pa % 8 = 0) →
      ∃ w, exec (.vact a b on) s = .next (wrote w (putK15 e fun l => writeBits e.grp.helper l (place l).isSome)) ∧
        w.blocks = s.blocks ∧ w.cur = s.cur ∧ ∀ x, getByte w.mem x = getByte (ls.foldl (fun m l => match place l with
          | some tr => putBytes m tr.pa 8 (if on = 1
              then Nat.lor (getBytes m tr.pa 8) (2 ^ (voxelNo (laneOf (e.operand b) l).toNat % 64))
              else getBytes m tr.pa 8 - Nat.land (getBytes m tr.pa 8) (2 ^ (voxelNo (laneOf (e.operand b) l).toNat % 64)))
          | none => m) v.mem) x)) ∧
  (∀ (s u : State) (e : Scene) (d a b : BitVec 7) (x : VinsSt) (todo : List Nat), Issues s {} e → e.readsUni a → e.reads b →
    e.readsMask e.pfx.mask → e.hasVec d → d.toNat + 2 ≤ e.grid.lrec.vregs →
    ((e.path.wait = some (.vins x) ∧ u = s) ∨ ((∀ y, e.path.wait ≠ some (.vins y)) ∧
      ∃ t, Learns (walkerUnit (readTree (e.uni a))) s t u ∧ x = ⟨t, 0, .look, none, []⟩)) →
    todo = laneIds.filter (fun l => e.accesses false l && !isNull (laneOf (e.operand b) l).toNat) →
    (∀ l y w, todo[x.lane]? = some l →
      vinsStep (e.uni a) x.tree (leafOrigin (laneOf (e.operand b) l).toNat) l x u = .ok (y, w) → w.cur = s.cur →
      exec (.vins d a b) s = .next (w.modPath s.cur.blk s.cur.grp s.cur.path fun q => { q with wait := some (.vins y) })) ∧
    (todo[x.lane]? = none → exec (.vins d a b) s = .next (wrote u fun g =>
      let put := fun (f : Word × Word → Word) (l : Nat) => (x.results.find? (fun r => decide (r.1 = l))).map (fun r => f r.2)
      putSome (d.toNat + 1) (put (·.2)) (putSome d.toNat (put (·.1)) g))))

/-! ### The matrix engine and tasks -/

/-- R228, R237, R238: a matrix word enters its command in the core's queue once it and its pages pass their checks, or waits
for room; a path of helper lanes enters nothing. -/
def Obligations.MatrixWords : Prop :=
  ∀ (s u : State) (e : Scene) (q : BitVec 4) (f sp : BitVec 3) (a b : BitVec 7) (i : Instr) (kind : MatKind) (fs sps : Nat)
    (slot : Code) (dst sdst : Word),
    (i, kind, fs, sps) ∈ ([(.mma q f sp a b, .mma, f.toNat, sp.toNat), (.mma1 q f sp a b, .mma1, f.toNat, sp.toNat),
      (.mzero q a b, .mzero, 0, 0), (.mout q f a b, .mout, f.toNat, 0)] : List (Instr × MatKind × Nat × Nat)) →
    Issues s {} e → e.matrixCore s kind → e.readsUni a → e.readsUni b →
    (kind = .mout → (a.toNat - 96) % 4 = 0 ∧ e.readsUni (a + 1) ∧ e.readsUni (a + 2)) →
    slot = slotOf e.grid.lrec fs → dst = (if kind = .mout then e.uni (a + 1) else 0) →
    sdst = (if kind = .mout then e.uni (a + 2) else 0) →
    (q = 0 ∨ isCq q.toNat = true) → (¬ e.works → exec i s = .next (wrote s id)) ∧
    (e.works → matSlotOk kind slot = true → ctlOk kind slot (e.uni b) = true →
      (e.uni a).toNat % 256 = 0 → (kind = .mout → dst.toNat % outElem (slotOut slot) = 0) →
      Learns (matPages (engAg (dieOf e.core) e.blk.ctx) kind slot (e.uni a) (e.uni b) dst sdst) s () u →
      (u.matRoom e.core = true → exec i s = .next (wrote (enqueued u (matCmdOf kind q.toNat slot sps (e.uni a) (e.uni b) dst sdst
        e.blk.ctx s.cur.blk s.cur.grp e.core e.path.lanes 0 none 0)) id)) ∧
      (u.matRoom e.core = false → exec i s = .next s.parkRetry))

/-- R230, R235, R238 to R244: a matrix command starts on free arrays, consumes K blocks whose tags it expects, retires its
partial sums, makes its writes, and completes; the state a context leaves is saved and restored.
The model's choices here: a merge waits for the reads of C as well (log 33), where matrix state may move (log 63), the
stop point before the first K block (log 69), that the slices of a K block leave their FIFOs together (log 132), and that the
flags of the partials go into FLG and trap nothing (log 120). -/
def Obligations.MatrixSteps : Prop :=
  ∀ (s : State) (core i : Nat) (c : MatCmd) (k k' : MatState), s.mat? i = some c → k = (s.coreAt core).mat →
    k' = (s.coreAt (partner core)).mat →
    (k.queue.head? = some i → s.preempting c.ctx = false →
      (c.kind = .mma → k.array = none → k'.array = none → s.pairAway c.ctx core = false → exec (.matrixCommandStart core) s = .next
        ((((atRest s).modMatState core fun k => { k with queue := k.queue.tail, array := some i }).modMatState (partner core)
          fun k => { k with array := some i, ctx := some c.ctx }).modMat i fun c => { c with status := .consuming })) ∧
      (c.kind = .mma1 → k.array = none → s.claimed core = false → s.pairAway c.ctx core = false → exec (.matrixCommandStart core) s = .next
        (((atRest s).modMatState core fun k => { k with queue := k.queue.tail, array := some i }).modMat i
          fun c => { c with status := .consuming })) ∧
      ((c.kind = .mzero ∨ c.kind = .mout) → s.earlierDone i core = true → exec (.matrixCommandStart core) s = .next
        (((atRest s).modMatState core fun k => { k with queue := k.queue.tail }).modMat i
          fun c => { c with status := .merging }))) ∧
    (∀ a0 a1 b0 t, k.array = some i → c.core = core → c.status = .consuming → c.kblocks.length < ctlK c.ctl / 64 →
      (s.preempting c.ctx = true → c.atStop = false) → k.q8.head? = some a0 → k.q9.head? = some b0 →
      a1 = (if c.kind = .mma then k'.q8.head? else none) → (c.kind = .mma → a1.isSome = true) →
      t = (let t := (atRest s).modMatState core fun k => { k with q8 := k.q8.tail, q9 := k.q9.tail }
        if c.kind = .mma then t.modMatState (partner core) fun k => { k with q8 := k.q8.tail } else t) →
      (a0.fits (widthOf (slotA c.slot)) (slotScale c.slot) = true → b0.fits (widthOf (slotB c.slot)) (slotScale c.slot) = true →
        (∀ x, a1 = some x → x.fits (widthOf (slotA c.slot)) (slotScale c.slot) = true ∧ x.poisoned = false) →
        a0.poisoned = false → b0.poisoned = false →
        exec (.mmaKBlock core) s = .next ((t.bumped c.ctx 12 1 (dieOf core)).modMat i fun c =>
          { c with kblocks := c.kblocks ++ [(a0, a1, b0)], wp := c.wp + 64 })) ∧
      ((a0.fits (widthOf (slotA c.slot)) (slotScale c.slot) = false ∨ b0.fits (widthOf (slotB c.slot)) (slotScale c.slot) = false ∨
          ∃ x, a1 = some x ∧ x.fits (widthOf (slotA c.slot)) (slotScale c.slot) = false) →
        exec (.mmaKBlock core) s = .next (t.failMat i (illegal 5) 5))) ∧
    (k.array = some i → c.core = core → c.status = .consuming → c.kblocks.length = ctlK c.ctl / 64 →
      exec (.mmaRetire core) s = .next ((((atRest s).freeArrays core i).modMat i fun x =>
        { x with partials := (List.range (64 * matRows c.ctl)).map (fun e => c.partialSum (e / 64) (e % 64)), status := .merging }).modCtx
          c.ctx fun x => x.orFlags ((List.range (64 * matRows c.ctl)).foldl
            (fun fl e => Nat.lor fl (c.partialOf (e / 64) (e % 64)).2) 0))) ∧
    (∀ e n t, c.status = .merging → e < c.pieces → e ∉ c.merged → s.elemBusy i c e = false → s.shootPending c.ctx = false →
      (∀ w ∈ s.cows, w.mat = some i → w.closed = true) → matPiece c e (atRest s) = .ok (n, t) →
      exec (.matrixMerge i e) s = .next (t.modMat i fun c => { c with merged := c.merged ++ [e], wp := c.wp + n })) ∧
    (∀ e f, c.status = .merging → e < c.pieces → e ∉ c.merged → s.elemBusy i c e = false → s.shootPending c.ctx = false →
      (∀ w ∈ s.cows, w.mat = some i → w.closed = true) → matPiece c e (atRest s) = .error (.fault f) →
      exec (.matrixMerge i e) s =
        .next (if f.cls = 3 then (atRest s).matCow i c f else (atRest s).failMat i f (statusOf f))) ∧
    (c.status = .pushing ∨ (c.status = .merging ∧ c.merged.length = c.pieces) →
      (isCq c.q = false → exec (.matrixCommandComplete i) s = .next
        (((atRest s).modMat i fun c => { c with status := .done }).taskDone c.blk c.task (decide (c.err = 0)))) ∧
      (∀ g, isCq c.q = true → s.grpAt c.blk c.grp = some g → g.cqRoom c.q = true →
        exec (.matrixCommandComplete i) s = .next
          ((((atRest s).modGrp c.blk c.grp fun g => g.cqPush c.q (completionWord c.tag c.err c.wp)).modMat i
            fun c => { c with status := .done }).taskDone c.blk c.task (decide (c.err = 0))))) ∧
    (∀ ctx, k.ctx = some ctx → k.clear = false → s.residentOn core ctx = false →
      (∀ j x, k.array = some j → s.mat? j = some x → x.stops = true) →
      exec (.matrixStateSave core) s = .next
        (({ atRest s with savedMat := s.savedMat ++ [(ctx, core, k)] } : State).modMatState core fun _ => Core.empty.mat)) ∧
    (∀ ctx x, k.clear = true → s.pairHeld core ctx = false → s.savedMat.find? (fun x => decide (x.1 = ctx ∧ x.2.1 = core)) = some x →
      exec (.matrixStateRestore core ctx) s = .next
        (({ atRest s with savedMat := s.savedMat.filter fun x => !decide (x.1 = ctx ∧ x.2.1 = core) } : State).modMatState core
          fun _ => x.2.2))

/-- R184: a block sum whose terms all lie within the window is the exact sum, rounded once, with the flags of that rounding; it is +0
when that is 0. -/
def Obligations.ExactSum : Prop :=
  ∀ (l : List (Int × Int)) (top lo x : Int), topTerm l = some top → (∀ t ∈ l, t.1 ≠ 0 → lo ≤ t.2) → top - 63 ≤ lo →
    x = l.foldl (fun (a : Int) (t : Int × Int) => a + t.1 * ((2 ^ (t.2 - lo).toNat : Nat) : Int)) 0 →
      windowRound l = if x = 0 then (0, 0) else fp32.round 0 (decide (x < 0)) x.natAbs lo

/-- R245 to R247: TDECL enters a task, TSIG counts a tag, TWAIT waits for a tag to be ready, TQRY reads one; a ready task's
command is issued, or, when its checks fail, is complete with the fault's cause. -/
def Obligations.Tasks : Prop :=
  (∀ (s u : State) (e : Scene) (a b : BitVec 7) (r : List Nat) (t : Task) (op : TaskOp), Issues s {} e →
    (e.readsUni a → ¬ e.works → exec (.tdecl a) s = .next (wrote s id)) ∧
    (e.readsUni a → e.works → Learns (readRecord (e.uni a) 8 64) s r u → taskRecOk r = true →
      t = taskOf (e.uni a) r s.cur.grp e.path.lanes → taskOp t.word.toNat = some op → taskChecks op t u = .ok ((), u) →
      (e.blk.waitingTasks < Config.waitingTasks → exec (.tdecl a) s = .next (wrote (u.modBlk s.cur.blk fun b => b.declare u.readyNext t) id)) ∧
      (Config.waitingTasks ≤ e.blk.waitingTasks → exec (.tdecl a) s = .next s.parkRetry)) ∧
    (∀ n : Nat, e.readsUni a → e.readsUni b → e.works → (e.uni a).toNat < 64 → Quiet s e → n < 65536 →
      (n : Int) = (e.blk.count (e.uni a).toNat : Int) + (e.uni b).toInt →
      exec (.tsig a b) s = .next (wrote (s.modBlk s.cur.blk fun b =>
        ({ b with counts := b.counts.set (e.uni a).toNat n } : Block).markReady s.readyNext) id)) ∧
    (e.readsUni a → (e.uni a).toNat < 64 → EnginesDone s e →
      (e.blk.count (e.uni a).toNat = 0 → exec (.twait a) s = .next (wrote (acquired s e.core 5) id)) ∧
      (e.blk.count (e.uni a).toNat ≠ 0 → exec (.twait a) s = .next s.parkRetry)) ∧
    (e.hasUni a → e.readsUni b → (e.uni b).toNat < 64 → exec (.tqry a b) s = .next (uniNext s a
      (BitVec.ofNat 64 (e.blk.count (e.uni b).toNat + 2 ^ 16 * e.blk.waitingTasks))))) ∧
  (∀ (s u : State) (blk i core : Nat) (b : Block) (t : Task) (op : TaskOp), s.blkAt blk = some b → b.core = some core →
    b.tasks[i]? = some t → b.ended = false → t.ready.isSome = true → t.issued = false → s.taskBefore i core t = false →
    s.preempting b.ctx = false → taskOp t.word.toNat = some op →
    ∀ issuer, issuer = ({ s with cur := ⟨blk, t.grp, 2 ^ 32, t.word, none⟩ } : State) →
    (issueTask op i t issuer = .ok ((), u) → exec (.taskIssue blk i) s = .next (u.modBlk blk fun b =>
      { b with tasks := b.tasks.modify i fun t => { t with issued := true } })) ∧
    (∀ f, issueTask op i t issuer = .error (.fault f) → f.cls ≠ 3 → failTask op i core t f issuer = .ok ((), u) →
      exec (.taskIssue blk i) s = .next (u.modBlk blk fun b =>
        { b with tasks := b.tasks.modify i fun t => { t with issued := true } })))

/-! ### Launches, record queues and rendering -/

/-- R289 to R294: LAUNCH refuses a bad record with its cause, answers 1 at a full queue, or writes a packet to a mapped queue: its
type, the record's address and zeros, and one more in WRITE. RQPUSH writes its records and PUSHED, or waits until there is room for
those of its whole issue set; RQPOP takes records and TAKEN, or waits for one. No other byte changes. Each goes to the next clause
header.
The model's choices here: the record numbers of the lanes (log 56) and how a held record is known (log 58). -/
def Obligations.LaunchAndRecords : Prop :=
  ∀ (s u v : State) (e : Scene) (d a b : BitVec 7) (port : BitVec 1) (k : BitVec 4) (q : Word) (qd : List Nat),
    Issues s {} e → Quiet s e → q = (if port.toNat = 0 then e.grid.lrec.rq0 else e.grid.lrec.rq1) →
    (¬ e.works → e.hasUni d → e.readsUni a → e.readsUni b →
      exec (.launch d a b) s = .next (moved s e fun _ => nextHeader s e)) ∧
    (¬ e.works → exec (.rqpush d port b) s = .next (moved s e fun _ => nextHeader s e)) ∧
    (e.works → e.hasUni d → e.readsUni a → e.readsUni b →
      (∀ r cause, cause ≠ 0 → Learns (checkLaunch e.ag (e.uni a) false) s (r, cause) u →
        exec (.launch d a b) s = .next (moved (u.modGrp s.cur.blk s.cur.grp (putUni d (BitVec.ofNat 64 (2 + 256 * cause)))) e
          fun _ => nextHeader s e)) ∧
      (∀ r qd, Learns (checkLaunch e.ag (e.uni a) false) s (r, 0) u → (∃ y ∈ s.queues, y.va = e.uni b ∧ y.ctx = e.blk.ctx) →
        Learns (collect (List.range 8) fun i => coreReadHome (e.uni b + BitVec.ofNat 64 (8 * i))) u qd v →
        uqSize qd ≤ (uqWrite qd + 2 ^ 64 - uqRead qd) % 2 ^ 64 →
        exec (.launch d a b) s = .next (moved (v.modGrp s.cur.blk s.cur.grp (putUni d 1)) e fun _ => nextHeader s e)) ∧
      (∀ r x (w : State), Learns (checkLaunch e.ag (e.uni a) false) s (r, 0) u →
        (∃ y ∈ s.queues, y.va = e.uni b ∧ y.ctx = e.blk.ctx) → writePacket (e.uni a) (e.uni b) u = .ok (x, w) →
        w.blocks = s.blocks → w.cur = s.cur →
        exec (.launch d a b) s = .next (moved (w.modGrp s.cur.blk s.cur.grp (putUni d x)) e fun _ => nextHeader s e)) ∧
      (∀ r qd at_ (tr : Nat → Tr) (wtr : Tr), Learns (checkLaunch e.ag (e.uni a) false) s (r, 0) u →
        (∃ y ∈ s.queues, y.va = e.uni b ∧ y.ctx = e.blk.ctx) →
        Learns (collect (List.range 8) fun i => coreReadHome (e.uni b + BitVec.ofNat 64 (8 * i))) u qd v →
        (uqWrite qd + 2 ^ 64 - uqRead qd) % 2 ^ 64 < uqSize qd → at_ = uqRing qd + BitVec.ofNat 64 (64 * (uqWrite qd % uqSize qd)) →
        at_.toNat % 64 = 0 → (e.uni b).toNat % 64 = 0 → Quiet v e → MemOk v →
        (∀ i < 8, Reaches v e (at_ + BitVec.ofNat 64 (8 * i)) .store (tr i)) → Reaches v e (e.uni b + 16) .atomic wtr →
        ∃ w : State, exec (.launch d a b) s = .next (moved (w.modGrp s.cur.blk s.cur.grp
            (putUni d (BitVec.ofNat 64 (uqWrite qd * 2 ^ 32)))) e fun _ => nextHeader s e) ∧
          w.blocks = s.blocks ∧ w.cur = s.cur ∧
          ∀ x, getByte w.mem x = getByte (putBytes ((List.range 8).foldl (fun m i =>
            putBytes m (tr i).pa 8 (if i = 0 then 1 else if i = 1 then (e.uni a).toNat else 0)) v.mem)
              wtr.pa 8 ((uqWrite qd + 1) % 2 ^ 64)) x)) ∧
    (e.works → e.hasVec d → e.hasVec b → q ≠ 0 → Learns (readQueue q) s qd u → b.toNat + rqWords qd ≤ e.grid.lrec.vregs →
      ∀ ls n, ls = lanesOf (e.path.lanes &&& ~~~ e.grp.helper) → n = ls.length +
        (u.fellows s.cur.blk s.cur.grp e.path).foldl (fun n x => n + u.pushers x.1 x.2.1 x.2.2.2.lanes) 0 →
      (rqCap qd - (rqPushed qd - u.freedMark e.blk.ctx q (rqTaken qd)) < n →
        exec (.rqpush d port b) s = .next s.parkRetry) ∧
      (∀ ptr places v', n ≤ rqCap qd - (rqPushed qd - u.freedMark e.blk.ctx q (rqTaken qd)) →
        (∀ i < rqWords qd, e.clear (b.toNat + i) e.path.lanes) → Learns (checkedAccess e.ag (q + 24) 8 .atomic) u ptr v →
        Learns (collect ((List.range ls.length).zip ls) fun (x : Nat × Nat) => do
          let tr ← atLane x.2 (checkedAccess e.ag (rqAddr qd (rqPushed qd + x.1)) 8 .store)
          pure (x.1, x.2, tr)) v places v' →
        Quiet v' e → MemOk v' → ptr.pa % 8 = 0 → v'.homeGone (ptr.pa / 128) = none →
        (∀ x ∈ places, x.2.2.pa % (8 * rqWords qd) = 0 ∧ v'.homeGone (x.2.2.pa / 128) = none) →
        ∃ w : State, exec (.rqpush d port b) s = .next (moved (w.modGrp s.cur.blk s.cur.grp (putSome d.toNat fun l =>
            (places.find? fun x => decide (x.2.1 = l)).map fun x => BitVec.ofNat 64 (rqPushed qd + x.1))) e
              fun _ => nextHeader s e) ∧ w.blocks = s.blocks ∧ w.cur = s.cur ∧
          ∀ x, getByte w.mem x = getByte (putBytes (places.foldl (fun m (y : Nat × Nat × Tr) =>
            (List.range (rqWords qd)).foldl (fun m i =>
              putBytes m (y.2.2.pa + 8 * i) 8 (laneOf (e.grp.vreg (b.toNat + i)) y.2.1).toNat) m) v'.mem)
                ptr.pa 8 (rqPushed qd + ls.length)) x)) ∧
    (e.hasVec d → q ≠ 0 → Learns (readQueue q) s qd u → rqConsumer qd = 0 → d.toNat + rqWords qd ≤ e.grid.lrec.vregs →
      (rqPushed qd ≤ rqTaken qd → rqClosed qd = false → exec (.rqpop d port k) s = .next s.parkRetry) ∧
      (∀ ls ptr recs v', (rqTaken qd < rqPushed qd ∨ rqClosed qd = true) →
        ls = (lanesOf (e.path.lanes &&& ~~~ e.grp.helper)).take (rqPushed qd - rqTaken qd) →
        Learns (checkedAccess e.ag (q + 32) 8 .atomic) (acquired u e.core 5) ptr v →
        Learns (collect ((List.range ls.length).zip ls) fun (x : Nat × Nat) => do
          let tr ← atLane x.2 (checkedAccess e.ag (rqAddr qd (rqTaken qd + x.1)) 8 .load)
          let ws ← collect (List.range (rqWords qd)) fun i => atLane x.2 (loadHome e.ag { tr with pa := tr.pa + 8 * i } 8)
          pure (x.2, ws)) v recs v' →
        Quiet v' e → MemOk v' → ptr.pa % 8 = 0 → v'.homeGone (ptr.pa / 128) = none →
        ∃ (w : State) (m : BitVec 256), exec (.rqpop d port k) s = .next (moved (w.modGrp s.cur.blk s.cur.grp fun g =>
            let g := (List.range (rqWords qd)).foldl (fun g i => putSome (d.toNat + i) (fun l =>
              (recs.find? fun x => decide (x.1 = l)).map fun x => BitVec.ofNat 64 (wordAt x.2 i)) g) g
            (g.setKreg k.toNat m).clean (maskCode k.toNat) fun _ => true) e fun _ => nextHeader s e) ∧
          w.blocks = s.blocks ∧ w.cur = s.cur ∧
          (∀ x, getByte w.mem x = getByte (if ls = [] then v'.mem else putBytes v'.mem ptr.pa 8 (rqTaken qd + ls.length)) x) ∧
          ∀ l j, l < 32 → j < 8 → m.getLsbD (8 * l + j) =
            if e.path.lanes.getLsbD l = true ∧ j = 0 then decide (l ∈ ls) else (e.grp.kreg k.toNat).getLsbD (8 * l + j)))

/-- R337, R342: PATTR records an attribute of its lanes; PCOV reads a pixel, raising the flags of what it interpolates; PEXP, PKILL
and PDEPTH record a fragment, in the enabled lanes that are no helpers.
The model's choices here: that PCOV raises those flags (log 125). -/
def Obligations.PixelWords : Prop :=
  ∀ (s : State) (e : Scene) (a d : BitVec 7) (j : BitVec 3) (c : BitVec 4),
    (Issues s {} e → e.hasVec a → a.toNat + 2 ≤ e.grid.lrec.vregs → e.clear a.toNat e.path.lanes →
      e.clear (a.toNat + 1) e.path.lanes → exec (.pattr a j) s = .next (wrote s fun g =>
        { g with attrs := g.attrs.mapIdx fun l x =>
            let v := e.grp.vreg a.toNat
            let z := BitVec.ofNat 32 (elem 32 0 (laneOf (e.grp.vreg (a.toNat + 1)) l))
            if (e.path.lanes &&& ~~~ e.grp.helper).getLsbD l then
              x.set j.toNat (BitVec.ofNat 32 (elem 32 0 (laneOf v l)), BitVec.ofNat 32 (elem 32 1 (laneOf v l)), z)
            else x })) ∧
    (∀ x, isControl e.core = false → e.blk.pixel = some x →
      (Issues s {} e → e.hasVec d → (c.toNat < 4 ∨ 8 ≤ c.toNat) →
        ∀ fl, fl = (lanesOf e.path.lanes).foldl (fun fl l => Nat.lor fl (x.flags c.toNat l)) 0 →
        (¬ traps e fl → exec (.pcov d c) s = .next (wrote (flagged s e fl) (putLanes e d (x.read c.toNat)))) ∧
        (traps e fl → exec (.pcov d c) s = trapNext s e fl)) ∧
      (Issues s { mask := true } e → e.readsMask e.pfx.mask →
        (e.hasVec a → e.reads a → (∀ l f, e.accesses false l = true → e.grp.frags[l]? = some f → f.colour = none) →
          exec (.pexp a) s = .next (wrote s fun g => { g with
            frags := g.frags.mapIdx fun l f =>
            if e.accesses false l then { f with colour := some (BitVec.ofNat 32 (laneOf (e.operand a) l).toNat) } else f })) ∧
        exec .pkill s = .next (wrote s fun g => { g with
            frags := g.frags.mapIdx fun l f =>
          if e.accesses false l then { f with killed := true } else f }) ∧
        (e.hasVec a → e.reads a → exec (.pdepth a) s = .next (wrote s fun g => { g with
            frags := g.frags.mapIdx fun l f =>
          if e.accesses false l then { f with depth := some (BitVec.ofNat 32 (laneOf (e.operand a) l).toNat) } else f }))))

/-- R333 to R338: PEMIT writes each lane's primitive into the bins of the owners its box touches and moves its producer's mark;
PEMIT.END sets the mark to all ones; both open the frame when none is open.
The model's choices here: the distinct owners that are counted (log 60) and the tiles a box touches (log 66). -/
def Obligations.Emission : Prop :=
  ∀ (s u v w z : State) (e : Scene) (d a b : BitVec 7) (i p mark : Nat) (t : Target), Issues s {} e → e.readsUni a →
    p = e.blk.x →
    (¬ e.works → exec (.pemitEnd a) s = .next (wrote s id)) ∧
    (¬ e.works → e.hasVec d → d.toNat + 5 ≤ e.grid.lrec.vregs → e.reads b → (∀ i < 5, e.clear (d.toNat + i) e.path.lanes) →
      exec (.pemit d a b) s = .next (wrote s id)) ∧
    (e.works → openTarget (e.uni a) s = .ok ((i, t), u) → u.blocks = s.blocks → u.cur = s.cur → p < t.nprod →
      Learns (coreReadHome (t.markAt p)) u mark v →
      (mark ≠ 2 ^ 64 - 1 → Quiet v e → putHomeWord (t.markAt p) (2 ^ 64 - 1) v = .ok ((), w) → w.blocks = s.blocks →
        w.cur = s.cur → exec (.pemitEnd a) s = .next (wrote (w.count (.core e.core) e.blk.ctx t.phase
          (t.owners (w.shaderDies e.blk.ctx)).length 0) id)) ∧
      (∀ ls last seq owners, e.hasVec d → d.toNat + 5 ≤ e.grid.lrec.vregs → e.reads b →
        (∀ i < 5, e.clear (d.toNat + i) e.path.lanes) → ls = lanesOf (e.path.lanes &&& ~~~ e.grp.helper) →
        seq = (fun l => (laneOf (e.operand b) l).toNat) → seqOk mark (ls.map seq) = true → ls.getLast? = some last →
        owners = (fun l => t.boxOwners (v.shaderDies e.blk.ctx) (lanePos e.grp d.toNat l)) →
        ∀ v', Learns (each (t.owners (v.shaderDies e.blk.ctx)) fun o =>
          if (ls.filter fun l => (owners l).contains o).length ≠ 0 then do
            let wc ← coreReadHome (t.binAt o p)
            let rc ← coreReadHome (addI (t.binAt o p) 8)
            if t.bincap < wc - rc + (ls.filter fun l => (owners l).contains o).length then wait else pure ()
          else pure ()) v () v' → Quiet v' e →
        each ls (fun l => each (owners l) fun o =>
          putEntry t p o (seq l) (lanePos e.grp d.toNat l) ((e.grp.attrs[l]?).getD zeroAttrs)) v' = .ok ((), w) →
        w.blocks = s.blocks → w.cur = s.cur →
        putHomeWord (t.markAt p) (seq last) (w.modGrp s.cur.blk s.cur.grp fun g =>
          { g with attrs := setLanes g.attrs (e.path.lanes &&& ~~~ e.grp.helper) zeroAttrs }) = .ok ((), z) →
        exec (.pemit d a b) s = .next (wrote z id)))

/-- R339 to R344: the steps of an owner's coverage and blend units: they take the least primitive once no producer can still
send a smaller one, start pixel groups of its quads, flush a tile, blend a primitive's fragments and write the frame back. A point belongs to at
most one of two triangles that share an edge.
A unit of a die holds its tiles for every open frame; the tile it flushes is the least recently used of those with no work in flight.
The model's choices here: the depth at a sample (log 67) and what a use of a tile is (log 68). -/
def Obligations.RenderSteps : Prop :=
  (∀ (ax ay bx bY cx cy dx dy x y : Int),
    0 < (bx - ax) * (cy - ay) - (bY - ay) * (cx - ax) → 0 < (ax - bx) * (dy - bY) - (ay - bY) * (dx - bx) →
      ¬ (covers [ax, ay, bx, bY, cx, cy] x y = true ∧ covers [bx, bY, ax, ay, dx, dy] x y = true)) ∧
  (∀ (s u v w : State) (i die core : Nat) (f : Frame) (c : Cover), s.frame? i = some f → f.coverOf die = some c →
    f.closed = false → s.ctxRuns f.ctx = true →
    (∀ heads marks h p rc prim x ws, Learns (binHeads f die) (atRest s) heads u → Learns (readMarks f die) u marks v →
      leastHead heads = some (h, p, rc) → (∀ m ∈ marks, h ≤ m) → Learns (readPrim f die p rc) v prim w →
      f.write die (addI (f.target.binAt die p) 8) 8 ((rc + 1) % 2 ^ 64) w = .ok ((), x) →
      ws = rasterise f.target (x.shaderDies f.ctx) die prim →
      exec (.coverageTakePrimitive i die) s = .next
        (let t := x.modCover i die fun c => { c with work := c.work ++ ws, taken := c.taken + 1 }
         if ws.isEmpty then t.received f die 1 else t)) ∧
    (∀ g k tw, s.grid? f.grid = some g → c.work.findIdx? (fun w => !w.quads.isEmpty) = some k → c.work[k]? = some tw →
      dieOf core = die → (atRest s).askD (mayStart f.grid g 1 core) false = true →
      ensureTile i die f tw.tx tw.ty (atRest s) = .ok ((), u) → u.blocks = s.blocks →
      exec (.pixelGroupStart i die core) s = .next
        ((begun u f.grid core (pixelBlockOf f i die core g.next g tw (tw.quads.take 8))).modCover i die
          fun c => { c with work := c.work.modify k fun w =>
            { w with quads := w.quads.drop 8, running := w.running ++ [s.blocks.length] }, waitSince := none })) ∧
    (∀ k t f', Config.residentTiles ≤ (s.tilesOn die).length → (∃ w ∈ c.work, w.quads ≠ [] ∧ c.resident w.tx w.ty = false) →
      s.tileVictim die = some (k, t) → s.frame? k = some f' → spillTile f' die t (atRest s) = .ok ((), u) →
      exec (.tileFlush i die) s = .next ((u.bumped f'.ctx 15 1 die).modCover k die fun c =>
        { c with
          tiles := c.tiles.filter fun x => !x.is t.tx t.ty
          spilled := if c.spilled.contains (t.tx, t.ty) then c.spilled else c.spilled ++ [(t.tx, t.ty)] })) ∧
    (∀ k t, s.tileVictim die = some (k, t) → (∃ y ∈ s.coversOn die, y.1 = k ∧ t ∈ y.2.tiles ∧ y.2.busy t.tx t.ty = false) ∧
      ∀ y ∈ s.coversOn die, ∀ x ∈ y.2.tiles, y.2.busy x.tx x.ty = false → t.used ≤ x.used) ∧
    (∀ tile k tw, c.work.findIdx? (fun w => decide (w.ty * (f.target.width / 32) + w.tx = tile)) = some k →
      c.work[k]? = some tw → tw.quads = [] → tw.running = [] → (tw.frags = [] ∨ c.resident tw.tx tw.ty = true) →
      ∀ t : State, t = ((atRest s).modCover i die fun c =>
          { c with
            tiles := c.tiles.map fun x => if x.is tw.tx tw.ty then applyFrags f.target tw x else x
            work := c.work.eraseIdx k }) →
      ((∀ x ∈ c.work.eraseIdx k, x.prim.seq = tw.prim.seq → x.prim.producer ≠ tw.prim.producer) → exec (.orderedBlendApply i die tile) s = .next
        ((t.modCover i die (fun c => { c with applied := c.applied + 1 })).received f die 1)) ∧
      ((∃ x ∈ c.work.eraseIdx k, x.prim.seq = tw.prim.seq ∧ x.prim.producer = tw.prim.producer) → exec (.orderedBlendApply i die tile) s = .next t)) ∧
    (∀ marks, c.work = [] → c.written = false → Learns (binHeads f die) (atRest s) [] u → Learns (readMarks f die) u marks v →
      (∀ m ∈ marks, m = 2 ^ 64 - 1) → each c.touched (fun (b : Nat × Nat) => do
        let t ← match c.tiles.find? (fun t => t.is b.1 b.2) with
          | some t => pure t
          | none => loadTile f die c b.1 b.2
        writeTile f die t) v = .ok ((), w) →
      exec (.frameWriteback i die) s = .next
        (let t := (w.modCover i die fun c => { c with written := true, tiles := [] }).received f die f.target.nprod
         { t with frames := t.frames.modify i fun f => { f with closed := f.covers.all (·.written) } })))

/-! ### Faults, traps and system registers -/

/-- R303, R304, R310, R311: a fatal fault stops the path, and the context captures it, or counts it when one is captured;
nothing else changes, memory included. R315, R317: TRAP, with a handler set and its threads outside it, saves the next word's
address in EPC of each active lane, sets their handler mode, CAUSE and FADDR, and sends them to TVEC, which must be a clause
that can be fetched; with no handler it is fatal; helper lanes alone go to the next header. R316: ERET, with every lane in
handler mode, clears the mode and sends each lane to its EPC, into the clause it trapped in when EPC lies there; otherwise it is
illegal.
The model's choices here: where an ERET into the trapped clause resumes (log 100). -/
def Obligations.FaultsAndTraps : Prop :=
  (∀ (s : State) (u : PfxUse) (e : Scene) (f : Flt), Issues s u e → (∀ c ∈ s.clamps, s.ownClamp c = false) →
    ¬ (f.cls = 3 ∧ f.cause = 0) → f.cls ≠ 12 → f.cls ≠ 13 → (f.unit = 0 ∨ 4 < f.unit) →
      (e.ctx.fault = none → takeFault f s = (s.modCtx e.blk.ctx fun c => { c with fault := some (faultRec f s) }).modPath
        s.cur.blk s.cur.grp s.cur.path fun p => { p with stopped := true }) ∧
      (e.ctx.fault ≠ none → takeFault f s = (s.modCtx e.blk.ctx fun c => { c with more := c.more + 1 }).modPath
        s.cur.blk s.cur.grp s.cur.path fun p => { p with stopped := true })) ∧
  (∀ (s u : State) (e : Scene) (n : BitVec 7), Issues s {} e → (∀ c ∈ s.clamps, s.ownClamp c = false) →
    (¬ e.works → exec (.trap n) s = .next (moved s e fun _ => nextHeader s e)) ∧
    (e.works → e.ctx.tvec = 0 ∨ e.grp.handler &&& e.path.lanes ≠ 0 →
      exec (.trap n) s = .next (s.fatal { flt 13 n.toNat with detail := BitVec.ofNat 64 n.toNat })) ∧
    (e.works → e.ctx.tvec ≠ 0 → e.grp.handler &&& e.path.lanes = 0 → checkTarget e.ctx.tvec s = .ok ((), u) →
      exec (.trap n) s = .next (s.modGrp s.cur.blk s.cur.grp fun g =>
        { g with
          epc := g.epc.mapIdx fun l x => if e.path.lanes.getLsbD l then nextHeader s e else x
          handler := g.handler ||| e.path.lanes
          cause := (faultRec { flt 13 n.toNat with detail := BitVec.ofNat 64 n.toNat } s).code
          faddr := 0
          traps := g.traps.mapIdx fun l x =>
            if e.path.lanes.getLsbD l then e.path.cl.map (fun c => (c, e.path.pc)) else x
          paths := (g.paths.modify s.cur.path fun p =>
            { p with pc := e.ctx.tvec, cl := none, wait := none, entry := none, left := p.entry }).foldl joinPath [] }))) ∧
  (∀ (s u : State) (e : Scene), Issues s {} e →
    (e.path.lanes &&& ~~~ e.grp.handler ≠ 0 → exec .eret s = .next (takeFault (illegal 11) s)) ∧
    (e.path.lanes &&& ~~~ e.grp.handler = 0 → ∀ goals, goals = places ((lanesOf e.path.lanes).map e.grp.eretTo) →
      Fetches s (distinct ((goals.filter fun x => x.2.isNone).map (·.1))) u →
      exec .eret s = .next (u.modGrp s.cur.blk s.cur.grp fun g =>
        { g with
          handler := g.handler &&& ~~~ e.path.lanes
          paths := (goals.map fun x => ({
              lanes := (lanesOf e.path.lanes).foldl (fun m l => if e.grp.eretTo l = x then m ||| BitVec.ofNat 32 (2 ^ l) else m) 0
              pc := x.1, cl := x.2, ctr := e.path.ctr, fair := e.path.fair, yieldAt := e.path.yieldAt
              left := e.path.entry } : Path)).foldl joinPath
            (g.paths.eraseIdx s.cur.path) })))

/-- R318 to R321: CSRRD reads, and CSRWR, its set and its clear form write, every register that is assigned; a write of a
register that only the host writes is a permission fault, and one of a read-only register (EPC of a thread outside handler mode
among them), of an unassigned number, or that would set a reserved bit, is illegal, as is a read of an unassigned number.
The model's choice here: these illegal instructions record the cause operand (3) (log 72). -/
def Obligations.SystemRegisters : Prop :=
  (∀ (s : State) (e : Scene) (d a b : BitVec 7), Issues s {} e → csrAssigned b.toNat = false →
    ∀ i ∈ ([.csrrd d b, .csrwr a b, .csrwrSet a b, .csrwrClr a b] : List Instr), exec i s = .next (takeFault (illegal 3) s)) ∧
  ∀ (s : State) (e : Scene) (d a b : BitVec 7) (n : Nat), Issues s {} e → n = b.toNat → csrAssigned n = true →
    (csrPerThread n = true → e.hasVec d → exec (.csrrd d b) s = .next (wrote s (putLanes e d (laneOf (csrThread e.grp n))))) ∧
    (csrPerThread n = false → e.hasUni d → exec (.csrrd d b) s =
      .next (uniNext s d (csrValue e.ctx e.grp (s.partAt e.ctx.part) n))) ∧
    (∀ (i : Instr) (f : Word → Word → Word), (i, f) ∈ ([(.csrwr a b, fun _ x => x), (.csrwrSet a b, fun old x => old ||| x),
        (.csrwrClr a b, fun old x => old &&& ~~~ x)] : List (Instr × (Word → Word → Word))) →
      (csrPerThread n = true → e.hasVec a → e.reads a → (n = 2 → e.path.lanes &&& ~~~ e.grp.handler = 0) →
        exec i s = .next (wrote s fun g => g.setThreadCsr n e.path.lanes fun l x => f x (laneOf (e.operand a) l))) ∧
      (n = 2 → e.hasVec a → e.reads a → e.path.lanes &&& ~~~ e.grp.handler ≠ 0 → exec i s = .next (takeFault (illegal 3) s)) ∧
      (csrPerThread n = false → e.readsUni a → csrPrivileged n = true → exec i s = .next (takeFault (flt 2 8) s)) ∧
      (csrPerThread n = false → e.readsUni a → csrReadOnly n = true → exec i s = .next (takeFault (illegal 3) s)) ∧
      (csrPerThread n = false → e.readsUni a → csrPrivileged n = false → csrReadOnly n = false →
        ∀ v, v = f (csrValue e.ctx e.grp Machine.Part.none n) (e.uni a) →
        (csrWritable n v.toNat = false → exec i s = .next (takeFault (illegal 3) s)) ∧
        (csrWritable n v.toNat = true → exec i s = .next (wrote (s.modCtx e.blk.ctx fun c => c.setCsr n v) id))))

/-- R58, R59, R322: TLBINV and TLBINV.ASN need CTL bit 0; with nothing that still uses the named translations they, and the
host's SHOOTDOWN, perform every store made through them and drop them from every cache; else the shootdown is begun. R323, R352:
SNAP needs CTL bit 1 and fires the trigger of every set of its context; the host configures a set, which arms it, and reads it,
which arms it again; its trigger fires once when the timebase has reached its value.
The model's choices here: the completion of a shootdown performs every buffered store (log 43), and a rearm clears MISSED
(log 102). -/
def Obligations.ShootdownsAndSnapshots : Prop :=
  ((∀ (s u : State) (e : Scene) (a b : BitVec 7) (i : Instr) (sh : Shoot) (glob : Bool), Issues s {} e →
    (i = .tlbinv a b ∧ glob = true ∧ e.readsUni a ∧ e.readsUni b ∧ tlbinvOk (e.uni a).toNat (e.uni b).toNat = true ∧
        sh = ⟨e.ctx.part, e.ctx.asn, (e.uni a).toNat,
          (e.uni a).toNat + fld 35 16 (e.uni b).toNat * pageBytes (fld 3 0 (e.uni b).toNat)⟩ ∨
      i = .tlbinvAsn ∧ glob = false ∧ sh = ⟨e.ctx.part, e.ctx.asn, 0, 2 ^ 64⟩) →
    (e.ctx.ctl.getLsbD 0 = false → exec i s = .next (takeFault (flt 2 8) s)) ∧
    (e.ctx.ctl.getLsbD 0 = true → s.shootBlocked sh = true →
      exec i s = .next (if s.shoots.contains sh then s else { s with shoots := s.shoots ++ [sh] })) ∧
    (e.ctx.ctl.getLsbD 0 = true → s.shootBlocked sh = false → settleStores s = .ok ((), u) →
      exec i s = .next (wrote ((({ u with shoots := u.shoots.filter fun x => decide (x ≠ sh) } : State).dropTlb sh glob).replan sh)
        id))) ∧
  (∀ (s u : State) (ctx : Nat) (c : Ctx) (va : Word) (size pages : Nat) (sh : Shoot), s.ctxAt ctx = some c → size < 12 →
    1 ≤ pages → va.toNat % pageBytes size = 0 → sh = ⟨c.part, c.asn, va.toNat, va.toNat + pages * pageBytes size⟩ →
    (s.shootBlocked sh = true → exec (.shootdown ctx va size pages) s =
      .next (if s.shoots.contains sh then atRest s else { atRest s with shoots := s.shoots ++ [sh] })) ∧
    (s.shootBlocked sh = false → settleStores (atRest s) = .ok ((), u) → exec (.shootdown ctx va size pages) s =
      .next ((({ u with shoots := u.shoots.filter fun x => decide (x ≠ sh) } : State).dropTlb sh true).replan sh)))) ∧
  ((∀ (s u : State) (e : Scene) (d a : BitVec 7) (r : Option Nat), Issues s {} e → e.hasUni d → e.readsUni a →
    (e.ctx.ctl.getLsbD 1 = false → exec (.snap d a) s = .next (takeFault (flt 2 8) s)) ∧
    (e.ctx.ctl.getLsbD 1 = true → fireTrigger e.blk.ctx 0 (BitVec.ofNat 16 (e.uni a).toNat) [0, 1, 2, 3] s = .ok (r, u) →
      u.blocks = s.blocks → u.cur = s.cur →
      exec (.snap d a) s = .next (uniNext u d ((r.map (BitVec.ofNat 64)).getD (BitVec.allOnes 64))))) ∧
  (∀ (s u : State) (ctx set : Nat) (x : SnapSet) (cfg : SnapCfg), s.snapAt ctx set = some x →
    (s.up = true → x.latched = none → cfg.sources.length ≤ 16 →
      exec (.snapshotConfigure ctx set cfg) s = .next ((atRest s).setSnap ctx set ⟨some cfg, true, none, x.missed⟩)) ∧
    (∀ l, s.up = true → x.latched = some l → exec (.snapshotReadRearm ctx set) s = .next
      (({ atRest s with reply := l.words x.missed } : State).setSnap ctx set { x with armed := true, latched := none, missed := 0 })) ∧
    (∀ t r y, x.cfg = some cfg → cfg.timeMatch = some t → t.toNat ≤ s.time.toNat →
      fireTrigger ctx 1 0 [set] (atRest s) = .ok (r, u) → u.snapAt ctx set = some y →
      exec (.snapshotTimeMatch ctx set) s = .next (u.setSnap ctx set { y with cfg := some { cfg with timeMatch := none } }))))


/-! ### Steps that no word encodes -/

/-- R24 to R30, R264, R273: the clause of a path in the issue table is fetched, for every member of its entry that stands at the
header; the chosen entry's clause begins to issue once its conditions hold; a waiting word issues again; of the entries that
may be chosen the first to reach the fairness timer is, else the one with the smallest pc; an entry that has yielded is not chosen
for 64 cycles while another that has not can be.
The model's choices here: the order in which lanes that come to a header join entries (log 24), that a member left behind stays in
its entry (log 53), whose counter joining lanes take (log 54), what the counters count (logs 101, 135), a QPEEK that blocks its
entry (log 133), which of several entries at one pc is chosen (log 134) and when an entry has reached the timer (log 139). -/
def Obligations.IssueSteps : Prop :=
  ∀ (s u : State) (blk grp path core : Nat) (b : Block) (g : Group) (p : Path), s.blkAt blk = some b →
    b.groups[grp]? = some g → g.paths[path]? = some p → b.core = some core → s.mayIssue blk grp path = true →
    (∀ c, s.ctxRuns b.ctx = true → p.wait = none → p.cl = none → g.deadHelpers &&& p.lanes = 0 → p.entry.isSome = true →
      Learns (fetchClause ⟨some core, dieOf core, b.ctx⟩ p.pc) (s.atHeader blk grp path) c u →
      exec (.clauseFetch blk grp path) s = .next (u.fetched p c) ∧
        (∃ q, (u.fetched p c).pathAt blk grp path = some q ∧ q.cl = some c) ∧
        ∀ x ∈ u.othersOn blk grp (fun q => q.atHeader && q.cl.isNone && decide (q.entry = p.entry ∧ q.pc = p.pc)),
          ∃ q, (u.fetched p c).pathAt x.1 x.2.1 x.2.2.1 = some q ∧ q.cl = some c) ∧
    (∀ c t v, s.ctxRuns b.ctx = true → p.wait = none → s.chosen blk grp = some path → s.oldest blk grp p = true →
      p.cl = some c → c.ready = false → clauseConditions c.hdr.toNat (s.atHeader blk grp path) = .ok ((), u) →
      g.deadHelpers &&& p.lanes = 0 → u.blocks = s.blocks → u.cur = ⟨blk, grp, path, 0, none⟩ →
      t = (u.bumped b.ctx 1 1 (dieOf core)).bumped b.ctx 2 1 (dieOf core) →
      each (t.othersOn blk grp fun q => decide (q.headKey = p.headKey)) beginFellow
        (t.modGrp blk grp fun g => g.beginClause path) = .ok ((), v) →
      exec (.clauseConditionsMet blk grp path) s = .next v) ∧
    (∀ i q, s.chosen blk grp = some i → g.paths[i]? = some q → s.unblocked blk q = true ∧
      (q.yields core s.time = true → ∀ y ∈ g.paths, s.unblocked blk y = true → y.yields core s.time = true) ∧
      ((∃ y ∈ s.choices blk grp, s.fairLimit blk ≤ y.2.ctr) → s.fairLimit blk ≤ q.ctr ∧
        ∀ y ∈ s.choices blk grp, s.fairLimit blk ≤ y.2.ctr → y.2.before q = false) ∧
      ((∀ y ∈ s.choices blk grp, y.2.ctr < s.fairLimit blk) → ∀ y ∈ s.choices blk grp, q.pc.toNat ≤ y.2.pc.toNat)) ∧
    (∀ x r k, s.fellows blk grp p = x :: r → p.setKey = some k → exec (.waitingWordResume blk grp path) s =
      forMembers k resumeOne (memberOrder s.freeCtr ((blk, grp) :: (x :: r).map fun y => (y.1, y.2.1)))
        { s with freeCtr := s.freeCtr + (1 + (x :: r).length) }) ∧
    (∀ (w : Code) (pf : Option Code) (i : Instr) (q : BitVec 4) (f sp c3 : BitVec 3) (a d x : BitVec 7) (k1 : BitVec 1),
      s.fellows blk grp p = [] → p.words = some (w, pf) → p.resumes = true → s.ctxRuns b.ctx = true →
      decodeWord w.toNat = .ok i →
      i ∈ ([.qpop q a, .qpeek q a, .qpush q f a x, .waitb a, .waitcmp d a x c3, .waitt d a, .twait a, .tdecl a,
        .cpyb q sp a x, .cpyt q f sp a x, .cpyh q sp a, .cpyc q sp a x, .mma q f sp a x, .mma1 q f sp a x, .mzero q a x,
        .mout q f a x, .bar, .barc, .quiesce sp, .rqpush d k1 x, .rqpop d k1 q, .pemit d a x, .exit] : List Instr) →
      exec (.waitingWordResume blk grp path) s = exec i (atWord s blk grp path w pf)) ∧
    (∀ (w : Code) (pf : Option Code) (e : Scene), s.fellows blk grp p = [] → p.words = some (w, pf) → s.ctxRuns b.ctx = true →
      decodeWord w.toNat = .ok .bar → p.waitsFor Wait.isBar = true → Issues (atWord s blk grp path w pf) {} e →
      Quiet (atWord s blk grp path w pf) e →
      exec (.waitingWordResume blk grp path) s = .next ((atWord s blk grp path w pf).settleBar blk)) ∧
    (s.fairLimit blk ≤ p.ctr → p.fair = none → exec (.fairnessTimerExpiry blk grp path) s =
      .next ((atRest s).modPath blk grp path fun p => { p with fair := some (cyclesIn core s.time.toNat) })) ∧
    (∀ t, p.yieldAt = some t → 64 ≤ cyclesIn core (s.time - t).toNat →
      exec (.yieldTimeout blk grp path) s = .next ((atRest s).modPath blk grp path fun p => { p with yieldAt := none }))

/-- R97, R98, R111, R295: a WAITCMP that polls reads its word again each 2 µs; at its deadline it returns the last value read; a
block with a group parked for 4 µs may be swapped; a WAITT ends when its deadline has come; an MCAS whose turn it is in its issue
set is granted its next line, the die's earlier stores to it having been performed (R251), or its request waits in order of arrival.
The model's choices here: a clamp that would leave no order in which every MCAS ends is not granted yet (log 116), and a higher
group waits behind a lower one of its set (log 127). -/
def Obligations.WaitSteps : Prop :=
  ∀ (s u v : State) (blk grp path core : Nat) (b : Block) (g : Group) (p : Path) (w : Code) (pf : Option Code) (e : Scene)
    (d a x : BitVec 7) (c3 : BitVec 3), s.blkAt blk = some b → b.groups[grp]? = some g → g.paths[path]? = some p →
    b.core = some core → b.ended = false → p.stopped = false → p.words = some (w, pf) →
    (∀ (k : CmpWait) (n : Nat), p.wait = some (.cmp k) → k.got = none → k.polling = true → k.since.toNat + 2000 ≤ s.time.toNat →
      Learns (loadHome ⟨some core, dieOf core, b.ctx⟩ ⟨k.pa, k.cl * 256, 0, 0, 0⟩ 8) (atWord s blk grp path w pf) n u →
      exec (.waitcmpPoll blk grp path) s = .next (u.modPath blk grp path fun p =>
        { p with wait := some (.cmp { k.see (BitVec.ofNat 64 n) with since := u.time }) })) ∧
    (∀ (k : CmpWait) (t : Nat), p.wait = some (.cmp k) → k.got = none → k.deadline = some t → t ≤ s.time.toNat →
      (k.polling = true ∨ ∃ m ∈ s.monitors, m.blk = blk ∧ m.grp = grp ∧ m.lanes = p.lanes) →
      decodeWord w.toNat = .ok (.waitcmp d a x c3) → Issues (atWord s blk grp path w pf) { op4 := true, mem := true } e →
      e.hasUni d → e.pfx.ord < 2 → Scoped (atWord s blk grp path w pf) e →
      ∃ t, exec (.waitcmpDeadline blk grp path) s = .next t ∧ t.mem = s.mem ∧
        t.blocks = (uniNext (atWord s blk grp path w pf) d k.last).blocks ∧
        ∀ m ∈ t.monitors, ¬ (m.blk = blk ∧ m.grp = grp ∧ m.lanes = p.lanes)) ∧
    (b.swapOk = false → (∃ h ∈ b.groups, ∃ y ∈ h.paths, y.parked = true ∧ y.since.toNat + 4000 ≤ s.time.toNat) →
      exec (.parkSwapTimeout blk) s = .next ((atRest s).modBlk blk fun b => { b with swapOk := true })) ∧
    (∀ t, p.wait = some (.time t) → t ≤ s.time.toNat → decodeWord w.toNat = .ok (.waitt d a) →
      Issues (atWord s blk grp path w pf) {} e → e.hasUni d →
      exec (.waittWake blk grp path) s = .next (uniNext (atWord s blk grp path w pf) d s.time)) ∧
    (∀ (m : McasSt) (l : Nat), p.wait = none → decodeWord w.toNat = .ok (.mcas d a) →
      Issues (atWord s blk grp path w pf) {} e → e.works → e.readsUni a →
      mcasStart (e.uni a) (atWord s blk grp path w pf) = .ok (m, v) → v.blocks = s.blocks → v.cur = ⟨blk, grp, path, w, pf⟩ →
      m.obs = none → (mcasLines m.entries).find? (fun l => !v.hasClamp l) = some l → s.turn blk grp p = true →
      (∀ c ∈ v.clamps, c.line = l → v.ownClamp c = false) →
      ∀ x z : State, x = (v.modPath blk grp path fun p => { p with wait := some (.mcas m) }) →
      z = { x with clamps := x.clamps ++ [⟨l, blk, grp, p.lanes, false⟩] } →
      (∀ f y : State, flushFwd (fun f => decide (f.die = dieOf core) && decide (f.line = l)) x = .ok ((), f) →
        f.blocks = x.blocks → f.cur = x.cur → f.clamps = x.clamps →
        y = { (f.modDie (dieOf core) fun k => k.dropReplica l).toDevice l with
          clamps := f.clamps ++ [⟨l, blk, grp, p.lanes, true⟩] } → grantable l x = .ok (.granted, x) →
        (y.clampsEnd = true → exec (.clampGrant blk grp path) s = .next y) ∧
        (y.clampsEnd = false → z.clampsEnd = true → exec (.clampGrant blk grp path) s = .next z)) ∧
      (flushFwd (fun f => decide (f.die = dieOf core) && decide (f.line = l)) x = .error .hold →
        grantable l x = .ok (.granted, x) → exec (.clampGrant blk grp path) s = .next s) ∧
      (grantable l x = .ok (.waits, x) → z.clampsEnd = true → exec (.clampGrant blk grp path) s = .next z) ∧
      (grantable l x = .ok (.moving, x) → exec (.clampGrant blk grp path) s = .next
        ((x.dropClamps.bumped b.ctx 9 1 (dieOf core)).modPath blk grp path fun p => { p with wait := none }))) ∧
    (∀ (x : State) (l : Nat), (x.clampFree l = false ∨ x.bufferFree l = false) → x.homeGone l = none →
      grantable l x = .ok (.waits, x)) ∧
    (∀ (x : State) (l : Nat), x.clampFree l = true → x.bufferFree l = true → x.homeGone l = none →
      (x.migrating l = true → grantable l x = .ok (.moving, x)) ∧
      (x.migrating l = false → x.poisonIn (128 * l) 128 = none → grantable l x = .ok (.granted, x)))

/-- R62, R63, R66, R68, R70, R74, R329: a store made at a line's home changes the masked bytes and no other, and clears the poison of the
granules that one store covers whole; a buffer entry drains at
any time, and when idle; a store on its way is performed at home, after the earlier ones to its line, or at the new home of a
forwarded line; a slice encodes a line again; a snoop takes an object's lines from every cache and answers the line.
The model's choices here: the set of a line (log 20) and what a snoop is answered (logs 83, 89). -/
def Obligations.MemorySteps : Prop :=
  (∀ (s : State) (line pte x : Nat) (data : BitVec 1024) (mask : BitVec 128), MemOk s →
    getByte (s.putHome line data mask pte).mem x = if x / 128 = line ∧ mask.getLsbD (x % 128) = true
      then BitVec.ofNat 8 (data.toNat / 256 ^ (x % 128)) else getByte s.mem x) ∧
  (∀ (s : State) (line x : Nat) (f : Fwd), MemOk s →
    getByte (s.putStores line f).mem x = (if x / 128 = line ∧ f.mask.getLsbD (x % 128) = true
      then BitVec.ofNat 8 (f.data.toNat / 256 ^ (x % 128)) else getByte s.mem x) ∧
    ∀ g, g ∈ (s.putStores line f).poison ↔ g ∈ s.poison ∧ ¬ (g / 16 = line ∧ f.whole.getLsbD (g % 16) = true)) ∧
  (∀ (s t : State) (core k : Nat) (e : WcEntry), (s.coreAt core).wc[k]? = some e → drainEntry core e (atRest s) = .ok ((), t) →
    exec (.wcEntryDrain core k) s = .next t ∧
    (256 ≤ cyclesIn core (s.time - e.last).toNat → exec (.wcIdleTimeout core k) s = .next t)) ∧
  (∀ (s : State) (core k : Nat) (e : WcEntry), (s.coreAt core).wc[k]? = some e → Still s → s.lineDie e.line = dieOf core →
    exec (.wcEntryDrain core k) s = .next (((atRest s).modCore core fun c =>
      { c with wc := c.wc.filter fun x => decide (x.line ≠ e.line) }).putStores e.line
        ⟨e.line, e.data, e.mask, e.pte, e.groups, core, e.whole⟩)) ∧
  (∀ (s : State) (i l : Nat) (f : Fwd), s.fwd[i]? = some f → s.firstOfLine i f = true → l = s.resolve f.line → s.clamps = [] →
    s.homeGone l = none → s.moving f.line = false →
    (roomFor l f.data f.mask f.pte s = .ok ((), s) →
      exec (if l = f.line then .storeForwardHome i else .forwardedAccess i) s = .next
        ((({ atRest s with fwd := s.fwd.eraseIdx i } : State).crossed f l).putStores l f)) ∧
    (roomFor l f.data f.mask f.pte s = .error .hold →
      exec (if l = f.line then .storeForwardHome i else .forwardedAccess i) s = .next s)) ∧
  (∀ (s : State) (line : Nat) (h : HomeLine), s.l2.find? (fun h => decide (h.line = line)) = some h → h.cmp = true →
    h.enc ≠ encode65 (lineOf s.mem line) → (s.dieAt (s.lineDie line)).l2Reset = false →
    ∀ l : List HomeLine, l = (s.l2.map fun h => if h.line = line then { h with enc := encode65 (lineOf s.mem line) } else h) →
      setFits (({ s with l2 := l } : State).tagsIn (s.lineDie line) line) = true →
      exec (.l2Reencode line) s = .next { atRest s with l2 := l }) ∧
  (∀ (s : State) (line : Nat) (own : Bool), localLine line = true ∨ (s.objOf line).isSome = true →
    (∀ c ∈ s.clamps, c.granted = true → s.snooped line c.line = false) → (s.dieAt (s.lineDie line)).l2Reset = false →
    exec (.hostSnoop line own) s = .next { atRest s with
      l2 := s.l2.filter fun h => !s.snooped line h.line
      dies := s.dies.map fun x => (x.1, { x.2 with replicas := x.2.replicas.filter fun r => !s.snooped line r.line })
      objs := s.objs.map fun o => if o.has line then { o with st := if own then 2 else 1 } else o
      implicit := if localLine line && (s.objOf line).isNone then s.implicit.put (line / 2 ^ 23) (if own then 2 else 1)
        else s.implicit
      reply := if (s.poisonIn (128 * s.resolve line) 128).isSome then []
        else (List.range 16).map fun i => BitVec.ofNat 64 (getBytes s.mem (128 * s.resolve line + 8 * i) 8) })

/-- R73 to R76: a line that migrates is marked moving, then copied byte for byte and forwarded; the page's entries then name the
new page. A core domain's reset stops its cores alone; an L2 domain's reset empties its slices, and changes no byte outside the
dirty lines that it held.
The model's choices here: what a lost dirty line reads as is free (log 14), a core domain's reset leaves its blocks where they are
and changes nothing else (log 15), and the entries of all contexts are rewritten in one step (log 81). -/
def Obligations.MigrationAndResets : Prop :=
  (∀ (s : State) (old new : Nat), localLine old = true → localLine new = true → old ≠ new →
    (s.dieAt (s.lineDie old)).l2Reset = false → (s.dieAt (s.lineDie new)).l2Reset = false →
    (s.migrs.find? (fun m => decide (m.old = old)) = none → (∀ c ∈ s.clamps, c.line = old → c.granted = false) →
      (∀ m ∈ s.migrs, m.old ≠ new ∧ m.new ≠ new ∧ m.new ≠ old) →
      exec (.lineMigration old new) s = .next { atRest s with
        migrs := s.migrs ++ [⟨old, new, false⟩]
        dies := s.dies.map fun x => (x.1, x.2.dropReplica old) }) ∧
    (s.migrs.find? (fun m => decide (m.old = old)) = some ⟨old, new, false⟩ → (atRest s).rehome old new = none →
      exec (.lineMigration old new) s = .next s) ∧
    (s.migrs.find? (fun m => decide (m.old = old)) = some ⟨old, new, false⟩ → MemOk s →
      ((atRest s).rehome old new).isSome = true → ∃ t, exec (.lineMigration old new) s = .next t ∧ t.resolve old = new ∧ t.moving old = false ∧
        (∀ m ∈ s.monitors, m.pa / 128 = old → ({ m with pa := 128 * new + m.pa % 128 } : Monitor) ∈ t.monitors) ∧
        ∀ x, getByte t.mem x = if x / 128 = new then getByte s.mem (128 * old + x % 128) else getByte s.mem x)) ∧
  (∀ (s u v w x : State) (ctx at_ pte lv n old new : Nat) (c : Ctx) (va : Word) (seen : List (Nat × Nat)) (live : List Ctx)
      (shoots : List Shoot), s.ctxAt ctx = some c → canonical va = true →
    walkFrom va .load 4 (fld 55 12 c.tbr.toNat * 4096) [] (atRest s) = .ok ((at_, pte, lv, seen), u) →
    n = pageBytes (fld 63 60 pte) → old = fld 59 16 pte * 4096 → new % n = 0 →
    (∀ i < n / 128, (⟨old / 128 + i, new / 128 + i, true⟩ : Migr) ∈ s.migrs) →
    live = s.ctxs.filter (fun k => !k.terminated) → (∀ k ∈ live, (s.mappings k old n).2 = []) →
    shoots = (live.map fun k => (s.mappings k old n).1.map k.shootOf).flatten → (∀ sh ∈ shoots, s.shootBlocked sh = false) →
    settleStores u = .ok ((), v) →
    each (live.map fun k => (s.mappings k old n).1).flatten.eraseDups (fun x => do
      let e ← homeDword x.1
      putDword x.1 (framedPte e (fld 59 16 e * 4096 - old + new))) v = .ok ((), w) →
    each shoots (fun sh => do
      let done ← finishShoot sh true
      need done) { w with objs := w.objs.map (CohObj.follow old new n) } = .ok ((), x) →
    exec (.migrationFinish ctx va new) s = .next (({ x with
      migrs := x.migrs.filter fun m => !(decide (old / 128 ≤ m.old) && decide (m.old < (old + n) / 128)) } : State).dropCopies
        old n)) ∧
  (∀ (s : State) (die : Nat),
    (die < 4 → (s.dieAt die).coreReset = false →
      exec (.coreDomainReset die) s = .next ((atRest s).modDie die fun d => { d with coreReset := true })) ∧
    (s.up = true → s.works die = true → (s.dieAt die).coreReset = true →
      exec (.coreDomainOutOfReset die) s = .next ((atRest s).modDie die fun d => { d with coreReset := false })) ∧
    (s.up = true → s.works die = true → (s.dieAt die).l2Reset = true →
      exec (.l2DomainOutOfReset die) s = .next ((atRest s).modDie die fun d => { d with l2Reset := false })) ∧
    (die < 4 → (s.dieAt die).l2Reset = false → (∀ c ∈ s.clamps, c.granted = true → s.lineDie c.line ≠ die) →
      (∀ c ∈ s.cmds, c.status = .running → ∀ l ∈ c.restLines, s.lineDie (s.resolve l) ≠ die) →
      ∃ t, exec (.l2DomainReset die) s = .next t ∧ (t.dieAt die).l2Reset = true ∧ (∀ h ∈ t.l2, t.lineDie h.line ≠ die) ∧
        (∀ f ∈ t.fwd, t.homedOn (t.resolve f.line) die = false) ∧ (∀ m ∈ t.monitors, t.homedOn (m.pa / 128) die = false) ∧
        ∀ x, (∀ h ∈ s.l2, h.dirty = true → s.lineDie h.line = die → h.line ≠ x / 128) → getByte t.mem x = getByte s.mem x))

/-- R280 to R286: the packet at a queue's head. A wait packet passes once its word has reached its value; a signal packet
stores its value; a launch packet whose record passes waits for START and BARRIER, and is then accepted, and one whose record
fails is refused with the cause; a packet that breaks the layout stops the queue. Queues are mapped to slots by class and
arrival, and give up a slot after 100 µs to one that waits; a grid whose blocks have ended stores its signal.
The model's choices here: which waiting queue takes the slot of an empty one (log 39). -/
def Obligations.SchedulerSteps : Prop :=
  (∀ (s v w x y : State) (q : Nat) (u : UQueue) (d p : List Nat), AtPacket s q u d p v →
    (pktBarrier p = true → v.barrierMet u = true) →
    (∀ n, pktType p = 2 → (pktAddr p).toNat % 8 = 0 → readHome (schedAg u.ctx) (pktAddr p) v = .ok (n, w) → pktValue p ≤ n →
      schedStore u.ctx (u.va + 24) ((uqRead d + 1) % 2 ^ 64) w = .ok (true, y) → exec (.packetWait q) s = .next y) ∧
    (pktType p = 3 → (pktAddr p).toNat % 8 = 0 → schedStore u.ctx (pktAddr p) (pktValue p) v = .ok (true, w) →
      schedStore u.ctx (u.va + 24) ((uqRead d + 1) % 2 ^ 64) w = .ok (true, y) → exec (.packetSignal q) s = .next y) ∧
    (∀ r, pktType p = 1 → u.pending = none → checkLaunch (schedAg u.ctx) (pktAddr p) false v = .ok ((some r, 0), w) →
      exec (.packetLaunch q) s = .next
        (let t := w.modQueue q fun u => { u with pending := some (pktAddr p, r) }
         if t.time.toNat + 10000 < r.start.toNat then t.unmap q else t)) ∧
    (∀ r c, pktType p = 1 → u.pending = none → c ≠ 0 → checkLaunch (schedAg u.ctx) (pktAddr p) false v = .ok ((some r, c), w) →
      (pktBarrier p = true → w.barrierMet u = true) → refuse u.ctx r c w = .ok ((), x) →
      schedStore u.ctx (u.va + 24) ((uqRead d + 1) % 2 ^ 64) x = .ok (true, y) → exec (.packetLaunch q) s = .next y) ∧
    (∀ c, pktType p = 1 → u.pending = none → checkLaunch (schedAg u.ctx) (pktAddr p) false v = .ok ((none, c), w) →
      (pktBarrier p = true → w.barrierMet u = true) →
      schedStore u.ctx (u.va + 24) ((uqRead d + 1) % 2 ^ 64) w = .ok (true, y) → exec (.packetLaunch q) s = .next y) ∧
    (∀ va r, pktType p = 1 → u.pending = some (va, r) → r.start.toNat ≤ v.time.toNat →
      schedStore u.ctx (u.va + 24) ((uqRead d + 1) % 2 ^ 64)
        (({ v with grids := v.grids ++ [gridOf u.ctx va r q] } : State).modQueue q fun u =>
          { u with pending := none, grids := u.grids ++ [v.grids.length] }) = .ok (true, y) →
      exec (.launchAccept q) s = .next y)) ∧
  (∀ (s v w : State) (q : Nat) (u : UQueue) (d : List Nat), s.queue? q = some u → u.stopped = false →
    s.ctxRuns u.ctx = true → headOf u (atRest s) = .ok (.bad d, v) → stopQueue q u d v = .ok ((), w) →
    exec (.packetLaunch q) s = .next w ∧ exec (.packetWait q) s = .next w ∧ exec (.packetSignal q) s = .next w ∧
      exec (.launchAccept q) s = .next w) ∧
  (∀ (s : State) (q slot : Nat) (u : UQueue), s.queue? q = some u → slot < 64 →
    firstWaiter ((atRest s).askD (waiters slot) []) q = true →
    ((s.slotAt slot).q = none → exec (.queueSlotMap q slot) s = .next ((atRest s).map q slot) ∧
      (u.pending.isSome = true → exec (.slotRemapBeforeStart q slot) s = .next ((atRest s).map q slot))) ∧
    (∀ old, (s.slotAt slot).q = some old →
      (atRest s).askD (displaces (s.share u) ((atRest s).askD (classOf u) 0) slot) false = true →
      exec (.queueSlotMap q slot) s = .next (((atRest s).unmap old).map q slot) ∧
      (u.pending.isSome = true → exec (.slotRemapBeforeStart q slot) s = .next (((atRest s).unmap old).map q slot)))) ∧
  (∀ (s : State) (slot old q : Nat) (u : UQueue) (own : List (Nat × Nat × Nat)), (s.slotAt slot).q = some old →
    s.queue? old = some u → 100000 ≤ (s.slotAt slot).ns →
    own = ((atRest s).askD (waiters slot) []).filter (fun x => x.2.1 == (atRest s).askD (classOf u) 0) →
    (own.find? fun x => own.all fun y => decide (x.2.2 ≤ y.2.2)).map (·.1) = some q →
    exec (.slotTimeExpiry slot) s = .next ((((atRest s).unmap old).modQueue old fun u =>
      { u with waitSince := some s.time }).map q slot)) ∧
  (∀ (s u v w : State) (gi : Nat) (g : Grid), s.grid? gi = some g → g.done = false → s.ctxLives g.ctx = true →
    gridEnded g (atRest s) = .ok (true, u) → releaseGrid gi u = .ok ((), v) →
    (g.lrec.signal = 0 → exec (.gridComplete gi) s = .next (v.modGrid gi fun g => { g with done := true, waitSince := none })) ∧
    (∀ ok, g.lrec.signal ≠ 0 → storeDwords g.ctx g.lrec.signal [g.lrec.sigval.toNat] v = .ok (ok, w) →
      exec (.gridComplete gi) s = .next (w.modGrid gi fun g => { g with done := true, waitSince := none })))

/-- R170, R261, R283, R287, R288, R290: a leaf scan numbers a block for each leaf with an active bit, or ends the context; a
block starts on a core that it may use, with its registers as a group starts; a batch of records becomes a block; for a block, a
pixel group or a saved block that has waited 100 µs, the blocks of the lowest class that hold its cores are saved: for the first that
has such blocks.
The model's choices here: the blocks of a cluster are saved together (log 64). -/
def Obligations.BlockSteps : Prop :=
  (∀ (s u : State) (gi core : Nat) (g : Grid), s.grid? gi = some g → g.done = false → s.ctxRuns g.ctx = true →
    (∀ l, g.lrec.mode = 1 → g.scanned = false → scanTree g.ctx g.lrec.source (atRest s) = .ok (l, u) →
      exec (.leafScan gi) s = .next (u.modGrid gi fun g =>
        { g with scanned := true, leaves := l, lrec := { g.lrec with gx := l.length, gy := 1, gz := 1 } })) ∧
    (∀ f, g.lrec.mode = 1 → g.scanned = false → scanTree g.ctx g.lrec.source (atRest s) = .error (.fault f) →
      exec (.leafScan gi) s = .next (schedFault (atRest s) g { f with unit := 6 })) ∧
    (∀ n, g.total = some n → g.next < n → (atRest s).askD (mayStart gi g g.lrec.block core) false = true →
      prefetchParams g core (begun (atRest s) gi core (Block.fresh gi g g.next core
        (List.replicate g.lrec.block (Group.fresh g.lrec (fullLanes core) 0 0 0 noRecords)))) = .ok ((), u) →
      exec (.blockStart gi core) s = .next u)) ∧
  (∀ (s u v w x : State) (gi core k : Nat) (g : Grid) (d nums : List Nat) (flush : Bool), s.grid? gi = some g → g.done = false →
    s.ctxRuns g.ctx = true → g.lrec.mode = 2 → readDwords (schedAg g.ctx) g.lrec.source 16 (atRest s) = .ok (d, u) →
    rqOk d = true → k = batchSize d (flush && g.flushed d s.time) → k ≠ 0 →
    u.askD (mayStart gi g ((k + 31) / 32) core) false = true →
    batchOrder g d ((List.range k).map fun i => rqTaken d + i) u = .ok (.ok nums, v) →
    writeVa (schedAg g.ctx) (g.lrec.source + 32) 8 (rqTaken d + k) .engWrite v = .ok ((), w) →
    prefetchParams g core (begun w gi core { Block.fresh gi g g.next core (batchGroups g.lrec d nums) with
      held := some (g.lrec.source, nums) }) = .ok ((), x) →
    exec (if flush then .rqFlushExpiry gi core else .rqBatchStart gi core) s = .next x) ∧
  (∀ (s : State) (gi : Nat) (g : Grid), ∃ l, overdueOf gi g s = .ok (l, s) ∧
    (Waiter.next ∈ l ↔ (s.askD (nextGroups gi g) none).isSome = true ∧
      ∃ t, g.waitSince = some t ∧ 100000 ≤ (s.time - t).toNat) ∧
    (∀ die, Waiter.pixels die ∈ l ↔ ∃ f ∈ s.frames, f.grid = gi ∧ f.closed = false ∧ ∃ c ∈ f.covers, c.die = die ∧
      s.hasNext c = true ∧ ∃ t, c.waitSince = some t ∧ 100000 ≤ (s.time - t).toNat) ∧
    (∀ i, Waiter.saved i ∈ l ↔ ∃ b, s.blocks[i]? = some b ∧ b.grid = gi ∧ s.waitsToGo b = true ∧
      ∃ t, b.waitSince = some t ∧ 100000 ≤ (s.time - t).toNat)) ∧
  (∀ (s u : State) (gi : Nat) (g : Grid) (w : Waiter) (q r : List Waiter) (l : List Nat), s.grid? gi = some g →
    overdueOf gi g (atRest s) = .ok (q ++ w :: r, atRest s) →
    (∀ x ∈ q, s.withClusters ((atRest s).askD (victims gi g x) []) = []) → l = s.withClusters ((atRest s).askD (victims gi g w) []) → l ≠ [] →
    (∀ i ∈ l, s.unitsStop i = true) → each l (saveBlock false) (atRest s) = .ok ((), u) →
    exec (.priorityWaitTimeout gi) s = .next (w.restart gi u))

/-- R277 to R279, R307, R310 to R312: a barrier's or a kernel's watchdog raises its fault on the groups it concerns, lowest
first, a barrier's on those that waited when it reached its limit, once none of them is inside a VINS or in an MCAS with a clamp
(R115, R119), and an instance that has timed out never completes; the diagonal
check ends when two sweeps agree and what was sent was received; a context whose fatal fault is captured ends, with its record and
its signals written, and then none of its blocks is resident.
The model's choices here: a sweep reads every node in one step (log 10), the snapshot trigger fires at the termination (log 74),
and who counts as waiting when a barrier's watchdog expires (log 126). -/
def Obligations.EndsAndWatchdogs : Prop :=
  (∀ (s : State) (i : Nat) (w : BarWatch), s.bars[i]? = some w → w.expired s.time = true → w.raised = false →
    ((∃ x ∈ w.waits, s.groupMayStop x.1 x.2.1 = false) → exec (.barrierWatchdogExpiry i) s = .next s) ∧
    ((∀ x ∈ w.waits, s.groupMayStop x.1 x.2.1 = true) → exec (.barrierWatchdogExpiry i) s = .next
      (let t : State := { atRest s with bars := s.bars.modify i fun w => { w with raised := true } }
       { w.waits.foldl (fun t x => t.barTimeout w x.1 x.2.1 x.2.2) t with cur := Cur.none }))) ∧
  (∀ (w : BarWatch) (now : Word) (ns : Nat) (l : List (Nat × Nat × BitVec 32)) (m : List (Nat × Nat × Nat)), w.hit = none →
    w.limit ≠ 0 → 1000 * w.limit ≤ w.ns + ns → (w.tick now ns l m).waits = l ∧ (w.tick now ns l m).masks = m ∧
      (w.tick now ns l m).hit = some (now + BitVec.ofNat 64 (1000 * w.limit - w.ns))) ∧
  (∀ (s : State) (i : Nat) (b : Block), s.blkAt i = some b → s.barOver 0 b.grid i b.barInst = true → s.settleBar i = s) ∧
  (∀ (s : State) (gi : Nat) (g : Grid) (c : Ctx) (l : List (Nat × Nat × Nat)), s.grid? gi = some g → s.ctxAt g.ctx = some c →
    c.kwd ≠ 0 → 1000 * c.kwd.toNat ≤ g.ns →
    l = ((s.liveGroups gi).filter fun x => s.groupStops x.2.1 x.2.2).foldl (fun acc x => insertGroup x acc) [] → l ≠ [] →
    exec (.kernelWatchdogExpiry gi) s = .next
      { l.foldl (fun t x => t.kernelTimeout (g.ns / 1000) x) (atRest s) with cur := Cur.none }) ∧
  (∀ (s u v : State) (gi p : Nat) (g : Grid) (a : Nat × Nat), s.grid? gi = some g → p < 8 → p < g.qSweep.length →
    (∃ j ∈ s.gridBlocks gi, ∃ b, s.blkAt j = some b ∧ ∃ k ∈ b.groups, k.waiting (Wait.isQuiesce p) ≠ 0) →
    quiesceReady gi g p (atRest s) = .ok (true, u) → u.barOver 2 gi p (g.inst p) = false → a = ((s.sweep g.ctx p).1.toNat, (s.sweep g.ctx p).2.toNat) →
    ((g.qSweep[p]?).getD none = none → exec (.quiesceSweep gi p) s = .next (u.modGrid gi fun g =>
      { g with qSweep := g.qSweep.set p (some a) })) ∧
    (∀ o, (g.qSweep[p]?).getD none = some o → (o ≠ a ∨ a.1 ≠ a.2) → exec (.quiesceSweep gi p) s = .next (u.modGrid gi fun g =>
      { g with qSweep := g.qSweep.set p none })) ∧
    ((g.qSweep[p]?).getD none = some a → a.1 = a.2 →
      endQuiesce gi g p (u.modGrid gi fun g => { g with qSweep := g.qSweep.set p none }) = .ok ((), v) →
      exec (.quiesceSweep gi p) s = .next v)) ∧
  (∀ (s u v w x y : State) (ctx : Nat) (c : Ctx) (r : FaultRec) (n : Option Nat), s.ctxAt ctx = some c → c.fault = some r →
    c.terminated = false → (∀ i ∈ s.resident ctx, s.blockStops i = true) → drainContext ctx (atRest s) = .ok ((), u) →
    each ((s.openGrids ctx).map Grid.recordQueues).flatten (closeQueue ctx) (u.stopUnits ctx) = .ok ((), v) →
    fireTrigger ctx 2 0 [0, 1, 2, 3] (v.removeObjects ctx) = .ok (n, w) → writeRecord ctx c r w = .ok ((), x) →
    each (s.openGrids ctx) (fun g => if g.lrec.signal = 0 then pure () else do
      let _ ← storeDwords ctx g.lrec.signal [0xC000000000000000 + r.flt.cls]
      pure ()) x = .ok ((), y) →
    exec (.terminateContext ctx) s = .next (y.freeContext ctx)) ∧
  (∀ (s : State) (ctx : Nat), (∀ b ∈ (s.freeContext ctx).blocks, b.ctx = ctx → b.ended = true ∧ b.core = none) ∧
    (∀ g ∈ (s.freeContext ctx).grids, g.ctx = ctx → g.done = true) ∧ (s.freeContext ctx).ctxRuns ctx = false ∧
    (s.freeContext ctx).mem = s.mem)

/-- R98, R313, R314, R324 to R326, R356: a context is pre-empted when all its units stand at stop points; a parked block leaves
its core; a saved block resumes on a core that can hold it, with an acquire. A copy-on-write fault takes a page of the pool,
copies the old page's bytes, rewrites the run's entries, and after the shootdown the word issues again; pages join the pool.
The model's choices here: added pages join the head of the list (log 12), the state restores what it keeps of a saved block, the
words written at SAVE being free (log 35), a fault that the service itself meets becomes that of the access (log 50), and where
matrix state is saved and restored (logs 62, 63). -/
def Obligations.PreemptAndCow : Prop :=
  (∀ (s u : State) (ctx : Nat), s.ctxRuns ctx = true → s.resident ctx ≠ [] → (∀ i ∈ s.resident ctx, s.unitsStop i = true) →
    (∀ c ∈ s.cmds, c.ctx = ctx → c.stops = true) → (∀ c ∈ s.mats, c.ctx = ctx → c.stops = true) →
    each (s.resident ctx) (saveBlock false) (atRest s) = .ok ((), u) →
    exec (.preemptContext ctx) s = .next
      (let t := (List.range 512).foldl (fun t c => t.leaveMatrix c ctx) ((s.swappedOff ctx).foldl State.dropMonitors u)
       ({ t with cmds := t.cmds.map fun c => if c.ctx = ctx then c.leavePages else c } : State).modCtx ctx
         fun c => { c with preempted := true })) ∧
  (∀ (s u : State) (i : Nat) (b : Block), s.blkAt i = some b → b.ended = false →
    (b.swapOk = true → b.parkedLong s.time = true → b.core.isSome = true → s.unitsStop i = true → s.ctxRuns b.ctx = true →
      saveBlock true i (atRest s) = .ok ((), u) → exec (.blockSwap i) s = .next u) ∧
    (∀ g c core, s.grid? b.grid = some g → s.ctxAt b.ctx = some c → b.core = none → c.fault = none → c.terminated = false →
      (b.swapOk = true → b.woken s.time = true) → takeMatrix b core (atRest s) = .ok ((), u) → u.boundTo i core = true →
      u.canHold b.ctx core b.groups.length g.lrec = true → u.resumesByCluster b g core = true →
      u.resumesInPair b g core = true → u.askD (keptFrom b.grid (some i) g.lrec.prio core) true = false →
      exec (.blockResume i core) s = .next
        (let v := acquired u core 5
         let t := (v.emptyLeaves core).modBlk i fun b => { (v.reseat i core b).eachPath (fun p => { p with paused := false }) with
           core := some core, last := core, swapOk := false, waitSince := none }
         (({ t with cmds := t.cmds.map fun c => if c.blk = i then c.moveTo core else c } : State).modCtx b.ctx
           fun c => { c with preempted := false }).trimL1 core))) ∧
  (∀ (s u v : State) (i : Nat) (w : CowSvc), s.cows[i]? = some w → w.closed = false →
    (w.served = false → s.cowBusy i w = false →
      (servePage w (atRest s) = .ok (true, u) → exec (.cowService i) s = .next
        { u with cows := u.cows.modify i fun w => { w with served := true } }) ∧
      (servePage w (atRest s) = .ok (false, u) → cowFatal i w (w.dead none) u = .ok ((), v) →
        exec (.cowService i) s = .next v) ∧
      (∀ f, servePage w (atRest s) = .error (.fault f) → cowFatal i w (w.dead (some f)) (atRest s) = .ok ((), v) →
        exec (.cowService i) s = .next v)) ∧
    (w.served = true → ((s.shoots.contains (s.cowShoot w) = true ∧ finishShoot (s.cowShoot w) true (atRest s) = .ok (true, u)) ∨
        (s.shoots.contains (s.cowShoot w) = false ∧ u = atRest s)) →
      exec (.cowReissue i) s = .next (({ u with cows := u.cows.modify i fun w => { w with closed := true } } : State).modGrp
        w.blk w.grp fun g =>
          { g with paths := g.paths.map fun p => if p.wait = some (.service i) then { p with wait := none } else p }))) ∧
  (∀ (s u v x y : State) (pte : Nat) (w : CowSvc), homeDword w.at_ s = .ok (pte, u) →
    (fld 14 14 pte = 0 → servePage w s = .ok (true, u)) ∧
    (fld 14 14 pte = 1 → takePage w.ctx (fld 63 60 pte) u = .ok (none, v) → servePage w s = .ok (false, v)) ∧
    (∀ new, fld 14 14 pte = 1 → takePage w.ctx (fld 63 60 pte) u = .ok (some new, v) →
      copyAtHome (fld 59 16 pte * 4096) new (pageBytes (fld 63 60 pte)) v = .ok ((), y) →
      rewriteRun w.at_ (fld 63 60 pte) new y = .ok ((), x) → servePage w s = .ok (true, if x.shoots.contains (x.cowShoot w) then x else
        { x with shoots := x.shoots ++ [x.cowShoot w] }))) ∧
  (∀ (s u : State) (ctx n pool : Nat) (c : Ctx) (pages : List Nat), s.ctxAt ctx = some c → pool = c.cowpool.toNat → n < 12 →
    s.poolOk ctx pool = true → (∀ p ∈ pages, p % 8 = 0 ∧ p < 2 ^ 56) →
    each pages (fun p => do
      let head ← homeDword (pool + 16 * n)
      let count ← homeDword (pool + 16 * n + 8)
      putDword p head
      putDword (pool + 16 * n) p
      putDword (pool + 16 * n + 8) ((count + 1) % 2 ^ 64)) (atRest s) = .ok ((), u) →
    exec (.cowpoolAddPages ctx n pages) s = .next u) ∧
  (∀ pte new : Nat, pte < 2 ^ 64 → new < 2 ^ 56 → fld 59 16 (cowEntry pte new) = new / 4096 ∧ fld 14 14 (cowEntry pte new) = 0 ∧
    fld 7 7 (cowEntry pte new) = 0 ∧ fld 3 3 (cowEntry pte new) = 1 ∧ fld 2 0 (cowEntry pte new) = fld 2 0 pte ∧
    fld 6 4 (cowEntry pte new) = fld 6 4 pte ∧ fld 13 8 (cowEntry pte new) = fld 13 8 pte ∧
    fld 15 15 (cowEntry pte new) = fld 15 15 pte ∧ fld 63 60 (cowEntry pte new) = fld 63 60 pte) ∧
  (∀ (s : State) (old new n : Nat), MemOk s → Still s → old % 128 = 0 → new % 128 = 0 → n % 128 = 0 →
    old + n ≤ new ∨ new + n ≤ old → ∃ t, copyAtHome old new n s = .ok ((), t) ∧ ∀ x, getByte t.mem x =
      if new ≤ x ∧ x < new + n then getByte s.mem (x - new + old) else getByte s.mem x)

/-- R71, R346 to R349, R352 to R355 and the registers of R318: what the host driver, the physical function and a peer do to the
part once bring-up is complete.
The model's choices here: the answer to a refused creation is a free value (log 8), when a window is held (log 16), what a set's
addresses name once its SPREAD bit has changed (log 124), which partition may be destroyed (logs 84, 85), reserved bits of a
privileged register (log 86), the number of a new context (log 87) and the form of an access (log 89). -/
def Obligations.HostCommands : Prop :=
  (∀ (s : State) (n : Nat) (cfg : PartCfg) (sites : List (BitVec 120)), s.up = true → n < 64 → (s.partAt n).live = false →
    sites = (List.range 4).map (fun d => (cfg.sites[d]?).getD 0 &&& s.offered d) → (∀ i ∈ cfg.slots, i < 64) →
    (∀ w ∈ cfg.windows, winOk w = true) → (∀ x ∈ s.parts, x.2.ownsNone sites cfg.sets cfg.slots = true) →
    exec (.partitionCreate n cfg) s = .next { (atRest s).respread ((s.spread ^^^ cfg.spread) &&& cfg.sets) with
      parts := s.parts.put n ⟨true, sites, cfg.sets, cfg.windows, cfg.slots⟩
      spread := (s.spread &&& ~~~ cfg.sets) ||| (cfg.spread &&& cfg.sets) }) ∧
  (∀ (s : State) (sets : BitVec 128) (x : Nat), MemOk s →
    getByte (s.respread sets).mem (spreadMove sets x) = getByte s.mem x) ∧
  (∀ (s u : State) (n : Nat) (cs : List Nat), s.up = true → (s.partAt n).live = true →
    cs = (List.range s.ctxs.length).filter (fun c => match s.ctxAt c with
      | some k => decide (k.part = n) && !k.terminated
      | none => false) → (∀ c ∈ cs, s.idle c = true) → settleStores (atRest s) = .ok ((), u) →
    exec (.partitionDestroy n) s = .next
      (let t := cs.foldl (fun t c => t.closeContext c) u
       { t with parts := t.parts.put n Machine.Part.none, vfs := t.vfs.filter fun x => decide (x.2 ≠ n) })) ∧
  (∀ (s : State) (n : Nat) (w : Window), s.up = true → (s.partAt n).live = true → winOk w = true → s.mapsWindow n w = false →
    exec (.windowAssign n true w) s = .next { atRest s with
      parts := s.parts.put n { s.partAt n with windows := (s.partAt n).windows ++ [w] } } ∧
    (w ∈ (s.partAt n).windows → exec (.windowAssign n false w) s = .next { atRest s with
      parts := s.parts.put n { s.partAt n with windows := (s.partAt n).windows.erase w } })) ∧
  (∀ (s : State) (vf n : Nat), s.up = true → vf < 192 → (s.partAt n).live = true → s.vfs.find? vf = none →
    exec (.vfBind vf n) s = .next { atRest s with vfs := s.vfs.put vf n }) ∧
  (∀ (s : State) (vf n : Nat) (cfg : CtxCfg), s.up = true → s.vfs.find? vf = some n → (s.partAt n).live = true →
    (∀ asn, freeAsn (s.asns n) = some asn → (s.partAt n).poolInside cfg.cowpool.toNat = true →
      exec (.contextCreate vf cfg) s = .next { atRest s with
        ctxs := s.ctxs ++ [Ctx.fresh n asn cfg]
        queues := s.queues ++ cfg.queues.map (UQueue.fresh s.ctxs.length)
        reply := [BitVec.ofNat 64 asn] }) ∧
    (freeAsn (s.asns n) = none ∨ (s.partAt n).poolInside cfg.cowpool.toNat = false →
      exec (.contextCreate vf cfg) s = .next { atRest s with
      freeCtr := s.freeCtr + 1, reply := [Config.freeWord s.freeCtr] })) ∧
  (∀ (s : State) (ctx reg q : Nat) (val : Word), s.up = true →
    ((s.ctxAt ctx).isSome = true → csrPrivileged reg = true →
      exec (.hostRegisterWrite ctx reg val) s = .next ((atRest s).modCtx ctx fun c => c.setPriv reg val)) ∧
    (∀ u, s.queue? q = some u → u.stopped = true → s.ctxLives u.ctx = true →
      exec (.queueRestart q) s = .next ((atRest s).modQueue q fun u => { u with stopped := false }))) ∧
  (∀ (s u v : State) (ctx : Nat) (va : Word) (w : List Nat), s.ctxLives ctx = true → va.toNat % 64 = 0 →
    readDwords (schedAg ctx) va 8 (atRest s) = .ok (w, u) → doObject ctx va w u = .ok ((), v) →
    (shapeOp w = 0 ∨ 2 < shapeOp w → exec (.objectDeclare 0 ctx va) s = .next v) ∧
    (shapeOp w = 1 → exec (.objectSetState 0 ctx va) s = .next v) ∧
    (shapeOp w = 2 → exec (.objectRemove 0 ctx va) s = .next v)) ∧
  (∀ (s : State) (pa n v l : Nat), s.up = true → pa < 2 ^ 39 → (n = 1 ∨ n = 2 ∨ n = 4 ∨ n = 8 ∨ n = 16 ∨ n = 32 ∨ n = 64 ∨ n = 128) →
    pa % n = 0 → Still s → l = pa / 128 →
    exec (.hostOrPeerAccess ⟨.load, pa, n⟩) s = .next { atRest s with
      reply := wordsOf ((n + 7) / 8) (getBytes s.mem (128 * l + pa % 128) n) } ∧
    exec (.hostOrPeerAccess ⟨.store v, pa, n⟩) s = .next ((atRest s).putLine l (spanData (pa % 128) n v)
      (spanMask (pa % 128) n) 0x200) ∧
    (∀ aop b c old x, n = 4 ∨ n = 8 → aop < 14 → old = getBytes s.mem (128 * l + pa % 128) n →
      extNew aop (8 * n) old (b % 2 ^ (8 * n)) (c % 2 ^ (8 * n)) = some x →
      exec (.hostOrPeerAccess ⟨.atomic aop b c, pa, n⟩) s = .next { (atRest s).putLine l (spanData (pa % 128) n x)
        (spanMask (pa % 128) n) 0x200 with reply := [BitVec.ofNat 64 old] }))

/-- R328, R329, R349 to R351, R353, R355: bring-up in order, power removal, soft errors and scrubs, and what the host reads of the
part's counters, monitors and identity.
The removal of power loses all of the part's state but its fuses, with what its slices alone held of host and peer lines.
The model's choices here: the signature, the certificates and the verdict on an image's signature are opaque (logs 7, 107), the numbers of counters and the layout of a
reply (log 88), when an error in HBM is met (log 90), and that memory outside the part stays (log 91). -/
def Obligations.PowerAndObservation : Prop :=
  (∀ (s : State) (b : BootCfg), s.power = 0 → (∀ d < 4, 96 ≤ siteCount ((b.bitmaps[d]?).getD 0)) →
    ((∃ i ∈ b.images, imageAccepted s i = false) →
      exec (.powerGood b) s = .next { atRest s with power := 1, recovery := true }) ∧
    ((∀ i ∈ b.images, imageAccepted s i = true) → b.linkTrained = false →
      exec (.powerGood b) s = .next { atRest s with power := 2, recovery := true, measured := b.images.map (·.digest) }) ∧
    ((∀ i ∈ b.images, imageAccepted s i = true) → b.linkTrained = true →
      exec (.powerGood b) s = .next (({ atRest s with measured := b.images.map (·.digest), linkUp := true } : State).bringDies b) ∧
      ∀ x, x < 2 ^ 54 → getByte (({ atRest s with measured := b.images.map (·.digest), linkUp := true } : State).bringDies
        b).mem x = 0)) ∧
  (∀ (s : State) (i : Image), imageAccepted s i = true ↔
    i.key = s.vendorKey ∧ Config.ecdsa i.key i.digest i.sig = true ∧ s.rollback ≤ i.rollback) ∧
  (∀ s : State, MemOk s → ∃ t, exec .powerRemove s = .next t ∧
    t = { State.reset with
      moves := s.moves, drawCtr := s.drawCtr, freeCtr := t.freeCtr, rollback := s.rollback, vendorKey := s.vendorKey
      mem := t.mem, poison := t.poison } ∧
    (∀ g, g ∈ t.poison ↔ g ∈ s.poison ∧ regionOf (8 * g) ≠ 0 ∧ ∀ h ∈ s.l2, h.dirty = true → h.line ≠ g / 16) ∧ ∀ x, (regionOf x = 0 → getByte t.mem x = 0) ∧
      (regionOf x ≠ 0 → (∀ h ∈ s.l2, h.dirty = true → h.line ≠ x / 128) → getByte t.mem x = getByte s.mem x)) ∧
  (∀ (s : State), s.up = true →
    (∀ i, i < 40 → exec (.errorCounterRead i) s = .next { atRest s with reply := [(s.errs.getD i 0).setWidth 64] } ∧
      exec (.errorCounterClear i) s = .next { atRest s with errs := s.errs.put i 0 }) ∧
    (∀ mon, exec (.monitorHistogramReset mon) s = .next { atRest s with hists := s.hists.put mon Hist.empty }) ∧
    (∀ n nonce, (s.partAt n).live = true → nonce.length = 64 → exec (.attestationReport n nonce) s =
      .next { atRest s with reply := s.report n nonce ++ Config.signature (s.report n nonce) }) ∧
    (∀ stack k, stack < 8 → s.works (stack / 2) = true →
      exec (.patrolScrub stack k) s = .next ((atRest s).countErr (8 + stack) k)) ∧
    (∀ pa, pa < 2 ^ 39 → (∀ h ∈ s.l2, h.line ≠ pa / 128) →
      exec (.softError ⟨.hbm pa, true⟩) s = .next ((atRest s).countErr (s.stackOf pa) 1) ∧
      exec (.softError ⟨.hbm pa, false⟩) s = .next (((atRest s).poisonGranule (pa / 8)).countErr (32 + s.stackOf pa) 1)) ∧
    (∀ pa h, s.l2.find? (fun h => decide (h.line = pa / 128)) = some h →
      exec (.softError ⟨.l2 pa, true⟩) s = .next ((atRest s).countErr (16 + s.lineDie h.line) 1) ∧
      (h.dirty = true → exec (.softError ⟨.l2 pa, false⟩) s =
        .next (((atRest s).poisonGranule (pa / 8)).countErr (28 + s.lineDie h.line) 1)) ∧
      (h.dirty = false → exec (.softError ⟨.l2 pa, false⟩) s =
        .next { atRest s with l2 := s.l2.filter fun x => decide (x.line ≠ h.line) })) ∧
    (∀ b grp code lane k c, s.blkAt b = some k → k.core = some c →
      exec (.softError ⟨.reg b grp code lane, true⟩) s = .next ((atRest s).countErr (20 + dieOf c) 1) ∧
      exec (.softError ⟨.reg b grp code lane, false⟩) s =
        .next (((atRest s).modGrp b grp fun g => g.poisonReg code lane).countErr (28 + dieOf c) 1)) ∧
    (∀ core line, (∃ r ∈ (s.coreAt core).l1, r.line = line) →
      exec (.softError ⟨.l1 core line, true⟩) s = .next ((atRest s).countErr (16 + dieOf core) 1) ∧
      exec (.softError ⟨.l1 core line, false⟩) s = .next ((atRest s).modCore core fun c => c.dropL1 line)) ∧
    (∀ core f i, (f = 8 ∧ i < (s.coreAt core).mat.q8.length ∨ f = 9 ∧ i < (s.coreAt core).mat.q9.length) →
      exec (.softError ⟨.scale core f i, true⟩) s = .next ((atRest s).countErr (20 + dieOf core) 1) ∧
      exec (.softError ⟨.scale core f i, false⟩) s =
        .next (((atRest s).modCore core fun c => { c with mat := c.mat.taint f i }).countErr (28 + dieOf core) 1)) ∧
    (∀ die line, (∃ r ∈ (s.dieAt die).replicas, r.line = line) →
      exec (.softError ⟨.replica die line, true⟩) s = .next ((atRest s).countErr (16 + die) 1) ∧
      exec (.softError ⟨.replica die line, false⟩) s = .next ((atRest s).modDie die fun d => d.dropReplica line)) ∧
    (∀ die < 4, hostRead (.enable die) s = .next { atRest s with reply := wordsOf 2 (s.dieAt die).enable.toNat }) ∧
    (∀ ctx c, s.ctxAt ctx = some c → s.poolOk ctx c.cowpool.toNat = true → Still s →
      ∀ l, l = ((List.range 12).map fun n => BitVec.ofNat 64 (getBytes s.mem (c.cowpool.toNat + 16 * n + 8) 8)) →
        hostRead (.pool ctx) s = .next { atRest s with reply := l })) ∧
  (∀ s : State, 3 ≤ s.power → s.linkUp = true → exec .certificateChainRead s = .next { atRest s with reply := Config.certChain })

/-! ### Translation -/

/-- R52 to R58, R309: an address that is not canonical, an entry that is not valid, a malformed entry and an access that the
leaf does not permit raise their causes; a pointer leads to the next table; a leaf whose run of entries agrees is the walk's
answer, and where they differ some entry of the run is; a translation that the core's TLB holds gives the physical address and
changes nothing.
The model's choices here: an entry is read at its home (log 19); which entry of a run that differs is a free value (log 6). -/
def Obligations.Translation : Prop :=
  (∀ (s : State) (u : PfxUse) (e : Scene) (va : Word) (acc : Acc) (tr : Tr), Issues s u e → Reaches s e va acc tr →
    translate e.ag va acc s = .ok (tr, s)) ∧
  (∀ (s : State) (ag : Ag) (va : Word) (acc : Acc), canonical va = false →
    translate ag va acc s = .error (.fault (accFlt 1 3 acc va 0))) ∧
  (∀ (s u : State) (ag : Ag) (va : Word) (acc : Acc) (e : TlbEntry) (c : Nat), canonical va = true →
    findLeaf ag va acc s = .ok (e, u) → permits e.pte acc = some c →
    translate ag va acc s = .error (.fault (accFlt 2 c acc va e.pte))) ∧
  (∀ (s : State) (va : Word) (acc : Acc) (level table pte : Nat) (seen : List (Nat × Nat)),
    readPte (table + 8 * tableIdx level va.toNat) s = .ok (pte, s) →
    (fld 0 0 pte = 0 → walkFrom va acc level table seen s = .error (.fault (accFlt 1 1 acc va 0))) ∧
    (fld 1 0 pte = 3 → pointerMalformed level pte = true →
      walkFrom va acc level table seen s = .error (.fault (accFlt 1 2 acc va 0))) ∧
    (∀ k, fld 1 0 pte = 3 → pointerMalformed level pte = false → level = k + 1 →
      walkFrom va acc level table seen s = walkFrom va acc k (fld 59 16 pte * 4096) (seen ++ [(k + 1, fld 59 16 pte * 4096)]) s) ∧
    (∀ at_ n base, at_ = table + 8 * tableIdx level va.toNat → n = 4 ^ (fld 63 60 pte % 5) → base = at_ - 8 * (at_ / 8 % n) →
      fld 1 0 pte = 1 →
      (¬ (level < 3 ∧ fld 63 60 pte < 12 ∧ fld 63 60 pte / 5 = level) →
        walkFrom va acc level table seen s = .error (.fault (accFlt 1 2 acc va pte))) ∧
      (level < 3 → fld 63 60 pte < 12 → fld 63 60 pte / 5 = level →
      ((n = 1 ∨ sameRun pte ((List.range n).map fun i => s.pteAt (base + 8 * i)) = true) →
        (leafMalformed level pte = true → walkFrom va acc level table seen s = .error (.fault (accFlt 1 2 acc va pte))) ∧
        (leafMalformed level pte = false → walkFrom va acc level table seen s = .ok ((at_, pte, level, seen), s))) ∧
      (n ≠ 1 → sameRun pte ((List.range n).map fun i => s.pteAt (base + 8 * i)) = false →
        ∀ (p : Nat → Nat) (t : State), t = { s with freeCtr := s.freeCtr + 1 } →
          (∀ i < n, readPte (base + 8 * i) t = .ok (p i, t)) → ∃ i < n,
          (fld 0 0 (p i) = 0 → walkFrom va acc level table seen s = .error (.fault (accFlt 1 1 acc va 0))) ∧
          (fld 1 0 (p i) = 1 → leafMalformed level (p i) = true →
            walkFrom va acc level table seen s = .error (.fault (accFlt 1 2 acc va (p i)))) ∧
          (fld 1 0 (p i) = 1 → leafMalformed level (p i) = false →
            walkFrom va acc level table seen s = .ok ((base + 8 * i, p i, level, seen), t)))))) ∧
  (∀ (s u : State) (e : Scene) (d a : BitVec 7) (t : Option (Nat × Nat)), Issues s {} e →
    (e.readsUni a → Learns (locate e.ag (e.uni a)) s t u →
      (e.hasVec d → exec (.locq d a) s = .next (wrote u (putLanes e d fun _ => locqWord u t))) ∧
      (e.hasUni d → exec (.locq d a) s = .next (uniNext u d (locqWord u t)))) ∧
    (∀ f : Nat → Option (Nat × Nat), e.hasVec a → e.reads a → e.hasVec d →
      (∀ l ∈ lanesOf e.path.lanes, locate e.ag (laneOf (e.operand a) l) s = .ok (f l, s)) →
      exec (.locq d a) s = .next (wrote s (putLanes e d fun l => if l ∈ lanesOf e.path.lanes then locqWord s (f l) else 0))))

/-! ### The machine -/

/-- R318, R347, R350: a context's registers at its creation; and the state at power-on, which is sound and in which nothing is
created (log 2). -/
def Obligations.Reset : Prop :=
  (∀ (part asn : Nat) (cfg : CtxCfg), (Ctx.fresh part asn cfg).fpcr = 0 ∧ (Ctx.fresh part asn cfg).tvec = 0 ∧
    (Ctx.fresh part asn cfg).fair = 2048 ∧ (Ctx.fresh part asn cfg).barwd = 100000 ∧
    (Ctx.fresh part asn cfg).kwd = 10000000 ∧ (Ctx.fresh part asn cfg).ctl = 0 ∧
    (Ctx.fresh part asn cfg).pmc = List.replicate 8 0 ∧ (Ctx.fresh part asn cfg).pmsel = List.replicate 8 0) ∧
  MemOk State.reset ∧ SlicesOk State.reset ∧ IndexOk State.reset ∧ State.reset.up = false ∧ State.reset.ctxs = [] ∧ State.reset.blocks = [] ∧
  (∀ d, (State.reset.dieAt d).l2Reset = true ∧ (State.reset.dieAt d).coreReset = true)

/-- Memory keeps its canonical form over every step, and each line stands at most once in the slices. -/
def Obligations.MemoryKept : Prop :=
  ∀ s t : State, MemOk s → SlicesOk s → step s = .next t → MemOk t ∧ SlicesOk t

/-- R48: every instruction word decodes to the instruction that it encodes, from its bytes as well, and no other word decodes
to it. -/
def Obligations.EncodeDecode : Prop :=
  (∀ (i : Instr) (w : Nat), encode i = some w → w < 2 ^ 32 ∧ decodeWord w = .ok i ∧
    ∀ rest, decode (bytesOf w ++ rest) = .ok (i, rest)) ∧
  (∀ (w : Nat) (i : Instr), w < 2 ^ 32 → decodeWord w = .ok i → encode i = some w)

/-- R28 to R31, R51, R291: when the agenda names a path that can issue, the step is exec of the instruction that the word at its
pc decodes to, under the prefix word before it; a word that decodes to none is illegal, with cause 8 when it is an RQPUSH or
RQPOP that names no port, and so is a prefix word before a prefix word; where the groups of an issue set take turns, a group whose
turn it is not issues nothing. A step of the part runs as it is named, and a tick moves the timebase. After every move what has come
to a header enters the issue table (R262, R263). -/
def Obligations.StepRuns : Prop :=
  (∀ (s t : State) (r : List Move) (blk grp path : Nat) (p : Path), s.moves = .issue blk grp path :: r →
    t = { s with moves := r } → s.pathAt blk grp path = some p →
    (t.fellows blk grp p = [] → step s = settled (issueOne blk grp path t)) ∧
    (∀ x l k, t.fellows blk grp p = x :: l → p.setKey = some k → step s =
      settled (forMembers k issueOne (memberOrder s.freeCtr ((blk, grp) :: (x :: l).map fun y => (y.1, y.2.1)))
        { t with freeCtr := s.freeCtr + (1 + (x :: l).length) }))) ∧
  (∀ (n : Nat) (l : List (Nat × Nat)), (memberOrder n l).Perm l ∧ ((memberOrder n l).map (·.2)).Pairwise (· ≤ ·)) ∧
  (∀ (s u : State) (blk grp path : Nat), s.issuing blk grp path = some u →
    (∃ p w pf, s.pathAt blk grp path = some p ∧ p.words = some (w, pf) ∧
      ((p.entry.isSome = true ∧ u = atWord s blk grp path w pf) ∨ ∃ k, p.entry = none ∧
        u = (atWord s blk grp path w pf).modPath blk grp path fun p => { p with entry := some k })) ∧
    (∀ p, s.pathAt blk grp path = some p → s.turn blk grp p = false → issueOne blk grp path s = .next s) ∧
    ((∀ p, s.pathAt blk grp path = some p → s.turn blk grp p = true) →
    (∀ i, isPrefixWord u.cur.word.toNat = false → decodeWord u.cur.word.toNat = .ok i →
      issueOne blk grp path s = exec i u.countLanes) ∧
    (∀ x, isPrefixWord u.cur.word.toNat = false → decodeWord u.cur.word.toNat = .error x →
      ∀ w, w = u.cur.word.toNat → issueOne blk grp path s = .next (takeFault (illegal
        (if fld 31 26 w = 0x37 ∧ (fld 1 0 w = 1 ∨ fld 1 0 w = 2) ∧ fld 18 13 w ≠ 5 then 8 else 1)) u)) ∧
    (isPrefixWord u.cur.word.toNat = true →
      (u.cur.pfx = none → issueOne blk grp path s = .next (takeFault (illegal 2) u)) ∧
      (u.cur.pfx.isSome = true → issueOne blk grp path s = .next (takeFault (illegal 2)
        { u.modPath blk grp path (fun p => { p with pc := p.pc + 4 }) with cur := { u.cur with pfx := none } }))))) ∧
  (∀ (s : State) (blk grp : Nat) (p : Path), s.turn blk grp p = true ↔ ∀ w pf, p.words = some (w, pf) →
    inGroupOrder w.toNat = true → ∀ x ∈ s.fellows blk grp p, grp ≤ x.2.1) ∧
  (∀ (p : Path) (c : Clause) (k : Nat) (w : Code), p.cl = some c → c.ready = true → c.words[k]? = some w →
    c.header.toNat + 4 * (k + 1) < 2 ^ 64 → p.pc.toNat = c.header.toNat + 4 * (k + 1) →
    (isPrefixWord w.toNat = false → p.words = some (w, none)) ∧
    (∀ v, isPrefixWord w.toNat = true → c.words[k + 1]? = some v → p.words = some (v, some w))) ∧
  (∀ (s : State) (r : List Move) (i : Instr), s.moves = .event i :: r → encode i = none →
    step s = settled (exec i { s with moves := r })) ∧
  (∀ (s : State) (r : List Move) (ns : Nat), s.moves = .tick ns :: r → ∃ t, step s = .next t ∧
    t.time = s.time + BitVec.ofNat 64 ns ∧ t.mem = s.mem)

/-- Words written out from the encoding fields of spec/02 decode to the instructions they stand for. -/
def Obligations.DecodedWords : Prop :=
  decodeWord 0b000000_0000001_0000010_0000011_0_10_00 = .ok (.iadd 1 2 3 2) ∧
  decodeWord 0b001100_0000001_0000010_0000011_1_01_11 = .ok (.fma 1 2 3 1) ∧
  decodeWord 0b010100_0000001_0000010_0_0_01_110_101_00 = .ok (.cvt 1 2 0 1 6 5) ∧
  decodeWord 0b011000_000_0001_000_0010_000_0011_00000 = .ok (.kand 1 2 3) ∧
  decodeWord 0b011011_1100001_1100010_1100011_00000 = .ok (.sadd 97 98 99) ∧
  decodeWord 0b100001_0000001_0000010_110_01_1111111 = .ok (.ld 1 2 6 1 127) ∧
  decodeWord 0b101001_1100001_1100010_000000000000 = .ok (.mcas 97 98) ∧
  decodeWord 0b101011_1100_000000_1100001_000000001 = .ok (.qpop 12 97) ∧
  decodeWord 0b101100_0000_000_010_1100001_1100010_00 = .ok (.cpyb 0 2 97 98) ∧
  decodeWord 0b101110_0000001_1100010_0000011_00000 = .ok (.vlk 1 98 3) ∧
  decodeWord 0b110001_0000_001_010_1100001_1100010_00 = .ok (.mma 0 1 2 97 98) ∧
  decodeWord 0b110011_0001_00010_11111111111111111 = .ok (.bra 1 2 0x1FFFF) ∧
  decodeWord 0b110111_0000001_000101_1_0000010_00001 = .ok (.rqpush 1 1 2) ∧
  decodeWord 0b111000_0000000_0000001_000000000011 = .ok (.pexp 1) ∧
  decodeWord 0b111010_1100001_0000000_0001010_00000 = .ok (.csrrd 97 10) ∧
  decodeWord 0b111010_00000000000000000000000011 = .ok .eret
end

