-- ==== Sys2Proof/Laws/Monad.lean ====
section
/-!
SUPPORT. How meanings evaluate: one lemma for each way of building a meaning, so that a proof never unfolds the monad.
-/

namespace Sys2Proof.Machine

open Host

theorem M.bind_ok {α β : Type} {m : M α} {f : α → M β} {s t : State} {a : α} (h : m s = .ok (a, t)) :
    (m >>= f) s = f a t := by
  show (StateT.bind m f) s = _
  unfold StateT.bind
  simp [h, bind, Except.bind]

theorem M.bind_error {α β : Type} {m : M α} {f : α → M β} {s : State} {e : Exc} (h : m s = .error e) :
    (m >>= f) s = .error e := by
  show (StateT.bind m f) s = _
  unfold StateT.bind
  simp [h, bind, Except.bind]

/-- What a sequence of two meanings that succeeds has done. -/
theorem M.bind_cases {α β : Type} {m : M α} {f : α → M β} {s t : State} {b : β} (h : (m >>= f) s = .ok (b, t)) :
    ∃ a u, m s = .ok (a, u) ∧ f a u = .ok (b, t) := by
  rcases hm : m s with e | ⟨a, u⟩
  · rw [M.bind_error hm] at h; cases h
  · rw [M.bind_ok hm] at h; exact ⟨a, u, rfl, h⟩

@[simp] theorem M.pure_apply {α : Type} (a : α) (s : State) : (pure a : M α) s = .ok (a, s) := rfl

@[simp] theorem M.get_apply (s : State) : (get : M State) s = .ok (s, s) := rfl

@[simp] theorem M.set_apply (t s : State) : (set t : M PUnit) s = .ok (⟨⟩, t) := rfl

@[simp] theorem M.modify_apply (f : State → State) (s : State) : (modify f : M PUnit) s = .ok (⟨⟩, f s) := rfl

@[simp] theorem M.throw_apply {α : Type} (e : Exc) (s : State) : (throw e : M α) s = .error e := rfl

/-- Go on after a meaning that has been evaluated. -/
def M.after {α β : Type} (r : Except Exc (α × State)) (f : α → M β) : Except Exc (β × State) :=
  match r with
  | .ok (a, t) => f a t
  | .error e => .error e

@[simp] theorem M.bind_apply {α β : Type} (m : M α) (f : α → M β) (s : State) : (m >>= f) s = M.after (m s) f := by
  unfold M.after
  rcases hm : m s with e | ⟨a, u⟩
  · exact M.bind_error hm
  · exact M.bind_ok hm

@[simp] theorem M.after_ok {α β : Type} (a : α) (t : State) (f : α → M β) : M.after (.ok (a, t)) f = f a t := rfl

@[simp] theorem M.after_error {α β : Type} (e : Exc) (f : α → M β) : M.after (.error e) f = .error e := rfl

@[simp] theorem M.map_apply {α β : Type} (g : α → β) (m : M α) (s : State) :
    (g <$> m) s = M.after (m s) (fun a => pure (g a)) := by
  rw [map_eq_pure_bind, M.bind_apply]

@[simp] theorem M.check_true (f : Flt) (s : State) : (check true f) s = .ok ((), s) := rfl

@[simp] theorem M.check_false (f : Flt) (s : State) : (check false f) s = .error (.fault f) := rfl

@[simp] theorem M.need_true (s : State) : (need true) s = .ok ((), s) := rfl

@[simp] theorem M.needSome_some {α : Type} (a : α) (s : State) : (needSome (some a)) s = .ok (a, s) := rfl

/-! ### Outcomes -/

theorem runWord_ok {m : M Unit} {s t : State} (h : m s = .ok ((), t)) : runWord m s = .next t := by simp [runWord, h]

theorem runWord_fault {m : M Unit} {s : State} {f : Flt} (h : m s = .error (.fault f)) :
    runWord m s = .next (takeFault f s) := by simp [runWord, h]

theorem runWord_wait {m : M Unit} {s : State} (h : m s = .error .wait) : runWord m s = .next s.parkRetry := by
  simp [runWord, h]

theorem runEvent_ok {m : M Unit} {s t : State} (h : m { s with cur := Cur.none } = .ok ((), t)) :
    runEvent m s = .next t := by simp [runEvent, h]

/-- A word never ends in a refusal. -/
theorem runWord_not_refused (m : M Unit) (s : State) (r : Refusal) : runWord m s ≠ .refused r := by
  unfold runWord; split <;> simp

theorem runEvent_not_refused (m : M Unit) (s : State) (r : Refusal) : runEvent m s ≠ .refused r := by
  unfold runEvent; split <;> simp

end Sys2Proof.Machine
end

