-- ==== Sys2Proof/Laws/State.lean ====
section
/-!
SUPPORT. One lemma per field per update of State, and of a group where a register is written: what an update leaves as it was.
-/

namespace Sys2Proof.Machine

variable (s : State) (g : Group)

section

variable (b : Nat) (f : Block → Block)

@[simp] theorem State.modBlk_moves : (s.modBlk b f).moves = s.moves := rfl
@[simp] theorem State.modBlk_drawCtr : (s.modBlk b f).drawCtr = s.drawCtr := rfl
@[simp] theorem State.modBlk_freeCtr : (s.modBlk b f).freeCtr = s.freeCtr := rfl
@[simp] theorem State.modBlk_cur : (s.modBlk b f).cur = s.cur := rfl
@[simp] theorem State.modBlk_mem : (s.modBlk b f).mem = s.mem := rfl
@[simp] theorem State.modBlk_poison : (s.modBlk b f).poison = s.poison := rfl
@[simp] theorem State.modBlk_time : (s.modBlk b f).time = s.time := rfl
@[simp] theorem State.modBlk_power : (s.modBlk b f).power = s.power := rfl
@[simp] theorem State.modBlk_recovery : (s.modBlk b f).recovery = s.recovery := rfl
@[simp] theorem State.modBlk_failed : (s.modBlk b f).failed = s.failed := rfl
@[simp] theorem State.modBlk_linkUp : (s.modBlk b f).linkUp = s.linkUp := rfl
@[simp] theorem State.modBlk_measured : (s.modBlk b f).measured = s.measured := rfl
@[simp] theorem State.modBlk_rollback : (s.modBlk b f).rollback = s.rollback := rfl
@[simp] theorem State.modBlk_vendorKey : (s.modBlk b f).vendorKey = s.vendorKey := rfl
@[simp] theorem State.modBlk_peers : (s.modBlk b f).peers = s.peers := rfl
@[simp] theorem State.modBlk_reply : (s.modBlk b f).reply = s.reply := rfl
@[simp] theorem State.modBlk_spread : (s.modBlk b f).spread = s.spread := rfl
@[simp] theorem State.modBlk_parts : (s.modBlk b f).parts = s.parts := rfl
@[simp] theorem State.modBlk_vfs : (s.modBlk b f).vfs = s.vfs := rfl
@[simp] theorem State.modBlk_ctxs : (s.modBlk b f).ctxs = s.ctxs := rfl
@[simp] theorem State.modBlk_queues : (s.modBlk b f).queues = s.queues := rfl
@[simp] theorem State.modBlk_slots : (s.modBlk b f).slots = s.slots := rfl
@[simp] theorem State.modBlk_dies : (s.modBlk b f).dies = s.dies := rfl
@[simp] theorem State.modBlk_cores : (s.modBlk b f).cores = s.cores := rfl
@[simp] theorem State.modBlk_l2 : (s.modBlk b f).l2 = s.l2 := rfl
@[simp] theorem State.modBlk_fwd : (s.modBlk b f).fwd = s.fwd := rfl
@[simp] theorem State.modBlk_monitors : (s.modBlk b f).monitors = s.monitors := rfl
@[simp] theorem State.modBlk_clamps : (s.modBlk b f).clamps = s.clamps := rfl
@[simp] theorem State.modBlk_migrs : (s.modBlk b f).migrs = s.migrs := rfl
@[simp] theorem State.modBlk_objs : (s.modBlk b f).objs = s.objs := rfl
@[simp] theorem State.modBlk_implicit : (s.modBlk b f).implicit = s.implicit := rfl
@[simp] theorem State.modBlk_shoots : (s.modBlk b f).shoots = s.shoots := rfl
@[simp] theorem State.modBlk_grids : (s.modBlk b f).grids = s.grids := rfl
@[simp] theorem State.modBlk_bars : (s.modBlk b f).bars = s.bars := rfl
@[simp] theorem State.modBlk_counters : (s.modBlk b f).counters = s.counters := rfl
@[simp] theorem State.modBlk_cmds : (s.modBlk b f).cmds = s.cmds := rfl
@[simp] theorem State.modBlk_mats : (s.modBlk b f).mats = s.mats := rfl
@[simp] theorem State.modBlk_savedMat : (s.modBlk b f).savedMat = s.savedMat := rfl
@[simp] theorem State.modBlk_cows : (s.modBlk b f).cows = s.cows := rfl
@[simp] theorem State.modBlk_frames : (s.modBlk b f).frames = s.frames := rfl
@[simp] theorem State.modBlk_hists : (s.modBlk b f).hists = s.hists := rfl
@[simp] theorem State.modBlk_errs : (s.modBlk b f).errs = s.errs := rfl

end

section

variable (b n : Nat) (f : Group → Group)

@[simp] theorem State.modGrp_moves : (s.modGrp b n f).moves = s.moves := rfl
@[simp] theorem State.modGrp_drawCtr : (s.modGrp b n f).drawCtr = s.drawCtr := rfl
@[simp] theorem State.modGrp_freeCtr : (s.modGrp b n f).freeCtr = s.freeCtr := rfl
@[simp] theorem State.modGrp_cur : (s.modGrp b n f).cur = s.cur := rfl
@[simp] theorem State.modGrp_mem : (s.modGrp b n f).mem = s.mem := rfl
@[simp] theorem State.modGrp_poison : (s.modGrp b n f).poison = s.poison := rfl
@[simp] theorem State.modGrp_time : (s.modGrp b n f).time = s.time := rfl
@[simp] theorem State.modGrp_power : (s.modGrp b n f).power = s.power := rfl
@[simp] theorem State.modGrp_recovery : (s.modGrp b n f).recovery = s.recovery := rfl
@[simp] theorem State.modGrp_failed : (s.modGrp b n f).failed = s.failed := rfl
@[simp] theorem State.modGrp_linkUp : (s.modGrp b n f).linkUp = s.linkUp := rfl
@[simp] theorem State.modGrp_measured : (s.modGrp b n f).measured = s.measured := rfl
@[simp] theorem State.modGrp_rollback : (s.modGrp b n f).rollback = s.rollback := rfl
@[simp] theorem State.modGrp_vendorKey : (s.modGrp b n f).vendorKey = s.vendorKey := rfl
@[simp] theorem State.modGrp_peers : (s.modGrp b n f).peers = s.peers := rfl
@[simp] theorem State.modGrp_reply : (s.modGrp b n f).reply = s.reply := rfl
@[simp] theorem State.modGrp_spread : (s.modGrp b n f).spread = s.spread := rfl
@[simp] theorem State.modGrp_parts : (s.modGrp b n f).parts = s.parts := rfl
@[simp] theorem State.modGrp_vfs : (s.modGrp b n f).vfs = s.vfs := rfl
@[simp] theorem State.modGrp_ctxs : (s.modGrp b n f).ctxs = s.ctxs := rfl
@[simp] theorem State.modGrp_queues : (s.modGrp b n f).queues = s.queues := rfl
@[simp] theorem State.modGrp_slots : (s.modGrp b n f).slots = s.slots := rfl
@[simp] theorem State.modGrp_dies : (s.modGrp b n f).dies = s.dies := rfl
@[simp] theorem State.modGrp_cores : (s.modGrp b n f).cores = s.cores := rfl
@[simp] theorem State.modGrp_l2 : (s.modGrp b n f).l2 = s.l2 := rfl
@[simp] theorem State.modGrp_fwd : (s.modGrp b n f).fwd = s.fwd := rfl
@[simp] theorem State.modGrp_monitors : (s.modGrp b n f).monitors = s.monitors := rfl
@[simp] theorem State.modGrp_clamps : (s.modGrp b n f).clamps = s.clamps := rfl
@[simp] theorem State.modGrp_migrs : (s.modGrp b n f).migrs = s.migrs := rfl
@[simp] theorem State.modGrp_objs : (s.modGrp b n f).objs = s.objs := rfl
@[simp] theorem State.modGrp_implicit : (s.modGrp b n f).implicit = s.implicit := rfl
@[simp] theorem State.modGrp_shoots : (s.modGrp b n f).shoots = s.shoots := rfl
@[simp] theorem State.modGrp_grids : (s.modGrp b n f).grids = s.grids := rfl
@[simp] theorem State.modGrp_bars : (s.modGrp b n f).bars = s.bars := rfl
@[simp] theorem State.modGrp_counters : (s.modGrp b n f).counters = s.counters := rfl
@[simp] theorem State.modGrp_cmds : (s.modGrp b n f).cmds = s.cmds := rfl
@[simp] theorem State.modGrp_mats : (s.modGrp b n f).mats = s.mats := rfl
@[simp] theorem State.modGrp_savedMat : (s.modGrp b n f).savedMat = s.savedMat := rfl
@[simp] theorem State.modGrp_cows : (s.modGrp b n f).cows = s.cows := rfl
@[simp] theorem State.modGrp_frames : (s.modGrp b n f).frames = s.frames := rfl
@[simp] theorem State.modGrp_hists : (s.modGrp b n f).hists = s.hists := rfl
@[simp] theorem State.modGrp_errs : (s.modGrp b n f).errs = s.errs := rfl

end

section

variable (b n p : Nat) (f : Path → Path)

@[simp] theorem State.modPath_moves : (s.modPath b n p f).moves = s.moves := rfl
@[simp] theorem State.modPath_drawCtr : (s.modPath b n p f).drawCtr = s.drawCtr := rfl
@[simp] theorem State.modPath_freeCtr : (s.modPath b n p f).freeCtr = s.freeCtr := rfl
@[simp] theorem State.modPath_cur : (s.modPath b n p f).cur = s.cur := rfl
@[simp] theorem State.modPath_mem : (s.modPath b n p f).mem = s.mem := rfl
@[simp] theorem State.modPath_poison : (s.modPath b n p f).poison = s.poison := rfl
@[simp] theorem State.modPath_time : (s.modPath b n p f).time = s.time := rfl
@[simp] theorem State.modPath_power : (s.modPath b n p f).power = s.power := rfl
@[simp] theorem State.modPath_recovery : (s.modPath b n p f).recovery = s.recovery := rfl
@[simp] theorem State.modPath_failed : (s.modPath b n p f).failed = s.failed := rfl
@[simp] theorem State.modPath_linkUp : (s.modPath b n p f).linkUp = s.linkUp := rfl
@[simp] theorem State.modPath_measured : (s.modPath b n p f).measured = s.measured := rfl
@[simp] theorem State.modPath_rollback : (s.modPath b n p f).rollback = s.rollback := rfl
@[simp] theorem State.modPath_vendorKey : (s.modPath b n p f).vendorKey = s.vendorKey := rfl
@[simp] theorem State.modPath_peers : (s.modPath b n p f).peers = s.peers := rfl
@[simp] theorem State.modPath_reply : (s.modPath b n p f).reply = s.reply := rfl
@[simp] theorem State.modPath_spread : (s.modPath b n p f).spread = s.spread := rfl
@[simp] theorem State.modPath_parts : (s.modPath b n p f).parts = s.parts := rfl
@[simp] theorem State.modPath_vfs : (s.modPath b n p f).vfs = s.vfs := rfl
@[simp] theorem State.modPath_ctxs : (s.modPath b n p f).ctxs = s.ctxs := rfl
@[simp] theorem State.modPath_queues : (s.modPath b n p f).queues = s.queues := rfl
@[simp] theorem State.modPath_slots : (s.modPath b n p f).slots = s.slots := rfl
@[simp] theorem State.modPath_dies : (s.modPath b n p f).dies = s.dies := rfl
@[simp] theorem State.modPath_cores : (s.modPath b n p f).cores = s.cores := rfl
@[simp] theorem State.modPath_l2 : (s.modPath b n p f).l2 = s.l2 := rfl
@[simp] theorem State.modPath_fwd : (s.modPath b n p f).fwd = s.fwd := rfl
@[simp] theorem State.modPath_monitors : (s.modPath b n p f).monitors = s.monitors := rfl
@[simp] theorem State.modPath_clamps : (s.modPath b n p f).clamps = s.clamps := rfl
@[simp] theorem State.modPath_migrs : (s.modPath b n p f).migrs = s.migrs := rfl
@[simp] theorem State.modPath_objs : (s.modPath b n p f).objs = s.objs := rfl
@[simp] theorem State.modPath_implicit : (s.modPath b n p f).implicit = s.implicit := rfl
@[simp] theorem State.modPath_shoots : (s.modPath b n p f).shoots = s.shoots := rfl
@[simp] theorem State.modPath_grids : (s.modPath b n p f).grids = s.grids := rfl
@[simp] theorem State.modPath_bars : (s.modPath b n p f).bars = s.bars := rfl
@[simp] theorem State.modPath_counters : (s.modPath b n p f).counters = s.counters := rfl
@[simp] theorem State.modPath_cmds : (s.modPath b n p f).cmds = s.cmds := rfl
@[simp] theorem State.modPath_mats : (s.modPath b n p f).mats = s.mats := rfl
@[simp] theorem State.modPath_savedMat : (s.modPath b n p f).savedMat = s.savedMat := rfl
@[simp] theorem State.modPath_cows : (s.modPath b n p f).cows = s.cows := rfl
@[simp] theorem State.modPath_frames : (s.modPath b n p f).frames = s.frames := rfl
@[simp] theorem State.modPath_hists : (s.modPath b n p f).hists = s.hists := rfl
@[simp] theorem State.modPath_errs : (s.modPath b n p f).errs = s.errs := rfl

end

section

variable (c : Nat) (f : Ctx → Ctx)

@[simp] theorem State.modCtx_moves : (s.modCtx c f).moves = s.moves := rfl
@[simp] theorem State.modCtx_drawCtr : (s.modCtx c f).drawCtr = s.drawCtr := rfl
@[simp] theorem State.modCtx_freeCtr : (s.modCtx c f).freeCtr = s.freeCtr := rfl
@[simp] theorem State.modCtx_cur : (s.modCtx c f).cur = s.cur := rfl
@[simp] theorem State.modCtx_mem : (s.modCtx c f).mem = s.mem := rfl
@[simp] theorem State.modCtx_poison : (s.modCtx c f).poison = s.poison := rfl
@[simp] theorem State.modCtx_time : (s.modCtx c f).time = s.time := rfl
@[simp] theorem State.modCtx_power : (s.modCtx c f).power = s.power := rfl
@[simp] theorem State.modCtx_recovery : (s.modCtx c f).recovery = s.recovery := rfl
@[simp] theorem State.modCtx_failed : (s.modCtx c f).failed = s.failed := rfl
@[simp] theorem State.modCtx_linkUp : (s.modCtx c f).linkUp = s.linkUp := rfl
@[simp] theorem State.modCtx_measured : (s.modCtx c f).measured = s.measured := rfl
@[simp] theorem State.modCtx_rollback : (s.modCtx c f).rollback = s.rollback := rfl
@[simp] theorem State.modCtx_vendorKey : (s.modCtx c f).vendorKey = s.vendorKey := rfl
@[simp] theorem State.modCtx_peers : (s.modCtx c f).peers = s.peers := rfl
@[simp] theorem State.modCtx_reply : (s.modCtx c f).reply = s.reply := rfl
@[simp] theorem State.modCtx_spread : (s.modCtx c f).spread = s.spread := rfl
@[simp] theorem State.modCtx_parts : (s.modCtx c f).parts = s.parts := rfl
@[simp] theorem State.modCtx_vfs : (s.modCtx c f).vfs = s.vfs := rfl
@[simp] theorem State.modCtx_queues : (s.modCtx c f).queues = s.queues := rfl
@[simp] theorem State.modCtx_slots : (s.modCtx c f).slots = s.slots := rfl
@[simp] theorem State.modCtx_dies : (s.modCtx c f).dies = s.dies := rfl
@[simp] theorem State.modCtx_cores : (s.modCtx c f).cores = s.cores := rfl
@[simp] theorem State.modCtx_l2 : (s.modCtx c f).l2 = s.l2 := rfl
@[simp] theorem State.modCtx_fwd : (s.modCtx c f).fwd = s.fwd := rfl
@[simp] theorem State.modCtx_monitors : (s.modCtx c f).monitors = s.monitors := rfl
@[simp] theorem State.modCtx_clamps : (s.modCtx c f).clamps = s.clamps := rfl
@[simp] theorem State.modCtx_migrs : (s.modCtx c f).migrs = s.migrs := rfl
@[simp] theorem State.modCtx_objs : (s.modCtx c f).objs = s.objs := rfl
@[simp] theorem State.modCtx_implicit : (s.modCtx c f).implicit = s.implicit := rfl
@[simp] theorem State.modCtx_shoots : (s.modCtx c f).shoots = s.shoots := rfl
@[simp] theorem State.modCtx_grids : (s.modCtx c f).grids = s.grids := rfl
@[simp] theorem State.modCtx_blocks : (s.modCtx c f).blocks = s.blocks := rfl
@[simp] theorem State.modCtx_bars : (s.modCtx c f).bars = s.bars := rfl
@[simp] theorem State.modCtx_counters : (s.modCtx c f).counters = s.counters := rfl
@[simp] theorem State.modCtx_cmds : (s.modCtx c f).cmds = s.cmds := rfl
@[simp] theorem State.modCtx_mats : (s.modCtx c f).mats = s.mats := rfl
@[simp] theorem State.modCtx_savedMat : (s.modCtx c f).savedMat = s.savedMat := rfl
@[simp] theorem State.modCtx_cows : (s.modCtx c f).cows = s.cows := rfl
@[simp] theorem State.modCtx_frames : (s.modCtx c f).frames = s.frames := rfl
@[simp] theorem State.modCtx_hists : (s.modCtx c f).hists = s.hists := rfl
@[simp] theorem State.modCtx_errs : (s.modCtx c f).errs = s.errs := rfl

end

section

variable (i : Nat) (f : Grid → Grid)

@[simp] theorem State.modGrid_moves : (s.modGrid i f).moves = s.moves := rfl
@[simp] theorem State.modGrid_drawCtr : (s.modGrid i f).drawCtr = s.drawCtr := rfl
@[simp] theorem State.modGrid_freeCtr : (s.modGrid i f).freeCtr = s.freeCtr := rfl
@[simp] theorem State.modGrid_cur : (s.modGrid i f).cur = s.cur := rfl
@[simp] theorem State.modGrid_mem : (s.modGrid i f).mem = s.mem := rfl
@[simp] theorem State.modGrid_poison : (s.modGrid i f).poison = s.poison := rfl
@[simp] theorem State.modGrid_time : (s.modGrid i f).time = s.time := rfl
@[simp] theorem State.modGrid_power : (s.modGrid i f).power = s.power := rfl
@[simp] theorem State.modGrid_recovery : (s.modGrid i f).recovery = s.recovery := rfl
@[simp] theorem State.modGrid_failed : (s.modGrid i f).failed = s.failed := rfl
@[simp] theorem State.modGrid_linkUp : (s.modGrid i f).linkUp = s.linkUp := rfl
@[simp] theorem State.modGrid_measured : (s.modGrid i f).measured = s.measured := rfl
@[simp] theorem State.modGrid_rollback : (s.modGrid i f).rollback = s.rollback := rfl
@[simp] theorem State.modGrid_vendorKey : (s.modGrid i f).vendorKey = s.vendorKey := rfl
@[simp] theorem State.modGrid_peers : (s.modGrid i f).peers = s.peers := rfl
@[simp] theorem State.modGrid_reply : (s.modGrid i f).reply = s.reply := rfl
@[simp] theorem State.modGrid_spread : (s.modGrid i f).spread = s.spread := rfl
@[simp] theorem State.modGrid_parts : (s.modGrid i f).parts = s.parts := rfl
@[simp] theorem State.modGrid_vfs : (s.modGrid i f).vfs = s.vfs := rfl
@[simp] theorem State.modGrid_ctxs : (s.modGrid i f).ctxs = s.ctxs := rfl
@[simp] theorem State.modGrid_queues : (s.modGrid i f).queues = s.queues := rfl
@[simp] theorem State.modGrid_slots : (s.modGrid i f).slots = s.slots := rfl
@[simp] theorem State.modGrid_dies : (s.modGrid i f).dies = s.dies := rfl
@[simp] theorem State.modGrid_cores : (s.modGrid i f).cores = s.cores := rfl
@[simp] theorem State.modGrid_l2 : (s.modGrid i f).l2 = s.l2 := rfl
@[simp] theorem State.modGrid_fwd : (s.modGrid i f).fwd = s.fwd := rfl
@[simp] theorem State.modGrid_monitors : (s.modGrid i f).monitors = s.monitors := rfl
@[simp] theorem State.modGrid_clamps : (s.modGrid i f).clamps = s.clamps := rfl
@[simp] theorem State.modGrid_migrs : (s.modGrid i f).migrs = s.migrs := rfl
@[simp] theorem State.modGrid_objs : (s.modGrid i f).objs = s.objs := rfl
@[simp] theorem State.modGrid_implicit : (s.modGrid i f).implicit = s.implicit := rfl
@[simp] theorem State.modGrid_shoots : (s.modGrid i f).shoots = s.shoots := rfl
@[simp] theorem State.modGrid_blocks : (s.modGrid i f).blocks = s.blocks := rfl
@[simp] theorem State.modGrid_bars : (s.modGrid i f).bars = s.bars := rfl
@[simp] theorem State.modGrid_counters : (s.modGrid i f).counters = s.counters := rfl
@[simp] theorem State.modGrid_cmds : (s.modGrid i f).cmds = s.cmds := rfl
@[simp] theorem State.modGrid_mats : (s.modGrid i f).mats = s.mats := rfl
@[simp] theorem State.modGrid_savedMat : (s.modGrid i f).savedMat = s.savedMat := rfl
@[simp] theorem State.modGrid_cows : (s.modGrid i f).cows = s.cows := rfl
@[simp] theorem State.modGrid_frames : (s.modGrid i f).frames = s.frames := rfl
@[simp] theorem State.modGrid_hists : (s.modGrid i f).hists = s.hists := rfl
@[simp] theorem State.modGrid_errs : (s.modGrid i f).errs = s.errs := rfl

end

section

variable (i : Nat) (f : Cmd → Cmd)

@[simp] theorem State.modCmd_moves : (s.modCmd i f).moves = s.moves := rfl
@[simp] theorem State.modCmd_drawCtr : (s.modCmd i f).drawCtr = s.drawCtr := rfl
@[simp] theorem State.modCmd_freeCtr : (s.modCmd i f).freeCtr = s.freeCtr := rfl
@[simp] theorem State.modCmd_cur : (s.modCmd i f).cur = s.cur := rfl
@[simp] theorem State.modCmd_mem : (s.modCmd i f).mem = s.mem := rfl
@[simp] theorem State.modCmd_poison : (s.modCmd i f).poison = s.poison := rfl
@[simp] theorem State.modCmd_time : (s.modCmd i f).time = s.time := rfl
@[simp] theorem State.modCmd_power : (s.modCmd i f).power = s.power := rfl
@[simp] theorem State.modCmd_recovery : (s.modCmd i f).recovery = s.recovery := rfl
@[simp] theorem State.modCmd_failed : (s.modCmd i f).failed = s.failed := rfl
@[simp] theorem State.modCmd_linkUp : (s.modCmd i f).linkUp = s.linkUp := rfl
@[simp] theorem State.modCmd_measured : (s.modCmd i f).measured = s.measured := rfl
@[simp] theorem State.modCmd_rollback : (s.modCmd i f).rollback = s.rollback := rfl
@[simp] theorem State.modCmd_vendorKey : (s.modCmd i f).vendorKey = s.vendorKey := rfl
@[simp] theorem State.modCmd_peers : (s.modCmd i f).peers = s.peers := rfl
@[simp] theorem State.modCmd_reply : (s.modCmd i f).reply = s.reply := rfl
@[simp] theorem State.modCmd_spread : (s.modCmd i f).spread = s.spread := rfl
@[simp] theorem State.modCmd_parts : (s.modCmd i f).parts = s.parts := rfl
@[simp] theorem State.modCmd_vfs : (s.modCmd i f).vfs = s.vfs := rfl
@[simp] theorem State.modCmd_ctxs : (s.modCmd i f).ctxs = s.ctxs := rfl
@[simp] theorem State.modCmd_queues : (s.modCmd i f).queues = s.queues := rfl
@[simp] theorem State.modCmd_slots : (s.modCmd i f).slots = s.slots := rfl
@[simp] theorem State.modCmd_dies : (s.modCmd i f).dies = s.dies := rfl
@[simp] theorem State.modCmd_cores : (s.modCmd i f).cores = s.cores := rfl
@[simp] theorem State.modCmd_l2 : (s.modCmd i f).l2 = s.l2 := rfl
@[simp] theorem State.modCmd_fwd : (s.modCmd i f).fwd = s.fwd := rfl
@[simp] theorem State.modCmd_monitors : (s.modCmd i f).monitors = s.monitors := rfl
@[simp] theorem State.modCmd_clamps : (s.modCmd i f).clamps = s.clamps := rfl
@[simp] theorem State.modCmd_migrs : (s.modCmd i f).migrs = s.migrs := rfl
@[simp] theorem State.modCmd_objs : (s.modCmd i f).objs = s.objs := rfl
@[simp] theorem State.modCmd_implicit : (s.modCmd i f).implicit = s.implicit := rfl
@[simp] theorem State.modCmd_shoots : (s.modCmd i f).shoots = s.shoots := rfl
@[simp] theorem State.modCmd_grids : (s.modCmd i f).grids = s.grids := rfl
@[simp] theorem State.modCmd_blocks : (s.modCmd i f).blocks = s.blocks := rfl
@[simp] theorem State.modCmd_bars : (s.modCmd i f).bars = s.bars := rfl
@[simp] theorem State.modCmd_counters : (s.modCmd i f).counters = s.counters := rfl
@[simp] theorem State.modCmd_mats : (s.modCmd i f).mats = s.mats := rfl
@[simp] theorem State.modCmd_savedMat : (s.modCmd i f).savedMat = s.savedMat := rfl
@[simp] theorem State.modCmd_cows : (s.modCmd i f).cows = s.cows := rfl
@[simp] theorem State.modCmd_frames : (s.modCmd i f).frames = s.frames := rfl
@[simp] theorem State.modCmd_hists : (s.modCmd i f).hists = s.hists := rfl
@[simp] theorem State.modCmd_errs : (s.modCmd i f).errs = s.errs := rfl

end

section

variable (i : Nat) (f : MatCmd → MatCmd)

@[simp] theorem State.modMat_moves : (s.modMat i f).moves = s.moves := rfl
@[simp] theorem State.modMat_drawCtr : (s.modMat i f).drawCtr = s.drawCtr := rfl
@[simp] theorem State.modMat_freeCtr : (s.modMat i f).freeCtr = s.freeCtr := rfl
@[simp] theorem State.modMat_cur : (s.modMat i f).cur = s.cur := rfl
@[simp] theorem State.modMat_mem : (s.modMat i f).mem = s.mem := rfl
@[simp] theorem State.modMat_poison : (s.modMat i f).poison = s.poison := rfl
@[simp] theorem State.modMat_time : (s.modMat i f).time = s.time := rfl
@[simp] theorem State.modMat_power : (s.modMat i f).power = s.power := rfl
@[simp] theorem State.modMat_recovery : (s.modMat i f).recovery = s.recovery := rfl
@[simp] theorem State.modMat_failed : (s.modMat i f).failed = s.failed := rfl
@[simp] theorem State.modMat_linkUp : (s.modMat i f).linkUp = s.linkUp := rfl
@[simp] theorem State.modMat_measured : (s.modMat i f).measured = s.measured := rfl
@[simp] theorem State.modMat_rollback : (s.modMat i f).rollback = s.rollback := rfl
@[simp] theorem State.modMat_vendorKey : (s.modMat i f).vendorKey = s.vendorKey := rfl
@[simp] theorem State.modMat_peers : (s.modMat i f).peers = s.peers := rfl
@[simp] theorem State.modMat_reply : (s.modMat i f).reply = s.reply := rfl
@[simp] theorem State.modMat_spread : (s.modMat i f).spread = s.spread := rfl
@[simp] theorem State.modMat_parts : (s.modMat i f).parts = s.parts := rfl
@[simp] theorem State.modMat_vfs : (s.modMat i f).vfs = s.vfs := rfl
@[simp] theorem State.modMat_ctxs : (s.modMat i f).ctxs = s.ctxs := rfl
@[simp] theorem State.modMat_queues : (s.modMat i f).queues = s.queues := rfl
@[simp] theorem State.modMat_slots : (s.modMat i f).slots = s.slots := rfl
@[simp] theorem State.modMat_dies : (s.modMat i f).dies = s.dies := rfl
@[simp] theorem State.modMat_cores : (s.modMat i f).cores = s.cores := rfl
@[simp] theorem State.modMat_l2 : (s.modMat i f).l2 = s.l2 := rfl
@[simp] theorem State.modMat_fwd : (s.modMat i f).fwd = s.fwd := rfl
@[simp] theorem State.modMat_monitors : (s.modMat i f).monitors = s.monitors := rfl
@[simp] theorem State.modMat_clamps : (s.modMat i f).clamps = s.clamps := rfl
@[simp] theorem State.modMat_migrs : (s.modMat i f).migrs = s.migrs := rfl
@[simp] theorem State.modMat_objs : (s.modMat i f).objs = s.objs := rfl
@[simp] theorem State.modMat_implicit : (s.modMat i f).implicit = s.implicit := rfl
@[simp] theorem State.modMat_shoots : (s.modMat i f).shoots = s.shoots := rfl
@[simp] theorem State.modMat_grids : (s.modMat i f).grids = s.grids := rfl
@[simp] theorem State.modMat_blocks : (s.modMat i f).blocks = s.blocks := rfl
@[simp] theorem State.modMat_bars : (s.modMat i f).bars = s.bars := rfl
@[simp] theorem State.modMat_counters : (s.modMat i f).counters = s.counters := rfl
@[simp] theorem State.modMat_cmds : (s.modMat i f).cmds = s.cmds := rfl
@[simp] theorem State.modMat_savedMat : (s.modMat i f).savedMat = s.savedMat := rfl
@[simp] theorem State.modMat_cows : (s.modMat i f).cows = s.cows := rfl
@[simp] theorem State.modMat_frames : (s.modMat i f).frames = s.frames := rfl
@[simp] theorem State.modMat_hists : (s.modMat i f).hists = s.hists := rfl
@[simp] theorem State.modMat_errs : (s.modMat i f).errs = s.errs := rfl

end

section

variable (c : Nat) (f : Core → Core)

@[simp] theorem State.modCore_moves : (s.modCore c f).moves = s.moves := rfl
@[simp] theorem State.modCore_drawCtr : (s.modCore c f).drawCtr = s.drawCtr := rfl
@[simp] theorem State.modCore_freeCtr : (s.modCore c f).freeCtr = s.freeCtr := rfl
@[simp] theorem State.modCore_cur : (s.modCore c f).cur = s.cur := rfl
@[simp] theorem State.modCore_mem : (s.modCore c f).mem = s.mem := rfl
@[simp] theorem State.modCore_poison : (s.modCore c f).poison = s.poison := rfl
@[simp] theorem State.modCore_time : (s.modCore c f).time = s.time := rfl
@[simp] theorem State.modCore_power : (s.modCore c f).power = s.power := rfl
@[simp] theorem State.modCore_recovery : (s.modCore c f).recovery = s.recovery := rfl
@[simp] theorem State.modCore_failed : (s.modCore c f).failed = s.failed := rfl
@[simp] theorem State.modCore_linkUp : (s.modCore c f).linkUp = s.linkUp := rfl
@[simp] theorem State.modCore_measured : (s.modCore c f).measured = s.measured := rfl
@[simp] theorem State.modCore_rollback : (s.modCore c f).rollback = s.rollback := rfl
@[simp] theorem State.modCore_vendorKey : (s.modCore c f).vendorKey = s.vendorKey := rfl
@[simp] theorem State.modCore_peers : (s.modCore c f).peers = s.peers := rfl
@[simp] theorem State.modCore_reply : (s.modCore c f).reply = s.reply := rfl
@[simp] theorem State.modCore_spread : (s.modCore c f).spread = s.spread := rfl
@[simp] theorem State.modCore_parts : (s.modCore c f).parts = s.parts := rfl
@[simp] theorem State.modCore_vfs : (s.modCore c f).vfs = s.vfs := rfl
@[simp] theorem State.modCore_ctxs : (s.modCore c f).ctxs = s.ctxs := rfl
@[simp] theorem State.modCore_queues : (s.modCore c f).queues = s.queues := rfl
@[simp] theorem State.modCore_slots : (s.modCore c f).slots = s.slots := rfl
@[simp] theorem State.modCore_dies : (s.modCore c f).dies = s.dies := rfl
@[simp] theorem State.modCore_l2 : (s.modCore c f).l2 = s.l2 := rfl
@[simp] theorem State.modCore_fwd : (s.modCore c f).fwd = s.fwd := rfl
@[simp] theorem State.modCore_monitors : (s.modCore c f).monitors = s.monitors := rfl
@[simp] theorem State.modCore_clamps : (s.modCore c f).clamps = s.clamps := rfl
@[simp] theorem State.modCore_migrs : (s.modCore c f).migrs = s.migrs := rfl
@[simp] theorem State.modCore_objs : (s.modCore c f).objs = s.objs := rfl
@[simp] theorem State.modCore_implicit : (s.modCore c f).implicit = s.implicit := rfl
@[simp] theorem State.modCore_shoots : (s.modCore c f).shoots = s.shoots := rfl
@[simp] theorem State.modCore_grids : (s.modCore c f).grids = s.grids := rfl
@[simp] theorem State.modCore_blocks : (s.modCore c f).blocks = s.blocks := rfl
@[simp] theorem State.modCore_bars : (s.modCore c f).bars = s.bars := rfl
@[simp] theorem State.modCore_counters : (s.modCore c f).counters = s.counters := rfl
@[simp] theorem State.modCore_cmds : (s.modCore c f).cmds = s.cmds := rfl
@[simp] theorem State.modCore_mats : (s.modCore c f).mats = s.mats := rfl
@[simp] theorem State.modCore_savedMat : (s.modCore c f).savedMat = s.savedMat := rfl
@[simp] theorem State.modCore_cows : (s.modCore c f).cows = s.cows := rfl
@[simp] theorem State.modCore_frames : (s.modCore c f).frames = s.frames := rfl
@[simp] theorem State.modCore_hists : (s.modCore c f).hists = s.hists := rfl
@[simp] theorem State.modCore_errs : (s.modCore c f).errs = s.errs := rfl

end

section

variable (d : Nat) (f : Die → Die)

@[simp] theorem State.modDie_moves : (s.modDie d f).moves = s.moves := rfl
@[simp] theorem State.modDie_drawCtr : (s.modDie d f).drawCtr = s.drawCtr := rfl
@[simp] theorem State.modDie_freeCtr : (s.modDie d f).freeCtr = s.freeCtr := rfl
@[simp] theorem State.modDie_cur : (s.modDie d f).cur = s.cur := rfl
@[simp] theorem State.modDie_mem : (s.modDie d f).mem = s.mem := rfl
@[simp] theorem State.modDie_poison : (s.modDie d f).poison = s.poison := rfl
@[simp] theorem State.modDie_time : (s.modDie d f).time = s.time := rfl
@[simp] theorem State.modDie_power : (s.modDie d f).power = s.power := rfl
@[simp] theorem State.modDie_recovery : (s.modDie d f).recovery = s.recovery := rfl
@[simp] theorem State.modDie_failed : (s.modDie d f).failed = s.failed := rfl
@[simp] theorem State.modDie_linkUp : (s.modDie d f).linkUp = s.linkUp := rfl
@[simp] theorem State.modDie_measured : (s.modDie d f).measured = s.measured := rfl
@[simp] theorem State.modDie_rollback : (s.modDie d f).rollback = s.rollback := rfl
@[simp] theorem State.modDie_vendorKey : (s.modDie d f).vendorKey = s.vendorKey := rfl
@[simp] theorem State.modDie_peers : (s.modDie d f).peers = s.peers := rfl
@[simp] theorem State.modDie_reply : (s.modDie d f).reply = s.reply := rfl
@[simp] theorem State.modDie_spread : (s.modDie d f).spread = s.spread := rfl
@[simp] theorem State.modDie_parts : (s.modDie d f).parts = s.parts := rfl
@[simp] theorem State.modDie_vfs : (s.modDie d f).vfs = s.vfs := rfl
@[simp] theorem State.modDie_ctxs : (s.modDie d f).ctxs = s.ctxs := rfl
@[simp] theorem State.modDie_queues : (s.modDie d f).queues = s.queues := rfl
@[simp] theorem State.modDie_slots : (s.modDie d f).slots = s.slots := rfl
@[simp] theorem State.modDie_cores : (s.modDie d f).cores = s.cores := rfl
@[simp] theorem State.modDie_l2 : (s.modDie d f).l2 = s.l2 := rfl
@[simp] theorem State.modDie_fwd : (s.modDie d f).fwd = s.fwd := rfl
@[simp] theorem State.modDie_monitors : (s.modDie d f).monitors = s.monitors := rfl
@[simp] theorem State.modDie_clamps : (s.modDie d f).clamps = s.clamps := rfl
@[simp] theorem State.modDie_migrs : (s.modDie d f).migrs = s.migrs := rfl
@[simp] theorem State.modDie_objs : (s.modDie d f).objs = s.objs := rfl
@[simp] theorem State.modDie_implicit : (s.modDie d f).implicit = s.implicit := rfl
@[simp] theorem State.modDie_shoots : (s.modDie d f).shoots = s.shoots := rfl
@[simp] theorem State.modDie_grids : (s.modDie d f).grids = s.grids := rfl
@[simp] theorem State.modDie_blocks : (s.modDie d f).blocks = s.blocks := rfl
@[simp] theorem State.modDie_bars : (s.modDie d f).bars = s.bars := rfl
@[simp] theorem State.modDie_counters : (s.modDie d f).counters = s.counters := rfl
@[simp] theorem State.modDie_cmds : (s.modDie d f).cmds = s.cmds := rfl
@[simp] theorem State.modDie_mats : (s.modDie d f).mats = s.mats := rfl
@[simp] theorem State.modDie_savedMat : (s.modDie d f).savedMat = s.savedMat := rfl
@[simp] theorem State.modDie_cows : (s.modDie d f).cows = s.cows := rfl
@[simp] theorem State.modDie_frames : (s.modDie d f).frames = s.frames := rfl
@[simp] theorem State.modDie_hists : (s.modDie d f).hists = s.hists := rfl
@[simp] theorem State.modDie_errs : (s.modDie d f).errs = s.errs := rfl

end

section

variable (q : Nat) (f : UQueue → UQueue)

@[simp] theorem State.modQueue_moves : (s.modQueue q f).moves = s.moves := rfl
@[simp] theorem State.modQueue_drawCtr : (s.modQueue q f).drawCtr = s.drawCtr := rfl
@[simp] theorem State.modQueue_freeCtr : (s.modQueue q f).freeCtr = s.freeCtr := rfl
@[simp] theorem State.modQueue_cur : (s.modQueue q f).cur = s.cur := rfl
@[simp] theorem State.modQueue_mem : (s.modQueue q f).mem = s.mem := rfl
@[simp] theorem State.modQueue_poison : (s.modQueue q f).poison = s.poison := rfl
@[simp] theorem State.modQueue_time : (s.modQueue q f).time = s.time := rfl
@[simp] theorem State.modQueue_power : (s.modQueue q f).power = s.power := rfl
@[simp] theorem State.modQueue_recovery : (s.modQueue q f).recovery = s.recovery := rfl
@[simp] theorem State.modQueue_failed : (s.modQueue q f).failed = s.failed := rfl
@[simp] theorem State.modQueue_linkUp : (s.modQueue q f).linkUp = s.linkUp := rfl
@[simp] theorem State.modQueue_measured : (s.modQueue q f).measured = s.measured := rfl
@[simp] theorem State.modQueue_rollback : (s.modQueue q f).rollback = s.rollback := rfl
@[simp] theorem State.modQueue_vendorKey : (s.modQueue q f).vendorKey = s.vendorKey := rfl
@[simp] theorem State.modQueue_peers : (s.modQueue q f).peers = s.peers := rfl
@[simp] theorem State.modQueue_reply : (s.modQueue q f).reply = s.reply := rfl
@[simp] theorem State.modQueue_spread : (s.modQueue q f).spread = s.spread := rfl
@[simp] theorem State.modQueue_parts : (s.modQueue q f).parts = s.parts := rfl
@[simp] theorem State.modQueue_vfs : (s.modQueue q f).vfs = s.vfs := rfl
@[simp] theorem State.modQueue_ctxs : (s.modQueue q f).ctxs = s.ctxs := rfl
@[simp] theorem State.modQueue_slots : (s.modQueue q f).slots = s.slots := rfl
@[simp] theorem State.modQueue_dies : (s.modQueue q f).dies = s.dies := rfl
@[simp] theorem State.modQueue_cores : (s.modQueue q f).cores = s.cores := rfl
@[simp] theorem State.modQueue_l2 : (s.modQueue q f).l2 = s.l2 := rfl
@[simp] theorem State.modQueue_fwd : (s.modQueue q f).fwd = s.fwd := rfl
@[simp] theorem State.modQueue_monitors : (s.modQueue q f).monitors = s.monitors := rfl
@[simp] theorem State.modQueue_clamps : (s.modQueue q f).clamps = s.clamps := rfl
@[simp] theorem State.modQueue_migrs : (s.modQueue q f).migrs = s.migrs := rfl
@[simp] theorem State.modQueue_objs : (s.modQueue q f).objs = s.objs := rfl
@[simp] theorem State.modQueue_implicit : (s.modQueue q f).implicit = s.implicit := rfl
@[simp] theorem State.modQueue_shoots : (s.modQueue q f).shoots = s.shoots := rfl
@[simp] theorem State.modQueue_grids : (s.modQueue q f).grids = s.grids := rfl
@[simp] theorem State.modQueue_blocks : (s.modQueue q f).blocks = s.blocks := rfl
@[simp] theorem State.modQueue_bars : (s.modQueue q f).bars = s.bars := rfl
@[simp] theorem State.modQueue_counters : (s.modQueue q f).counters = s.counters := rfl
@[simp] theorem State.modQueue_cmds : (s.modQueue q f).cmds = s.cmds := rfl
@[simp] theorem State.modQueue_mats : (s.modQueue q f).mats = s.mats := rfl
@[simp] theorem State.modQueue_savedMat : (s.modQueue q f).savedMat = s.savedMat := rfl
@[simp] theorem State.modQueue_cows : (s.modQueue q f).cows = s.cows := rfl
@[simp] theorem State.modQueue_frames : (s.modQueue q f).frames = s.frames := rfl
@[simp] theorem State.modQueue_hists : (s.modQueue q f).hists = s.hists := rfl
@[simp] theorem State.modQueue_errs : (s.modQueue q f).errs = s.errs := rfl

end

section

variable (n : Node) (c p i j : Nat)

@[simp] theorem State.count_moves : (s.count n c p i j).moves = s.moves := rfl
@[simp] theorem State.count_drawCtr : (s.count n c p i j).drawCtr = s.drawCtr := rfl
@[simp] theorem State.count_freeCtr : (s.count n c p i j).freeCtr = s.freeCtr := rfl
@[simp] theorem State.count_cur : (s.count n c p i j).cur = s.cur := rfl
@[simp] theorem State.count_mem : (s.count n c p i j).mem = s.mem := rfl
@[simp] theorem State.count_poison : (s.count n c p i j).poison = s.poison := rfl
@[simp] theorem State.count_time : (s.count n c p i j).time = s.time := rfl
@[simp] theorem State.count_power : (s.count n c p i j).power = s.power := rfl
@[simp] theorem State.count_recovery : (s.count n c p i j).recovery = s.recovery := rfl
@[simp] theorem State.count_failed : (s.count n c p i j).failed = s.failed := rfl
@[simp] theorem State.count_linkUp : (s.count n c p i j).linkUp = s.linkUp := rfl
@[simp] theorem State.count_measured : (s.count n c p i j).measured = s.measured := rfl
@[simp] theorem State.count_rollback : (s.count n c p i j).rollback = s.rollback := rfl
@[simp] theorem State.count_vendorKey : (s.count n c p i j).vendorKey = s.vendorKey := rfl
@[simp] theorem State.count_peers : (s.count n c p i j).peers = s.peers := rfl
@[simp] theorem State.count_reply : (s.count n c p i j).reply = s.reply := rfl
@[simp] theorem State.count_spread : (s.count n c p i j).spread = s.spread := rfl
@[simp] theorem State.count_parts : (s.count n c p i j).parts = s.parts := rfl
@[simp] theorem State.count_vfs : (s.count n c p i j).vfs = s.vfs := rfl
@[simp] theorem State.count_ctxs : (s.count n c p i j).ctxs = s.ctxs := rfl
@[simp] theorem State.count_queues : (s.count n c p i j).queues = s.queues := rfl
@[simp] theorem State.count_slots : (s.count n c p i j).slots = s.slots := rfl
@[simp] theorem State.count_dies : (s.count n c p i j).dies = s.dies := rfl
@[simp] theorem State.count_cores : (s.count n c p i j).cores = s.cores := rfl
@[simp] theorem State.count_l2 : (s.count n c p i j).l2 = s.l2 := rfl
@[simp] theorem State.count_fwd : (s.count n c p i j).fwd = s.fwd := rfl
@[simp] theorem State.count_monitors : (s.count n c p i j).monitors = s.monitors := rfl
@[simp] theorem State.count_clamps : (s.count n c p i j).clamps = s.clamps := rfl
@[simp] theorem State.count_migrs : (s.count n c p i j).migrs = s.migrs := rfl
@[simp] theorem State.count_objs : (s.count n c p i j).objs = s.objs := rfl
@[simp] theorem State.count_implicit : (s.count n c p i j).implicit = s.implicit := rfl
@[simp] theorem State.count_shoots : (s.count n c p i j).shoots = s.shoots := rfl
@[simp] theorem State.count_grids : (s.count n c p i j).grids = s.grids := rfl
@[simp] theorem State.count_blocks : (s.count n c p i j).blocks = s.blocks := rfl
@[simp] theorem State.count_bars : (s.count n c p i j).bars = s.bars := rfl
@[simp] theorem State.count_cmds : (s.count n c p i j).cmds = s.cmds := rfl
@[simp] theorem State.count_mats : (s.count n c p i j).mats = s.mats := rfl
@[simp] theorem State.count_savedMat : (s.count n c p i j).savedMat = s.savedMat := rfl
@[simp] theorem State.count_cows : (s.count n c p i j).cows = s.cows := rfl
@[simp] theorem State.count_frames : (s.count n c p i j).frames = s.frames := rfl
@[simp] theorem State.count_hists : (s.count n c p i j).hists = s.hists := rfl
@[simp] theorem State.count_errs : (s.count n c p i j).errs = s.errs := rfl

end

section

variable (r : Nat) (v : List Word) (w : Word) (m : BitVec 256) (d : Nat → Bool)

@[simp] theorem Group.setVreg_sregs : (g.setVreg r v).sregs = g.sregs := rfl
@[simp] theorem Group.setVreg_kregs : (g.setVreg r v).kregs = g.kregs := rfl
@[simp] theorem Group.setVreg_lr : (g.setVreg r v).lr = g.lr := rfl
@[simp] theorem Group.setVreg_epc : (g.setVreg r v).epc = g.epc := rfl
@[simp] theorem Group.setVreg_hscr : (g.setVreg r v).hscr = g.hscr := rfl
@[simp] theorem Group.setVreg_handler : (g.setVreg r v).handler = g.handler := rfl
@[simp] theorem Group.setVreg_cause : (g.setVreg r v).cause = g.cause := rfl
@[simp] theorem Group.setVreg_faddr : (g.setVreg r v).faddr = g.faddr := rfl
@[simp] theorem Group.setVreg_traps : (g.setVreg r v).traps = g.traps := rfl
@[simp] theorem Group.setVreg_present : (g.setVreg r v).present = g.present := rfl
@[simp] theorem Group.setVreg_helper : (g.setVreg r v).helper = g.helper := rfl
@[simp] theorem Group.setVreg_exited : (g.setVreg r v).exited = g.exited := rfl
@[simp] theorem Group.setVreg_paths : (g.setVreg r v).paths = g.paths := rfl
@[simp] theorem Group.setVreg_qcount : (g.setVreg r v).qcount = g.qcount := rfl
@[simp] theorem Group.setVreg_batch : (g.setVreg r v).batch = g.batch := rfl
@[simp] theorem Group.setVreg_opens : (g.setVreg r v).opens = g.opens := rfl
@[simp] theorem Group.setVreg_sealed_ : (g.setVreg r v).sealed_ = g.sealed_ := rfl
@[simp] theorem Group.setVreg_streams : (g.setVreg r v).streams = g.streams := rfl
@[simp] theorem Group.setVreg_binds : (g.setVreg r v).binds = g.binds := rfl
@[simp] theorem Group.setVreg_cqs : (g.setVreg r v).cqs = g.cqs := rfl
@[simp] theorem Group.setVreg_records : (g.setVreg r v).records = g.records := rfl
@[simp] theorem Group.setVreg_attrs : (g.setVreg r v).attrs = g.attrs := rfl
@[simp] theorem Group.setVreg_frags : (g.setVreg r v).frags = g.frags := rfl
@[simp] theorem Group.setVreg_owed : (g.setVreg r v).owed = g.owed := rfl
@[simp] theorem Group.setVreg_poison : (g.setVreg r v).poison = g.poison := rfl
@[simp] theorem Group.setSreg_vregs : (g.setSreg r w).vregs = g.vregs := by unfold Group.setSreg; split <;> rfl
@[simp] theorem Group.setSreg_kregs : (g.setSreg r w).kregs = g.kregs := by unfold Group.setSreg; split <;> rfl
@[simp] theorem Group.setSreg_lr : (g.setSreg r w).lr = g.lr := by unfold Group.setSreg; split <;> rfl
@[simp] theorem Group.setSreg_epc : (g.setSreg r w).epc = g.epc := by unfold Group.setSreg; split <;> rfl
@[simp] theorem Group.setSreg_hscr : (g.setSreg r w).hscr = g.hscr := by unfold Group.setSreg; split <;> rfl
@[simp] theorem Group.setSreg_handler : (g.setSreg r w).handler = g.handler := by unfold Group.setSreg; split <;> rfl
@[simp] theorem Group.setSreg_cause : (g.setSreg r w).cause = g.cause := by unfold Group.setSreg; split <;> rfl
@[simp] theorem Group.setSreg_faddr : (g.setSreg r w).faddr = g.faddr := by unfold Group.setSreg; split <;> rfl
@[simp] theorem Group.setSreg_traps : (g.setSreg r w).traps = g.traps := by unfold Group.setSreg; split <;> rfl
@[simp] theorem Group.setSreg_present : (g.setSreg r w).present = g.present := by unfold Group.setSreg; split <;> rfl
@[simp] theorem Group.setSreg_helper : (g.setSreg r w).helper = g.helper := by unfold Group.setSreg; split <;> rfl
@[simp] theorem Group.setSreg_exited : (g.setSreg r w).exited = g.exited := by unfold Group.setSreg; split <;> rfl
@[simp] theorem Group.setSreg_paths : (g.setSreg r w).paths = g.paths := by unfold Group.setSreg; split <;> rfl
@[simp] theorem Group.setSreg_qcount : (g.setSreg r w).qcount = g.qcount := by unfold Group.setSreg; split <;> rfl
@[simp] theorem Group.setSreg_batch : (g.setSreg r w).batch = g.batch := by unfold Group.setSreg; split <;> rfl
@[simp] theorem Group.setSreg_opens : (g.setSreg r w).opens = g.opens := by unfold Group.setSreg; split <;> rfl
@[simp] theorem Group.setSreg_sealed_ : (g.setSreg r w).sealed_ = g.sealed_ := by unfold Group.setSreg; split <;> rfl
@[simp] theorem Group.setSreg_streams : (g.setSreg r w).streams = g.streams := by unfold Group.setSreg; split <;> rfl
@[simp] theorem Group.setSreg_binds : (g.setSreg r w).binds = g.binds := by unfold Group.setSreg; split <;> rfl
@[simp] theorem Group.setSreg_cqs : (g.setSreg r w).cqs = g.cqs := by unfold Group.setSreg; split <;> rfl
@[simp] theorem Group.setSreg_records : (g.setSreg r w).records = g.records := by unfold Group.setSreg; split <;> rfl
@[simp] theorem Group.setSreg_attrs : (g.setSreg r w).attrs = g.attrs := by unfold Group.setSreg; split <;> rfl
@[simp] theorem Group.setSreg_frags : (g.setSreg r w).frags = g.frags := by unfold Group.setSreg; split <;> rfl
@[simp] theorem Group.setSreg_owed : (g.setSreg r w).owed = g.owed := by unfold Group.setSreg; split <;> rfl
@[simp] theorem Group.setSreg_poison : (g.setSreg r w).poison = g.poison := by unfold Group.setSreg; split <;> rfl
@[simp] theorem Group.setKreg_vregs : (g.setKreg r m).vregs = g.vregs := by unfold Group.setKreg; split <;> rfl
@[simp] theorem Group.setKreg_sregs : (g.setKreg r m).sregs = g.sregs := by unfold Group.setKreg; split <;> rfl
@[simp] theorem Group.setKreg_lr : (g.setKreg r m).lr = g.lr := by unfold Group.setKreg; split <;> rfl
@[simp] theorem Group.setKreg_epc : (g.setKreg r m).epc = g.epc := by unfold Group.setKreg; split <;> rfl
@[simp] theorem Group.setKreg_hscr : (g.setKreg r m).hscr = g.hscr := by unfold Group.setKreg; split <;> rfl
@[simp] theorem Group.setKreg_handler : (g.setKreg r m).handler = g.handler := by unfold Group.setKreg; split <;> rfl
@[simp] theorem Group.setKreg_cause : (g.setKreg r m).cause = g.cause := by unfold Group.setKreg; split <;> rfl
@[simp] theorem Group.setKreg_faddr : (g.setKreg r m).faddr = g.faddr := by unfold Group.setKreg; split <;> rfl
@[simp] theorem Group.setKreg_traps : (g.setKreg r m).traps = g.traps := by unfold Group.setKreg; split <;> rfl
@[simp] theorem Group.setKreg_present : (g.setKreg r m).present = g.present := by unfold Group.setKreg; split <;> rfl
@[simp] theorem Group.setKreg_helper : (g.setKreg r m).helper = g.helper := by unfold Group.setKreg; split <;> rfl
@[simp] theorem Group.setKreg_exited : (g.setKreg r m).exited = g.exited := by unfold Group.setKreg; split <;> rfl
@[simp] theorem Group.setKreg_paths : (g.setKreg r m).paths = g.paths := by unfold Group.setKreg; split <;> rfl
@[simp] theorem Group.setKreg_qcount : (g.setKreg r m).qcount = g.qcount := by unfold Group.setKreg; split <;> rfl
@[simp] theorem Group.setKreg_batch : (g.setKreg r m).batch = g.batch := by unfold Group.setKreg; split <;> rfl
@[simp] theorem Group.setKreg_opens : (g.setKreg r m).opens = g.opens := by unfold Group.setKreg; split <;> rfl
@[simp] theorem Group.setKreg_sealed_ : (g.setKreg r m).sealed_ = g.sealed_ := by unfold Group.setKreg; split <;> rfl
@[simp] theorem Group.setKreg_streams : (g.setKreg r m).streams = g.streams := by unfold Group.setKreg; split <;> rfl
@[simp] theorem Group.setKreg_binds : (g.setKreg r m).binds = g.binds := by unfold Group.setKreg; split <;> rfl
@[simp] theorem Group.setKreg_cqs : (g.setKreg r m).cqs = g.cqs := by unfold Group.setKreg; split <;> rfl
@[simp] theorem Group.setKreg_records : (g.setKreg r m).records = g.records := by unfold Group.setKreg; split <;> rfl
@[simp] theorem Group.setKreg_attrs : (g.setKreg r m).attrs = g.attrs := by unfold Group.setKreg; split <;> rfl
@[simp] theorem Group.setKreg_frags : (g.setKreg r m).frags = g.frags := by unfold Group.setKreg; split <;> rfl
@[simp] theorem Group.setKreg_owed : (g.setKreg r m).owed = g.owed := by unfold Group.setKreg; split <;> rfl
@[simp] theorem Group.setKreg_poison : (g.setKreg r m).poison = g.poison := by unfold Group.setKreg; split <;> rfl
@[simp] theorem Group.clean_vregs : (g.clean r d).vregs = g.vregs := rfl
@[simp] theorem Group.clean_sregs : (g.clean r d).sregs = g.sregs := rfl
@[simp] theorem Group.clean_kregs : (g.clean r d).kregs = g.kregs := rfl
@[simp] theorem Group.clean_lr : (g.clean r d).lr = g.lr := rfl
@[simp] theorem Group.clean_epc : (g.clean r d).epc = g.epc := rfl
@[simp] theorem Group.clean_hscr : (g.clean r d).hscr = g.hscr := rfl
@[simp] theorem Group.clean_handler : (g.clean r d).handler = g.handler := rfl
@[simp] theorem Group.clean_cause : (g.clean r d).cause = g.cause := rfl
@[simp] theorem Group.clean_faddr : (g.clean r d).faddr = g.faddr := rfl
@[simp] theorem Group.clean_traps : (g.clean r d).traps = g.traps := rfl
@[simp] theorem Group.clean_present : (g.clean r d).present = g.present := rfl
@[simp] theorem Group.clean_helper : (g.clean r d).helper = g.helper := rfl
@[simp] theorem Group.clean_exited : (g.clean r d).exited = g.exited := rfl
@[simp] theorem Group.clean_paths : (g.clean r d).paths = g.paths := rfl
@[simp] theorem Group.clean_qcount : (g.clean r d).qcount = g.qcount := rfl
@[simp] theorem Group.clean_batch : (g.clean r d).batch = g.batch := rfl
@[simp] theorem Group.clean_opens : (g.clean r d).opens = g.opens := rfl
@[simp] theorem Group.clean_sealed_ : (g.clean r d).sealed_ = g.sealed_ := rfl
@[simp] theorem Group.clean_streams : (g.clean r d).streams = g.streams := rfl
@[simp] theorem Group.clean_binds : (g.clean r d).binds = g.binds := rfl
@[simp] theorem Group.clean_cqs : (g.clean r d).cqs = g.cqs := rfl
@[simp] theorem Group.clean_records : (g.clean r d).records = g.records := rfl
@[simp] theorem Group.clean_attrs : (g.clean r d).attrs = g.attrs := rfl
@[simp] theorem Group.clean_frags : (g.clean r d).frags = g.frags := rfl
@[simp] theorem Group.clean_owed : (g.clean r d).owed = g.owed := rfl

end

section

variable (p n : Nat)

@[simp] theorem Group.advance_vregs : (g.advance p n).vregs = g.vregs := rfl
@[simp] theorem Group.advance_sregs : (g.advance p n).sregs = g.sregs := rfl
@[simp] theorem Group.advance_kregs : (g.advance p n).kregs = g.kregs := rfl
@[simp] theorem Group.advance_lr : (g.advance p n).lr = g.lr := rfl
@[simp] theorem Group.advance_epc : (g.advance p n).epc = g.epc := rfl
@[simp] theorem Group.advance_hscr : (g.advance p n).hscr = g.hscr := rfl
@[simp] theorem Group.advance_handler : (g.advance p n).handler = g.handler := rfl
@[simp] theorem Group.advance_cause : (g.advance p n).cause = g.cause := rfl
@[simp] theorem Group.advance_faddr : (g.advance p n).faddr = g.faddr := rfl
@[simp] theorem Group.advance_traps : (g.advance p n).traps = g.traps := rfl
@[simp] theorem Group.advance_present : (g.advance p n).present = g.present := rfl
@[simp] theorem Group.advance_helper : (g.advance p n).helper = g.helper := rfl
@[simp] theorem Group.advance_exited : (g.advance p n).exited = g.exited := rfl
@[simp] theorem Group.advance_qcount : (g.advance p n).qcount = g.qcount := rfl
@[simp] theorem Group.advance_batch : (g.advance p n).batch = g.batch := rfl
@[simp] theorem Group.advance_opens : (g.advance p n).opens = g.opens := rfl
@[simp] theorem Group.advance_sealed_ : (g.advance p n).sealed_ = g.sealed_ := rfl
@[simp] theorem Group.advance_streams : (g.advance p n).streams = g.streams := rfl
@[simp] theorem Group.advance_binds : (g.advance p n).binds = g.binds := rfl
@[simp] theorem Group.advance_cqs : (g.advance p n).cqs = g.cqs := rfl
@[simp] theorem Group.advance_records : (g.advance p n).records = g.records := rfl
@[simp] theorem Group.advance_attrs : (g.advance p n).attrs = g.attrs := rfl
@[simp] theorem Group.advance_frags : (g.advance p n).frags = g.frags := rfl
@[simp] theorem Group.advance_owed : (g.advance p n).owed = g.owed := rfl
@[simp] theorem Group.advance_poison : (g.advance p n).poison = g.poison := rfl

end

end Sys2Proof.Machine
end

