-- ==== Sys2Proof/Laws/Issue.lean ====
section
/-!
SUPPORT. What the operand forms answer for a word that is being issued by a scene (Safety.Issues), and what the shared
bodies of the vector, uniform and mask instructions do: one lemma for each, which a proof cites instead of unfolding it.
-/

namespace Sys2Proof.Machine

open Host Safety

theorem modCurGrp_apply (f : Group → Group) (s : State) : modCurGrp f s = .ok ((), s.modGrp s.cur.blk s.cur.grp f) := rfl

theorem modCurPath_apply (f : Path → Path) (s : State) :
    modCurPath f s = .ok ((), s.modPath s.cur.blk s.cur.grp s.cur.path f) := rfl

/-- Two changes of one group are one change. -/
theorem State.modGrp_modGrp (s : State) (b g : Nat) (f f' : Group → Group) :
    (s.modGrp b g f).modGrp b g f' = s.modGrp b g (fun x => f' (f x)) := by
  simp only [State.modGrp, State.modBlk]
  congr 1
  rw [List.modify_modify_eq]
  congr 1
  funext k
  simp [List.modify_modify_eq, Function.comp_def]

/-- A change of the issuing group, and then the next word. -/
theorem retire_modGrp (f : Group → Group) (s : State) :
    retire (s.modGrp s.cur.blk s.cur.grp f) = .ok ((), wrote s f) := by
  unfold retire wrote
  simp [modCurGrp_apply, State.modGrp_modGrp]

theorem retire_apply (s : State) : retire s = .ok ((), wrote s id) := by
  unfold retire wrote
  simp [modCurGrp_apply]

end Sys2Proof.Machine

namespace Sys2Proof.Safety.Issues

open Sys2Proof.Machine Host Safety

variable {s : State} {u : PfxUse} {e : Scene}

theorem curBlk (h : Issues s u e) : Machine.curBlk s = .ok (e.blk, s) := by
  unfold Machine.curBlk
  simp [h.blk]

theorem grpAt (h : Issues s u e) : s.grpAt s.cur.blk s.cur.grp = some e.grp := by
  simp [State.grpAt, h.blk, h.grp]

theorem pathAt (h : Issues s u e) : s.pathAt s.cur.blk s.cur.grp s.cur.path = some e.path := by
  simp [State.pathAt, h.grpAt, h.path]

theorem curGrp (h : Issues s u e) : Machine.curGrp s = .ok (e.grp, s) := by
  unfold Machine.curGrp
  simp [h.grpAt]

theorem curPath (h : Issues s u e) : Machine.curPath s = .ok (e.path, s) := by
  unfold Machine.curPath
  simp [h.pathAt]

theorem lanes (h : Issues s u e) : Machine.lanes s = .ok (e.path.lanes, s) := by
  unfold Machine.lanes
  simp [h.curPath]

theorem onlyHelpers (h : Issues s u e) :
    Machine.onlyHelpers s = .ok (e.path.lanes &&& ~~~ e.grp.helper == 0, s) := by
  unfold Machine.onlyHelpers
  simp [h.curPath, h.curGrp]

theorem curCtx (h : Issues s u e) : Machine.curCtx s = .ok (e.ctx, s) := by
  unfold Machine.curCtx
  simp [h.curBlk, h.ctx]

theorem curGrid (h : Issues s u e) : Machine.curGrid s = .ok (e.grid, s) := by
  unfold Machine.curGrid
  simp [h.curBlk, h.grid]

theorem curCore (h : Issues s u e) : Machine.curCore s = .ok (e.core, s) := by
  unfold Machine.curCore
  simp [h.curBlk, h.core]

theorem getPfx (h : Issues s u e) : Machine.getPfx u s = .ok (e.pfx, s) := by
  have hp := h.pfx
  unfold pfxFor at hp
  unfold Machine.getPfx
  rcases hc : s.cur.pfx with _ | w
  · rw [hc] at hp
    simp only [Option.some.injEq] at hp
    simp [hc, hp]
  · rw [hc] at hp
    simp only at hp
    split at hp
    · next hw => simp only [Option.some.injEq] at hp; simp [hc, hw.1, hp]; rw [← hp]; simp [hw.2]
    · cases hp

theorem noPfx (h : Issues s {} e) : Machine.noPfx s = .ok ((), s) := by
  unfold Machine.noPfx
  simp [h.getPfx]

theorem onShaderCore (h : Issues s u e) (hc : isControl e.core = false) : Machine.onShaderCore s = .ok ((), s) := by
  unfold Machine.onShaderCore
  rw [M.bind_ok h.curCore, hc]
  rfl

theorem allocation (h : Issues s u e) : Machine.allocation s = .ok ((e.grid.lrec.vregs, e.grid.lrec.uregs), s) := by
  unfold Machine.allocation
  simp [h.curGrid]

theorem checkReg (h : Issues s u e) {n : Nat} {m : BitVec 32} (hc : e.clear n m) :
    Machine.checkReg n m s = .ok ((), s) := by
  have : e.grp.poison.filter (fun p => decide (p.1 = n) && (decide (p.2 = 32) || m.getLsbD p.2)) = [] := by
    rw [List.filter_eq_nil_iff]
    intro q hq
    by_cases h1 : q.1 = n
    · have := hc q hq h1
      simp [this.1, this.2]
    · simp [h1]
  unfold Machine.checkReg
  simp [h.curGrp, this]

theorem readMask (h : Issues s u e) {k : Nat} (hk : e.readsMask k) : Machine.readMask k s = .ok (e.grp.kreg k, s) := by
  unfold Machine.readMask
  simp [h.curGrp, h.checkReg hk]

theorem needVec (h : Issues s u e) {d : BitVec 7} (hd : e.hasVec d) : Machine.needVec d s = .ok (d.toNat, s) := by
  unfold Machine.needVec
  simp [h.allocation, hd.1, hd.2]

theorem needUni (h : Issues s u e) {d : BitVec 7} (hd : e.hasUni d) : Machine.needUni d s = .ok (d.toNat - 96, s) := by
  unfold Machine.needUni
  simp [h.allocation, hd.1, hd.2]

theorem needAny (h : Issues s u e) {a : BitVec 7} (ha : e.hasVec a ∨ e.hasUni a) : Machine.needAny a s = .ok ((), s) := by
  unfold Machine.needAny
  rcases ha with h1 | h1
  · simp [isVec, h1.1, h.needVec h1]
  · have : ¬ a.toNat < 96 := by have := h1.1; omega
    simp [isVec, this, h.needUni h1]

theorem readOp (h : Issues s u e) {a : BitVec 7} (ha : e.reads a) : Machine.readOp a s = .ok (e.operand a, s) := by
  unfold Machine.readOp
  simp [h.needAny ha.1, h.lanes, h.checkReg ha.2, h.curGrp, Scene.operand]

theorem readUni (h : Issues s u e) {a : BitVec 7} (ha : e.readsUni a) : Machine.readUni a s = .ok (e.uni a, s) := by
  unfold Machine.readUni
  simp [h.needUni ha.1, h.checkReg ha.2, h.curGrp, Scene.uni]

theorem roundingMode (h : Issues s u e) : Machine.roundingMode e.pfx.rm s = .ok (e.mode, s) := by
  unfold Machine.roundingMode
  simp [h.curCtx, Scene.mode]

theorem raiseFlags (h : Issues s u e) {fl : Nat} (hf : ¬ traps e fl) :
    Machine.raiseFlags fl s = .ok ((), flagged s e fl) := by
  have : fl &&& trapEnables e.ctx.fpcr = 0 := by
    unfold traps at hf; simpa using hf
  have : Nat.land fl (trapEnables e.ctx.fpcr) = 0 := this
  unfold Machine.raiseFlags flagged
  by_cases h0 : trapEnables e.ctx.fpcr = 0 <;> simp_all [h.curCtx, h.curBlk]

theorem raiseFlags_traps (h : Issues s u e) {fl : Nat} (hf : traps e fl) :
    Machine.raiseFlags fl s = .error (.fault (trapFlt fl (trapEnables e.ctx.fpcr))) := by
  have h1 : fl &&& trapEnables e.ctx.fpcr ≠ 0 := hf
  have h2 : trapEnables e.ctx.fpcr ≠ 0 := by
    intro h0; rw [h0] at h1; simp at h1
  have h3 : Nat.land fl (trapEnables e.ctx.fpcr) ≠ 0 := h1
  unfold Machine.raiseFlags
  simp [h.curCtx, h.curBlk, h1, h2, raise]

end Sys2Proof.Safety.Issues
end

