-- ==== Sys2Proof/Laws/Vector.lean ====
section
/-!
SUPPORT. What the shared bodies of the vector instructions do when their operands can be read: one lemma for each body.
-/

namespace Sys2Proof.Safety.Issues

open Sys2Proof.Machine Host Safety

variable {s : State} {u : PfxUse} {e : Scene}

/-- A vector register written, and the next word. -/
theorem putVector_retire (e : Scene) (s : State) (d : BitVec 7) (n : Nat) (v : List Word) :
    M.after (Machine.putVector d.toNat v e.path.lanes n e.mask e.pfx.zm s) (fun _ => Machine.retire) =
      .ok ((), wrote s (putVec e d n v)) := by
  unfold Machine.putVector
  rw [modCurGrp_apply, M.after_ok, retire_modGrp]
  rfl

theorem intBody {d a : BitVec 7} {ob : Option (BitVec 7)} {w : Nat} {c : Bool} {op : Nat → Nat → Nat → Nat}
    (h : Issues s { mask := true, zm := true, op4 := c, sel := ob.isSome } e)
    (hs : selOk e.pfx.sel (64 / w) = true) (hc : c = true → e.pfx.op4 ≠ 0x7F)
    (hd : e.hasVec d) (ha : e.reads a) (hb : ∀ b, ob = some b → e.reads b) (ho : c = true → e.reads e.op4)
    (hk : e.readsMask e.pfx.mask) :
    Machine.intBody d a ob w c op s = .ok ((), vecNext s e d w (64 / w) fun l j =>
      op (e.sub a w l j) (e.subSel (ob.getD a) w l j) (e.sub (if c then e.op4 else a) w l j)) := by
  have hv := putVector_retire e s d (64 / w)
  unfold Machine.intBody
  rcases ob with _ | b <;> cases c <;> simp only [Option.isSome_none, Option.isSome_some] at h
  · simp [h.getPfx, hs, h.needVec hd, h.readOp ha, h.readMask hk, h.lanes, h.curGrp]
    exact hv _
  · have h3 : Machine.readOp (BitVec.ofNat 7 e.pfx.op4) s = .ok (e.operand e.op4, s) := h.readOp (ho rfl)
    simp [h.getPfx, hs, h.needVec hd, h.readOp ha, h.readMask hk, h.lanes, h.curGrp, h3, hc rfl]
    exact hv _
  · simp [h.getPfx, hs, h.needVec hd, h.readOp ha, h.readOp (hb b rfl), h.readMask hk, h.lanes, h.curGrp]
    exact hv _
  · have h3 : Machine.readOp (BitVec.ofNat 7 e.pfx.op4) s = .ok (e.operand e.op4, s) := h.readOp (ho rfl)
    simp [h.getPfx, hs, h.needVec hd, h.readOp ha, h.readOp (hb b rfl), h.readMask hk, h.lanes, h.curGrp, h3, hc rfl]
    exact hv _

theorem wholeBody {d : BitVec 7} {a : BitVec 7} {op : Word → Word} (h : Issues s { mask := true, zm := true } e)
    (hd : e.hasVec d) (ha : e.reads a) (hk : e.readsMask e.pfx.mask) :
    Machine.wholeBody d (some a) op s = .ok ((), vecNext s e d 64 1 fun l _ => (op (laneOf (e.operand a) l)).toNat) := by
  have hv := putVector_retire e s d 1
  unfold Machine.wholeBody
  simp [h.getPfx, h.needVec hd, h.readOp ha, h.readMask hk, h.lanes, h.curGrp]
  exact hv _

theorem arrangeBody {d a b : BitVec 7} {w n : Nat} {f : Word → Word → Nat → Nat} (h : Issues s { mask := true, zm := true } e)
    (hd : e.hasVec d) (ha : e.reads a) (hb : e.reads b) (hk : e.readsMask e.pfx.mask) :
    Machine.arrangeBody d a b w n f s =
      .ok ((), vecNext s e d w n fun l j => f (laneOf (e.operand a) l) (laneOf (e.operand b) l) j) := by
  have hv := putVector_retire e s d n
  unfold Machine.arrangeBody
  simp [h.getPfx, h.needVec hd, h.readOp ha, h.readOp hb, h.readMask hk, h.lanes, h.curGrp]
  exact hv _

theorem icmpBody {k : BitVec 4} {c : BitVec 3} {a b : BitVec 7} {w fn : Nat}
    (h : Issues s { mask := true, zm := true, sel := true } e) (hs : selOk e.pfx.sel (64 / w) = true)
    (ha : e.reads a) (hb : e.reads b) (hk : e.readsMask e.pfx.mask) (ho : e.readsMask k.toNat) :
    Machine.icmpBody k c a b w fn s = .ok ((), maskNext s k.toNat
      (compareMask (64 / w) e.path.lanes e.mask (e.grp.kreg k.toNat) e.pfx.zm fn fun l j =>
        holdsCond c.toNat w (e.sub a w l j) (e.subSel b w l j))) := by
  unfold Machine.icmpBody writeMask
  simp [h.getPfx, hs, h.readOp ha, h.readOp hb, h.readMask hk, h.readMask ho, h.lanes, modCurGrp_apply, retire_modGrp]
  rfl

/-- A floating-point body that traps nothing: the register and FLG. -/
theorem fpBody {d a : BitVec 7} {ob : Option (BitVec 7)} {ty : Nat} {c : Bool} {op : Nat → Nat → Nat → Nat → Nat × Nat}
    (h : Issues s { mask := true, zm := true, rm := true, op4 := c, sel := ob.isSome } e)
    (hs : selOk e.pfx.sel (64 / tyWidth ty) = true) (hc : c = true → e.pfx.op4 ≠ 0x7F)
    (hd : e.hasVec d) (ha : e.reads a) (hb : ∀ b, ob = some b → e.reads b) (ho : c = true → e.reads e.op4)
    (hk : e.readsMask e.pfx.mask) {f : Nat → Nat → Nat × Nat}
    (hf : f = fun l j => op e.mode (e.sub a (tyWidth ty) l j) (e.subSel (ob.getD a) (tyWidth ty) l j)
      (e.sub (if c then e.op4 else a) (tyWidth ty) l j))
    (ht : ¬ traps e (vecList e d (tyWidth ty) (64 / tyWidth ty) f).2) :
    Machine.fpBody d a ob ty c op s = .ok ((), fpNext s e d (tyWidth ty) (64 / tyWidth ty) f) := by
  subst hf
  have hv := fun t => putVector_retire e t d (64 / tyWidth ty)
  have hr := h.raiseFlags ht
  unfold vecList at hr
  unfold Machine.fpBody
  rcases ob with _ | b <;> cases c <;> simp only [Option.isSome_none, Option.isSome_some] at h
  · simp [h.getPfx, hs, h.needVec hd, h.readOp ha, h.readMask hk, h.roundingMode, h.lanes, h.curGrp]
    refine Eq.trans (congrArg (fun r => M.after r _) hr) ?_
    exact hv _ _
  · have h3 : Machine.readOp (BitVec.ofNat 7 e.pfx.op4) s = .ok (e.operand e.op4, s) := h.readOp (ho rfl)
    simp [h.getPfx, hs, h.needVec hd, h.readOp ha, h.readMask hk, h.roundingMode, h.lanes, h.curGrp, h3, hc rfl]
    refine Eq.trans (congrArg (fun r => M.after r _) hr) ?_
    exact hv _ _
  · simp [h.getPfx, hs, h.needVec hd, h.readOp ha, h.readOp (hb b rfl), h.readMask hk, h.roundingMode, h.lanes, h.curGrp]
    refine Eq.trans (congrArg (fun r => M.after r _) hr) ?_
    exact hv _ _
  · have h3 : Machine.readOp (BitVec.ofNat 7 e.pfx.op4) s = .ok (e.operand e.op4, s) := h.readOp (ho rfl)
    simp [h.getPfx, hs, h.needVec hd, h.readOp ha, h.readOp (hb b rfl), h.readMask hk, h.roundingMode, h.lanes, h.curGrp,
      h3, hc rfl]
    refine Eq.trans (congrArg (fun r => M.after r _) hr) ?_
    exact hv _ _

/-- A floating-point body that traps: nothing is written. -/
theorem fpBody_traps {d a : BitVec 7} {ob : Option (BitVec 7)} {ty : Nat} {c : Bool}
    {op : Nat → Nat → Nat → Nat → Nat × Nat}
    (h : Issues s { mask := true, zm := true, rm := true, op4 := c, sel := ob.isSome } e)
    (hs : selOk e.pfx.sel (64 / tyWidth ty) = true) (hc : c = true → e.pfx.op4 ≠ 0x7F)
    (hd : e.hasVec d) (ha : e.reads a) (hb : ∀ b, ob = some b → e.reads b) (ho : c = true → e.reads e.op4)
    (hk : e.readsMask e.pfx.mask) {f : Nat → Nat → Nat × Nat}
    (hf : f = fun l j => op e.mode (e.sub a (tyWidth ty) l j) (e.subSel (ob.getD a) (tyWidth ty) l j)
      (e.sub (if c then e.op4 else a) (tyWidth ty) l j))
    (ht : traps e (vecList e d (tyWidth ty) (64 / tyWidth ty) f).2) :
    Machine.fpBody d a ob ty c op s = .error (.fault
      (trapFlt (vecList e d (tyWidth ty) (64 / tyWidth ty) f).2 (trapEnables e.ctx.fpcr))) := by
  subst hf
  have hr := h.raiseFlags_traps ht
  unfold vecList at hr ⊢
  unfold Machine.fpBody
  rcases ob with _ | b <;> cases c <;> simp only [Option.isSome_none, Option.isSome_some] at h
  · simp [h.getPfx, hs, h.needVec hd, h.readOp ha, h.readMask hk, h.roundingMode, h.lanes, h.curGrp]
    exact congrArg (fun r => M.after r _) hr
  · have h3 : Machine.readOp (BitVec.ofNat 7 e.pfx.op4) s = .ok (e.operand e.op4, s) := h.readOp (ho rfl)
    simp [h.getPfx, hs, h.needVec hd, h.readOp ha, h.readMask hk, h.roundingMode, h.lanes, h.curGrp, h3, hc rfl]
    exact congrArg (fun r => M.after r _) hr
  · simp [h.getPfx, hs, h.needVec hd, h.readOp ha, h.readOp (hb b rfl), h.readMask hk, h.roundingMode, h.lanes, h.curGrp]
    exact congrArg (fun r => M.after r _) hr
  · have h3 : Machine.readOp (BitVec.ofNat 7 e.pfx.op4) s = .ok (e.operand e.op4, s) := h.readOp (ho rfl)
    simp [h.getPfx, hs, h.needVec hd, h.readOp ha, h.readOp (hb b rfl), h.readMask hk, h.roundingMode, h.lanes, h.curGrp,
      h3, hc rfl]
    exact congrArg (fun r => M.after r _) hr

theorem fcmpBody {k : BitVec 4} {c : BitVec 3} {a b : BitVec 7} {ty fn : Nat}
    (h : Issues s { mask := true, zm := true, sel := true } e) (hs : selOk e.pfx.sel (64 / tyWidth ty) = true)
    (ha : e.reads a) (hb : e.reads b) (hk : e.readsMask e.pfx.mask) (ho : e.readsMask k.toNat)
    (ht : ¬ traps e (if snanAt e a b ty then fInvalid else 0)) :
    Machine.fcmpBody k c a b ty fn s = .ok ((), maskNext (flagged s e (if snanAt e a b ty then fInvalid else 0)) k.toNat
      (compareMask (64 / tyWidth ty) e.path.lanes e.mask (e.grp.kreg k.toNat) e.pfx.zm fn fun l j =>
        FVal.holds c.toNat ((fmtOf ty).read (e.sub a (tyWidth ty) l j))
          ((fmtOf ty).read (e.subSel b (tyWidth ty) l j)))) := by
  have hr := h.raiseFlags ht
  unfold Machine.fcmpBody
  simp only [M.bind_apply, M.after_ok, h.getPfx, hs, M.check_true, h.readOp ha, h.readOp hb, h.readMask hk, h.readMask ho,
    h.lanes]
  refine Eq.trans (congrArg (fun r => M.after r _) hr) ?_
  unfold writeMask
  simp [modCurGrp_apply, retire_modGrp]
  rfl

theorem fcmpBody_traps {k : BitVec 4} {c : BitVec 3} {a b : BitVec 7} {ty fn : Nat}
    (h : Issues s { mask := true, zm := true, sel := true } e) (hs : selOk e.pfx.sel (64 / tyWidth ty) = true)
    (ha : e.reads a) (hb : e.reads b) (hk : e.readsMask e.pfx.mask) (ho : e.readsMask k.toNat)
    (hn : snanAt e a b ty = true) (ht : traps e fInvalid) :
    Machine.fcmpBody k c a b ty fn s = .error (.fault (trapFlt fInvalid (trapEnables e.ctx.fpcr))) := by
  have hr := h.raiseFlags_traps ht
  unfold Machine.fcmpBody
  simp only [M.bind_apply, M.after_ok, h.getPfx, hs, M.check_true, h.readOp ha, h.readOp hb, h.readMask hk, h.readMask ho,
    h.lanes]
  refine Eq.trans (congrArg (fun r => M.after r _) (?_ : _ = Machine.raiseFlags
    (if snanAt e a b ty then fInvalid else 0) s)) ?_
  · rfl
  · rw [hn, if_pos rfl, hr]; rfl

end Sys2Proof.Safety.Issues
end

