-- ==== Sys2Proof/Laws/Lanes.lean ====
section
/-!
SUPPORT. What the bodies of the cross-lane, conversion, mask and uniform instructions do when their operands can be read.
-/

namespace Sys2Proof.Safety

open Sys2Proof.Machine Host

theorem Scene.clear_of_all {e : Scene} {c : Nat} (h : e.clear c (BitVec.allOnes 32)) (m : BitVec 32) : e.clear c m := by
  intro q hq hc
  have h1 := h q hq hc
  refine ⟨h1.1, ?_⟩
  have : 32 ≤ q.2 := by
    have := h1.2
    rw [BitVec.getLsbD_allOnes] at this
    simpa using this
  exact BitVec.getLsbD_of_ge _ _ this

theorem Scene.readsAll.reads {e : Scene} {a : BitVec 7} (h : e.readsAll a) : e.reads a := ⟨h.1, Scene.clear_of_all h.2 _⟩

namespace Issues

variable {s : State} {u : PfxUse} {e : Scene}

theorem readCross (h : Issues s u e) {a : BitVec 7} (ha : e.readsAll a) : Machine.readCross a s = .ok (e.cross a, s) := by
  unfold Machine.readCross Scene.cross
  by_cases hv : isVec a = true
  · simp [h.needAny ha.1, hv, h.curGrp]
  · simp [h.needAny ha.1, hv, h.curGrp, h.checkReg (Scene.clear_of_all ha.2 0#32)]

theorem moveBody {d a : BitVec 7} {ob : Option (BitVec 7)} {w : Nat}
    {src : Nat → Nat → (Nat → Nat → Nat) → Nat → Option (Nat × Nat)}
    (h : Issues s { mask := true, zm := true, sel := ob.isSome } e) (hs : selOk e.pfx.sel (64 / w) = true)
    (hd : e.hasVec d) (ha : e.readsAll a) (hb : ∀ b, ob = some b → e.reads b) (hk : e.readsMask e.pfx.mask)
    {bv : Nat → Nat → Nat} (hbv : ∀ b, ob = some b → bv = e.subSel b w)
    (hno : ob = none → ∀ l j f g n, src l j f n = src l j g n) :
    Machine.moveBody d a ob w src s = .ok ((), vecNext s e d w (64 / w) fun l j =>
      match src l j bv (64 / w) with
      | some (sl, sj) => elem w sj (laneOf (e.cross a) (laneIndex e.core sl))
      | none => 0) := by
  have hv := putVector_retire e s d (64 / w)
  unfold Machine.moveBody
  rcases ob with _ | b <;> simp only [Option.isSome_none, Option.isSome_some] at h
  · by_cases hvec : isVec a = true
    all_goals
      simp only [M.bind_apply, M.after_ok, h.getPfx, hs, M.check_true, h.needVec hd, h.readCross ha, M.pure_apply,
        h.readMask hk, h.lanes, h.curCore, h.curGrp, hvec, if_true, if_false, h.checkReg (Scene.clear_of_all ha.2 _),
        Option.isSome_none, Bool.false_eq_true]
      refine (hv _).trans ?_
      refine congrArg (fun f => Except.ok ((), wrote s (putVec e d (64 / w) (vectorEffect w (64 / w) e.path.lanes
        (e.grp.kreg e.pfx.mask) e.pfx.zm (e.grp.vreg d.toNat) f).1))) (funext fun l => funext fun j => ?_)
      rw [hno rfl l j _ bv]
      show _ = (match src l j bv (64 / w) with
        | some (sl, sj) => elem w sj (laneOf (e.cross a) (laneIndex e.core sl)) | none => 0, 0)
      rcases src l j bv (64 / w) with _ | ⟨x, y⟩ <;> rfl
  · have := hbv b rfl
    subst this
    by_cases hvec : isVec a = true
    all_goals
      simp only [M.bind_apply, M.after_ok, h.getPfx, hs, M.check_true, h.needVec hd, h.readCross ha,
        h.readMask hk, h.lanes, h.curCore, h.curGrp, hvec, if_true, if_false, h.checkReg (Scene.clear_of_all ha.2 _),
        Option.isSome_some, h.readOp (hb b rfl), Bool.false_eq_true]
      refine (hv _).trans ?_
      refine congrArg (fun f => Except.ok ((), wrote s (putVec e d (64 / w) (vectorEffect w (64 / w) e.path.lanes
        (e.grp.kreg e.pfx.mask) e.pfx.zm (e.grp.vreg d.toNat) f).1))) (funext fun l => funext fun j => ?_)
      show _ = (match src l j (e.subSel b w) (64 / w) with
        | some (sl, sj) => elem w sj (laneOf (e.cross a) (laneIndex e.core sl)) | none => 0, 0)
      unfold Scene.subSel
      rcases src l j _ (64 / w) with _ | ⟨x, y⟩ <;> rfl

theorem cvtBody {d a : BitVec 7} {part src dst : Nat} {conv : Nat → Nat → Nat × Nat}
    (h : Issues s { mask := true, zm := true, rm := true } e)
    (hp : part < max (tyCount dst) (tyCount src) / min (tyCount dst) (tyCount src))
    (hd : e.hasVec d) (ha : e.reads a) (hk : e.readsMask e.pfx.mask)
    (ht : ¬ traps e (partList e d a part src dst (conv e.mode)).2) :
    Machine.cvtBody d a part src dst conv s = .ok ((), partNext s e d a part src dst (conv e.mode)) := by
  have hr := h.raiseFlags ht
  have hc : decide (part < max (tyCount dst) (tyCount src) / min (tyCount dst) (tyCount src)) = true := by simpa using hp
  unfold Machine.cvtBody
  simp only [M.bind_apply, M.after_ok, h.getPfx, hc, M.check_true, h.needVec hd, h.readOp ha, h.readMask hk,
    h.roundingMode, h.lanes, h.curGrp]
  refine Eq.trans (congrArg (fun r => M.after r _) (?_ : _ = Machine.raiseFlags
    (partList e d a part src dst (conv e.mode)).2 s)) ?_
  · rfl
  · rw [hr, M.after_ok]
    unfold Machine.putVector
    rw [M.bind_apply, modCurGrp_apply, M.after_ok, retire_modGrp]
    rfl

theorem derivBody {d a : BitVec 7} {coarse : Bool} {ty dx : Nat}
    (h : Issues s { mask := true, zm := true, rm := true } e)
    (hd : e.hasVec d) (ha : e.readsAll a) (hk : e.readsMask e.pfx.mask) {f : Nat → Nat → Nat × Nat}
    (hf : f = fun l j => (fmtOf ty).sub e.mode (elem (tyWidth ty) j (laneOf (e.cross a) (derivLanes dx coarse l).1))
      (elem (tyWidth ty) j (laneOf (e.cross a) (derivLanes dx coarse l).2)))
    (ht : ¬ traps e (vecList e d (tyWidth ty) (64 / tyWidth ty) f).2) :
    Machine.derivBody d a coarse ty dx s = .ok ((), fpNext s e d (tyWidth ty) (64 / tyWidth ty) f) := by
  subst hf
  have hr := h.raiseFlags ht
  have hv := fun t => putVector_retire e t d (64 / tyWidth ty)
  unfold Machine.derivBody
  by_cases hvec : isVec a = true
  all_goals
    simp only [M.bind_apply, M.after_ok, h.getPfx, h.needVec hd, h.readCross ha, h.readMask hk, h.roundingMode, h.lanes,
      h.curGrp, hvec, if_true, if_false, h.checkReg (Scene.clear_of_all ha.2 _), Bool.false_eq_true]
    refine Eq.trans (congrArg (fun r => M.after r _) hr) ?_
    exact hv _ _

theorem maskBody {d a b : BitVec 4} {f : Bool → Bool → Bool} (h : Issues s {} e)
    (ha : e.readsMask a.toNat) (hb : e.readsMask b.toNat) (hd : e.readsMask d.toNat) :
    Machine.maskBody d a b f s = .ok ((), maskNext s d.toNat (activeMask e.path.lanes (e.grp.kreg d.toNat)
      (fun i => f ((e.grp.kreg a.toNat).getLsbD i) ((e.grp.kreg b.toNat).getLsbD i)))) := by
  unfold Machine.maskBody writeMask
  simp [h.noPfx, h.readMask ha, h.readMask hb, h.readMask hd, h.lanes, modCurGrp_apply, retire_modGrp]
  rfl

theorem uniform2 {d a b : BitVec 7} {f : Word → Word → Word} (h : Issues s {} e)
    (hd : e.hasUni d) (ha : e.readsUni a) (hb : e.readsUni b) :
    Machine.uniform2 d a b f s = .ok ((), uniNext s d (f (e.uni a) (e.uni b))) := by
  unfold Machine.uniform2 writeUni
  simp [h.noPfx, h.needUni hd, h.readUni ha, h.readUni hb, modCurGrp_apply, retire_modGrp]
  rfl

end Issues

end Sys2Proof.Safety
end

