-- ==== Sys2Proof/Laws/Memory.lean ====
section
/-!
SUPPORT. Memory in its canonical form: every operation that writes memory keeps the form, and what a byte reads as after it.
-/

namespace Sys2Proof.Machine

open Host

/-- A form that holds from an address holds from a lower one. -/
theorem Memory.wfFrom_mono {lo hi : Nat} {m : List Cell} (h : Memory.wfFrom hi m = true) (hl : lo ≤ hi) :
    Memory.wfFrom lo m = true := by
  cases m with
  | nil => rfl
  | cons c r =>
    simp only [Memory.wfFrom, Bool.and_eq_true, decide_eq_true_eq] at h ⊢
    exact ⟨⟨by omega, h.1.2⟩, h.2⟩

/-- An address below every listed one reads as unlisted. -/
theorem getByte_below {m : List Cell} {lo a : Nat} (h : Memory.wfFrom lo m = true) (ha : a < lo) : getByte m a = unlisted := by
  induction m generalizing lo with
  | nil => rfl
  | cons c r ih =>
    simp only [Memory.wfFrom, Bool.and_eq_true, decide_eq_true_eq] at h
    have hne : c.1 ≠ a := by omega
    obtain ⟨x, y⟩ := c
    simp only [getByte]
    rw [if_neg hne]
    exact ih h.2 (by simp only at h; omega)

/-- A write of one byte keeps the canonical form. -/
theorem putByte_wfFrom {m : List Cell} {lo a : Nat} {b : Byte} (h : Memory.wfFrom lo m = true) (ha : lo ≤ a) :
    Memory.wfFrom lo (putByte m a b) = true := by
  induction m generalizing lo with
  | nil =>
    unfold putByte
    split
    · rfl
    · rename_i hb; simp [Memory.wfFrom, ha, hb]
  | cons c r ih =>
    obtain ⟨x, y⟩ := c
    have h' := h
    simp only [Memory.wfFrom, Bool.and_eq_true, decide_eq_true_eq] at h
    unfold putByte
    split
    · rename_i hlt
      split
      · exact h'
      · rename_i hb
        simp only [Memory.wfFrom, Bool.and_eq_true, decide_eq_true_eq]
        exact ⟨⟨ha, hb⟩, ⟨by omega, h.1.2⟩, h.2⟩
    · split
      · split
        · exact Memory.wfFrom_mono h.2 (by omega)
        · rename_i heq hb
          simp only [Memory.wfFrom, Bool.and_eq_true, decide_eq_true_eq]
          exact ⟨⟨ha, hb⟩, by rw [heq]; exact h.2⟩
      · simp only [Memory.wfFrom, Bool.and_eq_true, decide_eq_true_eq]
        exact ⟨h.1, ih h.2 (by omega)⟩

theorem putByte_wf {m : List Cell} (a : Nat) (b : Byte) (h : Memory.wf m = true) : Memory.wf (putByte m a b) = true :=
  putByte_wfFrom h (Nat.zero_le a)

theorem putBytes_wf {m : List Cell} (a n v : Nat) (h : Memory.wf m = true) : Memory.wf (putBytes m a n v) = true := by
  induction n generalizing m a v with
  | zero => exact h
  | succ k ih => exact ih _ _ (putByte_wf _ _ h)

theorem putMasked_wf {m : List Cell} (line data mask i n : Nat) (h : Memory.wf m = true) :
    Memory.wf (putMasked m line data mask i n) = true := by
  induction n generalizing m i with
  | zero => exact h
  | succ k ih =>
    refine ih _ ?_
    split
    · exact putByte_wf _ _ h
    · exact h

/-- Dropping cells keeps the canonical form. -/
theorem filter_wfFrom {m : List Cell} {lo : Nat} (p : Cell → Bool) (h : Memory.wfFrom lo m = true) :
    Memory.wfFrom lo (m.filter p) = true := by
  induction m generalizing lo with
  | nil => rfl
  | cons c r ih =>
    simp only [Memory.wfFrom, Bool.and_eq_true, decide_eq_true_eq] at h
    by_cases hp : p c = true
    · rw [List.filter_cons_of_pos hp]
      simp only [Memory.wfFrom, Bool.and_eq_true, decide_eq_true_eq]
      exact ⟨h.1, ih h.2⟩
    · rw [List.filter_cons_of_neg hp]
      exact Memory.wfFrom_mono (ih h.2) (by omega)

theorem filter_wf {m : List Cell} (p : Cell → Bool) (h : Memory.wf m = true) : Memory.wf (m.filter p) = true := filter_wfFrom p h

/-- A byte that was written reads back, in memory of the canonical form. -/
theorem getByte_putByte_same {m : List Cell} {lo a : Nat} {b : Byte} (h : Memory.wfFrom lo m = true) :
    getByte (putByte m a b) a = b := by
  induction m generalizing lo with
  | nil =>
    unfold putByte
    split
    · rename_i hb; simp [getByte, hb]
    · simp [getByte]
  | cons c r ih =>
    obtain ⟨x, y⟩ := c
    simp only [Memory.wfFrom, Bool.and_eq_true, decide_eq_true_eq] at h
    unfold putByte
    split
    · rename_i hlt
      split
      · rename_i hb
        simp only [getByte]
        rw [if_neg (by omega), getByte_below h.2 (by omega), hb]
      · simp [getByte]
    · split
      · split
        · rename_i heq hb
          rw [getByte_below h.2 (by omega), hb]
        · simp [getByte]
      · rename_i hne
        simp only [getByte]
        rw [if_neg (by omega)]
        exact ih h.2

/-- A write leaves every other byte alone. -/
theorem getByte_putByte_other {m : List Cell} {a x : Nat} {b : Byte} (hx : x ≠ a) : getByte (putByte m a b) x = getByte m x := by
  induction m with
  | nil =>
    unfold putByte
    split
    · rfl
    · simp [getByte, Ne.symm hx]
  | cons c r ih =>
    obtain ⟨y, z⟩ := c
    unfold putByte
    split
    · split
      · rfl
      · simp [getByte, Ne.symm hx]
    · split
      · rename_i heq
        split
        · simp only [getByte]; rw [if_neg (by omega)]
        · simp only [getByte]; rw [if_neg (by omega), if_neg (by omega)]
      · simp only [getByte]; rw [ih]

/-- Reading a byte after a write of one byte. -/
theorem getByte_putByte {m : List Cell} (a x : Nat) (b : Byte) (h : Memory.wf m = true) :
    getByte (putByte m a b) x = if x = a then b else getByte m x := by
  split
  · rename_i hx; subst hx; exact getByte_putByte_same h
  · rename_i hx; exact getByte_putByte_other hx

/-- Reading a byte after a write of several. -/
theorem getByte_putBytes {m : List Cell} (a n v x : Nat) (h : Memory.wf m = true) :
    getByte (putBytes m a n v) x = if a ≤ x ∧ x < a + n then BitVec.ofNat 8 (v / 256 ^ (x - a)) else getByte m x := by
  induction n generalizing m a v with
  | zero => rw [if_neg (by omega)]; rfl
  | succ k ih =>
    show getByte (putBytes (putByte m a (BitVec.ofNat 8 v)) (a + 1) k (v / 256)) x = _
    rw [ih _ _ (putByte_wf _ _ h), getByte_putByte _ _ _ h]
    by_cases h1 : x = a
    · subst h1
      rw [if_neg (by omega), if_pos rfl, if_pos (by omega)]; simp
    · by_cases h2 : a + 1 ≤ x ∧ x < a + 1 + k
      · rw [if_pos h2, if_pos (by omega), Nat.div_div_eq_div_mul, ← Nat.pow_succ', show x - a = (x - (a + 1)).succ by omega]
      · rw [if_neg h2, if_neg h1, if_neg (by omega)]

/-- Reading a byte after a write of the masked bytes of a line. -/
theorem getByte_putMasked {m : List Cell} (line data mask i n x : Nat) (h : Memory.wf m = true) (hn : i + n ≤ 128) :
    getByte (putMasked m line data mask i n) x =
      if x / 128 = line ∧ i ≤ x % 128 ∧ x % 128 < i + n ∧ mask.testBit (x % 128) = true
        then BitVec.ofNat 8 (data / 256 ^ (x % 128)) else getByte m x := by
  induction n generalizing m i with
  | zero => rw [if_neg (by omega)]; rfl
  | succ k ih =>
    show getByte (putMasked (if mask.testBit i then putByte m (128 * line + i) (BitVec.ofNat 8 (data / 256 ^ i)) else m)
      line data mask (i + 1) k) x = _
    have hw : Memory.wf (if mask.testBit i then putByte m (128 * line + i) (BitVec.ofNat 8 (data / 256 ^ i)) else m) = true := by
      split
      · exact putByte_wf _ _ h
      · exact h
    rw [ih _ hw (by omega)]
    by_cases hx : x = 128 * line + i
    · have h1 : x / 128 = line := by omega
      have h2 : x % 128 = i := by omega
      rw [if_neg (by omega)]
      by_cases hb : mask.testBit i = true
      · rw [if_pos hb, getByte_putByte _ _ _ h, if_pos hx, if_pos ⟨h1, by omega, by omega, by rw [h2]; exact hb⟩, h2]
      · rw [if_neg hb, if_neg (by rw [h2]; exact fun hc => hb hc.2.2.2)]
    · have he : getByte (if mask.testBit i then putByte m (128 * line + i) (BitVec.ofNat 8 (data / 256 ^ i)) else m) x =
          getByte m x := by
        split
        · rw [getByte_putByte _ _ _ h, if_neg hx]
        · rfl
      rw [he]
      have hi : x / 128 = line → x % 128 ≠ i := fun h1 h2 => hx (by omega)
      by_cases hc : x / 128 = line ∧ i + 1 ≤ x % 128 ∧ x % 128 < i + 1 + k ∧ mask.testBit (x % 128) = true
      · rw [if_pos hc, if_pos ⟨hc.1, by omega, by omega, hc.2.2.2⟩]
      · rw [if_neg hc, if_neg]
        intro hd
        exact hc ⟨hd.1, by have := hi hd.1; omega, by omega, hd.2.2.2⟩

theorem foldl_mem {α : Type} (l : List α) (f : State → α → State) (h : ∀ t a, (f t a).mem = t.mem) (s : State) :
    (l.foldl f s).mem = s.mem := by
  induction l generalizing s with
  | nil => rfl
  | cons a r ih => rw [List.foldl_cons, ih, h]

/-! ### What a slice's allocation changes: the lines and the replicas alone -/

/-- A tag that leaves its set takes its line or its replica with it. -/
theorem State.evict_eq (die : Nat) (s : State) (t : Tag) : ∃ l d, State.evict die s t = { s with l2 := l, dies := d } := by
  unfold State.evict
  split
  · exact ⟨s.l2, _, rfl⟩
  · exact ⟨_, s.dies, rfl⟩

theorem State.evicts_eq (die : Nat) (gone : List Tag) (s : State) :
    ∃ l d, gone.foldl (State.evict die) s = { s with l2 := l, dies := d } := by
  induction gone generalizing s with
  | nil => exact ⟨s.l2, s.dies, rfl⟩
  | cons t r ih =>
    obtain ⟨l, d, h⟩ := State.evict_eq die s t
    obtain ⟨l', d', h'⟩ := ih { s with l2 := l, dies := d }
    exact ⟨l', d', by rw [List.foldl_cons, h, h']⟩

theorem State.roomAt_ok {s u : State} {die : Nat} {t : Tag} (h : s.roomAt die t = some u) :
    ∃ l d, u = { s with l2 := l, dies := d } := by
  unfold State.roomAt at h
  split at h
  · cases h; exact ⟨s.l2, s.dies, rfl⟩
  · obtain ⟨gone, -, rfl⟩ := Option.map_eq_some_iff.mp h
    exact State.evicts_eq _ _ _

theorem State.enter_ok {s u : State} {x : HomeLine} (h : s.enter x = some u) : ∃ l d, u = { s with l2 := l, dies := d } := by
  obtain ⟨t, ht, rfl⟩ := Option.map_eq_some_iff.mp h
  obtain ⟨l, d, rfl⟩ := State.roomAt_ok ht
  exact ⟨_, d, rfl⟩

theorem State.slices_ok {s u : State} {line pte now : Nat} {w : Bool} (h : s.slices line pte now w = some u) :
    ∃ l d, u = { s with l2 := l, dies := d } := by
  dsimp only [State.slices] at h
  split at h
  · exact State.enter_ok h
  · split at h
    · exact State.enter_ok h
    · cases h; exact ⟨s.l2, s.dies, rfl⟩

theorem State.rehome_ok {s u : State} {old new : Nat} (h : s.rehome old new = some u) :
    ∃ l d, u = { s with l2 := l, dies := d } := by
  unfold State.rehome at h
  split at h
  · obtain ⟨l, d, rfl⟩ := State.enter_ok h
    exact ⟨l, d, rfl⟩
  · cases h; exact ⟨_, s.dies, rfl⟩

theorem State.slices_mem (s : State) (line pte now : Nat) (w : Bool) : ((s.slices line pte now w).getD s).mem = s.mem := by
  cases h : s.slices line pte now w with
  | none => rfl
  | some u => obtain ⟨l, d, rfl⟩ := State.slices_ok h; rfl

/-! ### When nothing holds a line back, every set finds room -/

/-- No clamp, migration or monitor entry: every tag is a candidate. -/
theorem State.pinned_free {s : State} (hc : s.clamps = []) (hm : s.migrs = []) (hn : s.monitors = []) (t : Tag) :
    s.pinned t = false := by
  simp [State.pinned, State.moving, hc, hm, hn]

theorem setFits_one (t : Tag) (h : t.halves ≤ 2 * Config.l2Slots) : setFits [t] = true := by
  simp only [setFits, List.length_cons, List.length_nil, List.foldl_cons, List.foldl_nil, Nat.zero_add, Bool.and_eq_true,
    decide_eq_true_eq]
  exact ⟨by decide, h⟩

theorem foldl_pick_mem {α : Type} (f : α → α → Bool) (r : List α) (h : α) :
    r.foldl (fun b x => if f x b then x else b) h ∈ h :: r := by
  induction r generalizing h with
  | nil => exact List.mem_singleton.mpr rfl
  | cons a r ih =>
    rw [List.foldl_cons]
    have := ih (if f a h then a else h)
    by_cases hf : f a h = true
    · rw [if_pos hf] at this ⊢; exact List.mem_cons_of_mem _ this
    · rw [if_neg hf] at this ⊢
      rcases List.mem_cons.mp this with h1 | h1
      · rw [h1]; exact List.mem_cons_self
      · exact List.mem_cons_of_mem _ (List.mem_cons_of_mem _ h1)

theorem State.makeRoom_isSome {s : State} (hp : ∀ t, s.pinned t = false) (t : Tag) (ht : t.halves ≤ 2 * Config.l2Slots) :
    ∀ (n : Nat) (l : List Tag), l.length ≤ n → (s.makeRoom t n l).isSome = true := by
  intro n
  induction n with
  | zero =>
    intro l hl
    cases l with
    | nil => unfold State.makeRoom; rw [if_pos (setFits_one t ht)]; rfl
    | cons a r => cases hl
  | succ n ih =>
    intro l hl
    unfold State.makeRoom
    split
    · rfl
    · cases l with
      | nil => rename_i hn; exact absurd (setFits_one t ht) hn
      | cons a r =>
        have hf : (a :: r).filter (fun t => !s.pinned t) = a :: r := by simp [hp]
        have hv : s.victim (a :: r) = some (r.foldl (fun b x => if x.before b then x else b) a) := by
          unfold State.victim; rw [hf]
        rw [hv]
        have hmem := foldl_pick_mem (fun x b : Tag => x.before b) r a
        have := ih ((a :: r).erase (r.foldl (fun b x => if x.before b then x else b) a))
          (by rw [List.length_erase_of_mem hmem]; exact Nat.sub_le_of_le_add hl)
        simpa using this

/-- When nothing is clamped, moving or watched, a tag always finds room. -/
theorem State.roomAt_isSome {s : State} (hp : ∀ t, s.pinned t = false) (die : Nat) (t : Tag)
    (ht : t.halves ≤ 2 * Config.l2Slots) : (s.roomAt die t).isSome = true := by
  unfold State.roomAt
  split
  · rfl
  · rw [Option.isSome_map]
    exact State.makeRoom_isSome hp t ht _ _ (Nat.le_refl _)

theorem Enc.halves_le (e : Enc) : e.halves ≤ 2 * Config.l2Slots := by cases e <;> decide

theorem State.slices_isSome {s : State} (hp : ∀ t, s.pinned t = false) (line pte now : Nat) (w : Bool) :
    (s.slices line pte now w).isSome = true := by
  have he : ∀ x : HomeLine, (s.enter x).isSome = true := by
    intro x
    unfold State.enter
    rw [Option.isSome_map]
    exact State.roomAt_isSome hp _ _ (Enc.halves_le _)
  dsimp only [State.slices]
  split
  · exact he _
  · split
    · exact he _
    · rfl

theorem State.reevaluate_mem (s : State) (line : Nat) : (s.reevaluate line).mem = s.mem := by
  unfold State.reevaluate
  exact foldl_mem _ _ (fun _ _ => by rfl) s

/-- What a write made at a line's home leaves in memory. -/
theorem State.putPart_mem (s : State) (line : Nat) (data : BitVec 1024) (mask : BitVec 128) (pte : Nat) (whole : BitVec 16) :
    (s.putPart line data mask pte whole).mem = putMasked s.mem line data.toNat mask.toNat 0 128 := by
  unfold State.putPart
  rw [State.reevaluate_mem, State.slices_mem]

theorem State.putLine_mem (s : State) (line : Nat) (data : BitVec 1024) (mask : BitVec 128) (pte : Nat) :
    (s.putLine line data mask pte).mem = putMasked s.mem line data.toNat mask.toNat 0 128 := by
  unfold State.putLine
  rw [State.putPart_mem]

theorem State.toDevice_mem (s : State) (line : Nat) : (s.toDevice line).mem = s.mem := rfl

theorem State.putHome_mem (s : State) (line : Nat) (data : BitVec 1024) (mask : BitVec 128) (pte : Nat) :
    (s.putHome line data mask pte).mem = putMasked s.mem line data.toNat mask.toNat 0 128 := by
  unfold State.putHome
  rw [State.putLine_mem, State.toDevice_mem]

/-- A write made at a line's home keeps the canonical form. -/
theorem State.putLine_wf {s : State} (line : Nat) (data : BitVec 1024) (mask : BitVec 128) (pte : Nat)
    (h : Safety.MemOk s) : Safety.MemOk (s.putLine line data mask pte) := by
  unfold Safety.MemOk
  rw [State.putLine_mem]
  exact putMasked_wf _ _ _ _ _ h

theorem State.putHome_wf {s : State} (line : Nat) (data : BitVec 1024) (mask : BitVec 128) (pte : Nat)
    (h : Safety.MemOk s) : Safety.MemOk (s.putHome line data mask pte) := by
  unfold State.putHome
  exact State.putLine_wf line data mask pte h

theorem State.putStores_mem (s : State) (line : Nat) (f : Fwd) :
    (s.putStores line f).mem = putMasked s.mem line f.data.toNat f.mask.toNat 0 128 := by
  unfold State.putStores
  rw [State.putPart_mem, State.toDevice_mem]

theorem State.putStores_wf {s : State} (line : Nat) (f : Fwd) (h : Safety.MemOk s) : Safety.MemOk (s.putStores line f) := by
  unfold Safety.MemOk
  rw [State.putStores_mem]
  exact putMasked_wf _ _ _ _ _ h

/-- Bringing a line to its slice answers only when the slice has room, and changes the lines and replicas of the slices alone. -/
theorem allocate_ok {line pte : Nat} {s t : State} (h : allocate line pte s = .ok ((), t)) :
    s.slices line pte (lineOf s.mem line) false = some t ∧ ∃ l d, t = { s with l2 := l, dies := d } := by
  unfold allocate at h
  rw [M.bind_apply, M.get_apply, M.after_ok] at h
  cases hl : s.slices line pte (lineOf s.mem line) false with
  | none => rw [hl] at h; cases h
  | some u => rw [hl] at h; cases h; exact ⟨rfl, State.slices_ok hl⟩

/-- Room for a write changes nothing. -/
theorem roomFor_ok {line pte : Nat} {data : BitVec 1024} {mask : BitVec 128} {s t : State}
    (h : roomFor line data mask pte s = .ok ((), t)) : t = s := by
  unfold roomFor at h
  rw [M.bind_apply, M.get_apply, M.after_ok] at h
  split at h
  · cases h
  · cases h; rfl

/-- The stores of an entry that are written are those at home. -/
theorem writeStores_ok {line : Nat} {f : Fwd} {s t : State} (h : writeStores line f s = .ok ((), t)) :
    t = s.putStores line f := by
  obtain ⟨_, u, hr, h⟩ := M.bind_cases h
  cases roomFor_ok hr; cases h; rfl

/-- A write that answers is the write at home. -/
theorem writeAt_ok {line pte : Nat} {data : BitVec 1024} {mask : BitVec 128} {s t : State}
    (h : writeAt line data mask pte s = .ok ((), t)) : t = s.putHome line data mask pte := by
  obtain ⟨_, u, hr, h⟩ := M.bind_cases h
  cases roomFor_ok hr; cases h; rfl

end Sys2Proof.Machine
end

