-- ==== Sys2Proof/Laws/PerInstr.lean ====
section
/-!
SUPPORT. The encoding family, one lemma per instruction: the word that the encoder gives an instruction decodes to it.
A step of the part has no word.
-/

namespace Sys2Proof.Laws

theorem fld_eq {hi lo w v : Nat} (h : w / 2 ^ lo % 2 ^ (hi + 1 - lo) = v) : fld hi lo w = v := h

theorem ofNat_fld {n hi lo w : Nat} {x : BitVec n} (h : fld hi lo w = x.toNat) : BitVec.ofNat n (fld hi lo w) = x := by
  rw [h]; simp

theorem fld_split {l n rest : Nat} (h : fld (l + n - 1) l rest = 0) (hn : 0 < n) :
    rest % 2 ^ (l + n) = rest % 2 ^ l := by
  have e : l + n - 1 + 1 - l = n := by omega
  unfold fld at h
  rw [e] at h
  rw [Nat.pow_add, Nat.mod_mul, h]; simp

/-- The field that was put reads back, where the rest left room for it. -/
theorem fld_put_eq {hi l n : Nat} {v : BitVec n} {rest : Nat} (hn : hi + 1 = l + n) (h : fld hi l rest = 0) :
    fld hi l (put l v rest) = v.toNat := by
  have hp : 0 < 2 ^ l := Nat.two_pow_pos l
  unfold fld put at *
  rw [show hi + 1 - l = n by omega] at *
  rw [Nat.add_comm, Nat.add_mul_div_right _ _ hp, Nat.add_mod, h]
  simp [Nat.mod_eq_of_lt v.isLt]

/-- A field above the one that was put is the rest's. -/
theorem fld_put_above {hi lo l n x : Nat} {v : BitVec n} {rest : Nat} (hn : 0 < n) (hl : l + n ≤ lo)
    (h : fld (l + n - 1) l rest = 0) (hx : fld hi lo rest = x) : fld hi lo (put l v rest) = x := by
  have hs := fld_split h hn
  have hv := v.isLt
  rw [← hx]
  unfold fld put
  congr 1
  obtain ⟨k, rfl⟩ := Nat.exists_eq_add_of_le hl
  rw [Nat.pow_add, ← Nat.div_div_eq_div_mul, ← Nat.div_div_eq_div_mul]
  congr 1
  have hp : 0 < 2 ^ l := Nat.two_pow_pos l
  have h2 : rest % 2 ^ l < 2 ^ l := Nat.mod_lt _ hp
  have e := Nat.div_add_mod rest (2 ^ (l + n))
  have hq : v.toNat * 2 ^ l + rest % 2 ^ l < 2 ^ (l + n) := by
    rw [Nat.pow_add]
    calc v.toNat * 2 ^ l + rest % 2 ^ l < v.toNat * 2 ^ l + 2 ^ l := by omega
      _ = (v.toNat + 1) * 2 ^ l := by ring
      _ ≤ 2 ^ n * 2 ^ l := Nat.mul_le_mul_right _ hv
      _ = 2 ^ l * 2 ^ n := Nat.mul_comm ..
  rw [hs] at e
  have : v.toNat * 2 ^ l + rest = (v.toNat * 2 ^ l + rest % 2 ^ l) + rest / 2 ^ (l + n) * 2 ^ (l + n) := by
    rw [Nat.mul_comm (rest / _)]; omega
  rw [this, Nat.add_mul_div_right _ _ (Nat.two_pow_pos _), Nat.div_eq_of_lt hq, Nat.zero_add]

/-- A field below the one that was put is the rest's. -/
theorem fld_put_below {hi lo l n x : Nat} {v : BitVec n} {rest : Nat} (hl : hi < l) (h : lo ≤ hi)
    (hx : fld hi lo rest = x) : fld hi lo (put l v rest) = x := by
  rw [← hx]
  unfold fld put
  obtain ⟨k, rfl⟩ := Nat.exists_eq_add_of_le (show hi + 1 ≤ l by omega)
  obtain ⟨j, hj⟩ := Nat.exists_eq_add_of_le h
  rw [show v.toNat * 2 ^ (hi + 1 + k) + rest = rest + (v.toNat * 2 ^ k * 2 ^ (hi + 1 - lo)) * 2 ^ lo by
    rw [show hi + 1 + k = k + (hi + 1 - lo) + lo by omega, Nat.pow_add, Nat.pow_add]; ring]
  rw [Nat.add_mul_div_right _ _ (Nat.two_pow_pos lo), Nat.add_mul_mod_self_right]

theorem decodeWord_00 {w : Nat} (h : fld 31 26 w = 0) : decodeWord w = decodeOp00 w := by
  unfold decodeWord; rw [h]; rfl

theorem decodeWord_01 {w : Nat} (h : fld 31 26 w = 1) : decodeWord w = decodeOp01 w := by
  unfold decodeWord; rw [h]; rfl

theorem decodeWord_02 {w : Nat} (h : fld 31 26 w = 2) : decodeWord w = decodeOp02 w := by
  unfold decodeWord; rw [h]; rfl

theorem decodeWord_03 {w : Nat} (h : fld 31 26 w = 3) : decodeWord w = decodeOp03 w := by
  unfold decodeWord; rw [h]; rfl

theorem decodeWord_04 {w : Nat} (h : fld 31 26 w = 4) : decodeWord w = decodeOp04 w := by
  unfold decodeWord; rw [h]; rfl

theorem decodeWord_05 {w : Nat} (h : fld 31 26 w = 5) : decodeWord w = decodeOp05 w := by
  unfold decodeWord; rw [h]; rfl

theorem decodeWord_06 {w : Nat} (h : fld 31 26 w = 6) : decodeWord w = decodeOp06 w := by
  unfold decodeWord; rw [h]; rfl

theorem decodeWord_07 {w : Nat} (h : fld 31 26 w = 7) : decodeWord w = decodeOp07 w := by
  unfold decodeWord; rw [h]; rfl

theorem decodeWord_08 {w : Nat} (h : fld 31 26 w = 8) : decodeWord w = decodeOp08 w := by
  unfold decodeWord; rw [h]; rfl

theorem decodeWord_09 {w : Nat} (h : fld 31 26 w = 9) : decodeWord w = decodeOp09 w := by
  unfold decodeWord; rw [h]; rfl

theorem decodeWord_0A {w : Nat} (h : fld 31 26 w = 10) : decodeWord w = decodeOp0A w := by
  unfold decodeWord; rw [h]; rfl

theorem decodeWord_0B {w : Nat} (h : fld 31 26 w = 11) : decodeWord w = decodeOp0B w := by
  unfold decodeWord; rw [h]; rfl

theorem decodeWord_0C {w : Nat} (h : fld 31 26 w = 12) : decodeWord w = decodeOp0C w := by
  unfold decodeWord; rw [h]; rfl

theorem decodeWord_0D {w : Nat} (h : fld 31 26 w = 13) : decodeWord w = decodeOp0D w := by
  unfold decodeWord; rw [h]; rfl

theorem decodeWord_0E {w : Nat} (h : fld 31 26 w = 14) : decodeWord w = decodeOp0E w := by
  unfold decodeWord; rw [h]; rfl

theorem decodeWord_0F {w : Nat} (h : fld 31 26 w = 15) : decodeWord w = decodeOp0F w := by
  unfold decodeWord; rw [h]; rfl

theorem decodeWord_10 {w : Nat} (h : fld 31 26 w = 16) : decodeWord w = decodeOp10 w := by
  unfold decodeWord; rw [h]; rfl

theorem decodeWord_11 {w : Nat} (h : fld 31 26 w = 17) : decodeWord w = decodeOp11 w := by
  unfold decodeWord; rw [h]; rfl

theorem decodeWord_12 {w : Nat} (h : fld 31 26 w = 18) : decodeWord w = decodeOp12 w := by
  unfold decodeWord; rw [h]; rfl

theorem decodeWord_13 {w : Nat} (h : fld 31 26 w = 19) : decodeWord w = decodeOp13 w := by
  unfold decodeWord; rw [h]; rfl

theorem decodeWord_14 {w : Nat} (h : fld 31 26 w = 20) : decodeWord w = decodeOp14 w := by
  unfold decodeWord; rw [h]; rfl

theorem decodeWord_15 {w : Nat} (h : fld 31 26 w = 21) : decodeWord w = decodeOp15 w := by
  unfold decodeWord; rw [h]; rfl

theorem decodeWord_16 {w : Nat} (h : fld 31 26 w = 22) : decodeWord w = decodeOp16 w := by
  unfold decodeWord; rw [h]; rfl

theorem decodeWord_17 {w : Nat} (h : fld 31 26 w = 23) : decodeWord w = decodeOp17 w := by
  unfold decodeWord; rw [h]; rfl

theorem decodeWord_18 {w : Nat} (h : fld 31 26 w = 24) : decodeWord w = decodeOp18 w := by
  unfold decodeWord; rw [h]; rfl

theorem decodeWord_19 {w : Nat} (h : fld 31 26 w = 25) : decodeWord w = decodeOp19 w := by
  unfold decodeWord; rw [h]; rfl

theorem decodeWord_1A {w : Nat} (h : fld 31 26 w = 26) : decodeWord w = decodeOp1A w := by
  unfold decodeWord; rw [h]; rfl

theorem decodeWord_1B {w : Nat} (h : fld 31 26 w = 27) : decodeWord w = decodeOp1B w := by
  unfold decodeWord; rw [h]; rfl

theorem decodeWord_1C {w : Nat} (h : fld 31 26 w = 28) : decodeWord w = decodeOp1C w := by
  unfold decodeWord; rw [h]; rfl

theorem decodeWord_1D {w : Nat} (h : fld 31 26 w = 29) : decodeWord w = decodeOp1D w := by
  unfold decodeWord; rw [h]; rfl

theorem decodeWord_1E {w : Nat} (h : fld 31 26 w = 30) : decodeWord w = decodeOp1E w := by
  unfold decodeWord; rw [h]; rfl

theorem decodeWord_1F {w : Nat} (h : fld 31 26 w = 31) : decodeWord w = decodeOp1F w := by
  unfold decodeWord; rw [h]; rfl

theorem decodeWord_20 {w : Nat} (h : fld 31 26 w = 32) : decodeWord w = decodeOp20 w := by
  unfold decodeWord; rw [h]; rfl

theorem decodeWord_21 {w : Nat} (h : fld 31 26 w = 33) : decodeWord w = decodeOp21 w := by
  unfold decodeWord; rw [h]; rfl

theorem decodeWord_22 {w : Nat} (h : fld 31 26 w = 34) : decodeWord w = decodeOp22 w := by
  unfold decodeWord; rw [h]; rfl

theorem decodeWord_23 {w : Nat} (h : fld 31 26 w = 35) : decodeWord w = decodeOp23 w := by
  unfold decodeWord; rw [h]; rfl

theorem decodeWord_24 {w : Nat} (h : fld 31 26 w = 36) : decodeWord w = decodeOp24 w := by
  unfold decodeWord; rw [h]; rfl

theorem decodeWord_25 {w : Nat} (h : fld 31 26 w = 37) : decodeWord w = decodeOp25 w := by
  unfold decodeWord; rw [h]; rfl

theorem decodeWord_26 {w : Nat} (h : fld 31 26 w = 38) : decodeWord w = decodeOp26 w := by
  unfold decodeWord; rw [h]; rfl

theorem decodeWord_27 {w : Nat} (h : fld 31 26 w = 39) : decodeWord w = decodeOp27 w := by
  unfold decodeWord; rw [h]; rfl

theorem decodeWord_28 {w : Nat} (h : fld 31 26 w = 40) : decodeWord w = decodeOp28 w := by
  unfold decodeWord; rw [h]; rfl

theorem decodeWord_29 {w : Nat} (h : fld 31 26 w = 41) : decodeWord w = decodeOp29 w := by
  unfold decodeWord; rw [h]; rfl

theorem decodeWord_2B {w : Nat} (h : fld 31 26 w = 43) : decodeWord w = decodeOp2B w := by
  unfold decodeWord; rw [h]; rfl

theorem decodeWord_2C {w : Nat} (h : fld 31 26 w = 44) : decodeWord w = decodeOp2C w := by
  unfold decodeWord; rw [h]; rfl

theorem decodeWord_2D {w : Nat} (h : fld 31 26 w = 45) : decodeWord w = decodeOp2D w := by
  unfold decodeWord; rw [h]; rfl

theorem decodeWord_2E {w : Nat} (h : fld 31 26 w = 46) : decodeWord w = decodeOp2E w := by
  unfold decodeWord; rw [h]; rfl

theorem decodeWord_2F {w : Nat} (h : fld 31 26 w = 47) : decodeWord w = decodeOp2F w := by
  unfold decodeWord; rw [h]; rfl

theorem decodeWord_31 {w : Nat} (h : fld 31 26 w = 49) : decodeWord w = decodeOp31 w := by
  unfold decodeWord; rw [h]; rfl

theorem decodeWord_32 {w : Nat} (h : fld 31 26 w = 50) : decodeWord w = decodeOp32 w := by
  unfold decodeWord; rw [h]; rfl

theorem decodeWord_33 {w : Nat} (h : fld 31 26 w = 51) : decodeWord w = decodeOp33 w := by
  unfold decodeWord; rw [h]; rfl

theorem decodeWord_34 {w : Nat} (h : fld 31 26 w = 52) : decodeWord w = decodeOp34 w := by
  unfold decodeWord; rw [h]; rfl

theorem decodeWord_35 {w : Nat} (h : fld 31 26 w = 53) : decodeWord w = decodeOp35 w := by
  unfold decodeWord; rw [h]; rfl

theorem decodeWord_36 {w : Nat} (h : fld 31 26 w = 54) : decodeWord w = decodeOp36 w := by
  unfold decodeWord; rw [h]; rfl

theorem decodeWord_37 {w : Nat} (h : fld 31 26 w = 55) : decodeWord w = decodeOp37 w := by
  unfold decodeWord; rw [h]; rfl

theorem decodeWord_38 {w : Nat} (h : fld 31 26 w = 56) : decodeWord w = decodeOp38 w := by
  unfold decodeWord; rw [h]; rfl

theorem decodeWord_39 {w : Nat} (h : fld 31 26 w = 57) : decodeWord w = decodeOp39 w := by
  unfold decodeWord; rw [h]; rfl

theorem decodeWord_3A {w : Nat} (h : fld 31 26 w = 58) : decodeWord w = decodeOp3A w := by
  unfold decodeWord; rw [h]; rfl

theorem decodeWord_3B {w : Nat} (h : fld 31 26 w = 59) : decodeWord w = decodeOp3B w := by
  unfold decodeWord; rw [h]; rfl

end Sys2Proof.Laws

open Sys2Proof Sys2Proof.Laws

/-- Decoding an instruction's own word gives the instruction (spec/02 R48). -/
def Sys2Proof.Laws.Encodes.Statement (i : Sys2Proof.Instr) : Prop :=
  ∀ w, Sys2Proof.encode i = some w → Sys2Proof.decodeWord w = .ok i

theorem Sys2Proof.Laws.Encodes.iadd (d : BitVec 7) (a : BitVec 7) (b : BitVec 7) (t : BitVec 2) :
    Sys2Proof.Laws.Encodes.Statement (.iadd d a b t) := by
  rintro w ⟨⟩
  have f0 : fld 3 2 0x00000000 = 0 := rfl
  have f1 : fld 11 5 0x00000000 = 0 := rfl
  have f2 : fld 11 5 (put 2 t 0x00000000) = 0 := fld_put_above (by decide) (by decide) f0 f1
  have f3 : fld 18 12 0x00000000 = 0 := rfl
  have f4 : fld 18 12 (put 2 t 0x00000000) = 0 := fld_put_above (by decide) (by decide) f0 f3
  have f5 : fld 18 12 (put 5 b (put 2 t 0x00000000)) = 0 := fld_put_above (by decide) (by decide) f2 f4
  have f6 : fld 25 19 0x00000000 = 0 := rfl
  have f7 : fld 25 19 (put 2 t 0x00000000) = 0 := fld_put_above (by decide) (by decide) f0 f6
  have f8 : fld 25 19 (put 5 b (put 2 t 0x00000000)) = 0 := fld_put_above (by decide) (by decide) f2 f7
  have f9 : fld 25 19 (put 12 a (put 5 b (put 2 t 0x00000000))) = 0 := fld_put_above (by decide) (by decide) f5 f8
  have f10 : fld 31 26 0x00000000 = 0 := rfl
  have f11 : fld 31 26 (put 2 t 0x00000000) = 0 := fld_put_above (by decide) (by decide) f0 f10
  have f12 : fld 31 26 (put 5 b (put 2 t 0x00000000)) = 0 := fld_put_above (by decide) (by decide) f2 f11
  have f13 : fld 31 26 (put 12 a (put 5 b (put 2 t 0x00000000))) = 0 := fld_put_above (by decide) (by decide) f5 f12
  have f14 : fld 1 0 0x00000000 = 0 := rfl
  have f15 : fld 1 0 (put 2 t 0x00000000) = 0 := fld_put_below (by decide) (by decide) f14
  have f16 : fld 1 0 (put 5 b (put 2 t 0x00000000)) = 0 := fld_put_below (by decide) (by decide) f15
  have f17 : fld 1 0 (put 12 a (put 5 b (put 2 t 0x00000000))) = 0 := fld_put_below (by decide) (by decide) f16
  have f18 : fld 4 4 0x00000000 = 0 := rfl
  have f19 : fld 4 4 (put 2 t 0x00000000) = 0 := fld_put_above (by decide) (by decide) f0 f18
  have f20 : fld 4 4 (put 5 b (put 2 t 0x00000000)) = 0 := fld_put_below (by decide) (by decide) f19
  have f21 : fld 4 4 (put 12 a (put 5 b (put 2 t 0x00000000))) = 0 := fld_put_below (by decide) (by decide) f20
  have f22 : fld 18 12 (put 12 a (put 5 b (put 2 t 0x00000000))) = a.toNat := fld_put_eq rfl f5
  have f23 : fld 11 5 (put 5 b (put 2 t 0x00000000)) = b.toNat := fld_put_eq rfl f2
  have f24 : fld 11 5 (put 12 a (put 5 b (put 2 t 0x00000000))) = b.toNat := fld_put_below (by decide) (by decide) f23
  have f25 : fld 3 2 (put 2 t 0x00000000) = t.toNat := fld_put_eq rfl f0
  have f26 : fld 3 2 (put 5 b (put 2 t 0x00000000)) = t.toNat := fld_put_below (by decide) (by decide) f25
  have f27 : fld 3 2 (put 12 a (put 5 b (put 2 t 0x00000000))) = t.toNat := fld_put_below (by decide) (by decide) f26
  have h0 : fld 31 26 (put 19 d (put 12 a (put 5 b (put 2 t 0x00000000)))) = 0 := fld_put_above (by decide) (by decide) f9 f13
  have h1 : fld 1 0 (put 19 d (put 12 a (put 5 b (put 2 t 0x00000000)))) = 0 := fld_put_below (by decide) (by decide) f17
  have h2 : fld 4 4 (put 19 d (put 12 a (put 5 b (put 2 t 0x00000000)))) = 0 := fld_put_below (by decide) (by decide) f21
  have h3 : BitVec.ofNat 7 (fld 25 19 (put 19 d (put 12 a (put 5 b (put 2 t 0x00000000))))) = d := ofNat_fld (fld_put_eq rfl f9)
  have h4 : BitVec.ofNat 7 (fld 18 12 (put 19 d (put 12 a (put 5 b (put 2 t 0x00000000))))) = a := ofNat_fld (fld_put_below (by decide) (by decide) f22)
  have h5 : BitVec.ofNat 7 (fld 11 5 (put 19 d (put 12 a (put 5 b (put 2 t 0x00000000))))) = b := ofNat_fld (fld_put_below (by decide) (by decide) f24)
  have h6 : BitVec.ofNat 2 (fld 3 2 (put 19 d (put 12 a (put 5 b (put 2 t 0x00000000))))) = t := ofNat_fld (fld_put_below (by decide) (by decide) f27)
  rw [decodeWord_00 h0]
  simp [decodeOp00, h1, h2, h3, h4, h5, h6]

theorem Sys2Proof.Laws.Encodes.isub (d : BitVec 7) (a : BitVec 7) (b : BitVec 7) (t : BitVec 2) :
    Sys2Proof.Laws.Encodes.Statement (.isub d a b t) := by
  rintro w ⟨⟩
  have f0 : fld 3 2 0x00000001 = 0 := rfl
  have f1 : fld 11 5 0x00000001 = 0 := rfl
  have f2 : fld 11 5 (put 2 t 0x00000001) = 0 := fld_put_above (by decide) (by decide) f0 f1
  have f3 : fld 18 12 0x00000001 = 0 := rfl
  have f4 : fld 18 12 (put 2 t 0x00000001) = 0 := fld_put_above (by decide) (by decide) f0 f3
  have f5 : fld 18 12 (put 5 b (put 2 t 0x00000001)) = 0 := fld_put_above (by decide) (by decide) f2 f4
  have f6 : fld 25 19 0x00000001 = 0 := rfl
  have f7 : fld 25 19 (put 2 t 0x00000001) = 0 := fld_put_above (by decide) (by decide) f0 f6
  have f8 : fld 25 19 (put 5 b (put 2 t 0x00000001)) = 0 := fld_put_above (by decide) (by decide) f2 f7
  have f9 : fld 25 19 (put 12 a (put 5 b (put 2 t 0x00000001))) = 0 := fld_put_above (by decide) (by decide) f5 f8
  have f10 : fld 31 26 0x00000001 = 0 := rfl
  have f11 : fld 31 26 (put 2 t 0x00000001) = 0 := fld_put_above (by decide) (by decide) f0 f10
  have f12 : fld 31 26 (put 5 b (put 2 t 0x00000001)) = 0 := fld_put_above (by decide) (by decide) f2 f11
  have f13 : fld 31 26 (put 12 a (put 5 b (put 2 t 0x00000001))) = 0 := fld_put_above (by decide) (by decide) f5 f12
  have f14 : fld 1 0 0x00000001 = 1 := rfl
  have f15 : fld 1 0 (put 2 t 0x00000001) = 1 := fld_put_below (by decide) (by decide) f14
  have f16 : fld 1 0 (put 5 b (put 2 t 0x00000001)) = 1 := fld_put_below (by decide) (by decide) f15
  have f17 : fld 1 0 (put 12 a (put 5 b (put 2 t 0x00000001))) = 1 := fld_put_below (by decide) (by decide) f16
  have f18 : fld 4 4 0x00000001 = 0 := rfl
  have f19 : fld 4 4 (put 2 t 0x00000001) = 0 := fld_put_above (by decide) (by decide) f0 f18
  have f20 : fld 4 4 (put 5 b (put 2 t 0x00000001)) = 0 := fld_put_below (by decide) (by decide) f19
  have f21 : fld 4 4 (put 12 a (put 5 b (put 2 t 0x00000001))) = 0 := fld_put_below (by decide) (by decide) f20
  have f22 : fld 18 12 (put 12 a (put 5 b (put 2 t 0x00000001))) = a.toNat := fld_put_eq rfl f5
  have f23 : fld 11 5 (put 5 b (put 2 t 0x00000001)) = b.toNat := fld_put_eq rfl f2
  have f24 : fld 11 5 (put 12 a (put 5 b (put 2 t 0x00000001))) = b.toNat := fld_put_below (by decide) (by decide) f23
  have f25 : fld 3 2 (put 2 t 0x00000001) = t.toNat := fld_put_eq rfl f0
  have f26 : fld 3 2 (put 5 b (put 2 t 0x00000001)) = t.toNat := fld_put_below (by decide) (by decide) f25
  have f27 : fld 3 2 (put 12 a (put 5 b (put 2 t 0x00000001))) = t.toNat := fld_put_below (by decide) (by decide) f26
  have h0 : fld 31 26 (put 19 d (put 12 a (put 5 b (put 2 t 0x00000001)))) = 0 := fld_put_above (by decide) (by decide) f9 f13
  have h1 : fld 1 0 (put 19 d (put 12 a (put 5 b (put 2 t 0x00000001)))) = 1 := fld_put_below (by decide) (by decide) f17
  have h2 : fld 4 4 (put 19 d (put 12 a (put 5 b (put 2 t 0x00000001)))) = 0 := fld_put_below (by decide) (by decide) f21
  have h3 : BitVec.ofNat 7 (fld 25 19 (put 19 d (put 12 a (put 5 b (put 2 t 0x00000001))))) = d := ofNat_fld (fld_put_eq rfl f9)
  have h4 : BitVec.ofNat 7 (fld 18 12 (put 19 d (put 12 a (put 5 b (put 2 t 0x00000001))))) = a := ofNat_fld (fld_put_below (by decide) (by decide) f22)
  have h5 : BitVec.ofNat 7 (fld 11 5 (put 19 d (put 12 a (put 5 b (put 2 t 0x00000001))))) = b := ofNat_fld (fld_put_below (by decide) (by decide) f24)
  have h6 : BitVec.ofNat 2 (fld 3 2 (put 19 d (put 12 a (put 5 b (put 2 t 0x00000001))))) = t := ofNat_fld (fld_put_below (by decide) (by decide) f27)
  rw [decodeWord_00 h0]
  simp [decodeOp00, h1, h2, h3, h4, h5, h6]

theorem Sys2Proof.Laws.Encodes.iadds (d : BitVec 7) (a : BitVec 7) (b : BitVec 7) (t : BitVec 2) :
    Sys2Proof.Laws.Encodes.Statement (.iadds d a b t) := by
  rintro w ⟨⟩
  have f0 : fld 3 2 0x00000002 = 0 := rfl
  have f1 : fld 11 5 0x00000002 = 0 := rfl
  have f2 : fld 11 5 (put 2 t 0x00000002) = 0 := fld_put_above (by decide) (by decide) f0 f1
  have f3 : fld 18 12 0x00000002 = 0 := rfl
  have f4 : fld 18 12 (put 2 t 0x00000002) = 0 := fld_put_above (by decide) (by decide) f0 f3
  have f5 : fld 18 12 (put 5 b (put 2 t 0x00000002)) = 0 := fld_put_above (by decide) (by decide) f2 f4
  have f6 : fld 25 19 0x00000002 = 0 := rfl
  have f7 : fld 25 19 (put 2 t 0x00000002) = 0 := fld_put_above (by decide) (by decide) f0 f6
  have f8 : fld 25 19 (put 5 b (put 2 t 0x00000002)) = 0 := fld_put_above (by decide) (by decide) f2 f7
  have f9 : fld 25 19 (put 12 a (put 5 b (put 2 t 0x00000002))) = 0 := fld_put_above (by decide) (by decide) f5 f8
  have f10 : fld 31 26 0x00000002 = 0 := rfl
  have f11 : fld 31 26 (put 2 t 0x00000002) = 0 := fld_put_above (by decide) (by decide) f0 f10
  have f12 : fld 31 26 (put 5 b (put 2 t 0x00000002)) = 0 := fld_put_above (by decide) (by decide) f2 f11
  have f13 : fld 31 26 (put 12 a (put 5 b (put 2 t 0x00000002))) = 0 := fld_put_above (by decide) (by decide) f5 f12
  have f14 : fld 1 0 0x00000002 = 2 := rfl
  have f15 : fld 1 0 (put 2 t 0x00000002) = 2 := fld_put_below (by decide) (by decide) f14
  have f16 : fld 1 0 (put 5 b (put 2 t 0x00000002)) = 2 := fld_put_below (by decide) (by decide) f15
  have f17 : fld 1 0 (put 12 a (put 5 b (put 2 t 0x00000002))) = 2 := fld_put_below (by decide) (by decide) f16
  have f18 : fld 4 4 0x00000002 = 0 := rfl
  have f19 : fld 4 4 (put 2 t 0x00000002) = 0 := fld_put_above (by decide) (by decide) f0 f18
  have f20 : fld 4 4 (put 5 b (put 2 t 0x00000002)) = 0 := fld_put_below (by decide) (by decide) f19
  have f21 : fld 4 4 (put 12 a (put 5 b (put 2 t 0x00000002))) = 0 := fld_put_below (by decide) (by decide) f20
  have f22 : fld 18 12 (put 12 a (put 5 b (put 2 t 0x00000002))) = a.toNat := fld_put_eq rfl f5
  have f23 : fld 11 5 (put 5 b (put 2 t 0x00000002)) = b.toNat := fld_put_eq rfl f2
  have f24 : fld 11 5 (put 12 a (put 5 b (put 2 t 0x00000002))) = b.toNat := fld_put_below (by decide) (by decide) f23
  have f25 : fld 3 2 (put 2 t 0x00000002) = t.toNat := fld_put_eq rfl f0
  have f26 : fld 3 2 (put 5 b (put 2 t 0x00000002)) = t.toNat := fld_put_below (by decide) (by decide) f25
  have f27 : fld 3 2 (put 12 a (put 5 b (put 2 t 0x00000002))) = t.toNat := fld_put_below (by decide) (by decide) f26
  have h0 : fld 31 26 (put 19 d (put 12 a (put 5 b (put 2 t 0x00000002)))) = 0 := fld_put_above (by decide) (by decide) f9 f13
  have h1 : fld 1 0 (put 19 d (put 12 a (put 5 b (put 2 t 0x00000002)))) = 2 := fld_put_below (by decide) (by decide) f17
  have h2 : fld 4 4 (put 19 d (put 12 a (put 5 b (put 2 t 0x00000002)))) = 0 := fld_put_below (by decide) (by decide) f21
  have h3 : BitVec.ofNat 7 (fld 25 19 (put 19 d (put 12 a (put 5 b (put 2 t 0x00000002))))) = d := ofNat_fld (fld_put_eq rfl f9)
  have h4 : BitVec.ofNat 7 (fld 18 12 (put 19 d (put 12 a (put 5 b (put 2 t 0x00000002))))) = a := ofNat_fld (fld_put_below (by decide) (by decide) f22)
  have h5 : BitVec.ofNat 7 (fld 11 5 (put 19 d (put 12 a (put 5 b (put 2 t 0x00000002))))) = b := ofNat_fld (fld_put_below (by decide) (by decide) f24)
  have h6 : BitVec.ofNat 2 (fld 3 2 (put 19 d (put 12 a (put 5 b (put 2 t 0x00000002))))) = t := ofNat_fld (fld_put_below (by decide) (by decide) f27)
  rw [decodeWord_00 h0]
  simp [decodeOp00, h1, h2, h3, h4, h5, h6]

theorem Sys2Proof.Laws.Encodes.isubs (d : BitVec 7) (a : BitVec 7) (b : BitVec 7) (t : BitVec 2) :
    Sys2Proof.Laws.Encodes.Statement (.isubs d a b t) := by
  rintro w ⟨⟩
  have f0 : fld 3 2 0x00000003 = 0 := rfl
  have f1 : fld 11 5 0x00000003 = 0 := rfl
  have f2 : fld 11 5 (put 2 t 0x00000003) = 0 := fld_put_above (by decide) (by decide) f0 f1
  have f3 : fld 18 12 0x00000003 = 0 := rfl
  have f4 : fld 18 12 (put 2 t 0x00000003) = 0 := fld_put_above (by decide) (by decide) f0 f3
  have f5 : fld 18 12 (put 5 b (put 2 t 0x00000003)) = 0 := fld_put_above (by decide) (by decide) f2 f4
  have f6 : fld 25 19 0x00000003 = 0 := rfl
  have f7 : fld 25 19 (put 2 t 0x00000003) = 0 := fld_put_above (by decide) (by decide) f0 f6
  have f8 : fld 25 19 (put 5 b (put 2 t 0x00000003)) = 0 := fld_put_above (by decide) (by decide) f2 f7
  have f9 : fld 25 19 (put 12 a (put 5 b (put 2 t 0x00000003))) = 0 := fld_put_above (by decide) (by decide) f5 f8
  have f10 : fld 31 26 0x00000003 = 0 := rfl
  have f11 : fld 31 26 (put 2 t 0x00000003) = 0 := fld_put_above (by decide) (by decide) f0 f10
  have f12 : fld 31 26 (put 5 b (put 2 t 0x00000003)) = 0 := fld_put_above (by decide) (by decide) f2 f11
  have f13 : fld 31 26 (put 12 a (put 5 b (put 2 t 0x00000003))) = 0 := fld_put_above (by decide) (by decide) f5 f12
  have f14 : fld 1 0 0x00000003 = 3 := rfl
  have f15 : fld 1 0 (put 2 t 0x00000003) = 3 := fld_put_below (by decide) (by decide) f14
  have f16 : fld 1 0 (put 5 b (put 2 t 0x00000003)) = 3 := fld_put_below (by decide) (by decide) f15
  have f17 : fld 1 0 (put 12 a (put 5 b (put 2 t 0x00000003))) = 3 := fld_put_below (by decide) (by decide) f16
  have f18 : fld 4 4 0x00000003 = 0 := rfl
  have f19 : fld 4 4 (put 2 t 0x00000003) = 0 := fld_put_above (by decide) (by decide) f0 f18
  have f20 : fld 4 4 (put 5 b (put 2 t 0x00000003)) = 0 := fld_put_below (by decide) (by decide) f19
  have f21 : fld 4 4 (put 12 a (put 5 b (put 2 t 0x00000003))) = 0 := fld_put_below (by decide) (by decide) f20
  have f22 : fld 18 12 (put 12 a (put 5 b (put 2 t 0x00000003))) = a.toNat := fld_put_eq rfl f5
  have f23 : fld 11 5 (put 5 b (put 2 t 0x00000003)) = b.toNat := fld_put_eq rfl f2
  have f24 : fld 11 5 (put 12 a (put 5 b (put 2 t 0x00000003))) = b.toNat := fld_put_below (by decide) (by decide) f23
  have f25 : fld 3 2 (put 2 t 0x00000003) = t.toNat := fld_put_eq rfl f0
  have f26 : fld 3 2 (put 5 b (put 2 t 0x00000003)) = t.toNat := fld_put_below (by decide) (by decide) f25
  have f27 : fld 3 2 (put 12 a (put 5 b (put 2 t 0x00000003))) = t.toNat := fld_put_below (by decide) (by decide) f26
  have h0 : fld 31 26 (put 19 d (put 12 a (put 5 b (put 2 t 0x00000003)))) = 0 := fld_put_above (by decide) (by decide) f9 f13
  have h1 : fld 1 0 (put 19 d (put 12 a (put 5 b (put 2 t 0x00000003)))) = 3 := fld_put_below (by decide) (by decide) f17
  have h2 : fld 4 4 (put 19 d (put 12 a (put 5 b (put 2 t 0x00000003)))) = 0 := fld_put_below (by decide) (by decide) f21
  have h3 : BitVec.ofNat 7 (fld 25 19 (put 19 d (put 12 a (put 5 b (put 2 t 0x00000003))))) = d := ofNat_fld (fld_put_eq rfl f9)
  have h4 : BitVec.ofNat 7 (fld 18 12 (put 19 d (put 12 a (put 5 b (put 2 t 0x00000003))))) = a := ofNat_fld (fld_put_below (by decide) (by decide) f22)
  have h5 : BitVec.ofNat 7 (fld 11 5 (put 19 d (put 12 a (put 5 b (put 2 t 0x00000003))))) = b := ofNat_fld (fld_put_below (by decide) (by decide) f24)
  have h6 : BitVec.ofNat 2 (fld 3 2 (put 19 d (put 12 a (put 5 b (put 2 t 0x00000003))))) = t := ofNat_fld (fld_put_below (by decide) (by decide) f27)
  rw [decodeWord_00 h0]
  simp [decodeOp00, h1, h2, h3, h4, h5, h6]

theorem Sys2Proof.Laws.Encodes.imul (d : BitVec 7) (a : BitVec 7) (b : BitVec 7) (t : BitVec 2) :
    Sys2Proof.Laws.Encodes.Statement (.imul d a b t) := by
  rintro w ⟨⟩
  have f0 : fld 3 2 0x04000000 = 0 := rfl
  have f1 : fld 11 5 0x04000000 = 0 := rfl
  have f2 : fld 11 5 (put 2 t 0x04000000) = 0 := fld_put_above (by decide) (by decide) f0 f1
  have f3 : fld 18 12 0x04000000 = 0 := rfl
  have f4 : fld 18 12 (put 2 t 0x04000000) = 0 := fld_put_above (by decide) (by decide) f0 f3
  have f5 : fld 18 12 (put 5 b (put 2 t 0x04000000)) = 0 := fld_put_above (by decide) (by decide) f2 f4
  have f6 : fld 25 19 0x04000000 = 0 := rfl
  have f7 : fld 25 19 (put 2 t 0x04000000) = 0 := fld_put_above (by decide) (by decide) f0 f6
  have f8 : fld 25 19 (put 5 b (put 2 t 0x04000000)) = 0 := fld_put_above (by decide) (by decide) f2 f7
  have f9 : fld 25 19 (put 12 a (put 5 b (put 2 t 0x04000000))) = 0 := fld_put_above (by decide) (by decide) f5 f8
  have f10 : fld 31 26 0x04000000 = 1 := rfl
  have f11 : fld 31 26 (put 2 t 0x04000000) = 1 := fld_put_above (by decide) (by decide) f0 f10
  have f12 : fld 31 26 (put 5 b (put 2 t 0x04000000)) = 1 := fld_put_above (by decide) (by decide) f2 f11
  have f13 : fld 31 26 (put 12 a (put 5 b (put 2 t 0x04000000))) = 1 := fld_put_above (by decide) (by decide) f5 f12
  have f14 : fld 1 0 0x04000000 = 0 := rfl
  have f15 : fld 1 0 (put 2 t 0x04000000) = 0 := fld_put_below (by decide) (by decide) f14
  have f16 : fld 1 0 (put 5 b (put 2 t 0x04000000)) = 0 := fld_put_below (by decide) (by decide) f15
  have f17 : fld 1 0 (put 12 a (put 5 b (put 2 t 0x04000000))) = 0 := fld_put_below (by decide) (by decide) f16
  have f18 : fld 4 4 0x04000000 = 0 := rfl
  have f19 : fld 4 4 (put 2 t 0x04000000) = 0 := fld_put_above (by decide) (by decide) f0 f18
  have f20 : fld 4 4 (put 5 b (put 2 t 0x04000000)) = 0 := fld_put_below (by decide) (by decide) f19
  have f21 : fld 4 4 (put 12 a (put 5 b (put 2 t 0x04000000))) = 0 := fld_put_below (by decide) (by decide) f20
  have f22 : fld 18 12 (put 12 a (put 5 b (put 2 t 0x04000000))) = a.toNat := fld_put_eq rfl f5
  have f23 : fld 11 5 (put 5 b (put 2 t 0x04000000)) = b.toNat := fld_put_eq rfl f2
  have f24 : fld 11 5 (put 12 a (put 5 b (put 2 t 0x04000000))) = b.toNat := fld_put_below (by decide) (by decide) f23
  have f25 : fld 3 2 (put 2 t 0x04000000) = t.toNat := fld_put_eq rfl f0
  have f26 : fld 3 2 (put 5 b (put 2 t 0x04000000)) = t.toNat := fld_put_below (by decide) (by decide) f25
  have f27 : fld 3 2 (put 12 a (put 5 b (put 2 t 0x04000000))) = t.toNat := fld_put_below (by decide) (by decide) f26
  have h0 : fld 31 26 (put 19 d (put 12 a (put 5 b (put 2 t 0x04000000)))) = 1 := fld_put_above (by decide) (by decide) f9 f13
  have h1 : fld 1 0 (put 19 d (put 12 a (put 5 b (put 2 t 0x04000000)))) = 0 := fld_put_below (by decide) (by decide) f17
  have h2 : fld 4 4 (put 19 d (put 12 a (put 5 b (put 2 t 0x04000000)))) = 0 := fld_put_below (by decide) (by decide) f21
  have h3 : BitVec.ofNat 7 (fld 25 19 (put 19 d (put 12 a (put 5 b (put 2 t 0x04000000))))) = d := ofNat_fld (fld_put_eq rfl f9)
  have h4 : BitVec.ofNat 7 (fld 18 12 (put 19 d (put 12 a (put 5 b (put 2 t 0x04000000))))) = a := ofNat_fld (fld_put_below (by decide) (by decide) f22)
  have h5 : BitVec.ofNat 7 (fld 11 5 (put 19 d (put 12 a (put 5 b (put 2 t 0x04000000))))) = b := ofNat_fld (fld_put_below (by decide) (by decide) f24)
  have h6 : BitVec.ofNat 2 (fld 3 2 (put 19 d (put 12 a (put 5 b (put 2 t 0x04000000))))) = t := ofNat_fld (fld_put_below (by decide) (by decide) f27)
  rw [decodeWord_01 h0]
  simp [decodeOp01, h1, h2, h3, h4, h5, h6]

theorem Sys2Proof.Laws.Encodes.imulh (d : BitVec 7) (a : BitVec 7) (b : BitVec 7) (t : BitVec 2) :
    Sys2Proof.Laws.Encodes.Statement (.imulh d a b t) := by
  rintro w ⟨⟩
  have f0 : fld 3 2 0x04000001 = 0 := rfl
  have f1 : fld 11 5 0x04000001 = 0 := rfl
  have f2 : fld 11 5 (put 2 t 0x04000001) = 0 := fld_put_above (by decide) (by decide) f0 f1
  have f3 : fld 18 12 0x04000001 = 0 := rfl
  have f4 : fld 18 12 (put 2 t 0x04000001) = 0 := fld_put_above (by decide) (by decide) f0 f3
  have f5 : fld 18 12 (put 5 b (put 2 t 0x04000001)) = 0 := fld_put_above (by decide) (by decide) f2 f4
  have f6 : fld 25 19 0x04000001 = 0 := rfl
  have f7 : fld 25 19 (put 2 t 0x04000001) = 0 := fld_put_above (by decide) (by decide) f0 f6
  have f8 : fld 25 19 (put 5 b (put 2 t 0x04000001)) = 0 := fld_put_above (by decide) (by decide) f2 f7
  have f9 : fld 25 19 (put 12 a (put 5 b (put 2 t 0x04000001))) = 0 := fld_put_above (by decide) (by decide) f5 f8
  have f10 : fld 31 26 0x04000001 = 1 := rfl
  have f11 : fld 31 26 (put 2 t 0x04000001) = 1 := fld_put_above (by decide) (by decide) f0 f10
  have f12 : fld 31 26 (put 5 b (put 2 t 0x04000001)) = 1 := fld_put_above (by decide) (by decide) f2 f11
  have f13 : fld 31 26 (put 12 a (put 5 b (put 2 t 0x04000001))) = 1 := fld_put_above (by decide) (by decide) f5 f12
  have f14 : fld 1 0 0x04000001 = 1 := rfl
  have f15 : fld 1 0 (put 2 t 0x04000001) = 1 := fld_put_below (by decide) (by decide) f14
  have f16 : fld 1 0 (put 5 b (put 2 t 0x04000001)) = 1 := fld_put_below (by decide) (by decide) f15
  have f17 : fld 1 0 (put 12 a (put 5 b (put 2 t 0x04000001))) = 1 := fld_put_below (by decide) (by decide) f16
  have f18 : fld 4 4 0x04000001 = 0 := rfl
  have f19 : fld 4 4 (put 2 t 0x04000001) = 0 := fld_put_above (by decide) (by decide) f0 f18
  have f20 : fld 4 4 (put 5 b (put 2 t 0x04000001)) = 0 := fld_put_below (by decide) (by decide) f19
  have f21 : fld 4 4 (put 12 a (put 5 b (put 2 t 0x04000001))) = 0 := fld_put_below (by decide) (by decide) f20
  have f22 : fld 18 12 (put 12 a (put 5 b (put 2 t 0x04000001))) = a.toNat := fld_put_eq rfl f5
  have f23 : fld 11 5 (put 5 b (put 2 t 0x04000001)) = b.toNat := fld_put_eq rfl f2
  have f24 : fld 11 5 (put 12 a (put 5 b (put 2 t 0x04000001))) = b.toNat := fld_put_below (by decide) (by decide) f23
  have f25 : fld 3 2 (put 2 t 0x04000001) = t.toNat := fld_put_eq rfl f0
  have f26 : fld 3 2 (put 5 b (put 2 t 0x04000001)) = t.toNat := fld_put_below (by decide) (by decide) f25
  have f27 : fld 3 2 (put 12 a (put 5 b (put 2 t 0x04000001))) = t.toNat := fld_put_below (by decide) (by decide) f26
  have h0 : fld 31 26 (put 19 d (put 12 a (put 5 b (put 2 t 0x04000001)))) = 1 := fld_put_above (by decide) (by decide) f9 f13
  have h1 : fld 1 0 (put 19 d (put 12 a (put 5 b (put 2 t 0x04000001)))) = 1 := fld_put_below (by decide) (by decide) f17
  have h2 : fld 4 4 (put 19 d (put 12 a (put 5 b (put 2 t 0x04000001)))) = 0 := fld_put_below (by decide) (by decide) f21
  have h3 : BitVec.ofNat 7 (fld 25 19 (put 19 d (put 12 a (put 5 b (put 2 t 0x04000001))))) = d := ofNat_fld (fld_put_eq rfl f9)
  have h4 : BitVec.ofNat 7 (fld 18 12 (put 19 d (put 12 a (put 5 b (put 2 t 0x04000001))))) = a := ofNat_fld (fld_put_below (by decide) (by decide) f22)
  have h5 : BitVec.ofNat 7 (fld 11 5 (put 19 d (put 12 a (put 5 b (put 2 t 0x04000001))))) = b := ofNat_fld (fld_put_below (by decide) (by decide) f24)
  have h6 : BitVec.ofNat 2 (fld 3 2 (put 19 d (put 12 a (put 5 b (put 2 t 0x04000001))))) = t := ofNat_fld (fld_put_below (by decide) (by decide) f27)
  rw [decodeWord_01 h0]
  simp [decodeOp01, h1, h2, h3, h4, h5, h6]

theorem Sys2Proof.Laws.Encodes.imulhu (d : BitVec 7) (a : BitVec 7) (b : BitVec 7) (t : BitVec 2) :
    Sys2Proof.Laws.Encodes.Statement (.imulhu d a b t) := by
  rintro w ⟨⟩
  have f0 : fld 3 2 0x04000002 = 0 := rfl
  have f1 : fld 11 5 0x04000002 = 0 := rfl
  have f2 : fld 11 5 (put 2 t 0x04000002) = 0 := fld_put_above (by decide) (by decide) f0 f1
  have f3 : fld 18 12 0x04000002 = 0 := rfl
  have f4 : fld 18 12 (put 2 t 0x04000002) = 0 := fld_put_above (by decide) (by decide) f0 f3
  have f5 : fld 18 12 (put 5 b (put 2 t 0x04000002)) = 0 := fld_put_above (by decide) (by decide) f2 f4
  have f6 : fld 25 19 0x04000002 = 0 := rfl
  have f7 : fld 25 19 (put 2 t 0x04000002) = 0 := fld_put_above (by decide) (by decide) f0 f6
  have f8 : fld 25 19 (put 5 b (put 2 t 0x04000002)) = 0 := fld_put_above (by decide) (by decide) f2 f7
  have f9 : fld 25 19 (put 12 a (put 5 b (put 2 t 0x04000002))) = 0 := fld_put_above (by decide) (by decide) f5 f8
  have f10 : fld 31 26 0x04000002 = 1 := rfl
  have f11 : fld 31 26 (put 2 t 0x04000002) = 1 := fld_put_above (by decide) (by decide) f0 f10
  have f12 : fld 31 26 (put 5 b (put 2 t 0x04000002)) = 1 := fld_put_above (by decide) (by decide) f2 f11
  have f13 : fld 31 26 (put 12 a (put 5 b (put 2 t 0x04000002))) = 1 := fld_put_above (by decide) (by decide) f5 f12
  have f14 : fld 1 0 0x04000002 = 2 := rfl
  have f15 : fld 1 0 (put 2 t 0x04000002) = 2 := fld_put_below (by decide) (by decide) f14
  have f16 : fld 1 0 (put 5 b (put 2 t 0x04000002)) = 2 := fld_put_below (by decide) (by decide) f15
  have f17 : fld 1 0 (put 12 a (put 5 b (put 2 t 0x04000002))) = 2 := fld_put_below (by decide) (by decide) f16
  have f18 : fld 4 4 0x04000002 = 0 := rfl
  have f19 : fld 4 4 (put 2 t 0x04000002) = 0 := fld_put_above (by decide) (by decide) f0 f18
  have f20 : fld 4 4 (put 5 b (put 2 t 0x04000002)) = 0 := fld_put_below (by decide) (by decide) f19
  have f21 : fld 4 4 (put 12 a (put 5 b (put 2 t 0x04000002))) = 0 := fld_put_below (by decide) (by decide) f20
  have f22 : fld 18 12 (put 12 a (put 5 b (put 2 t 0x04000002))) = a.toNat := fld_put_eq rfl f5
  have f23 : fld 11 5 (put 5 b (put 2 t 0x04000002)) = b.toNat := fld_put_eq rfl f2
  have f24 : fld 11 5 (put 12 a (put 5 b (put 2 t 0x04000002))) = b.toNat := fld_put_below (by decide) (by decide) f23
  have f25 : fld 3 2 (put 2 t 0x04000002) = t.toNat := fld_put_eq rfl f0
  have f26 : fld 3 2 (put 5 b (put 2 t 0x04000002)) = t.toNat := fld_put_below (by decide) (by decide) f25
  have f27 : fld 3 2 (put 12 a (put 5 b (put 2 t 0x04000002))) = t.toNat := fld_put_below (by decide) (by decide) f26
  have h0 : fld 31 26 (put 19 d (put 12 a (put 5 b (put 2 t 0x04000002)))) = 1 := fld_put_above (by decide) (by decide) f9 f13
  have h1 : fld 1 0 (put 19 d (put 12 a (put 5 b (put 2 t 0x04000002)))) = 2 := fld_put_below (by decide) (by decide) f17
  have h2 : fld 4 4 (put 19 d (put 12 a (put 5 b (put 2 t 0x04000002)))) = 0 := fld_put_below (by decide) (by decide) f21
  have h3 : BitVec.ofNat 7 (fld 25 19 (put 19 d (put 12 a (put 5 b (put 2 t 0x04000002))))) = d := ofNat_fld (fld_put_eq rfl f9)
  have h4 : BitVec.ofNat 7 (fld 18 12 (put 19 d (put 12 a (put 5 b (put 2 t 0x04000002))))) = a := ofNat_fld (fld_put_below (by decide) (by decide) f22)
  have h5 : BitVec.ofNat 7 (fld 11 5 (put 19 d (put 12 a (put 5 b (put 2 t 0x04000002))))) = b := ofNat_fld (fld_put_below (by decide) (by decide) f24)
  have h6 : BitVec.ofNat 2 (fld 3 2 (put 19 d (put 12 a (put 5 b (put 2 t 0x04000002))))) = t := ofNat_fld (fld_put_below (by decide) (by decide) f27)
  rw [decodeWord_01 h0]
  simp [decodeOp01, h1, h2, h3, h4, h5, h6]

theorem Sys2Proof.Laws.Encodes.imad (d : BitVec 7) (a : BitVec 7) (b : BitVec 7) (t : BitVec 2) :
    Sys2Proof.Laws.Encodes.Statement (.imad d a b t) := by
  rintro w ⟨⟩
  have f0 : fld 3 2 0x04000003 = 0 := rfl
  have f1 : fld 11 5 0x04000003 = 0 := rfl
  have f2 : fld 11 5 (put 2 t 0x04000003) = 0 := fld_put_above (by decide) (by decide) f0 f1
  have f3 : fld 18 12 0x04000003 = 0 := rfl
  have f4 : fld 18 12 (put 2 t 0x04000003) = 0 := fld_put_above (by decide) (by decide) f0 f3
  have f5 : fld 18 12 (put 5 b (put 2 t 0x04000003)) = 0 := fld_put_above (by decide) (by decide) f2 f4
  have f6 : fld 25 19 0x04000003 = 0 := rfl
  have f7 : fld 25 19 (put 2 t 0x04000003) = 0 := fld_put_above (by decide) (by decide) f0 f6
  have f8 : fld 25 19 (put 5 b (put 2 t 0x04000003)) = 0 := fld_put_above (by decide) (by decide) f2 f7
  have f9 : fld 25 19 (put 12 a (put 5 b (put 2 t 0x04000003))) = 0 := fld_put_above (by decide) (by decide) f5 f8
  have f10 : fld 31 26 0x04000003 = 1 := rfl
  have f11 : fld 31 26 (put 2 t 0x04000003) = 1 := fld_put_above (by decide) (by decide) f0 f10
  have f12 : fld 31 26 (put 5 b (put 2 t 0x04000003)) = 1 := fld_put_above (by decide) (by decide) f2 f11
  have f13 : fld 31 26 (put 12 a (put 5 b (put 2 t 0x04000003))) = 1 := fld_put_above (by decide) (by decide) f5 f12
  have f14 : fld 1 0 0x04000003 = 3 := rfl
  have f15 : fld 1 0 (put 2 t 0x04000003) = 3 := fld_put_below (by decide) (by decide) f14
  have f16 : fld 1 0 (put 5 b (put 2 t 0x04000003)) = 3 := fld_put_below (by decide) (by decide) f15
  have f17 : fld 1 0 (put 12 a (put 5 b (put 2 t 0x04000003))) = 3 := fld_put_below (by decide) (by decide) f16
  have f18 : fld 4 4 0x04000003 = 0 := rfl
  have f19 : fld 4 4 (put 2 t 0x04000003) = 0 := fld_put_above (by decide) (by decide) f0 f18
  have f20 : fld 4 4 (put 5 b (put 2 t 0x04000003)) = 0 := fld_put_below (by decide) (by decide) f19
  have f21 : fld 4 4 (put 12 a (put 5 b (put 2 t 0x04000003))) = 0 := fld_put_below (by decide) (by decide) f20
  have f22 : fld 18 12 (put 12 a (put 5 b (put 2 t 0x04000003))) = a.toNat := fld_put_eq rfl f5
  have f23 : fld 11 5 (put 5 b (put 2 t 0x04000003)) = b.toNat := fld_put_eq rfl f2
  have f24 : fld 11 5 (put 12 a (put 5 b (put 2 t 0x04000003))) = b.toNat := fld_put_below (by decide) (by decide) f23
  have f25 : fld 3 2 (put 2 t 0x04000003) = t.toNat := fld_put_eq rfl f0
  have f26 : fld 3 2 (put 5 b (put 2 t 0x04000003)) = t.toNat := fld_put_below (by decide) (by decide) f25
  have f27 : fld 3 2 (put 12 a (put 5 b (put 2 t 0x04000003))) = t.toNat := fld_put_below (by decide) (by decide) f26
  have h0 : fld 31 26 (put 19 d (put 12 a (put 5 b (put 2 t 0x04000003)))) = 1 := fld_put_above (by decide) (by decide) f9 f13
  have h1 : fld 1 0 (put 19 d (put 12 a (put 5 b (put 2 t 0x04000003)))) = 3 := fld_put_below (by decide) (by decide) f17
  have h2 : fld 4 4 (put 19 d (put 12 a (put 5 b (put 2 t 0x04000003)))) = 0 := fld_put_below (by decide) (by decide) f21
  have h3 : BitVec.ofNat 7 (fld 25 19 (put 19 d (put 12 a (put 5 b (put 2 t 0x04000003))))) = d := ofNat_fld (fld_put_eq rfl f9)
  have h4 : BitVec.ofNat 7 (fld 18 12 (put 19 d (put 12 a (put 5 b (put 2 t 0x04000003))))) = a := ofNat_fld (fld_put_below (by decide) (by decide) f22)
  have h5 : BitVec.ofNat 7 (fld 11 5 (put 19 d (put 12 a (put 5 b (put 2 t 0x04000003))))) = b := ofNat_fld (fld_put_below (by decide) (by decide) f24)
  have h6 : BitVec.ofNat 2 (fld 3 2 (put 19 d (put 12 a (put 5 b (put 2 t 0x04000003))))) = t := ofNat_fld (fld_put_below (by decide) (by decide) f27)
  rw [decodeWord_01 h0]
  simp [decodeOp01, h1, h2, h3, h4, h5, h6]

theorem Sys2Proof.Laws.Encodes.imin (d : BitVec 7) (a : BitVec 7) (b : BitVec 7) (t : BitVec 2) :
    Sys2Proof.Laws.Encodes.Statement (.imin d a b t) := by
  rintro w ⟨⟩
  have f0 : fld 3 2 0x08000000 = 0 := rfl
  have f1 : fld 11 5 0x08000000 = 0 := rfl
  have f2 : fld 11 5 (put 2 t 0x08000000) = 0 := fld_put_above (by decide) (by decide) f0 f1
  have f3 : fld 18 12 0x08000000 = 0 := rfl
  have f4 : fld 18 12 (put 2 t 0x08000000) = 0 := fld_put_above (by decide) (by decide) f0 f3
  have f5 : fld 18 12 (put 5 b (put 2 t 0x08000000)) = 0 := fld_put_above (by decide) (by decide) f2 f4
  have f6 : fld 25 19 0x08000000 = 0 := rfl
  have f7 : fld 25 19 (put 2 t 0x08000000) = 0 := fld_put_above (by decide) (by decide) f0 f6
  have f8 : fld 25 19 (put 5 b (put 2 t 0x08000000)) = 0 := fld_put_above (by decide) (by decide) f2 f7
  have f9 : fld 25 19 (put 12 a (put 5 b (put 2 t 0x08000000))) = 0 := fld_put_above (by decide) (by decide) f5 f8
  have f10 : fld 31 26 0x08000000 = 2 := rfl
  have f11 : fld 31 26 (put 2 t 0x08000000) = 2 := fld_put_above (by decide) (by decide) f0 f10
  have f12 : fld 31 26 (put 5 b (put 2 t 0x08000000)) = 2 := fld_put_above (by decide) (by decide) f2 f11
  have f13 : fld 31 26 (put 12 a (put 5 b (put 2 t 0x08000000))) = 2 := fld_put_above (by decide) (by decide) f5 f12
  have f14 : fld 1 0 0x08000000 = 0 := rfl
  have f15 : fld 1 0 (put 2 t 0x08000000) = 0 := fld_put_below (by decide) (by decide) f14
  have f16 : fld 1 0 (put 5 b (put 2 t 0x08000000)) = 0 := fld_put_below (by decide) (by decide) f15
  have f17 : fld 1 0 (put 12 a (put 5 b (put 2 t 0x08000000))) = 0 := fld_put_below (by decide) (by decide) f16
  have f18 : fld 4 4 0x08000000 = 0 := rfl
  have f19 : fld 4 4 (put 2 t 0x08000000) = 0 := fld_put_above (by decide) (by decide) f0 f18
  have f20 : fld 4 4 (put 5 b (put 2 t 0x08000000)) = 0 := fld_put_below (by decide) (by decide) f19
  have f21 : fld 4 4 (put 12 a (put 5 b (put 2 t 0x08000000))) = 0 := fld_put_below (by decide) (by decide) f20
  have f22 : fld 18 12 (put 12 a (put 5 b (put 2 t 0x08000000))) = a.toNat := fld_put_eq rfl f5
  have f23 : fld 11 5 (put 5 b (put 2 t 0x08000000)) = b.toNat := fld_put_eq rfl f2
  have f24 : fld 11 5 (put 12 a (put 5 b (put 2 t 0x08000000))) = b.toNat := fld_put_below (by decide) (by decide) f23
  have f25 : fld 3 2 (put 2 t 0x08000000) = t.toNat := fld_put_eq rfl f0
  have f26 : fld 3 2 (put 5 b (put 2 t 0x08000000)) = t.toNat := fld_put_below (by decide) (by decide) f25
  have f27 : fld 3 2 (put 12 a (put 5 b (put 2 t 0x08000000))) = t.toNat := fld_put_below (by decide) (by decide) f26
  have h0 : fld 31 26 (put 19 d (put 12 a (put 5 b (put 2 t 0x08000000)))) = 2 := fld_put_above (by decide) (by decide) f9 f13
  have h1 : fld 1 0 (put 19 d (put 12 a (put 5 b (put 2 t 0x08000000)))) = 0 := fld_put_below (by decide) (by decide) f17
  have h2 : fld 4 4 (put 19 d (put 12 a (put 5 b (put 2 t 0x08000000)))) = 0 := fld_put_below (by decide) (by decide) f21
  have h3 : BitVec.ofNat 7 (fld 25 19 (put 19 d (put 12 a (put 5 b (put 2 t 0x08000000))))) = d := ofNat_fld (fld_put_eq rfl f9)
  have h4 : BitVec.ofNat 7 (fld 18 12 (put 19 d (put 12 a (put 5 b (put 2 t 0x08000000))))) = a := ofNat_fld (fld_put_below (by decide) (by decide) f22)
  have h5 : BitVec.ofNat 7 (fld 11 5 (put 19 d (put 12 a (put 5 b (put 2 t 0x08000000))))) = b := ofNat_fld (fld_put_below (by decide) (by decide) f24)
  have h6 : BitVec.ofNat 2 (fld 3 2 (put 19 d (put 12 a (put 5 b (put 2 t 0x08000000))))) = t := ofNat_fld (fld_put_below (by decide) (by decide) f27)
  rw [decodeWord_02 h0]
  simp [decodeOp02, h1, h2, h3, h4, h5, h6]

theorem Sys2Proof.Laws.Encodes.imax (d : BitVec 7) (a : BitVec 7) (b : BitVec 7) (t : BitVec 2) :
    Sys2Proof.Laws.Encodes.Statement (.imax d a b t) := by
  rintro w ⟨⟩
  have f0 : fld 3 2 0x08000001 = 0 := rfl
  have f1 : fld 11 5 0x08000001 = 0 := rfl
  have f2 : fld 11 5 (put 2 t 0x08000001) = 0 := fld_put_above (by decide) (by decide) f0 f1
  have f3 : fld 18 12 0x08000001 = 0 := rfl
  have f4 : fld 18 12 (put 2 t 0x08000001) = 0 := fld_put_above (by decide) (by decide) f0 f3
  have f5 : fld 18 12 (put 5 b (put 2 t 0x08000001)) = 0 := fld_put_above (by decide) (by decide) f2 f4
  have f6 : fld 25 19 0x08000001 = 0 := rfl
  have f7 : fld 25 19 (put 2 t 0x08000001) = 0 := fld_put_above (by decide) (by decide) f0 f6
  have f8 : fld 25 19 (put 5 b (put 2 t 0x08000001)) = 0 := fld_put_above (by decide) (by decide) f2 f7
  have f9 : fld 25 19 (put 12 a (put 5 b (put 2 t 0x08000001))) = 0 := fld_put_above (by decide) (by decide) f5 f8
  have f10 : fld 31 26 0x08000001 = 2 := rfl
  have f11 : fld 31 26 (put 2 t 0x08000001) = 2 := fld_put_above (by decide) (by decide) f0 f10
  have f12 : fld 31 26 (put 5 b (put 2 t 0x08000001)) = 2 := fld_put_above (by decide) (by decide) f2 f11
  have f13 : fld 31 26 (put 12 a (put 5 b (put 2 t 0x08000001))) = 2 := fld_put_above (by decide) (by decide) f5 f12
  have f14 : fld 1 0 0x08000001 = 1 := rfl
  have f15 : fld 1 0 (put 2 t 0x08000001) = 1 := fld_put_below (by decide) (by decide) f14
  have f16 : fld 1 0 (put 5 b (put 2 t 0x08000001)) = 1 := fld_put_below (by decide) (by decide) f15
  have f17 : fld 1 0 (put 12 a (put 5 b (put 2 t 0x08000001))) = 1 := fld_put_below (by decide) (by decide) f16
  have f18 : fld 4 4 0x08000001 = 0 := rfl
  have f19 : fld 4 4 (put 2 t 0x08000001) = 0 := fld_put_above (by decide) (by decide) f0 f18
  have f20 : fld 4 4 (put 5 b (put 2 t 0x08000001)) = 0 := fld_put_below (by decide) (by decide) f19
  have f21 : fld 4 4 (put 12 a (put 5 b (put 2 t 0x08000001))) = 0 := fld_put_below (by decide) (by decide) f20
  have f22 : fld 18 12 (put 12 a (put 5 b (put 2 t 0x08000001))) = a.toNat := fld_put_eq rfl f5
  have f23 : fld 11 5 (put 5 b (put 2 t 0x08000001)) = b.toNat := fld_put_eq rfl f2
  have f24 : fld 11 5 (put 12 a (put 5 b (put 2 t 0x08000001))) = b.toNat := fld_put_below (by decide) (by decide) f23
  have f25 : fld 3 2 (put 2 t 0x08000001) = t.toNat := fld_put_eq rfl f0
  have f26 : fld 3 2 (put 5 b (put 2 t 0x08000001)) = t.toNat := fld_put_below (by decide) (by decide) f25
  have f27 : fld 3 2 (put 12 a (put 5 b (put 2 t 0x08000001))) = t.toNat := fld_put_below (by decide) (by decide) f26
  have h0 : fld 31 26 (put 19 d (put 12 a (put 5 b (put 2 t 0x08000001)))) = 2 := fld_put_above (by decide) (by decide) f9 f13
  have h1 : fld 1 0 (put 19 d (put 12 a (put 5 b (put 2 t 0x08000001)))) = 1 := fld_put_below (by decide) (by decide) f17
  have h2 : fld 4 4 (put 19 d (put 12 a (put 5 b (put 2 t 0x08000001)))) = 0 := fld_put_below (by decide) (by decide) f21
  have h3 : BitVec.ofNat 7 (fld 25 19 (put 19 d (put 12 a (put 5 b (put 2 t 0x08000001))))) = d := ofNat_fld (fld_put_eq rfl f9)
  have h4 : BitVec.ofNat 7 (fld 18 12 (put 19 d (put 12 a (put 5 b (put 2 t 0x08000001))))) = a := ofNat_fld (fld_put_below (by decide) (by decide) f22)
  have h5 : BitVec.ofNat 7 (fld 11 5 (put 19 d (put 12 a (put 5 b (put 2 t 0x08000001))))) = b := ofNat_fld (fld_put_below (by decide) (by decide) f24)
  have h6 : BitVec.ofNat 2 (fld 3 2 (put 19 d (put 12 a (put 5 b (put 2 t 0x08000001))))) = t := ofNat_fld (fld_put_below (by decide) (by decide) f27)
  rw [decodeWord_02 h0]
  simp [decodeOp02, h1, h2, h3, h4, h5, h6]

theorem Sys2Proof.Laws.Encodes.iminu (d : BitVec 7) (a : BitVec 7) (b : BitVec 7) (t : BitVec 2) :
    Sys2Proof.Laws.Encodes.Statement (.iminu d a b t) := by
  rintro w ⟨⟩
  have f0 : fld 3 2 0x08000002 = 0 := rfl
  have f1 : fld 11 5 0x08000002 = 0 := rfl
  have f2 : fld 11 5 (put 2 t 0x08000002) = 0 := fld_put_above (by decide) (by decide) f0 f1
  have f3 : fld 18 12 0x08000002 = 0 := rfl
  have f4 : fld 18 12 (put 2 t 0x08000002) = 0 := fld_put_above (by decide) (by decide) f0 f3
  have f5 : fld 18 12 (put 5 b (put 2 t 0x08000002)) = 0 := fld_put_above (by decide) (by decide) f2 f4
  have f6 : fld 25 19 0x08000002 = 0 := rfl
  have f7 : fld 25 19 (put 2 t 0x08000002) = 0 := fld_put_above (by decide) (by decide) f0 f6
  have f8 : fld 25 19 (put 5 b (put 2 t 0x08000002)) = 0 := fld_put_above (by decide) (by decide) f2 f7
  have f9 : fld 25 19 (put 12 a (put 5 b (put 2 t 0x08000002))) = 0 := fld_put_above (by decide) (by decide) f5 f8
  have f10 : fld 31 26 0x08000002 = 2 := rfl
  have f11 : fld 31 26 (put 2 t 0x08000002) = 2 := fld_put_above (by decide) (by decide) f0 f10
  have f12 : fld 31 26 (put 5 b (put 2 t 0x08000002)) = 2 := fld_put_above (by decide) (by decide) f2 f11
  have f13 : fld 31 26 (put 12 a (put 5 b (put 2 t 0x08000002))) = 2 := fld_put_above (by decide) (by decide) f5 f12
  have f14 : fld 1 0 0x08000002 = 2 := rfl
  have f15 : fld 1 0 (put 2 t 0x08000002) = 2 := fld_put_below (by decide) (by decide) f14
  have f16 : fld 1 0 (put 5 b (put 2 t 0x08000002)) = 2 := fld_put_below (by decide) (by decide) f15
  have f17 : fld 1 0 (put 12 a (put 5 b (put 2 t 0x08000002))) = 2 := fld_put_below (by decide) (by decide) f16
  have f18 : fld 4 4 0x08000002 = 0 := rfl
  have f19 : fld 4 4 (put 2 t 0x08000002) = 0 := fld_put_above (by decide) (by decide) f0 f18
  have f20 : fld 4 4 (put 5 b (put 2 t 0x08000002)) = 0 := fld_put_below (by decide) (by decide) f19
  have f21 : fld 4 4 (put 12 a (put 5 b (put 2 t 0x08000002))) = 0 := fld_put_below (by decide) (by decide) f20
  have f22 : fld 18 12 (put 12 a (put 5 b (put 2 t 0x08000002))) = a.toNat := fld_put_eq rfl f5
  have f23 : fld 11 5 (put 5 b (put 2 t 0x08000002)) = b.toNat := fld_put_eq rfl f2
  have f24 : fld 11 5 (put 12 a (put 5 b (put 2 t 0x08000002))) = b.toNat := fld_put_below (by decide) (by decide) f23
  have f25 : fld 3 2 (put 2 t 0x08000002) = t.toNat := fld_put_eq rfl f0
  have f26 : fld 3 2 (put 5 b (put 2 t 0x08000002)) = t.toNat := fld_put_below (by decide) (by decide) f25
  have f27 : fld 3 2 (put 12 a (put 5 b (put 2 t 0x08000002))) = t.toNat := fld_put_below (by decide) (by decide) f26
  have h0 : fld 31 26 (put 19 d (put 12 a (put 5 b (put 2 t 0x08000002)))) = 2 := fld_put_above (by decide) (by decide) f9 f13
  have h1 : fld 1 0 (put 19 d (put 12 a (put 5 b (put 2 t 0x08000002)))) = 2 := fld_put_below (by decide) (by decide) f17
  have h2 : fld 4 4 (put 19 d (put 12 a (put 5 b (put 2 t 0x08000002)))) = 0 := fld_put_below (by decide) (by decide) f21
  have h3 : BitVec.ofNat 7 (fld 25 19 (put 19 d (put 12 a (put 5 b (put 2 t 0x08000002))))) = d := ofNat_fld (fld_put_eq rfl f9)
  have h4 : BitVec.ofNat 7 (fld 18 12 (put 19 d (put 12 a (put 5 b (put 2 t 0x08000002))))) = a := ofNat_fld (fld_put_below (by decide) (by decide) f22)
  have h5 : BitVec.ofNat 7 (fld 11 5 (put 19 d (put 12 a (put 5 b (put 2 t 0x08000002))))) = b := ofNat_fld (fld_put_below (by decide) (by decide) f24)
  have h6 : BitVec.ofNat 2 (fld 3 2 (put 19 d (put 12 a (put 5 b (put 2 t 0x08000002))))) = t := ofNat_fld (fld_put_below (by decide) (by decide) f27)
  rw [decodeWord_02 h0]
  simp [decodeOp02, h1, h2, h3, h4, h5, h6]

theorem Sys2Proof.Laws.Encodes.imaxu (d : BitVec 7) (a : BitVec 7) (b : BitVec 7) (t : BitVec 2) :
    Sys2Proof.Laws.Encodes.Statement (.imaxu d a b t) := by
  rintro w ⟨⟩
  have f0 : fld 3 2 0x08000003 = 0 := rfl
  have f1 : fld 11 5 0x08000003 = 0 := rfl
  have f2 : fld 11 5 (put 2 t 0x08000003) = 0 := fld_put_above (by decide) (by decide) f0 f1
  have f3 : fld 18 12 0x08000003 = 0 := rfl
  have f4 : fld 18 12 (put 2 t 0x08000003) = 0 := fld_put_above (by decide) (by decide) f0 f3
  have f5 : fld 18 12 (put 5 b (put 2 t 0x08000003)) = 0 := fld_put_above (by decide) (by decide) f2 f4
  have f6 : fld 25 19 0x08000003 = 0 := rfl
  have f7 : fld 25 19 (put 2 t 0x08000003) = 0 := fld_put_above (by decide) (by decide) f0 f6
  have f8 : fld 25 19 (put 5 b (put 2 t 0x08000003)) = 0 := fld_put_above (by decide) (by decide) f2 f7
  have f9 : fld 25 19 (put 12 a (put 5 b (put 2 t 0x08000003))) = 0 := fld_put_above (by decide) (by decide) f5 f8
  have f10 : fld 31 26 0x08000003 = 2 := rfl
  have f11 : fld 31 26 (put 2 t 0x08000003) = 2 := fld_put_above (by decide) (by decide) f0 f10
  have f12 : fld 31 26 (put 5 b (put 2 t 0x08000003)) = 2 := fld_put_above (by decide) (by decide) f2 f11
  have f13 : fld 31 26 (put 12 a (put 5 b (put 2 t 0x08000003))) = 2 := fld_put_above (by decide) (by decide) f5 f12
  have f14 : fld 1 0 0x08000003 = 3 := rfl
  have f15 : fld 1 0 (put 2 t 0x08000003) = 3 := fld_put_below (by decide) (by decide) f14
  have f16 : fld 1 0 (put 5 b (put 2 t 0x08000003)) = 3 := fld_put_below (by decide) (by decide) f15
  have f17 : fld 1 0 (put 12 a (put 5 b (put 2 t 0x08000003))) = 3 := fld_put_below (by decide) (by decide) f16
  have f18 : fld 4 4 0x08000003 = 0 := rfl
  have f19 : fld 4 4 (put 2 t 0x08000003) = 0 := fld_put_above (by decide) (by decide) f0 f18
  have f20 : fld 4 4 (put 5 b (put 2 t 0x08000003)) = 0 := fld_put_below (by decide) (by decide) f19
  have f21 : fld 4 4 (put 12 a (put 5 b (put 2 t 0x08000003))) = 0 := fld_put_below (by decide) (by decide) f20
  have f22 : fld 18 12 (put 12 a (put 5 b (put 2 t 0x08000003))) = a.toNat := fld_put_eq rfl f5
  have f23 : fld 11 5 (put 5 b (put 2 t 0x08000003)) = b.toNat := fld_put_eq rfl f2
  have f24 : fld 11 5 (put 12 a (put 5 b (put 2 t 0x08000003))) = b.toNat := fld_put_below (by decide) (by decide) f23
  have f25 : fld 3 2 (put 2 t 0x08000003) = t.toNat := fld_put_eq rfl f0
  have f26 : fld 3 2 (put 5 b (put 2 t 0x08000003)) = t.toNat := fld_put_below (by decide) (by decide) f25
  have f27 : fld 3 2 (put 12 a (put 5 b (put 2 t 0x08000003))) = t.toNat := fld_put_below (by decide) (by decide) f26
  have h0 : fld 31 26 (put 19 d (put 12 a (put 5 b (put 2 t 0x08000003)))) = 2 := fld_put_above (by decide) (by decide) f9 f13
  have h1 : fld 1 0 (put 19 d (put 12 a (put 5 b (put 2 t 0x08000003)))) = 3 := fld_put_below (by decide) (by decide) f17
  have h2 : fld 4 4 (put 19 d (put 12 a (put 5 b (put 2 t 0x08000003)))) = 0 := fld_put_below (by decide) (by decide) f21
  have h3 : BitVec.ofNat 7 (fld 25 19 (put 19 d (put 12 a (put 5 b (put 2 t 0x08000003))))) = d := ofNat_fld (fld_put_eq rfl f9)
  have h4 : BitVec.ofNat 7 (fld 18 12 (put 19 d (put 12 a (put 5 b (put 2 t 0x08000003))))) = a := ofNat_fld (fld_put_below (by decide) (by decide) f22)
  have h5 : BitVec.ofNat 7 (fld 11 5 (put 19 d (put 12 a (put 5 b (put 2 t 0x08000003))))) = b := ofNat_fld (fld_put_below (by decide) (by decide) f24)
  have h6 : BitVec.ofNat 2 (fld 3 2 (put 19 d (put 12 a (put 5 b (put 2 t 0x08000003))))) = t := ofNat_fld (fld_put_below (by decide) (by decide) f27)
  rw [decodeWord_02 h0]
  simp [decodeOp02, h1, h2, h3, h4, h5, h6]

theorem Sys2Proof.Laws.Encodes.iabs (d : BitVec 7) (a : BitVec 7) (t : BitVec 2) :
    Sys2Proof.Laws.Encodes.Statement (.iabs d a t) := by
  rintro w ⟨⟩
  have f0 : fld 3 2 0x0C000000 = 0 := rfl
  have f1 : fld 18 12 0x0C000000 = 0 := rfl
  have f2 : fld 18 12 (put 2 t 0x0C000000) = 0 := fld_put_above (by decide) (by decide) f0 f1
  have f3 : fld 25 19 0x0C000000 = 0 := rfl
  have f4 : fld 25 19 (put 2 t 0x0C000000) = 0 := fld_put_above (by decide) (by decide) f0 f3
  have f5 : fld 25 19 (put 12 a (put 2 t 0x0C000000)) = 0 := fld_put_above (by decide) (by decide) f2 f4
  have f6 : fld 31 26 0x0C000000 = 3 := rfl
  have f7 : fld 31 26 (put 2 t 0x0C000000) = 3 := fld_put_above (by decide) (by decide) f0 f6
  have f8 : fld 31 26 (put 12 a (put 2 t 0x0C000000)) = 3 := fld_put_above (by decide) (by decide) f2 f7
  have f9 : fld 1 0 0x0C000000 = 0 := rfl
  have f10 : fld 1 0 (put 2 t 0x0C000000) = 0 := fld_put_below (by decide) (by decide) f9
  have f11 : fld 1 0 (put 12 a (put 2 t 0x0C000000)) = 0 := fld_put_below (by decide) (by decide) f10
  have f12 : fld 11 4 0x0C000000 = 0 := rfl
  have f13 : fld 11 4 (put 2 t 0x0C000000) = 0 := fld_put_above (by decide) (by decide) f0 f12
  have f14 : fld 11 4 (put 12 a (put 2 t 0x0C000000)) = 0 := fld_put_below (by decide) (by decide) f13
  have f15 : fld 18 12 (put 12 a (put 2 t 0x0C000000)) = a.toNat := fld_put_eq rfl f2
  have f16 : fld 3 2 (put 2 t 0x0C000000) = t.toNat := fld_put_eq rfl f0
  have f17 : fld 3 2 (put 12 a (put 2 t 0x0C000000)) = t.toNat := fld_put_below (by decide) (by decide) f16
  have h0 : fld 31 26 (put 19 d (put 12 a (put 2 t 0x0C000000))) = 3 := fld_put_above (by decide) (by decide) f5 f8
  have h1 : fld 1 0 (put 19 d (put 12 a (put 2 t 0x0C000000))) = 0 := fld_put_below (by decide) (by decide) f11
  have h2 : fld 11 4 (put 19 d (put 12 a (put 2 t 0x0C000000))) = 0 := fld_put_below (by decide) (by decide) f14
  have h3 : BitVec.ofNat 7 (fld 25 19 (put 19 d (put 12 a (put 2 t 0x0C000000)))) = d := ofNat_fld (fld_put_eq rfl f5)
  have h4 : BitVec.ofNat 7 (fld 18 12 (put 19 d (put 12 a (put 2 t 0x0C000000)))) = a := ofNat_fld (fld_put_below (by decide) (by decide) f15)
  have h5 : BitVec.ofNat 2 (fld 3 2 (put 19 d (put 12 a (put 2 t 0x0C000000)))) = t := ofNat_fld (fld_put_below (by decide) (by decide) f17)
  rw [decodeWord_03 h0]
  simp [decodeOp03, h1, h2, h3, h4, h5]

theorem Sys2Proof.Laws.Encodes.ineg (d : BitVec 7) (a : BitVec 7) (t : BitVec 2) :
    Sys2Proof.Laws.Encodes.Statement (.ineg d a t) := by
  rintro w ⟨⟩
  have f0 : fld 3 2 0x0C000001 = 0 := rfl
  have f1 : fld 18 12 0x0C000001 = 0 := rfl
  have f2 : fld 18 12 (put 2 t 0x0C000001) = 0 := fld_put_above (by decide) (by decide) f0 f1
  have f3 : fld 25 19 0x0C000001 = 0 := rfl
  have f4 : fld 25 19 (put 2 t 0x0C000001) = 0 := fld_put_above (by decide) (by decide) f0 f3
  have f5 : fld 25 19 (put 12 a (put 2 t 0x0C000001)) = 0 := fld_put_above (by decide) (by decide) f2 f4
  have f6 : fld 31 26 0x0C000001 = 3 := rfl
  have f7 : fld 31 26 (put 2 t 0x0C000001) = 3 := fld_put_above (by decide) (by decide) f0 f6
  have f8 : fld 31 26 (put 12 a (put 2 t 0x0C000001)) = 3 := fld_put_above (by decide) (by decide) f2 f7
  have f9 : fld 1 0 0x0C000001 = 1 := rfl
  have f10 : fld 1 0 (put 2 t 0x0C000001) = 1 := fld_put_below (by decide) (by decide) f9
  have f11 : fld 1 0 (put 12 a (put 2 t 0x0C000001)) = 1 := fld_put_below (by decide) (by decide) f10
  have f12 : fld 11 4 0x0C000001 = 0 := rfl
  have f13 : fld 11 4 (put 2 t 0x0C000001) = 0 := fld_put_above (by decide) (by decide) f0 f12
  have f14 : fld 11 4 (put 12 a (put 2 t 0x0C000001)) = 0 := fld_put_below (by decide) (by decide) f13
  have f15 : fld 18 12 (put 12 a (put 2 t 0x0C000001)) = a.toNat := fld_put_eq rfl f2
  have f16 : fld 3 2 (put 2 t 0x0C000001) = t.toNat := fld_put_eq rfl f0
  have f17 : fld 3 2 (put 12 a (put 2 t 0x0C000001)) = t.toNat := fld_put_below (by decide) (by decide) f16
  have h0 : fld 31 26 (put 19 d (put 12 a (put 2 t 0x0C000001))) = 3 := fld_put_above (by decide) (by decide) f5 f8
  have h1 : fld 1 0 (put 19 d (put 12 a (put 2 t 0x0C000001))) = 1 := fld_put_below (by decide) (by decide) f11
  have h2 : fld 11 4 (put 19 d (put 12 a (put 2 t 0x0C000001))) = 0 := fld_put_below (by decide) (by decide) f14
  have h3 : BitVec.ofNat 7 (fld 25 19 (put 19 d (put 12 a (put 2 t 0x0C000001)))) = d := ofNat_fld (fld_put_eq rfl f5)
  have h4 : BitVec.ofNat 7 (fld 18 12 (put 19 d (put 12 a (put 2 t 0x0C000001)))) = a := ofNat_fld (fld_put_below (by decide) (by decide) f15)
  have h5 : BitVec.ofNat 2 (fld 3 2 (put 19 d (put 12 a (put 2 t 0x0C000001)))) = t := ofNat_fld (fld_put_below (by decide) (by decide) f17)
  rw [decodeWord_03 h0]
  simp [decodeOp03, h1, h2, h3, h4, h5]

theorem Sys2Proof.Laws.Encodes.popc (d : BitVec 7) (a : BitVec 7) (t : BitVec 2) :
    Sys2Proof.Laws.Encodes.Statement (.popc d a t) := by
  rintro w ⟨⟩
  have f0 : fld 3 2 0x0C000002 = 0 := rfl
  have f1 : fld 18 12 0x0C000002 = 0 := rfl
  have f2 : fld 18 12 (put 2 t 0x0C000002) = 0 := fld_put_above (by decide) (by decide) f0 f1
  have f3 : fld 25 19 0x0C000002 = 0 := rfl
  have f4 : fld 25 19 (put 2 t 0x0C000002) = 0 := fld_put_above (by decide) (by decide) f0 f3
  have f5 : fld 25 19 (put 12 a (put 2 t 0x0C000002)) = 0 := fld_put_above (by decide) (by decide) f2 f4
  have f6 : fld 31 26 0x0C000002 = 3 := rfl
  have f7 : fld 31 26 (put 2 t 0x0C000002) = 3 := fld_put_above (by decide) (by decide) f0 f6
  have f8 : fld 31 26 (put 12 a (put 2 t 0x0C000002)) = 3 := fld_put_above (by decide) (by decide) f2 f7
  have f9 : fld 1 0 0x0C000002 = 2 := rfl
  have f10 : fld 1 0 (put 2 t 0x0C000002) = 2 := fld_put_below (by decide) (by decide) f9
  have f11 : fld 1 0 (put 12 a (put 2 t 0x0C000002)) = 2 := fld_put_below (by decide) (by decide) f10
  have f12 : fld 11 4 0x0C000002 = 0 := rfl
  have f13 : fld 11 4 (put 2 t 0x0C000002) = 0 := fld_put_above (by decide) (by decide) f0 f12
  have f14 : fld 11 4 (put 12 a (put 2 t 0x0C000002)) = 0 := fld_put_below (by decide) (by decide) f13
  have f15 : fld 18 12 (put 12 a (put 2 t 0x0C000002)) = a.toNat := fld_put_eq rfl f2
  have f16 : fld 3 2 (put 2 t 0x0C000002) = t.toNat := fld_put_eq rfl f0
  have f17 : fld 3 2 (put 12 a (put 2 t 0x0C000002)) = t.toNat := fld_put_below (by decide) (by decide) f16
  have h0 : fld 31 26 (put 19 d (put 12 a (put 2 t 0x0C000002))) = 3 := fld_put_above (by decide) (by decide) f5 f8
  have h1 : fld 1 0 (put 19 d (put 12 a (put 2 t 0x0C000002))) = 2 := fld_put_below (by decide) (by decide) f11
  have h2 : fld 11 4 (put 19 d (put 12 a (put 2 t 0x0C000002))) = 0 := fld_put_below (by decide) (by decide) f14
  have h3 : BitVec.ofNat 7 (fld 25 19 (put 19 d (put 12 a (put 2 t 0x0C000002)))) = d := ofNat_fld (fld_put_eq rfl f5)
  have h4 : BitVec.ofNat 7 (fld 18 12 (put 19 d (put 12 a (put 2 t 0x0C000002)))) = a := ofNat_fld (fld_put_below (by decide) (by decide) f15)
  have h5 : BitVec.ofNat 2 (fld 3 2 (put 19 d (put 12 a (put 2 t 0x0C000002)))) = t := ofNat_fld (fld_put_below (by decide) (by decide) f17)
  rw [decodeWord_03 h0]
  simp [decodeOp03, h1, h2, h3, h4, h5]

theorem Sys2Proof.Laws.Encodes.clz (d : BitVec 7) (a : BitVec 7) (t : BitVec 2) :
    Sys2Proof.Laws.Encodes.Statement (.clz d a t) := by
  rintro w ⟨⟩
  have f0 : fld 3 2 0x0C000003 = 0 := rfl
  have f1 : fld 18 12 0x0C000003 = 0 := rfl
  have f2 : fld 18 12 (put 2 t 0x0C000003) = 0 := fld_put_above (by decide) (by decide) f0 f1
  have f3 : fld 25 19 0x0C000003 = 0 := rfl
  have f4 : fld 25 19 (put 2 t 0x0C000003) = 0 := fld_put_above (by decide) (by decide) f0 f3
  have f5 : fld 25 19 (put 12 a (put 2 t 0x0C000003)) = 0 := fld_put_above (by decide) (by decide) f2 f4
  have f6 : fld 31 26 0x0C000003 = 3 := rfl
  have f7 : fld 31 26 (put 2 t 0x0C000003) = 3 := fld_put_above (by decide) (by decide) f0 f6
  have f8 : fld 31 26 (put 12 a (put 2 t 0x0C000003)) = 3 := fld_put_above (by decide) (by decide) f2 f7
  have f9 : fld 1 0 0x0C000003 = 3 := rfl
  have f10 : fld 1 0 (put 2 t 0x0C000003) = 3 := fld_put_below (by decide) (by decide) f9
  have f11 : fld 1 0 (put 12 a (put 2 t 0x0C000003)) = 3 := fld_put_below (by decide) (by decide) f10
  have f12 : fld 11 4 0x0C000003 = 0 := rfl
  have f13 : fld 11 4 (put 2 t 0x0C000003) = 0 := fld_put_above (by decide) (by decide) f0 f12
  have f14 : fld 11 4 (put 12 a (put 2 t 0x0C000003)) = 0 := fld_put_below (by decide) (by decide) f13
  have f15 : fld 18 12 (put 12 a (put 2 t 0x0C000003)) = a.toNat := fld_put_eq rfl f2
  have f16 : fld 3 2 (put 2 t 0x0C000003) = t.toNat := fld_put_eq rfl f0
  have f17 : fld 3 2 (put 12 a (put 2 t 0x0C000003)) = t.toNat := fld_put_below (by decide) (by decide) f16
  have h0 : fld 31 26 (put 19 d (put 12 a (put 2 t 0x0C000003))) = 3 := fld_put_above (by decide) (by decide) f5 f8
  have h1 : fld 1 0 (put 19 d (put 12 a (put 2 t 0x0C000003))) = 3 := fld_put_below (by decide) (by decide) f11
  have h2 : fld 11 4 (put 19 d (put 12 a (put 2 t 0x0C000003))) = 0 := fld_put_below (by decide) (by decide) f14
  have h3 : BitVec.ofNat 7 (fld 25 19 (put 19 d (put 12 a (put 2 t 0x0C000003)))) = d := ofNat_fld (fld_put_eq rfl f5)
  have h4 : BitVec.ofNat 7 (fld 18 12 (put 19 d (put 12 a (put 2 t 0x0C000003)))) = a := ofNat_fld (fld_put_below (by decide) (by decide) f15)
  have h5 : BitVec.ofNat 2 (fld 3 2 (put 19 d (put 12 a (put 2 t 0x0C000003)))) = t := ofNat_fld (fld_put_below (by decide) (by decide) f17)
  rw [decodeWord_03 h0]
  simp [decodeOp03, h1, h2, h3, h4, h5]

theorem Sys2Proof.Laws.Encodes.vand (d : BitVec 7) (a : BitVec 7) (b : BitVec 7) (t : BitVec 3) :
    Sys2Proof.Laws.Encodes.Statement (.vand d a b t) := by
  rintro w ⟨⟩
  have f0 : fld 4 2 0x10000000 = 0 := rfl
  have f1 : fld 11 5 0x10000000 = 0 := rfl
  have f2 : fld 11 5 (put 2 t 0x10000000) = 0 := fld_put_above (by decide) (by decide) f0 f1
  have f3 : fld 18 12 0x10000000 = 0 := rfl
  have f4 : fld 18 12 (put 2 t 0x10000000) = 0 := fld_put_above (by decide) (by decide) f0 f3
  have f5 : fld 18 12 (put 5 b (put 2 t 0x10000000)) = 0 := fld_put_above (by decide) (by decide) f2 f4
  have f6 : fld 25 19 0x10000000 = 0 := rfl
  have f7 : fld 25 19 (put 2 t 0x10000000) = 0 := fld_put_above (by decide) (by decide) f0 f6
  have f8 : fld 25 19 (put 5 b (put 2 t 0x10000000)) = 0 := fld_put_above (by decide) (by decide) f2 f7
  have f9 : fld 25 19 (put 12 a (put 5 b (put 2 t 0x10000000))) = 0 := fld_put_above (by decide) (by decide) f5 f8
  have f10 : fld 31 26 0x10000000 = 4 := rfl
  have f11 : fld 31 26 (put 2 t 0x10000000) = 4 := fld_put_above (by decide) (by decide) f0 f10
  have f12 : fld 31 26 (put 5 b (put 2 t 0x10000000)) = 4 := fld_put_above (by decide) (by decide) f2 f11
  have f13 : fld 31 26 (put 12 a (put 5 b (put 2 t 0x10000000))) = 4 := fld_put_above (by decide) (by decide) f5 f12
  have f14 : fld 1 0 0x10000000 = 0 := rfl
  have f15 : fld 1 0 (put 2 t 0x10000000) = 0 := fld_put_below (by decide) (by decide) f14
  have f16 : fld 1 0 (put 5 b (put 2 t 0x10000000)) = 0 := fld_put_below (by decide) (by decide) f15
  have f17 : fld 1 0 (put 12 a (put 5 b (put 2 t 0x10000000))) = 0 := fld_put_below (by decide) (by decide) f16
  have f18 : fld 18 12 (put 12 a (put 5 b (put 2 t 0x10000000))) = a.toNat := fld_put_eq rfl f5
  have f19 : fld 11 5 (put 5 b (put 2 t 0x10000000)) = b.toNat := fld_put_eq rfl f2
  have f20 : fld 11 5 (put 12 a (put 5 b (put 2 t 0x10000000))) = b.toNat := fld_put_below (by decide) (by decide) f19
  have f21 : fld 4 2 (put 2 t 0x10000000) = t.toNat := fld_put_eq rfl f0
  have f22 : fld 4 2 (put 5 b (put 2 t 0x10000000)) = t.toNat := fld_put_below (by decide) (by decide) f21
  have f23 : fld 4 2 (put 12 a (put 5 b (put 2 t 0x10000000))) = t.toNat := fld_put_below (by decide) (by decide) f22
  have h0 : fld 31 26 (put 19 d (put 12 a (put 5 b (put 2 t 0x10000000)))) = 4 := fld_put_above (by decide) (by decide) f9 f13
  have h1 : fld 1 0 (put 19 d (put 12 a (put 5 b (put 2 t 0x10000000)))) = 0 := fld_put_below (by decide) (by decide) f17
  have h2 : BitVec.ofNat 7 (fld 25 19 (put 19 d (put 12 a (put 5 b (put 2 t 0x10000000))))) = d := ofNat_fld (fld_put_eq rfl f9)
  have h3 : BitVec.ofNat 7 (fld 18 12 (put 19 d (put 12 a (put 5 b (put 2 t 0x10000000))))) = a := ofNat_fld (fld_put_below (by decide) (by decide) f18)
  have h4 : BitVec.ofNat 7 (fld 11 5 (put 19 d (put 12 a (put 5 b (put 2 t 0x10000000))))) = b := ofNat_fld (fld_put_below (by decide) (by decide) f20)
  have h5 : BitVec.ofNat 3 (fld 4 2 (put 19 d (put 12 a (put 5 b (put 2 t 0x10000000))))) = t := ofNat_fld (fld_put_below (by decide) (by decide) f23)
  rw [decodeWord_04 h0]
  simp [decodeOp04, h1, h2, h3, h4, h5]

theorem Sys2Proof.Laws.Encodes.vor (d : BitVec 7) (a : BitVec 7) (b : BitVec 7) (t : BitVec 3) :
    Sys2Proof.Laws.Encodes.Statement (.vor d a b t) := by
  rintro w ⟨⟩
  have f0 : fld 4 2 0x10000001 = 0 := rfl
  have f1 : fld 11 5 0x10000001 = 0 := rfl
  have f2 : fld 11 5 (put 2 t 0x10000001) = 0 := fld_put_above (by decide) (by decide) f0 f1
  have f3 : fld 18 12 0x10000001 = 0 := rfl
  have f4 : fld 18 12 (put 2 t 0x10000001) = 0 := fld_put_above (by decide) (by decide) f0 f3
  have f5 : fld 18 12 (put 5 b (put 2 t 0x10000001)) = 0 := fld_put_above (by decide) (by decide) f2 f4
  have f6 : fld 25 19 0x10000001 = 0 := rfl
  have f7 : fld 25 19 (put 2 t 0x10000001) = 0 := fld_put_above (by decide) (by decide) f0 f6
  have f8 : fld 25 19 (put 5 b (put 2 t 0x10000001)) = 0 := fld_put_above (by decide) (by decide) f2 f7
  have f9 : fld 25 19 (put 12 a (put 5 b (put 2 t 0x10000001))) = 0 := fld_put_above (by decide) (by decide) f5 f8
  have f10 : fld 31 26 0x10000001 = 4 := rfl
  have f11 : fld 31 26 (put 2 t 0x10000001) = 4 := fld_put_above (by decide) (by decide) f0 f10
  have f12 : fld 31 26 (put 5 b (put 2 t 0x10000001)) = 4 := fld_put_above (by decide) (by decide) f2 f11
  have f13 : fld 31 26 (put 12 a (put 5 b (put 2 t 0x10000001))) = 4 := fld_put_above (by decide) (by decide) f5 f12
  have f14 : fld 1 0 0x10000001 = 1 := rfl
  have f15 : fld 1 0 (put 2 t 0x10000001) = 1 := fld_put_below (by decide) (by decide) f14
  have f16 : fld 1 0 (put 5 b (put 2 t 0x10000001)) = 1 := fld_put_below (by decide) (by decide) f15
  have f17 : fld 1 0 (put 12 a (put 5 b (put 2 t 0x10000001))) = 1 := fld_put_below (by decide) (by decide) f16
  have f18 : fld 18 12 (put 12 a (put 5 b (put 2 t 0x10000001))) = a.toNat := fld_put_eq rfl f5
  have f19 : fld 11 5 (put 5 b (put 2 t 0x10000001)) = b.toNat := fld_put_eq rfl f2
  have f20 : fld 11 5 (put 12 a (put 5 b (put 2 t 0x10000001))) = b.toNat := fld_put_below (by decide) (by decide) f19
  have f21 : fld 4 2 (put 2 t 0x10000001) = t.toNat := fld_put_eq rfl f0
  have f22 : fld 4 2 (put 5 b (put 2 t 0x10000001)) = t.toNat := fld_put_below (by decide) (by decide) f21
  have f23 : fld 4 2 (put 12 a (put 5 b (put 2 t 0x10000001))) = t.toNat := fld_put_below (by decide) (by decide) f22
  have h0 : fld 31 26 (put 19 d (put 12 a (put 5 b (put 2 t 0x10000001)))) = 4 := fld_put_above (by decide) (by decide) f9 f13
  have h1 : fld 1 0 (put 19 d (put 12 a (put 5 b (put 2 t 0x10000001)))) = 1 := fld_put_below (by decide) (by decide) f17
  have h2 : BitVec.ofNat 7 (fld 25 19 (put 19 d (put 12 a (put 5 b (put 2 t 0x10000001))))) = d := ofNat_fld (fld_put_eq rfl f9)
  have h3 : BitVec.ofNat 7 (fld 18 12 (put 19 d (put 12 a (put 5 b (put 2 t 0x10000001))))) = a := ofNat_fld (fld_put_below (by decide) (by decide) f18)
  have h4 : BitVec.ofNat 7 (fld 11 5 (put 19 d (put 12 a (put 5 b (put 2 t 0x10000001))))) = b := ofNat_fld (fld_put_below (by decide) (by decide) f20)
  have h5 : BitVec.ofNat 3 (fld 4 2 (put 19 d (put 12 a (put 5 b (put 2 t 0x10000001))))) = t := ofNat_fld (fld_put_below (by decide) (by decide) f23)
  rw [decodeWord_04 h0]
  simp [decodeOp04, h1, h2, h3, h4, h5]

theorem Sys2Proof.Laws.Encodes.vxor (d : BitVec 7) (a : BitVec 7) (b : BitVec 7) (t : BitVec 3) :
    Sys2Proof.Laws.Encodes.Statement (.vxor d a b t) := by
  rintro w ⟨⟩
  have f0 : fld 4 2 0x10000002 = 0 := rfl
  have f1 : fld 11 5 0x10000002 = 0 := rfl
  have f2 : fld 11 5 (put 2 t 0x10000002) = 0 := fld_put_above (by decide) (by decide) f0 f1
  have f3 : fld 18 12 0x10000002 = 0 := rfl
  have f4 : fld 18 12 (put 2 t 0x10000002) = 0 := fld_put_above (by decide) (by decide) f0 f3
  have f5 : fld 18 12 (put 5 b (put 2 t 0x10000002)) = 0 := fld_put_above (by decide) (by decide) f2 f4
  have f6 : fld 25 19 0x10000002 = 0 := rfl
  have f7 : fld 25 19 (put 2 t 0x10000002) = 0 := fld_put_above (by decide) (by decide) f0 f6
  have f8 : fld 25 19 (put 5 b (put 2 t 0x10000002)) = 0 := fld_put_above (by decide) (by decide) f2 f7
  have f9 : fld 25 19 (put 12 a (put 5 b (put 2 t 0x10000002))) = 0 := fld_put_above (by decide) (by decide) f5 f8
  have f10 : fld 31 26 0x10000002 = 4 := rfl
  have f11 : fld 31 26 (put 2 t 0x10000002) = 4 := fld_put_above (by decide) (by decide) f0 f10
  have f12 : fld 31 26 (put 5 b (put 2 t 0x10000002)) = 4 := fld_put_above (by decide) (by decide) f2 f11
  have f13 : fld 31 26 (put 12 a (put 5 b (put 2 t 0x10000002))) = 4 := fld_put_above (by decide) (by decide) f5 f12
  have f14 : fld 1 0 0x10000002 = 2 := rfl
  have f15 : fld 1 0 (put 2 t 0x10000002) = 2 := fld_put_below (by decide) (by decide) f14
  have f16 : fld 1 0 (put 5 b (put 2 t 0x10000002)) = 2 := fld_put_below (by decide) (by decide) f15
  have f17 : fld 1 0 (put 12 a (put 5 b (put 2 t 0x10000002))) = 2 := fld_put_below (by decide) (by decide) f16
  have f18 : fld 18 12 (put 12 a (put 5 b (put 2 t 0x10000002))) = a.toNat := fld_put_eq rfl f5
  have f19 : fld 11 5 (put 5 b (put 2 t 0x10000002)) = b.toNat := fld_put_eq rfl f2
  have f20 : fld 11 5 (put 12 a (put 5 b (put 2 t 0x10000002))) = b.toNat := fld_put_below (by decide) (by decide) f19
  have f21 : fld 4 2 (put 2 t 0x10000002) = t.toNat := fld_put_eq rfl f0
  have f22 : fld 4 2 (put 5 b (put 2 t 0x10000002)) = t.toNat := fld_put_below (by decide) (by decide) f21
  have f23 : fld 4 2 (put 12 a (put 5 b (put 2 t 0x10000002))) = t.toNat := fld_put_below (by decide) (by decide) f22
  have h0 : fld 31 26 (put 19 d (put 12 a (put 5 b (put 2 t 0x10000002)))) = 4 := fld_put_above (by decide) (by decide) f9 f13
  have h1 : fld 1 0 (put 19 d (put 12 a (put 5 b (put 2 t 0x10000002)))) = 2 := fld_put_below (by decide) (by decide) f17
  have h2 : BitVec.ofNat 7 (fld 25 19 (put 19 d (put 12 a (put 5 b (put 2 t 0x10000002))))) = d := ofNat_fld (fld_put_eq rfl f9)
  have h3 : BitVec.ofNat 7 (fld 18 12 (put 19 d (put 12 a (put 5 b (put 2 t 0x10000002))))) = a := ofNat_fld (fld_put_below (by decide) (by decide) f18)
  have h4 : BitVec.ofNat 7 (fld 11 5 (put 19 d (put 12 a (put 5 b (put 2 t 0x10000002))))) = b := ofNat_fld (fld_put_below (by decide) (by decide) f20)
  have h5 : BitVec.ofNat 3 (fld 4 2 (put 19 d (put 12 a (put 5 b (put 2 t 0x10000002))))) = t := ofNat_fld (fld_put_below (by decide) (by decide) f23)
  rw [decodeWord_04 h0]
  simp [decodeOp04, h1, h2, h3, h4, h5]

theorem Sys2Proof.Laws.Encodes.vandn (d : BitVec 7) (a : BitVec 7) (b : BitVec 7) (t : BitVec 3) :
    Sys2Proof.Laws.Encodes.Statement (.vandn d a b t) := by
  rintro w ⟨⟩
  have f0 : fld 4 2 0x10000003 = 0 := rfl
  have f1 : fld 11 5 0x10000003 = 0 := rfl
  have f2 : fld 11 5 (put 2 t 0x10000003) = 0 := fld_put_above (by decide) (by decide) f0 f1
  have f3 : fld 18 12 0x10000003 = 0 := rfl
  have f4 : fld 18 12 (put 2 t 0x10000003) = 0 := fld_put_above (by decide) (by decide) f0 f3
  have f5 : fld 18 12 (put 5 b (put 2 t 0x10000003)) = 0 := fld_put_above (by decide) (by decide) f2 f4
  have f6 : fld 25 19 0x10000003 = 0 := rfl
  have f7 : fld 25 19 (put 2 t 0x10000003) = 0 := fld_put_above (by decide) (by decide) f0 f6
  have f8 : fld 25 19 (put 5 b (put 2 t 0x10000003)) = 0 := fld_put_above (by decide) (by decide) f2 f7
  have f9 : fld 25 19 (put 12 a (put 5 b (put 2 t 0x10000003))) = 0 := fld_put_above (by decide) (by decide) f5 f8
  have f10 : fld 31 26 0x10000003 = 4 := rfl
  have f11 : fld 31 26 (put 2 t 0x10000003) = 4 := fld_put_above (by decide) (by decide) f0 f10
  have f12 : fld 31 26 (put 5 b (put 2 t 0x10000003)) = 4 := fld_put_above (by decide) (by decide) f2 f11
  have f13 : fld 31 26 (put 12 a (put 5 b (put 2 t 0x10000003))) = 4 := fld_put_above (by decide) (by decide) f5 f12
  have f14 : fld 1 0 0x10000003 = 3 := rfl
  have f15 : fld 1 0 (put 2 t 0x10000003) = 3 := fld_put_below (by decide) (by decide) f14
  have f16 : fld 1 0 (put 5 b (put 2 t 0x10000003)) = 3 := fld_put_below (by decide) (by decide) f15
  have f17 : fld 1 0 (put 12 a (put 5 b (put 2 t 0x10000003))) = 3 := fld_put_below (by decide) (by decide) f16
  have f18 : fld 18 12 (put 12 a (put 5 b (put 2 t 0x10000003))) = a.toNat := fld_put_eq rfl f5
  have f19 : fld 11 5 (put 5 b (put 2 t 0x10000003)) = b.toNat := fld_put_eq rfl f2
  have f20 : fld 11 5 (put 12 a (put 5 b (put 2 t 0x10000003))) = b.toNat := fld_put_below (by decide) (by decide) f19
  have f21 : fld 4 2 (put 2 t 0x10000003) = t.toNat := fld_put_eq rfl f0
  have f22 : fld 4 2 (put 5 b (put 2 t 0x10000003)) = t.toNat := fld_put_below (by decide) (by decide) f21
  have f23 : fld 4 2 (put 12 a (put 5 b (put 2 t 0x10000003))) = t.toNat := fld_put_below (by decide) (by decide) f22
  have h0 : fld 31 26 (put 19 d (put 12 a (put 5 b (put 2 t 0x10000003)))) = 4 := fld_put_above (by decide) (by decide) f9 f13
  have h1 : fld 1 0 (put 19 d (put 12 a (put 5 b (put 2 t 0x10000003)))) = 3 := fld_put_below (by decide) (by decide) f17
  have h2 : BitVec.ofNat 7 (fld 25 19 (put 19 d (put 12 a (put 5 b (put 2 t 0x10000003))))) = d := ofNat_fld (fld_put_eq rfl f9)
  have h3 : BitVec.ofNat 7 (fld 18 12 (put 19 d (put 12 a (put 5 b (put 2 t 0x10000003))))) = a := ofNat_fld (fld_put_below (by decide) (by decide) f18)
  have h4 : BitVec.ofNat 7 (fld 11 5 (put 19 d (put 12 a (put 5 b (put 2 t 0x10000003))))) = b := ofNat_fld (fld_put_below (by decide) (by decide) f20)
  have h5 : BitVec.ofNat 3 (fld 4 2 (put 19 d (put 12 a (put 5 b (put 2 t 0x10000003))))) = t := ofNat_fld (fld_put_below (by decide) (by decide) f23)
  rw [decodeWord_04 h0]
  simp [decodeOp04, h1, h2, h3, h4, h5]

theorem Sys2Proof.Laws.Encodes.shl (d : BitVec 7) (a : BitVec 7) (b : BitVec 7) (t : BitVec 2) :
    Sys2Proof.Laws.Encodes.Statement (.shl d a b t) := by
  rintro w ⟨⟩
  have f0 : fld 3 2 0x14000000 = 0 := rfl
  have f1 : fld 11 5 0x14000000 = 0 := rfl
  have f2 : fld 11 5 (put 2 t 0x14000000) = 0 := fld_put_above (by decide) (by decide) f0 f1
  have f3 : fld 18 12 0x14000000 = 0 := rfl
  have f4 : fld 18 12 (put 2 t 0x14000000) = 0 := fld_put_above (by decide) (by decide) f0 f3
  have f5 : fld 18 12 (put 5 b (put 2 t 0x14000000)) = 0 := fld_put_above (by decide) (by decide) f2 f4
  have f6 : fld 25 19 0x14000000 = 0 := rfl
  have f7 : fld 25 19 (put 2 t 0x14000000) = 0 := fld_put_above (by decide) (by decide) f0 f6
  have f8 : fld 25 19 (put 5 b (put 2 t 0x14000000)) = 0 := fld_put_above (by decide) (by decide) f2 f7
  have f9 : fld 25 19 (put 12 a (put 5 b (put 2 t 0x14000000))) = 0 := fld_put_above (by decide) (by decide) f5 f8
  have f10 : fld 31 26 0x14000000 = 5 := rfl
  have f11 : fld 31 26 (put 2 t 0x14000000) = 5 := fld_put_above (by decide) (by decide) f0 f10
  have f12 : fld 31 26 (put 5 b (put 2 t 0x14000000)) = 5 := fld_put_above (by decide) (by decide) f2 f11
  have f13 : fld 31 26 (put 12 a (put 5 b (put 2 t 0x14000000))) = 5 := fld_put_above (by decide) (by decide) f5 f12
  have f14 : fld 1 0 0x14000000 = 0 := rfl
  have f15 : fld 1 0 (put 2 t 0x14000000) = 0 := fld_put_below (by decide) (by decide) f14
  have f16 : fld 1 0 (put 5 b (put 2 t 0x14000000)) = 0 := fld_put_below (by decide) (by decide) f15
  have f17 : fld 1 0 (put 12 a (put 5 b (put 2 t 0x14000000))) = 0 := fld_put_below (by decide) (by decide) f16
  have f18 : fld 4 4 0x14000000 = 0 := rfl
  have f19 : fld 4 4 (put 2 t 0x14000000) = 0 := fld_put_above (by decide) (by decide) f0 f18
  have f20 : fld 4 4 (put 5 b (put 2 t 0x14000000)) = 0 := fld_put_below (by decide) (by decide) f19
  have f21 : fld 4 4 (put 12 a (put 5 b (put 2 t 0x14000000))) = 0 := fld_put_below (by decide) (by decide) f20
  have f22 : fld 18 12 (put 12 a (put 5 b (put 2 t 0x14000000))) = a.toNat := fld_put_eq rfl f5
  have f23 : fld 11 5 (put 5 b (put 2 t 0x14000000)) = b.toNat := fld_put_eq rfl f2
  have f24 : fld 11 5 (put 12 a (put 5 b (put 2 t 0x14000000))) = b.toNat := fld_put_below (by decide) (by decide) f23
  have f25 : fld 3 2 (put 2 t 0x14000000) = t.toNat := fld_put_eq rfl f0
  have f26 : fld 3 2 (put 5 b (put 2 t 0x14000000)) = t.toNat := fld_put_below (by decide) (by decide) f25
  have f27 : fld 3 2 (put 12 a (put 5 b (put 2 t 0x14000000))) = t.toNat := fld_put_below (by decide) (by decide) f26
  have h0 : fld 31 26 (put 19 d (put 12 a (put 5 b (put 2 t 0x14000000)))) = 5 := fld_put_above (by decide) (by decide) f9 f13
  have h1 : fld 1 0 (put 19 d (put 12 a (put 5 b (put 2 t 0x14000000)))) = 0 := fld_put_below (by decide) (by decide) f17
  have h2 : fld 4 4 (put 19 d (put 12 a (put 5 b (put 2 t 0x14000000)))) = 0 := fld_put_below (by decide) (by decide) f21
  have h3 : BitVec.ofNat 7 (fld 25 19 (put 19 d (put 12 a (put 5 b (put 2 t 0x14000000))))) = d := ofNat_fld (fld_put_eq rfl f9)
  have h4 : BitVec.ofNat 7 (fld 18 12 (put 19 d (put 12 a (put 5 b (put 2 t 0x14000000))))) = a := ofNat_fld (fld_put_below (by decide) (by decide) f22)
  have h5 : BitVec.ofNat 7 (fld 11 5 (put 19 d (put 12 a (put 5 b (put 2 t 0x14000000))))) = b := ofNat_fld (fld_put_below (by decide) (by decide) f24)
  have h6 : BitVec.ofNat 2 (fld 3 2 (put 19 d (put 12 a (put 5 b (put 2 t 0x14000000))))) = t := ofNat_fld (fld_put_below (by decide) (by decide) f27)
  rw [decodeWord_05 h0]
  simp [decodeOp05, h1, h2, h3, h4, h5, h6]

theorem Sys2Proof.Laws.Encodes.shr (d : BitVec 7) (a : BitVec 7) (b : BitVec 7) (t : BitVec 2) :
    Sys2Proof.Laws.Encodes.Statement (.shr d a b t) := by
  rintro w ⟨⟩
  have f0 : fld 3 2 0x14000001 = 0 := rfl
  have f1 : fld 11 5 0x14000001 = 0 := rfl
  have f2 : fld 11 5 (put 2 t 0x14000001) = 0 := fld_put_above (by decide) (by decide) f0 f1
  have f3 : fld 18 12 0x14000001 = 0 := rfl
  have f4 : fld 18 12 (put 2 t 0x14000001) = 0 := fld_put_above (by decide) (by decide) f0 f3
  have f5 : fld 18 12 (put 5 b (put 2 t 0x14000001)) = 0 := fld_put_above (by decide) (by decide) f2 f4
  have f6 : fld 25 19 0x14000001 = 0 := rfl
  have f7 : fld 25 19 (put 2 t 0x14000001) = 0 := fld_put_above (by decide) (by decide) f0 f6
  have f8 : fld 25 19 (put 5 b (put 2 t 0x14000001)) = 0 := fld_put_above (by decide) (by decide) f2 f7
  have f9 : fld 25 19 (put 12 a (put 5 b (put 2 t 0x14000001))) = 0 := fld_put_above (by decide) (by decide) f5 f8
  have f10 : fld 31 26 0x14000001 = 5 := rfl
  have f11 : fld 31 26 (put 2 t 0x14000001) = 5 := fld_put_above (by decide) (by decide) f0 f10
  have f12 : fld 31 26 (put 5 b (put 2 t 0x14000001)) = 5 := fld_put_above (by decide) (by decide) f2 f11
  have f13 : fld 31 26 (put 12 a (put 5 b (put 2 t 0x14000001))) = 5 := fld_put_above (by decide) (by decide) f5 f12
  have f14 : fld 1 0 0x14000001 = 1 := rfl
  have f15 : fld 1 0 (put 2 t 0x14000001) = 1 := fld_put_below (by decide) (by decide) f14
  have f16 : fld 1 0 (put 5 b (put 2 t 0x14000001)) = 1 := fld_put_below (by decide) (by decide) f15
  have f17 : fld 1 0 (put 12 a (put 5 b (put 2 t 0x14000001))) = 1 := fld_put_below (by decide) (by decide) f16
  have f18 : fld 4 4 0x14000001 = 0 := rfl
  have f19 : fld 4 4 (put 2 t 0x14000001) = 0 := fld_put_above (by decide) (by decide) f0 f18
  have f20 : fld 4 4 (put 5 b (put 2 t 0x14000001)) = 0 := fld_put_below (by decide) (by decide) f19
  have f21 : fld 4 4 (put 12 a (put 5 b (put 2 t 0x14000001))) = 0 := fld_put_below (by decide) (by decide) f20
  have f22 : fld 18 12 (put 12 a (put 5 b (put 2 t 0x14000001))) = a.toNat := fld_put_eq rfl f5
  have f23 : fld 11 5 (put 5 b (put 2 t 0x14000001)) = b.toNat := fld_put_eq rfl f2
  have f24 : fld 11 5 (put 12 a (put 5 b (put 2 t 0x14000001))) = b.toNat := fld_put_below (by decide) (by decide) f23
  have f25 : fld 3 2 (put 2 t 0x14000001) = t.toNat := fld_put_eq rfl f0
  have f26 : fld 3 2 (put 5 b (put 2 t 0x14000001)) = t.toNat := fld_put_below (by decide) (by decide) f25
  have f27 : fld 3 2 (put 12 a (put 5 b (put 2 t 0x14000001))) = t.toNat := fld_put_below (by decide) (by decide) f26
  have h0 : fld 31 26 (put 19 d (put 12 a (put 5 b (put 2 t 0x14000001)))) = 5 := fld_put_above (by decide) (by decide) f9 f13
  have h1 : fld 1 0 (put 19 d (put 12 a (put 5 b (put 2 t 0x14000001)))) = 1 := fld_put_below (by decide) (by decide) f17
  have h2 : fld 4 4 (put 19 d (put 12 a (put 5 b (put 2 t 0x14000001)))) = 0 := fld_put_below (by decide) (by decide) f21
  have h3 : BitVec.ofNat 7 (fld 25 19 (put 19 d (put 12 a (put 5 b (put 2 t 0x14000001))))) = d := ofNat_fld (fld_put_eq rfl f9)
  have h4 : BitVec.ofNat 7 (fld 18 12 (put 19 d (put 12 a (put 5 b (put 2 t 0x14000001))))) = a := ofNat_fld (fld_put_below (by decide) (by decide) f22)
  have h5 : BitVec.ofNat 7 (fld 11 5 (put 19 d (put 12 a (put 5 b (put 2 t 0x14000001))))) = b := ofNat_fld (fld_put_below (by decide) (by decide) f24)
  have h6 : BitVec.ofNat 2 (fld 3 2 (put 19 d (put 12 a (put 5 b (put 2 t 0x14000001))))) = t := ofNat_fld (fld_put_below (by decide) (by decide) f27)
  rw [decodeWord_05 h0]
  simp [decodeOp05, h1, h2, h3, h4, h5, h6]

theorem Sys2Proof.Laws.Encodes.sar (d : BitVec 7) (a : BitVec 7) (b : BitVec 7) (t : BitVec 2) :
    Sys2Proof.Laws.Encodes.Statement (.sar d a b t) := by
  rintro w ⟨⟩
  have f0 : fld 3 2 0x14000002 = 0 := rfl
  have f1 : fld 11 5 0x14000002 = 0 := rfl
  have f2 : fld 11 5 (put 2 t 0x14000002) = 0 := fld_put_above (by decide) (by decide) f0 f1
  have f3 : fld 18 12 0x14000002 = 0 := rfl
  have f4 : fld 18 12 (put 2 t 0x14000002) = 0 := fld_put_above (by decide) (by decide) f0 f3
  have f5 : fld 18 12 (put 5 b (put 2 t 0x14000002)) = 0 := fld_put_above (by decide) (by decide) f2 f4
  have f6 : fld 25 19 0x14000002 = 0 := rfl
  have f7 : fld 25 19 (put 2 t 0x14000002) = 0 := fld_put_above (by decide) (by decide) f0 f6
  have f8 : fld 25 19 (put 5 b (put 2 t 0x14000002)) = 0 := fld_put_above (by decide) (by decide) f2 f7
  have f9 : fld 25 19 (put 12 a (put 5 b (put 2 t 0x14000002))) = 0 := fld_put_above (by decide) (by decide) f5 f8
  have f10 : fld 31 26 0x14000002 = 5 := rfl
  have f11 : fld 31 26 (put 2 t 0x14000002) = 5 := fld_put_above (by decide) (by decide) f0 f10
  have f12 : fld 31 26 (put 5 b (put 2 t 0x14000002)) = 5 := fld_put_above (by decide) (by decide) f2 f11
  have f13 : fld 31 26 (put 12 a (put 5 b (put 2 t 0x14000002))) = 5 := fld_put_above (by decide) (by decide) f5 f12
  have f14 : fld 1 0 0x14000002 = 2 := rfl
  have f15 : fld 1 0 (put 2 t 0x14000002) = 2 := fld_put_below (by decide) (by decide) f14
  have f16 : fld 1 0 (put 5 b (put 2 t 0x14000002)) = 2 := fld_put_below (by decide) (by decide) f15
  have f17 : fld 1 0 (put 12 a (put 5 b (put 2 t 0x14000002))) = 2 := fld_put_below (by decide) (by decide) f16
  have f18 : fld 4 4 0x14000002 = 0 := rfl
  have f19 : fld 4 4 (put 2 t 0x14000002) = 0 := fld_put_above (by decide) (by decide) f0 f18
  have f20 : fld 4 4 (put 5 b (put 2 t 0x14000002)) = 0 := fld_put_below (by decide) (by decide) f19
  have f21 : fld 4 4 (put 12 a (put 5 b (put 2 t 0x14000002))) = 0 := fld_put_below (by decide) (by decide) f20
  have f22 : fld 18 12 (put 12 a (put 5 b (put 2 t 0x14000002))) = a.toNat := fld_put_eq rfl f5
  have f23 : fld 11 5 (put 5 b (put 2 t 0x14000002)) = b.toNat := fld_put_eq rfl f2
  have f24 : fld 11 5 (put 12 a (put 5 b (put 2 t 0x14000002))) = b.toNat := fld_put_below (by decide) (by decide) f23
  have f25 : fld 3 2 (put 2 t 0x14000002) = t.toNat := fld_put_eq rfl f0
  have f26 : fld 3 2 (put 5 b (put 2 t 0x14000002)) = t.toNat := fld_put_below (by decide) (by decide) f25
  have f27 : fld 3 2 (put 12 a (put 5 b (put 2 t 0x14000002))) = t.toNat := fld_put_below (by decide) (by decide) f26
  have h0 : fld 31 26 (put 19 d (put 12 a (put 5 b (put 2 t 0x14000002)))) = 5 := fld_put_above (by decide) (by decide) f9 f13
  have h1 : fld 1 0 (put 19 d (put 12 a (put 5 b (put 2 t 0x14000002)))) = 2 := fld_put_below (by decide) (by decide) f17
  have h2 : fld 4 4 (put 19 d (put 12 a (put 5 b (put 2 t 0x14000002)))) = 0 := fld_put_below (by decide) (by decide) f21
  have h3 : BitVec.ofNat 7 (fld 25 19 (put 19 d (put 12 a (put 5 b (put 2 t 0x14000002))))) = d := ofNat_fld (fld_put_eq rfl f9)
  have h4 : BitVec.ofNat 7 (fld 18 12 (put 19 d (put 12 a (put 5 b (put 2 t 0x14000002))))) = a := ofNat_fld (fld_put_below (by decide) (by decide) f22)
  have h5 : BitVec.ofNat 7 (fld 11 5 (put 19 d (put 12 a (put 5 b (put 2 t 0x14000002))))) = b := ofNat_fld (fld_put_below (by decide) (by decide) f24)
  have h6 : BitVec.ofNat 2 (fld 3 2 (put 19 d (put 12 a (put 5 b (put 2 t 0x14000002))))) = t := ofNat_fld (fld_put_below (by decide) (by decide) f27)
  rw [decodeWord_05 h0]
  simp [decodeOp05, h1, h2, h3, h4, h5, h6]

theorem Sys2Proof.Laws.Encodes.rot (d : BitVec 7) (a : BitVec 7) (b : BitVec 7) (t : BitVec 2) :
    Sys2Proof.Laws.Encodes.Statement (.rot d a b t) := by
  rintro w ⟨⟩
  have f0 : fld 3 2 0x14000003 = 0 := rfl
  have f1 : fld 11 5 0x14000003 = 0 := rfl
  have f2 : fld 11 5 (put 2 t 0x14000003) = 0 := fld_put_above (by decide) (by decide) f0 f1
  have f3 : fld 18 12 0x14000003 = 0 := rfl
  have f4 : fld 18 12 (put 2 t 0x14000003) = 0 := fld_put_above (by decide) (by decide) f0 f3
  have f5 : fld 18 12 (put 5 b (put 2 t 0x14000003)) = 0 := fld_put_above (by decide) (by decide) f2 f4
  have f6 : fld 25 19 0x14000003 = 0 := rfl
  have f7 : fld 25 19 (put 2 t 0x14000003) = 0 := fld_put_above (by decide) (by decide) f0 f6
  have f8 : fld 25 19 (put 5 b (put 2 t 0x14000003)) = 0 := fld_put_above (by decide) (by decide) f2 f7
  have f9 : fld 25 19 (put 12 a (put 5 b (put 2 t 0x14000003))) = 0 := fld_put_above (by decide) (by decide) f5 f8
  have f10 : fld 31 26 0x14000003 = 5 := rfl
  have f11 : fld 31 26 (put 2 t 0x14000003) = 5 := fld_put_above (by decide) (by decide) f0 f10
  have f12 : fld 31 26 (put 5 b (put 2 t 0x14000003)) = 5 := fld_put_above (by decide) (by decide) f2 f11
  have f13 : fld 31 26 (put 12 a (put 5 b (put 2 t 0x14000003))) = 5 := fld_put_above (by decide) (by decide) f5 f12
  have f14 : fld 1 0 0x14000003 = 3 := rfl
  have f15 : fld 1 0 (put 2 t 0x14000003) = 3 := fld_put_below (by decide) (by decide) f14
  have f16 : fld 1 0 (put 5 b (put 2 t 0x14000003)) = 3 := fld_put_below (by decide) (by decide) f15
  have f17 : fld 1 0 (put 12 a (put 5 b (put 2 t 0x14000003))) = 3 := fld_put_below (by decide) (by decide) f16
  have f18 : fld 4 4 0x14000003 = 0 := rfl
  have f19 : fld 4 4 (put 2 t 0x14000003) = 0 := fld_put_above (by decide) (by decide) f0 f18
  have f20 : fld 4 4 (put 5 b (put 2 t 0x14000003)) = 0 := fld_put_below (by decide) (by decide) f19
  have f21 : fld 4 4 (put 12 a (put 5 b (put 2 t 0x14000003))) = 0 := fld_put_below (by decide) (by decide) f20
  have f22 : fld 18 12 (put 12 a (put 5 b (put 2 t 0x14000003))) = a.toNat := fld_put_eq rfl f5
  have f23 : fld 11 5 (put 5 b (put 2 t 0x14000003)) = b.toNat := fld_put_eq rfl f2
  have f24 : fld 11 5 (put 12 a (put 5 b (put 2 t 0x14000003))) = b.toNat := fld_put_below (by decide) (by decide) f23
  have f25 : fld 3 2 (put 2 t 0x14000003) = t.toNat := fld_put_eq rfl f0
  have f26 : fld 3 2 (put 5 b (put 2 t 0x14000003)) = t.toNat := fld_put_below (by decide) (by decide) f25
  have f27 : fld 3 2 (put 12 a (put 5 b (put 2 t 0x14000003))) = t.toNat := fld_put_below (by decide) (by decide) f26
  have h0 : fld 31 26 (put 19 d (put 12 a (put 5 b (put 2 t 0x14000003)))) = 5 := fld_put_above (by decide) (by decide) f9 f13
  have h1 : fld 1 0 (put 19 d (put 12 a (put 5 b (put 2 t 0x14000003)))) = 3 := fld_put_below (by decide) (by decide) f17
  have h2 : fld 4 4 (put 19 d (put 12 a (put 5 b (put 2 t 0x14000003)))) = 0 := fld_put_below (by decide) (by decide) f21
  have h3 : BitVec.ofNat 7 (fld 25 19 (put 19 d (put 12 a (put 5 b (put 2 t 0x14000003))))) = d := ofNat_fld (fld_put_eq rfl f9)
  have h4 : BitVec.ofNat 7 (fld 18 12 (put 19 d (put 12 a (put 5 b (put 2 t 0x14000003))))) = a := ofNat_fld (fld_put_below (by decide) (by decide) f22)
  have h5 : BitVec.ofNat 7 (fld 11 5 (put 19 d (put 12 a (put 5 b (put 2 t 0x14000003))))) = b := ofNat_fld (fld_put_below (by decide) (by decide) f24)
  have h6 : BitVec.ofNat 2 (fld 3 2 (put 19 d (put 12 a (put 5 b (put 2 t 0x14000003))))) = t := ofNat_fld (fld_put_below (by decide) (by decide) f27)
  rw [decodeWord_05 h0]
  simp [decodeOp05, h1, h2, h3, h4, h5, h6]

theorem Sys2Proof.Laws.Encodes.bfx (d : BitVec 7) (a : BitVec 7) (b : BitVec 7) (t : BitVec 2) :
    Sys2Proof.Laws.Encodes.Statement (.bfx d a b t) := by
  rintro w ⟨⟩
  have f0 : fld 3 2 0x18000000 = 0 := rfl
  have f1 : fld 11 5 0x18000000 = 0 := rfl
  have f2 : fld 11 5 (put 2 t 0x18000000) = 0 := fld_put_above (by decide) (by decide) f0 f1
  have f3 : fld 18 12 0x18000000 = 0 := rfl
  have f4 : fld 18 12 (put 2 t 0x18000000) = 0 := fld_put_above (by decide) (by decide) f0 f3
  have f5 : fld 18 12 (put 5 b (put 2 t 0x18000000)) = 0 := fld_put_above (by decide) (by decide) f2 f4
  have f6 : fld 25 19 0x18000000 = 0 := rfl
  have f7 : fld 25 19 (put 2 t 0x18000000) = 0 := fld_put_above (by decide) (by decide) f0 f6
  have f8 : fld 25 19 (put 5 b (put 2 t 0x18000000)) = 0 := fld_put_above (by decide) (by decide) f2 f7
  have f9 : fld 25 19 (put 12 a (put 5 b (put 2 t 0x18000000))) = 0 := fld_put_above (by decide) (by decide) f5 f8
  have f10 : fld 31 26 0x18000000 = 6 := rfl
  have f11 : fld 31 26 (put 2 t 0x18000000) = 6 := fld_put_above (by decide) (by decide) f0 f10
  have f12 : fld 31 26 (put 5 b (put 2 t 0x18000000)) = 6 := fld_put_above (by decide) (by decide) f2 f11
  have f13 : fld 31 26 (put 12 a (put 5 b (put 2 t 0x18000000))) = 6 := fld_put_above (by decide) (by decide) f5 f12
  have f14 : fld 1 0 0x18000000 = 0 := rfl
  have f15 : fld 1 0 (put 2 t 0x18000000) = 0 := fld_put_below (by decide) (by decide) f14
  have f16 : fld 1 0 (put 5 b (put 2 t 0x18000000)) = 0 := fld_put_below (by decide) (by decide) f15
  have f17 : fld 1 0 (put 12 a (put 5 b (put 2 t 0x18000000))) = 0 := fld_put_below (by decide) (by decide) f16
  have f18 : fld 4 4 0x18000000 = 0 := rfl
  have f19 : fld 4 4 (put 2 t 0x18000000) = 0 := fld_put_above (by decide) (by decide) f0 f18
  have f20 : fld 4 4 (put 5 b (put 2 t 0x18000000)) = 0 := fld_put_below (by decide) (by decide) f19
  have f21 : fld 4 4 (put 12 a (put 5 b (put 2 t 0x18000000))) = 0 := fld_put_below (by decide) (by decide) f20
  have f22 : fld 18 12 (put 12 a (put 5 b (put 2 t 0x18000000))) = a.toNat := fld_put_eq rfl f5
  have f23 : fld 11 5 (put 5 b (put 2 t 0x18000000)) = b.toNat := fld_put_eq rfl f2
  have f24 : fld 11 5 (put 12 a (put 5 b (put 2 t 0x18000000))) = b.toNat := fld_put_below (by decide) (by decide) f23
  have f25 : fld 3 2 (put 2 t 0x18000000) = t.toNat := fld_put_eq rfl f0
  have f26 : fld 3 2 (put 5 b (put 2 t 0x18000000)) = t.toNat := fld_put_below (by decide) (by decide) f25
  have f27 : fld 3 2 (put 12 a (put 5 b (put 2 t 0x18000000))) = t.toNat := fld_put_below (by decide) (by decide) f26
  have h0 : fld 31 26 (put 19 d (put 12 a (put 5 b (put 2 t 0x18000000)))) = 6 := fld_put_above (by decide) (by decide) f9 f13
  have h1 : fld 1 0 (put 19 d (put 12 a (put 5 b (put 2 t 0x18000000)))) = 0 := fld_put_below (by decide) (by decide) f17
  have h2 : fld 4 4 (put 19 d (put 12 a (put 5 b (put 2 t 0x18000000)))) = 0 := fld_put_below (by decide) (by decide) f21
  have h3 : BitVec.ofNat 7 (fld 25 19 (put 19 d (put 12 a (put 5 b (put 2 t 0x18000000))))) = d := ofNat_fld (fld_put_eq rfl f9)
  have h4 : BitVec.ofNat 7 (fld 18 12 (put 19 d (put 12 a (put 5 b (put 2 t 0x18000000))))) = a := ofNat_fld (fld_put_below (by decide) (by decide) f22)
  have h5 : BitVec.ofNat 7 (fld 11 5 (put 19 d (put 12 a (put 5 b (put 2 t 0x18000000))))) = b := ofNat_fld (fld_put_below (by decide) (by decide) f24)
  have h6 : BitVec.ofNat 2 (fld 3 2 (put 19 d (put 12 a (put 5 b (put 2 t 0x18000000))))) = t := ofNat_fld (fld_put_below (by decide) (by decide) f27)
  rw [decodeWord_06 h0]
  simp [decodeOp06, h1, h2, h3, h4, h5, h6]

theorem Sys2Proof.Laws.Encodes.bfxu (d : BitVec 7) (a : BitVec 7) (b : BitVec 7) (t : BitVec 2) :
    Sys2Proof.Laws.Encodes.Statement (.bfxu d a b t) := by
  rintro w ⟨⟩
  have f0 : fld 3 2 0x18000001 = 0 := rfl
  have f1 : fld 11 5 0x18000001 = 0 := rfl
  have f2 : fld 11 5 (put 2 t 0x18000001) = 0 := fld_put_above (by decide) (by decide) f0 f1
  have f3 : fld 18 12 0x18000001 = 0 := rfl
  have f4 : fld 18 12 (put 2 t 0x18000001) = 0 := fld_put_above (by decide) (by decide) f0 f3
  have f5 : fld 18 12 (put 5 b (put 2 t 0x18000001)) = 0 := fld_put_above (by decide) (by decide) f2 f4
  have f6 : fld 25 19 0x18000001 = 0 := rfl
  have f7 : fld 25 19 (put 2 t 0x18000001) = 0 := fld_put_above (by decide) (by decide) f0 f6
  have f8 : fld 25 19 (put 5 b (put 2 t 0x18000001)) = 0 := fld_put_above (by decide) (by decide) f2 f7
  have f9 : fld 25 19 (put 12 a (put 5 b (put 2 t 0x18000001))) = 0 := fld_put_above (by decide) (by decide) f5 f8
  have f10 : fld 31 26 0x18000001 = 6 := rfl
  have f11 : fld 31 26 (put 2 t 0x18000001) = 6 := fld_put_above (by decide) (by decide) f0 f10
  have f12 : fld 31 26 (put 5 b (put 2 t 0x18000001)) = 6 := fld_put_above (by decide) (by decide) f2 f11
  have f13 : fld 31 26 (put 12 a (put 5 b (put 2 t 0x18000001))) = 6 := fld_put_above (by decide) (by decide) f5 f12
  have f14 : fld 1 0 0x18000001 = 1 := rfl
  have f15 : fld 1 0 (put 2 t 0x18000001) = 1 := fld_put_below (by decide) (by decide) f14
  have f16 : fld 1 0 (put 5 b (put 2 t 0x18000001)) = 1 := fld_put_below (by decide) (by decide) f15
  have f17 : fld 1 0 (put 12 a (put 5 b (put 2 t 0x18000001))) = 1 := fld_put_below (by decide) (by decide) f16
  have f18 : fld 4 4 0x18000001 = 0 := rfl
  have f19 : fld 4 4 (put 2 t 0x18000001) = 0 := fld_put_above (by decide) (by decide) f0 f18
  have f20 : fld 4 4 (put 5 b (put 2 t 0x18000001)) = 0 := fld_put_below (by decide) (by decide) f19
  have f21 : fld 4 4 (put 12 a (put 5 b (put 2 t 0x18000001))) = 0 := fld_put_below (by decide) (by decide) f20
  have f22 : fld 18 12 (put 12 a (put 5 b (put 2 t 0x18000001))) = a.toNat := fld_put_eq rfl f5
  have f23 : fld 11 5 (put 5 b (put 2 t 0x18000001)) = b.toNat := fld_put_eq rfl f2
  have f24 : fld 11 5 (put 12 a (put 5 b (put 2 t 0x18000001))) = b.toNat := fld_put_below (by decide) (by decide) f23
  have f25 : fld 3 2 (put 2 t 0x18000001) = t.toNat := fld_put_eq rfl f0
  have f26 : fld 3 2 (put 5 b (put 2 t 0x18000001)) = t.toNat := fld_put_below (by decide) (by decide) f25
  have f27 : fld 3 2 (put 12 a (put 5 b (put 2 t 0x18000001))) = t.toNat := fld_put_below (by decide) (by decide) f26
  have h0 : fld 31 26 (put 19 d (put 12 a (put 5 b (put 2 t 0x18000001)))) = 6 := fld_put_above (by decide) (by decide) f9 f13
  have h1 : fld 1 0 (put 19 d (put 12 a (put 5 b (put 2 t 0x18000001)))) = 1 := fld_put_below (by decide) (by decide) f17
  have h2 : fld 4 4 (put 19 d (put 12 a (put 5 b (put 2 t 0x18000001)))) = 0 := fld_put_below (by decide) (by decide) f21
  have h3 : BitVec.ofNat 7 (fld 25 19 (put 19 d (put 12 a (put 5 b (put 2 t 0x18000001))))) = d := ofNat_fld (fld_put_eq rfl f9)
  have h4 : BitVec.ofNat 7 (fld 18 12 (put 19 d (put 12 a (put 5 b (put 2 t 0x18000001))))) = a := ofNat_fld (fld_put_below (by decide) (by decide) f22)
  have h5 : BitVec.ofNat 7 (fld 11 5 (put 19 d (put 12 a (put 5 b (put 2 t 0x18000001))))) = b := ofNat_fld (fld_put_below (by decide) (by decide) f24)
  have h6 : BitVec.ofNat 2 (fld 3 2 (put 19 d (put 12 a (put 5 b (put 2 t 0x18000001))))) = t := ofNat_fld (fld_put_below (by decide) (by decide) f27)
  rw [decodeWord_06 h0]
  simp [decodeOp06, h1, h2, h3, h4, h5, h6]

theorem Sys2Proof.Laws.Encodes.bfi (d : BitVec 7) (a : BitVec 7) (b : BitVec 7) (t : BitVec 2) :
    Sys2Proof.Laws.Encodes.Statement (.bfi d a b t) := by
  rintro w ⟨⟩
  have f0 : fld 3 2 0x18000002 = 0 := rfl
  have f1 : fld 11 5 0x18000002 = 0 := rfl
  have f2 : fld 11 5 (put 2 t 0x18000002) = 0 := fld_put_above (by decide) (by decide) f0 f1
  have f3 : fld 18 12 0x18000002 = 0 := rfl
  have f4 : fld 18 12 (put 2 t 0x18000002) = 0 := fld_put_above (by decide) (by decide) f0 f3
  have f5 : fld 18 12 (put 5 b (put 2 t 0x18000002)) = 0 := fld_put_above (by decide) (by decide) f2 f4
  have f6 : fld 25 19 0x18000002 = 0 := rfl
  have f7 : fld 25 19 (put 2 t 0x18000002) = 0 := fld_put_above (by decide) (by decide) f0 f6
  have f8 : fld 25 19 (put 5 b (put 2 t 0x18000002)) = 0 := fld_put_above (by decide) (by decide) f2 f7
  have f9 : fld 25 19 (put 12 a (put 5 b (put 2 t 0x18000002))) = 0 := fld_put_above (by decide) (by decide) f5 f8
  have f10 : fld 31 26 0x18000002 = 6 := rfl
  have f11 : fld 31 26 (put 2 t 0x18000002) = 6 := fld_put_above (by decide) (by decide) f0 f10
  have f12 : fld 31 26 (put 5 b (put 2 t 0x18000002)) = 6 := fld_put_above (by decide) (by decide) f2 f11
  have f13 : fld 31 26 (put 12 a (put 5 b (put 2 t 0x18000002))) = 6 := fld_put_above (by decide) (by decide) f5 f12
  have f14 : fld 1 0 0x18000002 = 2 := rfl
  have f15 : fld 1 0 (put 2 t 0x18000002) = 2 := fld_put_below (by decide) (by decide) f14
  have f16 : fld 1 0 (put 5 b (put 2 t 0x18000002)) = 2 := fld_put_below (by decide) (by decide) f15
  have f17 : fld 1 0 (put 12 a (put 5 b (put 2 t 0x18000002))) = 2 := fld_put_below (by decide) (by decide) f16
  have f18 : fld 4 4 0x18000002 = 0 := rfl
  have f19 : fld 4 4 (put 2 t 0x18000002) = 0 := fld_put_above (by decide) (by decide) f0 f18
  have f20 : fld 4 4 (put 5 b (put 2 t 0x18000002)) = 0 := fld_put_below (by decide) (by decide) f19
  have f21 : fld 4 4 (put 12 a (put 5 b (put 2 t 0x18000002))) = 0 := fld_put_below (by decide) (by decide) f20
  have f22 : fld 18 12 (put 12 a (put 5 b (put 2 t 0x18000002))) = a.toNat := fld_put_eq rfl f5
  have f23 : fld 11 5 (put 5 b (put 2 t 0x18000002)) = b.toNat := fld_put_eq rfl f2
  have f24 : fld 11 5 (put 12 a (put 5 b (put 2 t 0x18000002))) = b.toNat := fld_put_below (by decide) (by decide) f23
  have f25 : fld 3 2 (put 2 t 0x18000002) = t.toNat := fld_put_eq rfl f0
  have f26 : fld 3 2 (put 5 b (put 2 t 0x18000002)) = t.toNat := fld_put_below (by decide) (by decide) f25
  have f27 : fld 3 2 (put 12 a (put 5 b (put 2 t 0x18000002))) = t.toNat := fld_put_below (by decide) (by decide) f26
  have h0 : fld 31 26 (put 19 d (put 12 a (put 5 b (put 2 t 0x18000002)))) = 6 := fld_put_above (by decide) (by decide) f9 f13
  have h1 : fld 1 0 (put 19 d (put 12 a (put 5 b (put 2 t 0x18000002)))) = 2 := fld_put_below (by decide) (by decide) f17
  have h2 : fld 4 4 (put 19 d (put 12 a (put 5 b (put 2 t 0x18000002)))) = 0 := fld_put_below (by decide) (by decide) f21
  have h3 : BitVec.ofNat 7 (fld 25 19 (put 19 d (put 12 a (put 5 b (put 2 t 0x18000002))))) = d := ofNat_fld (fld_put_eq rfl f9)
  have h4 : BitVec.ofNat 7 (fld 18 12 (put 19 d (put 12 a (put 5 b (put 2 t 0x18000002))))) = a := ofNat_fld (fld_put_below (by decide) (by decide) f22)
  have h5 : BitVec.ofNat 7 (fld 11 5 (put 19 d (put 12 a (put 5 b (put 2 t 0x18000002))))) = b := ofNat_fld (fld_put_below (by decide) (by decide) f24)
  have h6 : BitVec.ofNat 2 (fld 3 2 (put 19 d (put 12 a (put 5 b (put 2 t 0x18000002))))) = t := ofNat_fld (fld_put_below (by decide) (by decide) f27)
  rw [decodeWord_06 h0]
  simp [decodeOp06, h1, h2, h3, h4, h5, h6]

theorem Sys2Proof.Laws.Encodes.brev (d : BitVec 7) (a : BitVec 7) (t : BitVec 2) :
    Sys2Proof.Laws.Encodes.Statement (.brev d a t) := by
  rintro w ⟨⟩
  have f0 : fld 3 2 0x18000003 = 0 := rfl
  have f1 : fld 18 12 0x18000003 = 0 := rfl
  have f2 : fld 18 12 (put 2 t 0x18000003) = 0 := fld_put_above (by decide) (by decide) f0 f1
  have f3 : fld 25 19 0x18000003 = 0 := rfl
  have f4 : fld 25 19 (put 2 t 0x18000003) = 0 := fld_put_above (by decide) (by decide) f0 f3
  have f5 : fld 25 19 (put 12 a (put 2 t 0x18000003)) = 0 := fld_put_above (by decide) (by decide) f2 f4
  have f6 : fld 31 26 0x18000003 = 6 := rfl
  have f7 : fld 31 26 (put 2 t 0x18000003) = 6 := fld_put_above (by decide) (by decide) f0 f6
  have f8 : fld 31 26 (put 12 a (put 2 t 0x18000003)) = 6 := fld_put_above (by decide) (by decide) f2 f7
  have f9 : fld 1 0 0x18000003 = 3 := rfl
  have f10 : fld 1 0 (put 2 t 0x18000003) = 3 := fld_put_below (by decide) (by decide) f9
  have f11 : fld 1 0 (put 12 a (put 2 t 0x18000003)) = 3 := fld_put_below (by decide) (by decide) f10
  have f12 : fld 11 4 0x18000003 = 0 := rfl
  have f13 : fld 11 4 (put 2 t 0x18000003) = 0 := fld_put_above (by decide) (by decide) f0 f12
  have f14 : fld 11 4 (put 12 a (put 2 t 0x18000003)) = 0 := fld_put_below (by decide) (by decide) f13
  have f15 : fld 18 12 (put 12 a (put 2 t 0x18000003)) = a.toNat := fld_put_eq rfl f2
  have f16 : fld 3 2 (put 2 t 0x18000003) = t.toNat := fld_put_eq rfl f0
  have f17 : fld 3 2 (put 12 a (put 2 t 0x18000003)) = t.toNat := fld_put_below (by decide) (by decide) f16
  have h0 : fld 31 26 (put 19 d (put 12 a (put 2 t 0x18000003))) = 6 := fld_put_above (by decide) (by decide) f5 f8
  have h1 : fld 1 0 (put 19 d (put 12 a (put 2 t 0x18000003))) = 3 := fld_put_below (by decide) (by decide) f11
  have h3 : fld 11 4 (put 19 d (put 12 a (put 2 t 0x18000003))) = 0 := fld_put_below (by decide) (by decide) f14
  have h4 : BitVec.ofNat 7 (fld 25 19 (put 19 d (put 12 a (put 2 t 0x18000003)))) = d := ofNat_fld (fld_put_eq rfl f5)
  have h5 : BitVec.ofNat 7 (fld 18 12 (put 19 d (put 12 a (put 2 t 0x18000003)))) = a := ofNat_fld (fld_put_below (by decide) (by decide) f15)
  have h6 : BitVec.ofNat 2 (fld 3 2 (put 19 d (put 12 a (put 2 t 0x18000003)))) = t := ofNat_fld (fld_put_below (by decide) (by decide) f17)
  rw [decodeWord_06 h0]
  simp [decodeOp06, h1, h3, h4, h5, h6]

theorem Sys2Proof.Laws.Encodes.icmpSet (k : BitVec 4) (c : BitVec 3) (a : BitVec 7) (b : BitVec 7) (t : BitVec 2) :
    Sys2Proof.Laws.Encodes.Statement (.icmpSet k c a b t) := by
  rintro w ⟨⟩
  have f0 : fld 3 2 0x1C000000 = 0 := rfl
  have f1 : fld 11 5 0x1C000000 = 0 := rfl
  have f2 : fld 11 5 (put 2 t 0x1C000000) = 0 := fld_put_above (by decide) (by decide) f0 f1
  have f3 : fld 18 12 0x1C000000 = 0 := rfl
  have f4 : fld 18 12 (put 2 t 0x1C000000) = 0 := fld_put_above (by decide) (by decide) f0 f3
  have f5 : fld 18 12 (put 5 b (put 2 t 0x1C000000)) = 0 := fld_put_above (by decide) (by decide) f2 f4
  have f6 : fld 21 19 0x1C000000 = 0 := rfl
  have f7 : fld 21 19 (put 2 t 0x1C000000) = 0 := fld_put_above (by decide) (by decide) f0 f6
  have f8 : fld 21 19 (put 5 b (put 2 t 0x1C000000)) = 0 := fld_put_above (by decide) (by decide) f2 f7
  have f9 : fld 21 19 (put 12 a (put 5 b (put 2 t 0x1C000000))) = 0 := fld_put_above (by decide) (by decide) f5 f8
  have f10 : fld 25 22 0x1C000000 = 0 := rfl
  have f11 : fld 25 22 (put 2 t 0x1C000000) = 0 := fld_put_above (by decide) (by decide) f0 f10
  have f12 : fld 25 22 (put 5 b (put 2 t 0x1C000000)) = 0 := fld_put_above (by decide) (by decide) f2 f11
  have f13 : fld 25 22 (put 12 a (put 5 b (put 2 t 0x1C000000))) = 0 := fld_put_above (by decide) (by decide) f5 f12
  have f14 : fld 25 22 (put 19 c (put 12 a (put 5 b (put 2 t 0x1C000000)))) = 0 := fld_put_above (by decide) (by decide) f9 f13
  have f15 : fld 31 26 0x1C000000 = 7 := rfl
  have f16 : fld 31 26 (put 2 t 0x1C000000) = 7 := fld_put_above (by decide) (by decide) f0 f15
  have f17 : fld 31 26 (put 5 b (put 2 t 0x1C000000)) = 7 := fld_put_above (by decide) (by decide) f2 f16
  have f18 : fld 31 26 (put 12 a (put 5 b (put 2 t 0x1C000000))) = 7 := fld_put_above (by decide) (by decide) f5 f17
  have f19 : fld 31 26 (put 19 c (put 12 a (put 5 b (put 2 t 0x1C000000)))) = 7 := fld_put_above (by decide) (by decide) f9 f18
  have f20 : fld 1 0 0x1C000000 = 0 := rfl
  have f21 : fld 1 0 (put 2 t 0x1C000000) = 0 := fld_put_below (by decide) (by decide) f20
  have f22 : fld 1 0 (put 5 b (put 2 t 0x1C000000)) = 0 := fld_put_below (by decide) (by decide) f21
  have f23 : fld 1 0 (put 12 a (put 5 b (put 2 t 0x1C000000))) = 0 := fld_put_below (by decide) (by decide) f22
  have f24 : fld 1 0 (put 19 c (put 12 a (put 5 b (put 2 t 0x1C000000)))) = 0 := fld_put_below (by decide) (by decide) f23
  have f25 : fld 4 4 0x1C000000 = 0 := rfl
  have f26 : fld 4 4 (put 2 t 0x1C000000) = 0 := fld_put_above (by decide) (by decide) f0 f25
  have f27 : fld 4 4 (put 5 b (put 2 t 0x1C000000)) = 0 := fld_put_below (by decide) (by decide) f26
  have f28 : fld 4 4 (put 12 a (put 5 b (put 2 t 0x1C000000))) = 0 := fld_put_below (by decide) (by decide) f27
  have f29 : fld 4 4 (put 19 c (put 12 a (put 5 b (put 2 t 0x1C000000)))) = 0 := fld_put_below (by decide) (by decide) f28
  have f30 : fld 21 19 (put 19 c (put 12 a (put 5 b (put 2 t 0x1C000000)))) = c.toNat := fld_put_eq rfl f9
  have f31 : fld 18 12 (put 12 a (put 5 b (put 2 t 0x1C000000))) = a.toNat := fld_put_eq rfl f5
  have f32 : fld 18 12 (put 19 c (put 12 a (put 5 b (put 2 t 0x1C000000)))) = a.toNat := fld_put_below (by decide) (by decide) f31
  have f33 : fld 11 5 (put 5 b (put 2 t 0x1C000000)) = b.toNat := fld_put_eq rfl f2
  have f34 : fld 11 5 (put 12 a (put 5 b (put 2 t 0x1C000000))) = b.toNat := fld_put_below (by decide) (by decide) f33
  have f35 : fld 11 5 (put 19 c (put 12 a (put 5 b (put 2 t 0x1C000000)))) = b.toNat := fld_put_below (by decide) (by decide) f34
  have f36 : fld 3 2 (put 2 t 0x1C000000) = t.toNat := fld_put_eq rfl f0
  have f37 : fld 3 2 (put 5 b (put 2 t 0x1C000000)) = t.toNat := fld_put_below (by decide) (by decide) f36
  have f38 : fld 3 2 (put 12 a (put 5 b (put 2 t 0x1C000000))) = t.toNat := fld_put_below (by decide) (by decide) f37
  have f39 : fld 3 2 (put 19 c (put 12 a (put 5 b (put 2 t 0x1C000000)))) = t.toNat := fld_put_below (by decide) (by decide) f38
  have h0 : fld 31 26 (put 22 k (put 19 c (put 12 a (put 5 b (put 2 t 0x1C000000))))) = 7 := fld_put_above (by decide) (by decide) f14 f19
  have h1 : fld 1 0 (put 22 k (put 19 c (put 12 a (put 5 b (put 2 t 0x1C000000))))) = 0 := fld_put_below (by decide) (by decide) f24
  have h2 : fld 4 4 (put 22 k (put 19 c (put 12 a (put 5 b (put 2 t 0x1C000000))))) = 0 := fld_put_below (by decide) (by decide) f29
  have h3 : BitVec.ofNat 4 (fld 25 22 (put 22 k (put 19 c (put 12 a (put 5 b (put 2 t 0x1C000000)))))) = k := ofNat_fld (fld_put_eq rfl f14)
  have h4 : BitVec.ofNat 3 (fld 21 19 (put 22 k (put 19 c (put 12 a (put 5 b (put 2 t 0x1C000000)))))) = c := ofNat_fld (fld_put_below (by decide) (by decide) f30)
  have h5 : BitVec.ofNat 7 (fld 18 12 (put 22 k (put 19 c (put 12 a (put 5 b (put 2 t 0x1C000000)))))) = a := ofNat_fld (fld_put_below (by decide) (by decide) f32)
  have h6 : BitVec.ofNat 7 (fld 11 5 (put 22 k (put 19 c (put 12 a (put 5 b (put 2 t 0x1C000000)))))) = b := ofNat_fld (fld_put_below (by decide) (by decide) f35)
  have h7 : BitVec.ofNat 2 (fld 3 2 (put 22 k (put 19 c (put 12 a (put 5 b (put 2 t 0x1C000000)))))) = t := ofNat_fld (fld_put_below (by decide) (by decide) f39)
  rw [decodeWord_07 h0]
  simp [decodeOp07, h1, h2, h3, h4, h5, h6, h7]

theorem Sys2Proof.Laws.Encodes.icmpAnd (k : BitVec 4) (c : BitVec 3) (a : BitVec 7) (b : BitVec 7) (t : BitVec 2) :
    Sys2Proof.Laws.Encodes.Statement (.icmpAnd k c a b t) := by
  rintro w ⟨⟩
  have f0 : fld 3 2 0x1C000001 = 0 := rfl
  have f1 : fld 11 5 0x1C000001 = 0 := rfl
  have f2 : fld 11 5 (put 2 t 0x1C000001) = 0 := fld_put_above (by decide) (by decide) f0 f1
  have f3 : fld 18 12 0x1C000001 = 0 := rfl
  have f4 : fld 18 12 (put 2 t 0x1C000001) = 0 := fld_put_above (by decide) (by decide) f0 f3
  have f5 : fld 18 12 (put 5 b (put 2 t 0x1C000001)) = 0 := fld_put_above (by decide) (by decide) f2 f4
  have f6 : fld 21 19 0x1C000001 = 0 := rfl
  have f7 : fld 21 19 (put 2 t 0x1C000001) = 0 := fld_put_above (by decide) (by decide) f0 f6
  have f8 : fld 21 19 (put 5 b (put 2 t 0x1C000001)) = 0 := fld_put_above (by decide) (by decide) f2 f7
  have f9 : fld 21 19 (put 12 a (put 5 b (put 2 t 0x1C000001))) = 0 := fld_put_above (by decide) (by decide) f5 f8
  have f10 : fld 25 22 0x1C000001 = 0 := rfl
  have f11 : fld 25 22 (put 2 t 0x1C000001) = 0 := fld_put_above (by decide) (by decide) f0 f10
  have f12 : fld 25 22 (put 5 b (put 2 t 0x1C000001)) = 0 := fld_put_above (by decide) (by decide) f2 f11
  have f13 : fld 25 22 (put 12 a (put 5 b (put 2 t 0x1C000001))) = 0 := fld_put_above (by decide) (by decide) f5 f12
  have f14 : fld 25 22 (put 19 c (put 12 a (put 5 b (put 2 t 0x1C000001)))) = 0 := fld_put_above (by decide) (by decide) f9 f13
  have f15 : fld 31 26 0x1C000001 = 7 := rfl
  have f16 : fld 31 26 (put 2 t 0x1C000001) = 7 := fld_put_above (by decide) (by decide) f0 f15
  have f17 : fld 31 26 (put 5 b (put 2 t 0x1C000001)) = 7 := fld_put_above (by decide) (by decide) f2 f16
  have f18 : fld 31 26 (put 12 a (put 5 b (put 2 t 0x1C000001))) = 7 := fld_put_above (by decide) (by decide) f5 f17
  have f19 : fld 31 26 (put 19 c (put 12 a (put 5 b (put 2 t 0x1C000001)))) = 7 := fld_put_above (by decide) (by decide) f9 f18
  have f20 : fld 1 0 0x1C000001 = 1 := rfl
  have f21 : fld 1 0 (put 2 t 0x1C000001) = 1 := fld_put_below (by decide) (by decide) f20
  have f22 : fld 1 0 (put 5 b (put 2 t 0x1C000001)) = 1 := fld_put_below (by decide) (by decide) f21
  have f23 : fld 1 0 (put 12 a (put 5 b (put 2 t 0x1C000001))) = 1 := fld_put_below (by decide) (by decide) f22
  have f24 : fld 1 0 (put 19 c (put 12 a (put 5 b (put 2 t 0x1C000001)))) = 1 := fld_put_below (by decide) (by decide) f23
  have f25 : fld 4 4 0x1C000001 = 0 := rfl
  have f26 : fld 4 4 (put 2 t 0x1C000001) = 0 := fld_put_above (by decide) (by decide) f0 f25
  have f27 : fld 4 4 (put 5 b (put 2 t 0x1C000001)) = 0 := fld_put_below (by decide) (by decide) f26
  have f28 : fld 4 4 (put 12 a (put 5 b (put 2 t 0x1C000001))) = 0 := fld_put_below (by decide) (by decide) f27
  have f29 : fld 4 4 (put 19 c (put 12 a (put 5 b (put 2 t 0x1C000001)))) = 0 := fld_put_below (by decide) (by decide) f28
  have f30 : fld 21 19 (put 19 c (put 12 a (put 5 b (put 2 t 0x1C000001)))) = c.toNat := fld_put_eq rfl f9
  have f31 : fld 18 12 (put 12 a (put 5 b (put 2 t 0x1C000001))) = a.toNat := fld_put_eq rfl f5
  have f32 : fld 18 12 (put 19 c (put 12 a (put 5 b (put 2 t 0x1C000001)))) = a.toNat := fld_put_below (by decide) (by decide) f31
  have f33 : fld 11 5 (put 5 b (put 2 t 0x1C000001)) = b.toNat := fld_put_eq rfl f2
  have f34 : fld 11 5 (put 12 a (put 5 b (put 2 t 0x1C000001))) = b.toNat := fld_put_below (by decide) (by decide) f33
  have f35 : fld 11 5 (put 19 c (put 12 a (put 5 b (put 2 t 0x1C000001)))) = b.toNat := fld_put_below (by decide) (by decide) f34
  have f36 : fld 3 2 (put 2 t 0x1C000001) = t.toNat := fld_put_eq rfl f0
  have f37 : fld 3 2 (put 5 b (put 2 t 0x1C000001)) = t.toNat := fld_put_below (by decide) (by decide) f36
  have f38 : fld 3 2 (put 12 a (put 5 b (put 2 t 0x1C000001))) = t.toNat := fld_put_below (by decide) (by decide) f37
  have f39 : fld 3 2 (put 19 c (put 12 a (put 5 b (put 2 t 0x1C000001)))) = t.toNat := fld_put_below (by decide) (by decide) f38
  have h0 : fld 31 26 (put 22 k (put 19 c (put 12 a (put 5 b (put 2 t 0x1C000001))))) = 7 := fld_put_above (by decide) (by decide) f14 f19
  have h1 : fld 1 0 (put 22 k (put 19 c (put 12 a (put 5 b (put 2 t 0x1C000001))))) = 1 := fld_put_below (by decide) (by decide) f24
  have h2 : fld 4 4 (put 22 k (put 19 c (put 12 a (put 5 b (put 2 t 0x1C000001))))) = 0 := fld_put_below (by decide) (by decide) f29
  have h3 : BitVec.ofNat 4 (fld 25 22 (put 22 k (put 19 c (put 12 a (put 5 b (put 2 t 0x1C000001)))))) = k := ofNat_fld (fld_put_eq rfl f14)
  have h4 : BitVec.ofNat 3 (fld 21 19 (put 22 k (put 19 c (put 12 a (put 5 b (put 2 t 0x1C000001)))))) = c := ofNat_fld (fld_put_below (by decide) (by decide) f30)
  have h5 : BitVec.ofNat 7 (fld 18 12 (put 22 k (put 19 c (put 12 a (put 5 b (put 2 t 0x1C000001)))))) = a := ofNat_fld (fld_put_below (by decide) (by decide) f32)
  have h6 : BitVec.ofNat 7 (fld 11 5 (put 22 k (put 19 c (put 12 a (put 5 b (put 2 t 0x1C000001)))))) = b := ofNat_fld (fld_put_below (by decide) (by decide) f35)
  have h7 : BitVec.ofNat 2 (fld 3 2 (put 22 k (put 19 c (put 12 a (put 5 b (put 2 t 0x1C000001)))))) = t := ofNat_fld (fld_put_below (by decide) (by decide) f39)
  rw [decodeWord_07 h0]
  simp [decodeOp07, h1, h2, h3, h4, h5, h6, h7]

theorem Sys2Proof.Laws.Encodes.icmpOr (k : BitVec 4) (c : BitVec 3) (a : BitVec 7) (b : BitVec 7) (t : BitVec 2) :
    Sys2Proof.Laws.Encodes.Statement (.icmpOr k c a b t) := by
  rintro w ⟨⟩
  have f0 : fld 3 2 0x1C000002 = 0 := rfl
  have f1 : fld 11 5 0x1C000002 = 0 := rfl
  have f2 : fld 11 5 (put 2 t 0x1C000002) = 0 := fld_put_above (by decide) (by decide) f0 f1
  have f3 : fld 18 12 0x1C000002 = 0 := rfl
  have f4 : fld 18 12 (put 2 t 0x1C000002) = 0 := fld_put_above (by decide) (by decide) f0 f3
  have f5 : fld 18 12 (put 5 b (put 2 t 0x1C000002)) = 0 := fld_put_above (by decide) (by decide) f2 f4
  have f6 : fld 21 19 0x1C000002 = 0 := rfl
  have f7 : fld 21 19 (put 2 t 0x1C000002) = 0 := fld_put_above (by decide) (by decide) f0 f6
  have f8 : fld 21 19 (put 5 b (put 2 t 0x1C000002)) = 0 := fld_put_above (by decide) (by decide) f2 f7
  have f9 : fld 21 19 (put 12 a (put 5 b (put 2 t 0x1C000002))) = 0 := fld_put_above (by decide) (by decide) f5 f8
  have f10 : fld 25 22 0x1C000002 = 0 := rfl
  have f11 : fld 25 22 (put 2 t 0x1C000002) = 0 := fld_put_above (by decide) (by decide) f0 f10
  have f12 : fld 25 22 (put 5 b (put 2 t 0x1C000002)) = 0 := fld_put_above (by decide) (by decide) f2 f11
  have f13 : fld 25 22 (put 12 a (put 5 b (put 2 t 0x1C000002))) = 0 := fld_put_above (by decide) (by decide) f5 f12
  have f14 : fld 25 22 (put 19 c (put 12 a (put 5 b (put 2 t 0x1C000002)))) = 0 := fld_put_above (by decide) (by decide) f9 f13
  have f15 : fld 31 26 0x1C000002 = 7 := rfl
  have f16 : fld 31 26 (put 2 t 0x1C000002) = 7 := fld_put_above (by decide) (by decide) f0 f15
  have f17 : fld 31 26 (put 5 b (put 2 t 0x1C000002)) = 7 := fld_put_above (by decide) (by decide) f2 f16
  have f18 : fld 31 26 (put 12 a (put 5 b (put 2 t 0x1C000002))) = 7 := fld_put_above (by decide) (by decide) f5 f17
  have f19 : fld 31 26 (put 19 c (put 12 a (put 5 b (put 2 t 0x1C000002)))) = 7 := fld_put_above (by decide) (by decide) f9 f18
  have f20 : fld 1 0 0x1C000002 = 2 := rfl
  have f21 : fld 1 0 (put 2 t 0x1C000002) = 2 := fld_put_below (by decide) (by decide) f20
  have f22 : fld 1 0 (put 5 b (put 2 t 0x1C000002)) = 2 := fld_put_below (by decide) (by decide) f21
  have f23 : fld 1 0 (put 12 a (put 5 b (put 2 t 0x1C000002))) = 2 := fld_put_below (by decide) (by decide) f22
  have f24 : fld 1 0 (put 19 c (put 12 a (put 5 b (put 2 t 0x1C000002)))) = 2 := fld_put_below (by decide) (by decide) f23
  have f25 : fld 4 4 0x1C000002 = 0 := rfl
  have f26 : fld 4 4 (put 2 t 0x1C000002) = 0 := fld_put_above (by decide) (by decide) f0 f25
  have f27 : fld 4 4 (put 5 b (put 2 t 0x1C000002)) = 0 := fld_put_below (by decide) (by decide) f26
  have f28 : fld 4 4 (put 12 a (put 5 b (put 2 t 0x1C000002))) = 0 := fld_put_below (by decide) (by decide) f27
  have f29 : fld 4 4 (put 19 c (put 12 a (put 5 b (put 2 t 0x1C000002)))) = 0 := fld_put_below (by decide) (by decide) f28
  have f30 : fld 21 19 (put 19 c (put 12 a (put 5 b (put 2 t 0x1C000002)))) = c.toNat := fld_put_eq rfl f9
  have f31 : fld 18 12 (put 12 a (put 5 b (put 2 t 0x1C000002))) = a.toNat := fld_put_eq rfl f5
  have f32 : fld 18 12 (put 19 c (put 12 a (put 5 b (put 2 t 0x1C000002)))) = a.toNat := fld_put_below (by decide) (by decide) f31
  have f33 : fld 11 5 (put 5 b (put 2 t 0x1C000002)) = b.toNat := fld_put_eq rfl f2
  have f34 : fld 11 5 (put 12 a (put 5 b (put 2 t 0x1C000002))) = b.toNat := fld_put_below (by decide) (by decide) f33
  have f35 : fld 11 5 (put 19 c (put 12 a (put 5 b (put 2 t 0x1C000002)))) = b.toNat := fld_put_below (by decide) (by decide) f34
  have f36 : fld 3 2 (put 2 t 0x1C000002) = t.toNat := fld_put_eq rfl f0
  have f37 : fld 3 2 (put 5 b (put 2 t 0x1C000002)) = t.toNat := fld_put_below (by decide) (by decide) f36
  have f38 : fld 3 2 (put 12 a (put 5 b (put 2 t 0x1C000002))) = t.toNat := fld_put_below (by decide) (by decide) f37
  have f39 : fld 3 2 (put 19 c (put 12 a (put 5 b (put 2 t 0x1C000002)))) = t.toNat := fld_put_below (by decide) (by decide) f38
  have h0 : fld 31 26 (put 22 k (put 19 c (put 12 a (put 5 b (put 2 t 0x1C000002))))) = 7 := fld_put_above (by decide) (by decide) f14 f19
  have h1 : fld 1 0 (put 22 k (put 19 c (put 12 a (put 5 b (put 2 t 0x1C000002))))) = 2 := fld_put_below (by decide) (by decide) f24
  have h2 : fld 4 4 (put 22 k (put 19 c (put 12 a (put 5 b (put 2 t 0x1C000002))))) = 0 := fld_put_below (by decide) (by decide) f29
  have h3 : BitVec.ofNat 4 (fld 25 22 (put 22 k (put 19 c (put 12 a (put 5 b (put 2 t 0x1C000002)))))) = k := ofNat_fld (fld_put_eq rfl f14)
  have h4 : BitVec.ofNat 3 (fld 21 19 (put 22 k (put 19 c (put 12 a (put 5 b (put 2 t 0x1C000002)))))) = c := ofNat_fld (fld_put_below (by decide) (by decide) f30)
  have h5 : BitVec.ofNat 7 (fld 18 12 (put 22 k (put 19 c (put 12 a (put 5 b (put 2 t 0x1C000002)))))) = a := ofNat_fld (fld_put_below (by decide) (by decide) f32)
  have h6 : BitVec.ofNat 7 (fld 11 5 (put 22 k (put 19 c (put 12 a (put 5 b (put 2 t 0x1C000002)))))) = b := ofNat_fld (fld_put_below (by decide) (by decide) f35)
  have h7 : BitVec.ofNat 2 (fld 3 2 (put 22 k (put 19 c (put 12 a (put 5 b (put 2 t 0x1C000002)))))) = t := ofNat_fld (fld_put_below (by decide) (by decide) f39)
  rw [decodeWord_07 h0]
  simp [decodeOp07, h1, h2, h3, h4, h5, h6, h7]

theorem Sys2Proof.Laws.Encodes.sel (d : BitVec 7) (a : BitVec 7) (b : BitVec 7) (t : BitVec 3) :
    Sys2Proof.Laws.Encodes.Statement (.sel d a b t) := by
  rintro w ⟨⟩
  have f0 : fld 4 2 0x20000000 = 0 := rfl
  have f1 : fld 11 5 0x20000000 = 0 := rfl
  have f2 : fld 11 5 (put 2 t 0x20000000) = 0 := fld_put_above (by decide) (by decide) f0 f1
  have f3 : fld 18 12 0x20000000 = 0 := rfl
  have f4 : fld 18 12 (put 2 t 0x20000000) = 0 := fld_put_above (by decide) (by decide) f0 f3
  have f5 : fld 18 12 (put 5 b (put 2 t 0x20000000)) = 0 := fld_put_above (by decide) (by decide) f2 f4
  have f6 : fld 25 19 0x20000000 = 0 := rfl
  have f7 : fld 25 19 (put 2 t 0x20000000) = 0 := fld_put_above (by decide) (by decide) f0 f6
  have f8 : fld 25 19 (put 5 b (put 2 t 0x20000000)) = 0 := fld_put_above (by decide) (by decide) f2 f7
  have f9 : fld 25 19 (put 12 a (put 5 b (put 2 t 0x20000000))) = 0 := fld_put_above (by decide) (by decide) f5 f8
  have f10 : fld 31 26 0x20000000 = 8 := rfl
  have f11 : fld 31 26 (put 2 t 0x20000000) = 8 := fld_put_above (by decide) (by decide) f0 f10
  have f12 : fld 31 26 (put 5 b (put 2 t 0x20000000)) = 8 := fld_put_above (by decide) (by decide) f2 f11
  have f13 : fld 31 26 (put 12 a (put 5 b (put 2 t 0x20000000))) = 8 := fld_put_above (by decide) (by decide) f5 f12
  have f14 : fld 1 0 0x20000000 = 0 := rfl
  have f15 : fld 1 0 (put 2 t 0x20000000) = 0 := fld_put_below (by decide) (by decide) f14
  have f16 : fld 1 0 (put 5 b (put 2 t 0x20000000)) = 0 := fld_put_below (by decide) (by decide) f15
  have f17 : fld 1 0 (put 12 a (put 5 b (put 2 t 0x20000000))) = 0 := fld_put_below (by decide) (by decide) f16
  have f18 : fld 18 12 (put 12 a (put 5 b (put 2 t 0x20000000))) = a.toNat := fld_put_eq rfl f5
  have f19 : fld 11 5 (put 5 b (put 2 t 0x20000000)) = b.toNat := fld_put_eq rfl f2
  have f20 : fld 11 5 (put 12 a (put 5 b (put 2 t 0x20000000))) = b.toNat := fld_put_below (by decide) (by decide) f19
  have f21 : fld 4 2 (put 2 t 0x20000000) = t.toNat := fld_put_eq rfl f0
  have f22 : fld 4 2 (put 5 b (put 2 t 0x20000000)) = t.toNat := fld_put_below (by decide) (by decide) f21
  have f23 : fld 4 2 (put 12 a (put 5 b (put 2 t 0x20000000))) = t.toNat := fld_put_below (by decide) (by decide) f22
  have h0 : fld 31 26 (put 19 d (put 12 a (put 5 b (put 2 t 0x20000000)))) = 8 := fld_put_above (by decide) (by decide) f9 f13
  have h1 : fld 1 0 (put 19 d (put 12 a (put 5 b (put 2 t 0x20000000)))) = 0 := fld_put_below (by decide) (by decide) f17
  have h2 : BitVec.ofNat 7 (fld 25 19 (put 19 d (put 12 a (put 5 b (put 2 t 0x20000000))))) = d := ofNat_fld (fld_put_eq rfl f9)
  have h3 : BitVec.ofNat 7 (fld 18 12 (put 19 d (put 12 a (put 5 b (put 2 t 0x20000000))))) = a := ofNat_fld (fld_put_below (by decide) (by decide) f18)
  have h4 : BitVec.ofNat 7 (fld 11 5 (put 19 d (put 12 a (put 5 b (put 2 t 0x20000000))))) = b := ofNat_fld (fld_put_below (by decide) (by decide) f20)
  have h5 : BitVec.ofNat 3 (fld 4 2 (put 19 d (put 12 a (put 5 b (put 2 t 0x20000000))))) = t := ofNat_fld (fld_put_below (by decide) (by decide) f23)
  rw [decodeWord_08 h0]
  simp [decodeOp08, h1, h2, h3, h4, h5]

theorem Sys2Proof.Laws.Encodes.mov (d : BitVec 7) (a : BitVec 7) (t : BitVec 3) :
    Sys2Proof.Laws.Encodes.Statement (.mov d a t) := by
  rintro w ⟨⟩
  have f0 : fld 4 2 0x20000001 = 0 := rfl
  have f1 : fld 18 12 0x20000001 = 0 := rfl
  have f2 : fld 18 12 (put 2 t 0x20000001) = 0 := fld_put_above (by decide) (by decide) f0 f1
  have f3 : fld 25 19 0x20000001 = 0 := rfl
  have f4 : fld 25 19 (put 2 t 0x20000001) = 0 := fld_put_above (by decide) (by decide) f0 f3
  have f5 : fld 25 19 (put 12 a (put 2 t 0x20000001)) = 0 := fld_put_above (by decide) (by decide) f2 f4
  have f6 : fld 31 26 0x20000001 = 8 := rfl
  have f7 : fld 31 26 (put 2 t 0x20000001) = 8 := fld_put_above (by decide) (by decide) f0 f6
  have f8 : fld 31 26 (put 12 a (put 2 t 0x20000001)) = 8 := fld_put_above (by decide) (by decide) f2 f7
  have f9 : fld 1 0 0x20000001 = 1 := rfl
  have f10 : fld 1 0 (put 2 t 0x20000001) = 1 := fld_put_below (by decide) (by decide) f9
  have f11 : fld 1 0 (put 12 a (put 2 t 0x20000001)) = 1 := fld_put_below (by decide) (by decide) f10
  have f12 : fld 11 5 0x20000001 = 0 := rfl
  have f13 : fld 11 5 (put 2 t 0x20000001) = 0 := fld_put_above (by decide) (by decide) f0 f12
  have f14 : fld 11 5 (put 12 a (put 2 t 0x20000001)) = 0 := fld_put_below (by decide) (by decide) f13
  have f15 : fld 18 12 (put 12 a (put 2 t 0x20000001)) = a.toNat := fld_put_eq rfl f2
  have f16 : fld 4 2 (put 2 t 0x20000001) = t.toNat := fld_put_eq rfl f0
  have f17 : fld 4 2 (put 12 a (put 2 t 0x20000001)) = t.toNat := fld_put_below (by decide) (by decide) f16
  have h0 : fld 31 26 (put 19 d (put 12 a (put 2 t 0x20000001))) = 8 := fld_put_above (by decide) (by decide) f5 f8
  have h1 : fld 1 0 (put 19 d (put 12 a (put 2 t 0x20000001))) = 1 := fld_put_below (by decide) (by decide) f11
  have h2 : fld 11 5 (put 19 d (put 12 a (put 2 t 0x20000001))) = 0 := fld_put_below (by decide) (by decide) f14
  have h3 : BitVec.ofNat 7 (fld 25 19 (put 19 d (put 12 a (put 2 t 0x20000001)))) = d := ofNat_fld (fld_put_eq rfl f5)
  have h4 : BitVec.ofNat 7 (fld 18 12 (put 19 d (put 12 a (put 2 t 0x20000001)))) = a := ofNat_fld (fld_put_below (by decide) (by decide) f15)
  have h5 : BitVec.ofNat 3 (fld 4 2 (put 19 d (put 12 a (put 2 t 0x20000001)))) = t := ofNat_fld (fld_put_below (by decide) (by decide) f17)
  rw [decodeWord_08 h0]
  simp [decodeOp08, h1, h2, h3, h4, h5]

theorem Sys2Proof.Laws.Encodes.movs (d : BitVec 7) (a : BitVec 7) (t : BitVec 2) :
    Sys2Proof.Laws.Encodes.Statement (.movs d a t) := by
  rintro w ⟨⟩
  have f0 : fld 3 2 0x20000002 = 0 := rfl
  have f1 : fld 18 12 0x20000002 = 0 := rfl
  have f2 : fld 18 12 (put 2 t 0x20000002) = 0 := fld_put_above (by decide) (by decide) f0 f1
  have f3 : fld 25 19 0x20000002 = 0 := rfl
  have f4 : fld 25 19 (put 2 t 0x20000002) = 0 := fld_put_above (by decide) (by decide) f0 f3
  have f5 : fld 25 19 (put 12 a (put 2 t 0x20000002)) = 0 := fld_put_above (by decide) (by decide) f2 f4
  have f6 : fld 31 26 0x20000002 = 8 := rfl
  have f7 : fld 31 26 (put 2 t 0x20000002) = 8 := fld_put_above (by decide) (by decide) f0 f6
  have f8 : fld 31 26 (put 12 a (put 2 t 0x20000002)) = 8 := fld_put_above (by decide) (by decide) f2 f7
  have f9 : fld 1 0 0x20000002 = 2 := rfl
  have f10 : fld 1 0 (put 2 t 0x20000002) = 2 := fld_put_below (by decide) (by decide) f9
  have f11 : fld 1 0 (put 12 a (put 2 t 0x20000002)) = 2 := fld_put_below (by decide) (by decide) f10
  have f12 : fld 11 4 0x20000002 = 0 := rfl
  have f13 : fld 11 4 (put 2 t 0x20000002) = 0 := fld_put_above (by decide) (by decide) f0 f12
  have f14 : fld 11 4 (put 12 a (put 2 t 0x20000002)) = 0 := fld_put_below (by decide) (by decide) f13
  have f15 : fld 18 12 (put 12 a (put 2 t 0x20000002)) = a.toNat := fld_put_eq rfl f2
  have f16 : fld 3 2 (put 2 t 0x20000002) = t.toNat := fld_put_eq rfl f0
  have f17 : fld 3 2 (put 12 a (put 2 t 0x20000002)) = t.toNat := fld_put_below (by decide) (by decide) f16
  have h0 : fld 31 26 (put 19 d (put 12 a (put 2 t 0x20000002))) = 8 := fld_put_above (by decide) (by decide) f5 f8
  have h1 : fld 1 0 (put 19 d (put 12 a (put 2 t 0x20000002))) = 2 := fld_put_below (by decide) (by decide) f11
  have h2 : fld 11 4 (put 19 d (put 12 a (put 2 t 0x20000002))) = 0 := fld_put_below (by decide) (by decide) f14
  have h4 : BitVec.ofNat 7 (fld 25 19 (put 19 d (put 12 a (put 2 t 0x20000002)))) = d := ofNat_fld (fld_put_eq rfl f5)
  have h5 : BitVec.ofNat 7 (fld 18 12 (put 19 d (put 12 a (put 2 t 0x20000002)))) = a := ofNat_fld (fld_put_below (by decide) (by decide) f15)
  have h6 : BitVec.ofNat 2 (fld 3 2 (put 19 d (put 12 a (put 2 t 0x20000002)))) = t := ofNat_fld (fld_put_below (by decide) (by decide) f17)
  rw [decodeWord_08 h0]
  simp [decodeOp08, h1, h2, h4, h5, h6]

theorem Sys2Proof.Laws.Encodes.iaddi (d : BitVec 7) (a : BitVec 7) (i : BitVec 12) :
    Sys2Proof.Laws.Encodes.Statement (.iaddi d a i) := by
  rintro w ⟨⟩
  have f0 : fld 11 0 0x24000000 = 0 := rfl
  have f1 : fld 18 12 0x24000000 = 0 := rfl
  have f2 : fld 18 12 (put 0 i 0x24000000) = 0 := fld_put_above (by decide) (by decide) f0 f1
  have f3 : fld 25 19 0x24000000 = 0 := rfl
  have f4 : fld 25 19 (put 0 i 0x24000000) = 0 := fld_put_above (by decide) (by decide) f0 f3
  have f5 : fld 25 19 (put 12 a (put 0 i 0x24000000)) = 0 := fld_put_above (by decide) (by decide) f2 f4
  have f6 : fld 31 26 0x24000000 = 9 := rfl
  have f7 : fld 31 26 (put 0 i 0x24000000) = 9 := fld_put_above (by decide) (by decide) f0 f6
  have f8 : fld 31 26 (put 12 a (put 0 i 0x24000000)) = 9 := fld_put_above (by decide) (by decide) f2 f7
  have f9 : fld 18 12 (put 12 a (put 0 i 0x24000000)) = a.toNat := fld_put_eq rfl f2
  have f10 : fld 11 0 (put 0 i 0x24000000) = i.toNat := fld_put_eq rfl f0
  have f11 : fld 11 0 (put 12 a (put 0 i 0x24000000)) = i.toNat := fld_put_below (by decide) (by decide) f10
  have h0 : fld 31 26 (put 19 d (put 12 a (put 0 i 0x24000000))) = 9 := fld_put_above (by decide) (by decide) f5 f8
  have h1 : BitVec.ofNat 7 (fld 25 19 (put 19 d (put 12 a (put 0 i 0x24000000)))) = d := ofNat_fld (fld_put_eq rfl f5)
  have h2 : BitVec.ofNat 7 (fld 18 12 (put 19 d (put 12 a (put 0 i 0x24000000)))) = a := ofNat_fld (fld_put_below (by decide) (by decide) f9)
  have h3 : BitVec.ofNat 12 (fld 11 0 (put 19 d (put 12 a (put 0 i 0x24000000)))) = i := ofNat_fld (fld_put_below (by decide) (by decide) f11)
  rw [decodeWord_09 h0]
  simp [decodeOp09, h1, h2, h3]

theorem Sys2Proof.Laws.Encodes.movi (d : BitVec 7) (t : BitVec 3) (i : BitVec 16) :
    Sys2Proof.Laws.Encodes.Statement (.movi d t i) := by
  rintro w ⟨⟩
  have f0 : fld 15 0 0x28000000 = 0 := rfl
  have f1 : fld 18 16 0x28000000 = 0 := rfl
  have f2 : fld 18 16 (put 0 i 0x28000000) = 0 := fld_put_above (by decide) (by decide) f0 f1
  have f3 : fld 25 19 0x28000000 = 0 := rfl
  have f4 : fld 25 19 (put 0 i 0x28000000) = 0 := fld_put_above (by decide) (by decide) f0 f3
  have f5 : fld 25 19 (put 16 t (put 0 i 0x28000000)) = 0 := fld_put_above (by decide) (by decide) f2 f4
  have f6 : fld 31 26 0x28000000 = 10 := rfl
  have f7 : fld 31 26 (put 0 i 0x28000000) = 10 := fld_put_above (by decide) (by decide) f0 f6
  have f8 : fld 31 26 (put 16 t (put 0 i 0x28000000)) = 10 := fld_put_above (by decide) (by decide) f2 f7
  have f9 : fld 18 16 (put 16 t (put 0 i 0x28000000)) = t.toNat := fld_put_eq rfl f2
  have f10 : fld 15 0 (put 0 i 0x28000000) = i.toNat := fld_put_eq rfl f0
  have f11 : fld 15 0 (put 16 t (put 0 i 0x28000000)) = i.toNat := fld_put_below (by decide) (by decide) f10
  have h0 : fld 31 26 (put 19 d (put 16 t (put 0 i 0x28000000))) = 10 := fld_put_above (by decide) (by decide) f5 f8
  have h1 : BitVec.ofNat 7 (fld 25 19 (put 19 d (put 16 t (put 0 i 0x28000000)))) = d := ofNat_fld (fld_put_eq rfl f5)
  have h2 : BitVec.ofNat 3 (fld 18 16 (put 19 d (put 16 t (put 0 i 0x28000000)))) = t := ofNat_fld (fld_put_below (by decide) (by decide) f9)
  have h3 : BitVec.ofNat 16 (fld 15 0 (put 19 d (put 16 t (put 0 i 0x28000000)))) = i := ofNat_fld (fld_put_below (by decide) (by decide) f11)
  rw [decodeWord_0A h0]
  simp [decodeOp0A, h1, h2, h3]

theorem Sys2Proof.Laws.Encodes.zip (d : BitVec 7) (a : BitVec 7) (b : BitVec 7) (t : BitVec 3) :
    Sys2Proof.Laws.Encodes.Statement (.zip d a b t) := by
  rintro w ⟨⟩
  have f0 : fld 4 2 0x2C000000 = 0 := rfl
  have f1 : fld 11 5 0x2C000000 = 0 := rfl
  have f2 : fld 11 5 (put 2 t 0x2C000000) = 0 := fld_put_above (by decide) (by decide) f0 f1
  have f3 : fld 18 12 0x2C000000 = 0 := rfl
  have f4 : fld 18 12 (put 2 t 0x2C000000) = 0 := fld_put_above (by decide) (by decide) f0 f3
  have f5 : fld 18 12 (put 5 b (put 2 t 0x2C000000)) = 0 := fld_put_above (by decide) (by decide) f2 f4
  have f6 : fld 25 19 0x2C000000 = 0 := rfl
  have f7 : fld 25 19 (put 2 t 0x2C000000) = 0 := fld_put_above (by decide) (by decide) f0 f6
  have f8 : fld 25 19 (put 5 b (put 2 t 0x2C000000)) = 0 := fld_put_above (by decide) (by decide) f2 f7
  have f9 : fld 25 19 (put 12 a (put 5 b (put 2 t 0x2C000000))) = 0 := fld_put_above (by decide) (by decide) f5 f8
  have f10 : fld 31 26 0x2C000000 = 11 := rfl
  have f11 : fld 31 26 (put 2 t 0x2C000000) = 11 := fld_put_above (by decide) (by decide) f0 f10
  have f12 : fld 31 26 (put 5 b (put 2 t 0x2C000000)) = 11 := fld_put_above (by decide) (by decide) f2 f11
  have f13 : fld 31 26 (put 12 a (put 5 b (put 2 t 0x2C000000))) = 11 := fld_put_above (by decide) (by decide) f5 f12
  have f14 : fld 1 0 0x2C000000 = 0 := rfl
  have f15 : fld 1 0 (put 2 t 0x2C000000) = 0 := fld_put_below (by decide) (by decide) f14
  have f16 : fld 1 0 (put 5 b (put 2 t 0x2C000000)) = 0 := fld_put_below (by decide) (by decide) f15
  have f17 : fld 1 0 (put 12 a (put 5 b (put 2 t 0x2C000000))) = 0 := fld_put_below (by decide) (by decide) f16
  have f18 : fld 18 12 (put 12 a (put 5 b (put 2 t 0x2C000000))) = a.toNat := fld_put_eq rfl f5
  have f19 : fld 11 5 (put 5 b (put 2 t 0x2C000000)) = b.toNat := fld_put_eq rfl f2
  have f20 : fld 11 5 (put 12 a (put 5 b (put 2 t 0x2C000000))) = b.toNat := fld_put_below (by decide) (by decide) f19
  have f21 : fld 4 2 (put 2 t 0x2C000000) = t.toNat := fld_put_eq rfl f0
  have f22 : fld 4 2 (put 5 b (put 2 t 0x2C000000)) = t.toNat := fld_put_below (by decide) (by decide) f21
  have f23 : fld 4 2 (put 12 a (put 5 b (put 2 t 0x2C000000))) = t.toNat := fld_put_below (by decide) (by decide) f22
  have h0 : fld 31 26 (put 19 d (put 12 a (put 5 b (put 2 t 0x2C000000)))) = 11 := fld_put_above (by decide) (by decide) f9 f13
  have h1 : fld 1 0 (put 19 d (put 12 a (put 5 b (put 2 t 0x2C000000)))) = 0 := fld_put_below (by decide) (by decide) f17
  have h2 : BitVec.ofNat 7 (fld 25 19 (put 19 d (put 12 a (put 5 b (put 2 t 0x2C000000))))) = d := ofNat_fld (fld_put_eq rfl f9)
  have h3 : BitVec.ofNat 7 (fld 18 12 (put 19 d (put 12 a (put 5 b (put 2 t 0x2C000000))))) = a := ofNat_fld (fld_put_below (by decide) (by decide) f18)
  have h4 : BitVec.ofNat 7 (fld 11 5 (put 19 d (put 12 a (put 5 b (put 2 t 0x2C000000))))) = b := ofNat_fld (fld_put_below (by decide) (by decide) f20)
  have h5 : BitVec.ofNat 3 (fld 4 2 (put 19 d (put 12 a (put 5 b (put 2 t 0x2C000000))))) = t := ofNat_fld (fld_put_below (by decide) (by decide) f23)
  rw [decodeWord_0B h0]
  simp [decodeOp0B, h1, h2, h3, h4, h5]

theorem Sys2Proof.Laws.Encodes.unzip (d : BitVec 7) (a : BitVec 7) (b : BitVec 7) (t : BitVec 3) :
    Sys2Proof.Laws.Encodes.Statement (.unzip d a b t) := by
  rintro w ⟨⟩
  have f0 : fld 4 2 0x2C000001 = 0 := rfl
  have f1 : fld 11 5 0x2C000001 = 0 := rfl
  have f2 : fld 11 5 (put 2 t 0x2C000001) = 0 := fld_put_above (by decide) (by decide) f0 f1
  have f3 : fld 18 12 0x2C000001 = 0 := rfl
  have f4 : fld 18 12 (put 2 t 0x2C000001) = 0 := fld_put_above (by decide) (by decide) f0 f3
  have f5 : fld 18 12 (put 5 b (put 2 t 0x2C000001)) = 0 := fld_put_above (by decide) (by decide) f2 f4
  have f6 : fld 25 19 0x2C000001 = 0 := rfl
  have f7 : fld 25 19 (put 2 t 0x2C000001) = 0 := fld_put_above (by decide) (by decide) f0 f6
  have f8 : fld 25 19 (put 5 b (put 2 t 0x2C000001)) = 0 := fld_put_above (by decide) (by decide) f2 f7
  have f9 : fld 25 19 (put 12 a (put 5 b (put 2 t 0x2C000001))) = 0 := fld_put_above (by decide) (by decide) f5 f8
  have f10 : fld 31 26 0x2C000001 = 11 := rfl
  have f11 : fld 31 26 (put 2 t 0x2C000001) = 11 := fld_put_above (by decide) (by decide) f0 f10
  have f12 : fld 31 26 (put 5 b (put 2 t 0x2C000001)) = 11 := fld_put_above (by decide) (by decide) f2 f11
  have f13 : fld 31 26 (put 12 a (put 5 b (put 2 t 0x2C000001))) = 11 := fld_put_above (by decide) (by decide) f5 f12
  have f14 : fld 1 0 0x2C000001 = 1 := rfl
  have f15 : fld 1 0 (put 2 t 0x2C000001) = 1 := fld_put_below (by decide) (by decide) f14
  have f16 : fld 1 0 (put 5 b (put 2 t 0x2C000001)) = 1 := fld_put_below (by decide) (by decide) f15
  have f17 : fld 1 0 (put 12 a (put 5 b (put 2 t 0x2C000001))) = 1 := fld_put_below (by decide) (by decide) f16
  have f18 : fld 18 12 (put 12 a (put 5 b (put 2 t 0x2C000001))) = a.toNat := fld_put_eq rfl f5
  have f19 : fld 11 5 (put 5 b (put 2 t 0x2C000001)) = b.toNat := fld_put_eq rfl f2
  have f20 : fld 11 5 (put 12 a (put 5 b (put 2 t 0x2C000001))) = b.toNat := fld_put_below (by decide) (by decide) f19
  have f21 : fld 4 2 (put 2 t 0x2C000001) = t.toNat := fld_put_eq rfl f0
  have f22 : fld 4 2 (put 5 b (put 2 t 0x2C000001)) = t.toNat := fld_put_below (by decide) (by decide) f21
  have f23 : fld 4 2 (put 12 a (put 5 b (put 2 t 0x2C000001))) = t.toNat := fld_put_below (by decide) (by decide) f22
  have h0 : fld 31 26 (put 19 d (put 12 a (put 5 b (put 2 t 0x2C000001)))) = 11 := fld_put_above (by decide) (by decide) f9 f13
  have h1 : fld 1 0 (put 19 d (put 12 a (put 5 b (put 2 t 0x2C000001)))) = 1 := fld_put_below (by decide) (by decide) f17
  have h2 : BitVec.ofNat 7 (fld 25 19 (put 19 d (put 12 a (put 5 b (put 2 t 0x2C000001))))) = d := ofNat_fld (fld_put_eq rfl f9)
  have h3 : BitVec.ofNat 7 (fld 18 12 (put 19 d (put 12 a (put 5 b (put 2 t 0x2C000001))))) = a := ofNat_fld (fld_put_below (by decide) (by decide) f18)
  have h4 : BitVec.ofNat 7 (fld 11 5 (put 19 d (put 12 a (put 5 b (put 2 t 0x2C000001))))) = b := ofNat_fld (fld_put_below (by decide) (by decide) f20)
  have h5 : BitVec.ofNat 3 (fld 4 2 (put 19 d (put 12 a (put 5 b (put 2 t 0x2C000001))))) = t := ofNat_fld (fld_put_below (by decide) (by decide) f23)
  rw [decodeWord_0B h0]
  simp [decodeOp0B, h1, h2, h3, h4, h5]

theorem Sys2Proof.Laws.Encodes.packlo (d : BitVec 7) (a : BitVec 7) (b : BitVec 7) (t : BitVec 2) :
    Sys2Proof.Laws.Encodes.Statement (.packlo d a b t) := by
  rintro w ⟨⟩
  have f0 : fld 3 2 0x2C000002 = 0 := rfl
  have f1 : fld 11 5 0x2C000002 = 0 := rfl
  have f2 : fld 11 5 (put 2 t 0x2C000002) = 0 := fld_put_above (by decide) (by decide) f0 f1
  have f3 : fld 18 12 0x2C000002 = 0 := rfl
  have f4 : fld 18 12 (put 2 t 0x2C000002) = 0 := fld_put_above (by decide) (by decide) f0 f3
  have f5 : fld 18 12 (put 5 b (put 2 t 0x2C000002)) = 0 := fld_put_above (by decide) (by decide) f2 f4
  have f6 : fld 25 19 0x2C000002 = 0 := rfl
  have f7 : fld 25 19 (put 2 t 0x2C000002) = 0 := fld_put_above (by decide) (by decide) f0 f6
  have f8 : fld 25 19 (put 5 b (put 2 t 0x2C000002)) = 0 := fld_put_above (by decide) (by decide) f2 f7
  have f9 : fld 25 19 (put 12 a (put 5 b (put 2 t 0x2C000002))) = 0 := fld_put_above (by decide) (by decide) f5 f8
  have f10 : fld 31 26 0x2C000002 = 11 := rfl
  have f11 : fld 31 26 (put 2 t 0x2C000002) = 11 := fld_put_above (by decide) (by decide) f0 f10
  have f12 : fld 31 26 (put 5 b (put 2 t 0x2C000002)) = 11 := fld_put_above (by decide) (by decide) f2 f11
  have f13 : fld 31 26 (put 12 a (put 5 b (put 2 t 0x2C000002))) = 11 := fld_put_above (by decide) (by decide) f5 f12
  have f14 : fld 1 0 0x2C000002 = 2 := rfl
  have f15 : fld 1 0 (put 2 t 0x2C000002) = 2 := fld_put_below (by decide) (by decide) f14
  have f16 : fld 1 0 (put 5 b (put 2 t 0x2C000002)) = 2 := fld_put_below (by decide) (by decide) f15
  have f17 : fld 1 0 (put 12 a (put 5 b (put 2 t 0x2C000002))) = 2 := fld_put_below (by decide) (by decide) f16
  have f18 : fld 4 4 0x2C000002 = 0 := rfl
  have f19 : fld 4 4 (put 2 t 0x2C000002) = 0 := fld_put_above (by decide) (by decide) f0 f18
  have f20 : fld 4 4 (put 5 b (put 2 t 0x2C000002)) = 0 := fld_put_below (by decide) (by decide) f19
  have f21 : fld 4 4 (put 12 a (put 5 b (put 2 t 0x2C000002))) = 0 := fld_put_below (by decide) (by decide) f20
  have f22 : fld 18 12 (put 12 a (put 5 b (put 2 t 0x2C000002))) = a.toNat := fld_put_eq rfl f5
  have f23 : fld 11 5 (put 5 b (put 2 t 0x2C000002)) = b.toNat := fld_put_eq rfl f2
  have f24 : fld 11 5 (put 12 a (put 5 b (put 2 t 0x2C000002))) = b.toNat := fld_put_below (by decide) (by decide) f23
  have f25 : fld 3 2 (put 2 t 0x2C000002) = t.toNat := fld_put_eq rfl f0
  have f26 : fld 3 2 (put 5 b (put 2 t 0x2C000002)) = t.toNat := fld_put_below (by decide) (by decide) f25
  have f27 : fld 3 2 (put 12 a (put 5 b (put 2 t 0x2C000002))) = t.toNat := fld_put_below (by decide) (by decide) f26
  have h0 : fld 31 26 (put 19 d (put 12 a (put 5 b (put 2 t 0x2C000002)))) = 11 := fld_put_above (by decide) (by decide) f9 f13
  have h1 : fld 1 0 (put 19 d (put 12 a (put 5 b (put 2 t 0x2C000002)))) = 2 := fld_put_below (by decide) (by decide) f17
  have h2 : fld 4 4 (put 19 d (put 12 a (put 5 b (put 2 t 0x2C000002)))) = 0 := fld_put_below (by decide) (by decide) f21
  have h3 : BitVec.ofNat 7 (fld 25 19 (put 19 d (put 12 a (put 5 b (put 2 t 0x2C000002))))) = d := ofNat_fld (fld_put_eq rfl f9)
  have h4 : BitVec.ofNat 7 (fld 18 12 (put 19 d (put 12 a (put 5 b (put 2 t 0x2C000002))))) = a := ofNat_fld (fld_put_below (by decide) (by decide) f22)
  have h5 : BitVec.ofNat 7 (fld 11 5 (put 19 d (put 12 a (put 5 b (put 2 t 0x2C000002))))) = b := ofNat_fld (fld_put_below (by decide) (by decide) f24)
  have h6 : BitVec.ofNat 2 (fld 3 2 (put 19 d (put 12 a (put 5 b (put 2 t 0x2C000002))))) = t := ofNat_fld (fld_put_below (by decide) (by decide) f27)
  rw [decodeWord_0B h0]
  simp [decodeOp0B, h1, h2, h3, h4, h5, h6]

theorem Sys2Proof.Laws.Encodes.packhi (d : BitVec 7) (a : BitVec 7) (b : BitVec 7) (t : BitVec 2) :
    Sys2Proof.Laws.Encodes.Statement (.packhi d a b t) := by
  rintro w ⟨⟩
  have f0 : fld 3 2 0x2C000003 = 0 := rfl
  have f1 : fld 11 5 0x2C000003 = 0 := rfl
  have f2 : fld 11 5 (put 2 t 0x2C000003) = 0 := fld_put_above (by decide) (by decide) f0 f1
  have f3 : fld 18 12 0x2C000003 = 0 := rfl
  have f4 : fld 18 12 (put 2 t 0x2C000003) = 0 := fld_put_above (by decide) (by decide) f0 f3
  have f5 : fld 18 12 (put 5 b (put 2 t 0x2C000003)) = 0 := fld_put_above (by decide) (by decide) f2 f4
  have f6 : fld 25 19 0x2C000003 = 0 := rfl
  have f7 : fld 25 19 (put 2 t 0x2C000003) = 0 := fld_put_above (by decide) (by decide) f0 f6
  have f8 : fld 25 19 (put 5 b (put 2 t 0x2C000003)) = 0 := fld_put_above (by decide) (by decide) f2 f7
  have f9 : fld 25 19 (put 12 a (put 5 b (put 2 t 0x2C000003))) = 0 := fld_put_above (by decide) (by decide) f5 f8
  have f10 : fld 31 26 0x2C000003 = 11 := rfl
  have f11 : fld 31 26 (put 2 t 0x2C000003) = 11 := fld_put_above (by decide) (by decide) f0 f10
  have f12 : fld 31 26 (put 5 b (put 2 t 0x2C000003)) = 11 := fld_put_above (by decide) (by decide) f2 f11
  have f13 : fld 31 26 (put 12 a (put 5 b (put 2 t 0x2C000003))) = 11 := fld_put_above (by decide) (by decide) f5 f12
  have f14 : fld 1 0 0x2C000003 = 3 := rfl
  have f15 : fld 1 0 (put 2 t 0x2C000003) = 3 := fld_put_below (by decide) (by decide) f14
  have f16 : fld 1 0 (put 5 b (put 2 t 0x2C000003)) = 3 := fld_put_below (by decide) (by decide) f15
  have f17 : fld 1 0 (put 12 a (put 5 b (put 2 t 0x2C000003))) = 3 := fld_put_below (by decide) (by decide) f16
  have f18 : fld 4 4 0x2C000003 = 0 := rfl
  have f19 : fld 4 4 (put 2 t 0x2C000003) = 0 := fld_put_above (by decide) (by decide) f0 f18
  have f20 : fld 4 4 (put 5 b (put 2 t 0x2C000003)) = 0 := fld_put_below (by decide) (by decide) f19
  have f21 : fld 4 4 (put 12 a (put 5 b (put 2 t 0x2C000003))) = 0 := fld_put_below (by decide) (by decide) f20
  have f22 : fld 18 12 (put 12 a (put 5 b (put 2 t 0x2C000003))) = a.toNat := fld_put_eq rfl f5
  have f23 : fld 11 5 (put 5 b (put 2 t 0x2C000003)) = b.toNat := fld_put_eq rfl f2
  have f24 : fld 11 5 (put 12 a (put 5 b (put 2 t 0x2C000003))) = b.toNat := fld_put_below (by decide) (by decide) f23
  have f25 : fld 3 2 (put 2 t 0x2C000003) = t.toNat := fld_put_eq rfl f0
  have f26 : fld 3 2 (put 5 b (put 2 t 0x2C000003)) = t.toNat := fld_put_below (by decide) (by decide) f25
  have f27 : fld 3 2 (put 12 a (put 5 b (put 2 t 0x2C000003))) = t.toNat := fld_put_below (by decide) (by decide) f26
  have h0 : fld 31 26 (put 19 d (put 12 a (put 5 b (put 2 t 0x2C000003)))) = 11 := fld_put_above (by decide) (by decide) f9 f13
  have h1 : fld 1 0 (put 19 d (put 12 a (put 5 b (put 2 t 0x2C000003)))) = 3 := fld_put_below (by decide) (by decide) f17
  have h2 : fld 4 4 (put 19 d (put 12 a (put 5 b (put 2 t 0x2C000003)))) = 0 := fld_put_below (by decide) (by decide) f21
  have h3 : BitVec.ofNat 7 (fld 25 19 (put 19 d (put 12 a (put 5 b (put 2 t 0x2C000003))))) = d := ofNat_fld (fld_put_eq rfl f9)
  have h4 : BitVec.ofNat 7 (fld 18 12 (put 19 d (put 12 a (put 5 b (put 2 t 0x2C000003))))) = a := ofNat_fld (fld_put_below (by decide) (by decide) f22)
  have h5 : BitVec.ofNat 7 (fld 11 5 (put 19 d (put 12 a (put 5 b (put 2 t 0x2C000003))))) = b := ofNat_fld (fld_put_below (by decide) (by decide) f24)
  have h6 : BitVec.ofNat 2 (fld 3 2 (put 19 d (put 12 a (put 5 b (put 2 t 0x2C000003))))) = t := ofNat_fld (fld_put_below (by decide) (by decide) f27)
  rw [decodeWord_0B h0]
  simp [decodeOp0B, h1, h2, h3, h4, h5, h6]

theorem Sys2Proof.Laws.Encodes.fadd (d : BitVec 7) (a : BitVec 7) (b : BitVec 7) (t : BitVec 2) :
    Sys2Proof.Laws.Encodes.Statement (.fadd d a b t) := by
  rintro w ⟨⟩
  have f0 : fld 3 2 0x30000010 = 0 := rfl
  have f1 : fld 11 5 0x30000010 = 0 := rfl
  have f2 : fld 11 5 (put 2 t 0x30000010) = 0 := fld_put_above (by decide) (by decide) f0 f1
  have f3 : fld 18 12 0x30000010 = 0 := rfl
  have f4 : fld 18 12 (put 2 t 0x30000010) = 0 := fld_put_above (by decide) (by decide) f0 f3
  have f5 : fld 18 12 (put 5 b (put 2 t 0x30000010)) = 0 := fld_put_above (by decide) (by decide) f2 f4
  have f6 : fld 25 19 0x30000010 = 0 := rfl
  have f7 : fld 25 19 (put 2 t 0x30000010) = 0 := fld_put_above (by decide) (by decide) f0 f6
  have f8 : fld 25 19 (put 5 b (put 2 t 0x30000010)) = 0 := fld_put_above (by decide) (by decide) f2 f7
  have f9 : fld 25 19 (put 12 a (put 5 b (put 2 t 0x30000010))) = 0 := fld_put_above (by decide) (by decide) f5 f8
  have f10 : fld 31 26 0x30000010 = 12 := rfl
  have f11 : fld 31 26 (put 2 t 0x30000010) = 12 := fld_put_above (by decide) (by decide) f0 f10
  have f12 : fld 31 26 (put 5 b (put 2 t 0x30000010)) = 12 := fld_put_above (by decide) (by decide) f2 f11
  have f13 : fld 31 26 (put 12 a (put 5 b (put 2 t 0x30000010))) = 12 := fld_put_above (by decide) (by decide) f5 f12
  have f14 : fld 1 0 0x30000010 = 0 := rfl
  have f15 : fld 1 0 (put 2 t 0x30000010) = 0 := fld_put_below (by decide) (by decide) f14
  have f16 : fld 1 0 (put 5 b (put 2 t 0x30000010)) = 0 := fld_put_below (by decide) (by decide) f15
  have f17 : fld 1 0 (put 12 a (put 5 b (put 2 t 0x30000010))) = 0 := fld_put_below (by decide) (by decide) f16
  have f18 : fld 4 4 0x30000010 = 1 := rfl
  have f19 : fld 4 4 (put 2 t 0x30000010) = 1 := fld_put_above (by decide) (by decide) f0 f18
  have f20 : fld 4 4 (put 5 b (put 2 t 0x30000010)) = 1 := fld_put_below (by decide) (by decide) f19
  have f21 : fld 4 4 (put 12 a (put 5 b (put 2 t 0x30000010))) = 1 := fld_put_below (by decide) (by decide) f20
  have f22 : fld 18 12 (put 12 a (put 5 b (put 2 t 0x30000010))) = a.toNat := fld_put_eq rfl f5
  have f23 : fld 11 5 (put 5 b (put 2 t 0x30000010)) = b.toNat := fld_put_eq rfl f2
  have f24 : fld 11 5 (put 12 a (put 5 b (put 2 t 0x30000010))) = b.toNat := fld_put_below (by decide) (by decide) f23
  have f25 : fld 3 2 (put 2 t 0x30000010) = t.toNat := fld_put_eq rfl f0
  have f26 : fld 3 2 (put 5 b (put 2 t 0x30000010)) = t.toNat := fld_put_below (by decide) (by decide) f25
  have f27 : fld 3 2 (put 12 a (put 5 b (put 2 t 0x30000010))) = t.toNat := fld_put_below (by decide) (by decide) f26
  have h0 : fld 31 26 (put 19 d (put 12 a (put 5 b (put 2 t 0x30000010)))) = 12 := fld_put_above (by decide) (by decide) f9 f13
  have h1 : fld 1 0 (put 19 d (put 12 a (put 5 b (put 2 t 0x30000010)))) = 0 := fld_put_below (by decide) (by decide) f17
  have h2 : fld 4 4 (put 19 d (put 12 a (put 5 b (put 2 t 0x30000010)))) = 1 := fld_put_below (by decide) (by decide) f21
  have h3 : BitVec.ofNat 7 (fld 25 19 (put 19 d (put 12 a (put 5 b (put 2 t 0x30000010))))) = d := ofNat_fld (fld_put_eq rfl f9)
  have h4 : BitVec.ofNat 7 (fld 18 12 (put 19 d (put 12 a (put 5 b (put 2 t 0x30000010))))) = a := ofNat_fld (fld_put_below (by decide) (by decide) f22)
  have h5 : BitVec.ofNat 7 (fld 11 5 (put 19 d (put 12 a (put 5 b (put 2 t 0x30000010))))) = b := ofNat_fld (fld_put_below (by decide) (by decide) f24)
  have h6 : BitVec.ofNat 2 (fld 3 2 (put 19 d (put 12 a (put 5 b (put 2 t 0x30000010))))) = t := ofNat_fld (fld_put_below (by decide) (by decide) f27)
  rw [decodeWord_0C h0]
  simp [decodeOp0C, h1, h2, h3, h4, h5, h6]

theorem Sys2Proof.Laws.Encodes.fsub (d : BitVec 7) (a : BitVec 7) (b : BitVec 7) (t : BitVec 2) :
    Sys2Proof.Laws.Encodes.Statement (.fsub d a b t) := by
  rintro w ⟨⟩
  have f0 : fld 3 2 0x30000011 = 0 := rfl
  have f1 : fld 11 5 0x30000011 = 0 := rfl
  have f2 : fld 11 5 (put 2 t 0x30000011) = 0 := fld_put_above (by decide) (by decide) f0 f1
  have f3 : fld 18 12 0x30000011 = 0 := rfl
  have f4 : fld 18 12 (put 2 t 0x30000011) = 0 := fld_put_above (by decide) (by decide) f0 f3
  have f5 : fld 18 12 (put 5 b (put 2 t 0x30000011)) = 0 := fld_put_above (by decide) (by decide) f2 f4
  have f6 : fld 25 19 0x30000011 = 0 := rfl
  have f7 : fld 25 19 (put 2 t 0x30000011) = 0 := fld_put_above (by decide) (by decide) f0 f6
  have f8 : fld 25 19 (put 5 b (put 2 t 0x30000011)) = 0 := fld_put_above (by decide) (by decide) f2 f7
  have f9 : fld 25 19 (put 12 a (put 5 b (put 2 t 0x30000011))) = 0 := fld_put_above (by decide) (by decide) f5 f8
  have f10 : fld 31 26 0x30000011 = 12 := rfl
  have f11 : fld 31 26 (put 2 t 0x30000011) = 12 := fld_put_above (by decide) (by decide) f0 f10
  have f12 : fld 31 26 (put 5 b (put 2 t 0x30000011)) = 12 := fld_put_above (by decide) (by decide) f2 f11
  have f13 : fld 31 26 (put 12 a (put 5 b (put 2 t 0x30000011))) = 12 := fld_put_above (by decide) (by decide) f5 f12
  have f14 : fld 1 0 0x30000011 = 1 := rfl
  have f15 : fld 1 0 (put 2 t 0x30000011) = 1 := fld_put_below (by decide) (by decide) f14
  have f16 : fld 1 0 (put 5 b (put 2 t 0x30000011)) = 1 := fld_put_below (by decide) (by decide) f15
  have f17 : fld 1 0 (put 12 a (put 5 b (put 2 t 0x30000011))) = 1 := fld_put_below (by decide) (by decide) f16
  have f18 : fld 4 4 0x30000011 = 1 := rfl
  have f19 : fld 4 4 (put 2 t 0x30000011) = 1 := fld_put_above (by decide) (by decide) f0 f18
  have f20 : fld 4 4 (put 5 b (put 2 t 0x30000011)) = 1 := fld_put_below (by decide) (by decide) f19
  have f21 : fld 4 4 (put 12 a (put 5 b (put 2 t 0x30000011))) = 1 := fld_put_below (by decide) (by decide) f20
  have f22 : fld 18 12 (put 12 a (put 5 b (put 2 t 0x30000011))) = a.toNat := fld_put_eq rfl f5
  have f23 : fld 11 5 (put 5 b (put 2 t 0x30000011)) = b.toNat := fld_put_eq rfl f2
  have f24 : fld 11 5 (put 12 a (put 5 b (put 2 t 0x30000011))) = b.toNat := fld_put_below (by decide) (by decide) f23
  have f25 : fld 3 2 (put 2 t 0x30000011) = t.toNat := fld_put_eq rfl f0
  have f26 : fld 3 2 (put 5 b (put 2 t 0x30000011)) = t.toNat := fld_put_below (by decide) (by decide) f25
  have f27 : fld 3 2 (put 12 a (put 5 b (put 2 t 0x30000011))) = t.toNat := fld_put_below (by decide) (by decide) f26
  have h0 : fld 31 26 (put 19 d (put 12 a (put 5 b (put 2 t 0x30000011)))) = 12 := fld_put_above (by decide) (by decide) f9 f13
  have h1 : fld 1 0 (put 19 d (put 12 a (put 5 b (put 2 t 0x30000011)))) = 1 := fld_put_below (by decide) (by decide) f17
  have h2 : fld 4 4 (put 19 d (put 12 a (put 5 b (put 2 t 0x30000011)))) = 1 := fld_put_below (by decide) (by decide) f21
  have h3 : BitVec.ofNat 7 (fld 25 19 (put 19 d (put 12 a (put 5 b (put 2 t 0x30000011))))) = d := ofNat_fld (fld_put_eq rfl f9)
  have h4 : BitVec.ofNat 7 (fld 18 12 (put 19 d (put 12 a (put 5 b (put 2 t 0x30000011))))) = a := ofNat_fld (fld_put_below (by decide) (by decide) f22)
  have h5 : BitVec.ofNat 7 (fld 11 5 (put 19 d (put 12 a (put 5 b (put 2 t 0x30000011))))) = b := ofNat_fld (fld_put_below (by decide) (by decide) f24)
  have h6 : BitVec.ofNat 2 (fld 3 2 (put 19 d (put 12 a (put 5 b (put 2 t 0x30000011))))) = t := ofNat_fld (fld_put_below (by decide) (by decide) f27)
  rw [decodeWord_0C h0]
  simp [decodeOp0C, h1, h2, h3, h4, h5, h6]

theorem Sys2Proof.Laws.Encodes.fmul (d : BitVec 7) (a : BitVec 7) (b : BitVec 7) (t : BitVec 2) :
    Sys2Proof.Laws.Encodes.Statement (.fmul d a b t) := by
  rintro w ⟨⟩
  have f0 : fld 3 2 0x30000012 = 0 := rfl
  have f1 : fld 11 5 0x30000012 = 0 := rfl
  have f2 : fld 11 5 (put 2 t 0x30000012) = 0 := fld_put_above (by decide) (by decide) f0 f1
  have f3 : fld 18 12 0x30000012 = 0 := rfl
  have f4 : fld 18 12 (put 2 t 0x30000012) = 0 := fld_put_above (by decide) (by decide) f0 f3
  have f5 : fld 18 12 (put 5 b (put 2 t 0x30000012)) = 0 := fld_put_above (by decide) (by decide) f2 f4
  have f6 : fld 25 19 0x30000012 = 0 := rfl
  have f7 : fld 25 19 (put 2 t 0x30000012) = 0 := fld_put_above (by decide) (by decide) f0 f6
  have f8 : fld 25 19 (put 5 b (put 2 t 0x30000012)) = 0 := fld_put_above (by decide) (by decide) f2 f7
  have f9 : fld 25 19 (put 12 a (put 5 b (put 2 t 0x30000012))) = 0 := fld_put_above (by decide) (by decide) f5 f8
  have f10 : fld 31 26 0x30000012 = 12 := rfl
  have f11 : fld 31 26 (put 2 t 0x30000012) = 12 := fld_put_above (by decide) (by decide) f0 f10
  have f12 : fld 31 26 (put 5 b (put 2 t 0x30000012)) = 12 := fld_put_above (by decide) (by decide) f2 f11
  have f13 : fld 31 26 (put 12 a (put 5 b (put 2 t 0x30000012))) = 12 := fld_put_above (by decide) (by decide) f5 f12
  have f14 : fld 1 0 0x30000012 = 2 := rfl
  have f15 : fld 1 0 (put 2 t 0x30000012) = 2 := fld_put_below (by decide) (by decide) f14
  have f16 : fld 1 0 (put 5 b (put 2 t 0x30000012)) = 2 := fld_put_below (by decide) (by decide) f15
  have f17 : fld 1 0 (put 12 a (put 5 b (put 2 t 0x30000012))) = 2 := fld_put_below (by decide) (by decide) f16
  have f18 : fld 4 4 0x30000012 = 1 := rfl
  have f19 : fld 4 4 (put 2 t 0x30000012) = 1 := fld_put_above (by decide) (by decide) f0 f18
  have f20 : fld 4 4 (put 5 b (put 2 t 0x30000012)) = 1 := fld_put_below (by decide) (by decide) f19
  have f21 : fld 4 4 (put 12 a (put 5 b (put 2 t 0x30000012))) = 1 := fld_put_below (by decide) (by decide) f20
  have f22 : fld 18 12 (put 12 a (put 5 b (put 2 t 0x30000012))) = a.toNat := fld_put_eq rfl f5
  have f23 : fld 11 5 (put 5 b (put 2 t 0x30000012)) = b.toNat := fld_put_eq rfl f2
  have f24 : fld 11 5 (put 12 a (put 5 b (put 2 t 0x30000012))) = b.toNat := fld_put_below (by decide) (by decide) f23
  have f25 : fld 3 2 (put 2 t 0x30000012) = t.toNat := fld_put_eq rfl f0
  have f26 : fld 3 2 (put 5 b (put 2 t 0x30000012)) = t.toNat := fld_put_below (by decide) (by decide) f25
  have f27 : fld 3 2 (put 12 a (put 5 b (put 2 t 0x30000012))) = t.toNat := fld_put_below (by decide) (by decide) f26
  have h0 : fld 31 26 (put 19 d (put 12 a (put 5 b (put 2 t 0x30000012)))) = 12 := fld_put_above (by decide) (by decide) f9 f13
  have h1 : fld 1 0 (put 19 d (put 12 a (put 5 b (put 2 t 0x30000012)))) = 2 := fld_put_below (by decide) (by decide) f17
  have h2 : fld 4 4 (put 19 d (put 12 a (put 5 b (put 2 t 0x30000012)))) = 1 := fld_put_below (by decide) (by decide) f21
  have h3 : BitVec.ofNat 7 (fld 25 19 (put 19 d (put 12 a (put 5 b (put 2 t 0x30000012))))) = d := ofNat_fld (fld_put_eq rfl f9)
  have h4 : BitVec.ofNat 7 (fld 18 12 (put 19 d (put 12 a (put 5 b (put 2 t 0x30000012))))) = a := ofNat_fld (fld_put_below (by decide) (by decide) f22)
  have h5 : BitVec.ofNat 7 (fld 11 5 (put 19 d (put 12 a (put 5 b (put 2 t 0x30000012))))) = b := ofNat_fld (fld_put_below (by decide) (by decide) f24)
  have h6 : BitVec.ofNat 2 (fld 3 2 (put 19 d (put 12 a (put 5 b (put 2 t 0x30000012))))) = t := ofNat_fld (fld_put_below (by decide) (by decide) f27)
  rw [decodeWord_0C h0]
  simp [decodeOp0C, h1, h2, h3, h4, h5, h6]

theorem Sys2Proof.Laws.Encodes.fma (d : BitVec 7) (a : BitVec 7) (b : BitVec 7) (t : BitVec 2) :
    Sys2Proof.Laws.Encodes.Statement (.fma d a b t) := by
  rintro w ⟨⟩
  have f0 : fld 3 2 0x30000013 = 0 := rfl
  have f1 : fld 11 5 0x30000013 = 0 := rfl
  have f2 : fld 11 5 (put 2 t 0x30000013) = 0 := fld_put_above (by decide) (by decide) f0 f1
  have f3 : fld 18 12 0x30000013 = 0 := rfl
  have f4 : fld 18 12 (put 2 t 0x30000013) = 0 := fld_put_above (by decide) (by decide) f0 f3
  have f5 : fld 18 12 (put 5 b (put 2 t 0x30000013)) = 0 := fld_put_above (by decide) (by decide) f2 f4
  have f6 : fld 25 19 0x30000013 = 0 := rfl
  have f7 : fld 25 19 (put 2 t 0x30000013) = 0 := fld_put_above (by decide) (by decide) f0 f6
  have f8 : fld 25 19 (put 5 b (put 2 t 0x30000013)) = 0 := fld_put_above (by decide) (by decide) f2 f7
  have f9 : fld 25 19 (put 12 a (put 5 b (put 2 t 0x30000013))) = 0 := fld_put_above (by decide) (by decide) f5 f8
  have f10 : fld 31 26 0x30000013 = 12 := rfl
  have f11 : fld 31 26 (put 2 t 0x30000013) = 12 := fld_put_above (by decide) (by decide) f0 f10
  have f12 : fld 31 26 (put 5 b (put 2 t 0x30000013)) = 12 := fld_put_above (by decide) (by decide) f2 f11
  have f13 : fld 31 26 (put 12 a (put 5 b (put 2 t 0x30000013))) = 12 := fld_put_above (by decide) (by decide) f5 f12
  have f14 : fld 1 0 0x30000013 = 3 := rfl
  have f15 : fld 1 0 (put 2 t 0x30000013) = 3 := fld_put_below (by decide) (by decide) f14
  have f16 : fld 1 0 (put 5 b (put 2 t 0x30000013)) = 3 := fld_put_below (by decide) (by decide) f15
  have f17 : fld 1 0 (put 12 a (put 5 b (put 2 t 0x30000013))) = 3 := fld_put_below (by decide) (by decide) f16
  have f18 : fld 4 4 0x30000013 = 1 := rfl
  have f19 : fld 4 4 (put 2 t 0x30000013) = 1 := fld_put_above (by decide) (by decide) f0 f18
  have f20 : fld 4 4 (put 5 b (put 2 t 0x30000013)) = 1 := fld_put_below (by decide) (by decide) f19
  have f21 : fld 4 4 (put 12 a (put 5 b (put 2 t 0x30000013))) = 1 := fld_put_below (by decide) (by decide) f20
  have f22 : fld 18 12 (put 12 a (put 5 b (put 2 t 0x30000013))) = a.toNat := fld_put_eq rfl f5
  have f23 : fld 11 5 (put 5 b (put 2 t 0x30000013)) = b.toNat := fld_put_eq rfl f2
  have f24 : fld 11 5 (put 12 a (put 5 b (put 2 t 0x30000013))) = b.toNat := fld_put_below (by decide) (by decide) f23
  have f25 : fld 3 2 (put 2 t 0x30000013) = t.toNat := fld_put_eq rfl f0
  have f26 : fld 3 2 (put 5 b (put 2 t 0x30000013)) = t.toNat := fld_put_below (by decide) (by decide) f25
  have f27 : fld 3 2 (put 12 a (put 5 b (put 2 t 0x30000013))) = t.toNat := fld_put_below (by decide) (by decide) f26
  have h0 : fld 31 26 (put 19 d (put 12 a (put 5 b (put 2 t 0x30000013)))) = 12 := fld_put_above (by decide) (by decide) f9 f13
  have h1 : fld 1 0 (put 19 d (put 12 a (put 5 b (put 2 t 0x30000013)))) = 3 := fld_put_below (by decide) (by decide) f17
  have h2 : fld 4 4 (put 19 d (put 12 a (put 5 b (put 2 t 0x30000013)))) = 1 := fld_put_below (by decide) (by decide) f21
  have h3 : BitVec.ofNat 7 (fld 25 19 (put 19 d (put 12 a (put 5 b (put 2 t 0x30000013))))) = d := ofNat_fld (fld_put_eq rfl f9)
  have h4 : BitVec.ofNat 7 (fld 18 12 (put 19 d (put 12 a (put 5 b (put 2 t 0x30000013))))) = a := ofNat_fld (fld_put_below (by decide) (by decide) f22)
  have h5 : BitVec.ofNat 7 (fld 11 5 (put 19 d (put 12 a (put 5 b (put 2 t 0x30000013))))) = b := ofNat_fld (fld_put_below (by decide) (by decide) f24)
  have h6 : BitVec.ofNat 2 (fld 3 2 (put 19 d (put 12 a (put 5 b (put 2 t 0x30000013))))) = t := ofNat_fld (fld_put_below (by decide) (by decide) f27)
  rw [decodeWord_0C h0]
  simp [decodeOp0C, h1, h2, h3, h4, h5, h6]

theorem Sys2Proof.Laws.Encodes.fmin (d : BitVec 7) (a : BitVec 7) (b : BitVec 7) (t : BitVec 2) :
    Sys2Proof.Laws.Encodes.Statement (.fmin d a b t) := by
  rintro w ⟨⟩
  have f0 : fld 3 2 0x34000010 = 0 := rfl
  have f1 : fld 11 5 0x34000010 = 0 := rfl
  have f2 : fld 11 5 (put 2 t 0x34000010) = 0 := fld_put_above (by decide) (by decide) f0 f1
  have f3 : fld 18 12 0x34000010 = 0 := rfl
  have f4 : fld 18 12 (put 2 t 0x34000010) = 0 := fld_put_above (by decide) (by decide) f0 f3
  have f5 : fld 18 12 (put 5 b (put 2 t 0x34000010)) = 0 := fld_put_above (by decide) (by decide) f2 f4
  have f6 : fld 25 19 0x34000010 = 0 := rfl
  have f7 : fld 25 19 (put 2 t 0x34000010) = 0 := fld_put_above (by decide) (by decide) f0 f6
  have f8 : fld 25 19 (put 5 b (put 2 t 0x34000010)) = 0 := fld_put_above (by decide) (by decide) f2 f7
  have f9 : fld 25 19 (put 12 a (put 5 b (put 2 t 0x34000010))) = 0 := fld_put_above (by decide) (by decide) f5 f8
  have f10 : fld 31 26 0x34000010 = 13 := rfl
  have f11 : fld 31 26 (put 2 t 0x34000010) = 13 := fld_put_above (by decide) (by decide) f0 f10
  have f12 : fld 31 26 (put 5 b (put 2 t 0x34000010)) = 13 := fld_put_above (by decide) (by decide) f2 f11
  have f13 : fld 31 26 (put 12 a (put 5 b (put 2 t 0x34000010))) = 13 := fld_put_above (by decide) (by decide) f5 f12
  have f14 : fld 1 0 0x34000010 = 0 := rfl
  have f15 : fld 1 0 (put 2 t 0x34000010) = 0 := fld_put_below (by decide) (by decide) f14
  have f16 : fld 1 0 (put 5 b (put 2 t 0x34000010)) = 0 := fld_put_below (by decide) (by decide) f15
  have f17 : fld 1 0 (put 12 a (put 5 b (put 2 t 0x34000010))) = 0 := fld_put_below (by decide) (by decide) f16
  have f18 : fld 4 4 0x34000010 = 1 := rfl
  have f19 : fld 4 4 (put 2 t 0x34000010) = 1 := fld_put_above (by decide) (by decide) f0 f18
  have f20 : fld 4 4 (put 5 b (put 2 t 0x34000010)) = 1 := fld_put_below (by decide) (by decide) f19
  have f21 : fld 4 4 (put 12 a (put 5 b (put 2 t 0x34000010))) = 1 := fld_put_below (by decide) (by decide) f20
  have f22 : fld 18 12 (put 12 a (put 5 b (put 2 t 0x34000010))) = a.toNat := fld_put_eq rfl f5
  have f23 : fld 11 5 (put 5 b (put 2 t 0x34000010)) = b.toNat := fld_put_eq rfl f2
  have f24 : fld 11 5 (put 12 a (put 5 b (put 2 t 0x34000010))) = b.toNat := fld_put_below (by decide) (by decide) f23
  have f25 : fld 3 2 (put 2 t 0x34000010) = t.toNat := fld_put_eq rfl f0
  have f26 : fld 3 2 (put 5 b (put 2 t 0x34000010)) = t.toNat := fld_put_below (by decide) (by decide) f25
  have f27 : fld 3 2 (put 12 a (put 5 b (put 2 t 0x34000010))) = t.toNat := fld_put_below (by decide) (by decide) f26
  have h0 : fld 31 26 (put 19 d (put 12 a (put 5 b (put 2 t 0x34000010)))) = 13 := fld_put_above (by decide) (by decide) f9 f13
  have h1 : fld 1 0 (put 19 d (put 12 a (put 5 b (put 2 t 0x34000010)))) = 0 := fld_put_below (by decide) (by decide) f17
  have h2 : fld 4 4 (put 19 d (put 12 a (put 5 b (put 2 t 0x34000010)))) = 1 := fld_put_below (by decide) (by decide) f21
  have h3 : BitVec.ofNat 7 (fld 25 19 (put 19 d (put 12 a (put 5 b (put 2 t 0x34000010))))) = d := ofNat_fld (fld_put_eq rfl f9)
  have h4 : BitVec.ofNat 7 (fld 18 12 (put 19 d (put 12 a (put 5 b (put 2 t 0x34000010))))) = a := ofNat_fld (fld_put_below (by decide) (by decide) f22)
  have h5 : BitVec.ofNat 7 (fld 11 5 (put 19 d (put 12 a (put 5 b (put 2 t 0x34000010))))) = b := ofNat_fld (fld_put_below (by decide) (by decide) f24)
  have h6 : BitVec.ofNat 2 (fld 3 2 (put 19 d (put 12 a (put 5 b (put 2 t 0x34000010))))) = t := ofNat_fld (fld_put_below (by decide) (by decide) f27)
  rw [decodeWord_0D h0]
  simp [decodeOp0D, h1, h2, h3, h4, h5, h6]

theorem Sys2Proof.Laws.Encodes.fmax (d : BitVec 7) (a : BitVec 7) (b : BitVec 7) (t : BitVec 2) :
    Sys2Proof.Laws.Encodes.Statement (.fmax d a b t) := by
  rintro w ⟨⟩
  have f0 : fld 3 2 0x34000011 = 0 := rfl
  have f1 : fld 11 5 0x34000011 = 0 := rfl
  have f2 : fld 11 5 (put 2 t 0x34000011) = 0 := fld_put_above (by decide) (by decide) f0 f1
  have f3 : fld 18 12 0x34000011 = 0 := rfl
  have f4 : fld 18 12 (put 2 t 0x34000011) = 0 := fld_put_above (by decide) (by decide) f0 f3
  have f5 : fld 18 12 (put 5 b (put 2 t 0x34000011)) = 0 := fld_put_above (by decide) (by decide) f2 f4
  have f6 : fld 25 19 0x34000011 = 0 := rfl
  have f7 : fld 25 19 (put 2 t 0x34000011) = 0 := fld_put_above (by decide) (by decide) f0 f6
  have f8 : fld 25 19 (put 5 b (put 2 t 0x34000011)) = 0 := fld_put_above (by decide) (by decide) f2 f7
  have f9 : fld 25 19 (put 12 a (put 5 b (put 2 t 0x34000011))) = 0 := fld_put_above (by decide) (by decide) f5 f8
  have f10 : fld 31 26 0x34000011 = 13 := rfl
  have f11 : fld 31 26 (put 2 t 0x34000011) = 13 := fld_put_above (by decide) (by decide) f0 f10
  have f12 : fld 31 26 (put 5 b (put 2 t 0x34000011)) = 13 := fld_put_above (by decide) (by decide) f2 f11
  have f13 : fld 31 26 (put 12 a (put 5 b (put 2 t 0x34000011))) = 13 := fld_put_above (by decide) (by decide) f5 f12
  have f14 : fld 1 0 0x34000011 = 1 := rfl
  have f15 : fld 1 0 (put 2 t 0x34000011) = 1 := fld_put_below (by decide) (by decide) f14
  have f16 : fld 1 0 (put 5 b (put 2 t 0x34000011)) = 1 := fld_put_below (by decide) (by decide) f15
  have f17 : fld 1 0 (put 12 a (put 5 b (put 2 t 0x34000011))) = 1 := fld_put_below (by decide) (by decide) f16
  have f18 : fld 4 4 0x34000011 = 1 := rfl
  have f19 : fld 4 4 (put 2 t 0x34000011) = 1 := fld_put_above (by decide) (by decide) f0 f18
  have f20 : fld 4 4 (put 5 b (put 2 t 0x34000011)) = 1 := fld_put_below (by decide) (by decide) f19
  have f21 : fld 4 4 (put 12 a (put 5 b (put 2 t 0x34000011))) = 1 := fld_put_below (by decide) (by decide) f20
  have f22 : fld 18 12 (put 12 a (put 5 b (put 2 t 0x34000011))) = a.toNat := fld_put_eq rfl f5
  have f23 : fld 11 5 (put 5 b (put 2 t 0x34000011)) = b.toNat := fld_put_eq rfl f2
  have f24 : fld 11 5 (put 12 a (put 5 b (put 2 t 0x34000011))) = b.toNat := fld_put_below (by decide) (by decide) f23
  have f25 : fld 3 2 (put 2 t 0x34000011) = t.toNat := fld_put_eq rfl f0
  have f26 : fld 3 2 (put 5 b (put 2 t 0x34000011)) = t.toNat := fld_put_below (by decide) (by decide) f25
  have f27 : fld 3 2 (put 12 a (put 5 b (put 2 t 0x34000011))) = t.toNat := fld_put_below (by decide) (by decide) f26
  have h0 : fld 31 26 (put 19 d (put 12 a (put 5 b (put 2 t 0x34000011)))) = 13 := fld_put_above (by decide) (by decide) f9 f13
  have h1 : fld 1 0 (put 19 d (put 12 a (put 5 b (put 2 t 0x34000011)))) = 1 := fld_put_below (by decide) (by decide) f17
  have h2 : fld 4 4 (put 19 d (put 12 a (put 5 b (put 2 t 0x34000011)))) = 1 := fld_put_below (by decide) (by decide) f21
  have h3 : BitVec.ofNat 7 (fld 25 19 (put 19 d (put 12 a (put 5 b (put 2 t 0x34000011))))) = d := ofNat_fld (fld_put_eq rfl f9)
  have h4 : BitVec.ofNat 7 (fld 18 12 (put 19 d (put 12 a (put 5 b (put 2 t 0x34000011))))) = a := ofNat_fld (fld_put_below (by decide) (by decide) f22)
  have h5 : BitVec.ofNat 7 (fld 11 5 (put 19 d (put 12 a (put 5 b (put 2 t 0x34000011))))) = b := ofNat_fld (fld_put_below (by decide) (by decide) f24)
  have h6 : BitVec.ofNat 2 (fld 3 2 (put 19 d (put 12 a (put 5 b (put 2 t 0x34000011))))) = t := ofNat_fld (fld_put_below (by decide) (by decide) f27)
  rw [decodeWord_0D h0]
  simp [decodeOp0D, h1, h2, h3, h4, h5, h6]

theorem Sys2Proof.Laws.Encodes.fminn (d : BitVec 7) (a : BitVec 7) (b : BitVec 7) (t : BitVec 2) :
    Sys2Proof.Laws.Encodes.Statement (.fminn d a b t) := by
  rintro w ⟨⟩
  have f0 : fld 3 2 0x34000012 = 0 := rfl
  have f1 : fld 11 5 0x34000012 = 0 := rfl
  have f2 : fld 11 5 (put 2 t 0x34000012) = 0 := fld_put_above (by decide) (by decide) f0 f1
  have f3 : fld 18 12 0x34000012 = 0 := rfl
  have f4 : fld 18 12 (put 2 t 0x34000012) = 0 := fld_put_above (by decide) (by decide) f0 f3
  have f5 : fld 18 12 (put 5 b (put 2 t 0x34000012)) = 0 := fld_put_above (by decide) (by decide) f2 f4
  have f6 : fld 25 19 0x34000012 = 0 := rfl
  have f7 : fld 25 19 (put 2 t 0x34000012) = 0 := fld_put_above (by decide) (by decide) f0 f6
  have f8 : fld 25 19 (put 5 b (put 2 t 0x34000012)) = 0 := fld_put_above (by decide) (by decide) f2 f7
  have f9 : fld 25 19 (put 12 a (put 5 b (put 2 t 0x34000012))) = 0 := fld_put_above (by decide) (by decide) f5 f8
  have f10 : fld 31 26 0x34000012 = 13 := rfl
  have f11 : fld 31 26 (put 2 t 0x34000012) = 13 := fld_put_above (by decide) (by decide) f0 f10
  have f12 : fld 31 26 (put 5 b (put 2 t 0x34000012)) = 13 := fld_put_above (by decide) (by decide) f2 f11
  have f13 : fld 31 26 (put 12 a (put 5 b (put 2 t 0x34000012))) = 13 := fld_put_above (by decide) (by decide) f5 f12
  have f14 : fld 1 0 0x34000012 = 2 := rfl
  have f15 : fld 1 0 (put 2 t 0x34000012) = 2 := fld_put_below (by decide) (by decide) f14
  have f16 : fld 1 0 (put 5 b (put 2 t 0x34000012)) = 2 := fld_put_below (by decide) (by decide) f15
  have f17 : fld 1 0 (put 12 a (put 5 b (put 2 t 0x34000012))) = 2 := fld_put_below (by decide) (by decide) f16
  have f18 : fld 4 4 0x34000012 = 1 := rfl
  have f19 : fld 4 4 (put 2 t 0x34000012) = 1 := fld_put_above (by decide) (by decide) f0 f18
  have f20 : fld 4 4 (put 5 b (put 2 t 0x34000012)) = 1 := fld_put_below (by decide) (by decide) f19
  have f21 : fld 4 4 (put 12 a (put 5 b (put 2 t 0x34000012))) = 1 := fld_put_below (by decide) (by decide) f20
  have f22 : fld 18 12 (put 12 a (put 5 b (put 2 t 0x34000012))) = a.toNat := fld_put_eq rfl f5
  have f23 : fld 11 5 (put 5 b (put 2 t 0x34000012)) = b.toNat := fld_put_eq rfl f2
  have f24 : fld 11 5 (put 12 a (put 5 b (put 2 t 0x34000012))) = b.toNat := fld_put_below (by decide) (by decide) f23
  have f25 : fld 3 2 (put 2 t 0x34000012) = t.toNat := fld_put_eq rfl f0
  have f26 : fld 3 2 (put 5 b (put 2 t 0x34000012)) = t.toNat := fld_put_below (by decide) (by decide) f25
  have f27 : fld 3 2 (put 12 a (put 5 b (put 2 t 0x34000012))) = t.toNat := fld_put_below (by decide) (by decide) f26
  have h0 : fld 31 26 (put 19 d (put 12 a (put 5 b (put 2 t 0x34000012)))) = 13 := fld_put_above (by decide) (by decide) f9 f13
  have h1 : fld 1 0 (put 19 d (put 12 a (put 5 b (put 2 t 0x34000012)))) = 2 := fld_put_below (by decide) (by decide) f17
  have h2 : fld 4 4 (put 19 d (put 12 a (put 5 b (put 2 t 0x34000012)))) = 1 := fld_put_below (by decide) (by decide) f21
  have h3 : BitVec.ofNat 7 (fld 25 19 (put 19 d (put 12 a (put 5 b (put 2 t 0x34000012))))) = d := ofNat_fld (fld_put_eq rfl f9)
  have h4 : BitVec.ofNat 7 (fld 18 12 (put 19 d (put 12 a (put 5 b (put 2 t 0x34000012))))) = a := ofNat_fld (fld_put_below (by decide) (by decide) f22)
  have h5 : BitVec.ofNat 7 (fld 11 5 (put 19 d (put 12 a (put 5 b (put 2 t 0x34000012))))) = b := ofNat_fld (fld_put_below (by decide) (by decide) f24)
  have h6 : BitVec.ofNat 2 (fld 3 2 (put 19 d (put 12 a (put 5 b (put 2 t 0x34000012))))) = t := ofNat_fld (fld_put_below (by decide) (by decide) f27)
  rw [decodeWord_0D h0]
  simp [decodeOp0D, h1, h2, h3, h4, h5, h6]

theorem Sys2Proof.Laws.Encodes.fmaxn (d : BitVec 7) (a : BitVec 7) (b : BitVec 7) (t : BitVec 2) :
    Sys2Proof.Laws.Encodes.Statement (.fmaxn d a b t) := by
  rintro w ⟨⟩
  have f0 : fld 3 2 0x34000013 = 0 := rfl
  have f1 : fld 11 5 0x34000013 = 0 := rfl
  have f2 : fld 11 5 (put 2 t 0x34000013) = 0 := fld_put_above (by decide) (by decide) f0 f1
  have f3 : fld 18 12 0x34000013 = 0 := rfl
  have f4 : fld 18 12 (put 2 t 0x34000013) = 0 := fld_put_above (by decide) (by decide) f0 f3
  have f5 : fld 18 12 (put 5 b (put 2 t 0x34000013)) = 0 := fld_put_above (by decide) (by decide) f2 f4
  have f6 : fld 25 19 0x34000013 = 0 := rfl
  have f7 : fld 25 19 (put 2 t 0x34000013) = 0 := fld_put_above (by decide) (by decide) f0 f6
  have f8 : fld 25 19 (put 5 b (put 2 t 0x34000013)) = 0 := fld_put_above (by decide) (by decide) f2 f7
  have f9 : fld 25 19 (put 12 a (put 5 b (put 2 t 0x34000013))) = 0 := fld_put_above (by decide) (by decide) f5 f8
  have f10 : fld 31 26 0x34000013 = 13 := rfl
  have f11 : fld 31 26 (put 2 t 0x34000013) = 13 := fld_put_above (by decide) (by decide) f0 f10
  have f12 : fld 31 26 (put 5 b (put 2 t 0x34000013)) = 13 := fld_put_above (by decide) (by decide) f2 f11
  have f13 : fld 31 26 (put 12 a (put 5 b (put 2 t 0x34000013))) = 13 := fld_put_above (by decide) (by decide) f5 f12
  have f14 : fld 1 0 0x34000013 = 3 := rfl
  have f15 : fld 1 0 (put 2 t 0x34000013) = 3 := fld_put_below (by decide) (by decide) f14
  have f16 : fld 1 0 (put 5 b (put 2 t 0x34000013)) = 3 := fld_put_below (by decide) (by decide) f15
  have f17 : fld 1 0 (put 12 a (put 5 b (put 2 t 0x34000013))) = 3 := fld_put_below (by decide) (by decide) f16
  have f18 : fld 4 4 0x34000013 = 1 := rfl
  have f19 : fld 4 4 (put 2 t 0x34000013) = 1 := fld_put_above (by decide) (by decide) f0 f18
  have f20 : fld 4 4 (put 5 b (put 2 t 0x34000013)) = 1 := fld_put_below (by decide) (by decide) f19
  have f21 : fld 4 4 (put 12 a (put 5 b (put 2 t 0x34000013))) = 1 := fld_put_below (by decide) (by decide) f20
  have f22 : fld 18 12 (put 12 a (put 5 b (put 2 t 0x34000013))) = a.toNat := fld_put_eq rfl f5
  have f23 : fld 11 5 (put 5 b (put 2 t 0x34000013)) = b.toNat := fld_put_eq rfl f2
  have f24 : fld 11 5 (put 12 a (put 5 b (put 2 t 0x34000013))) = b.toNat := fld_put_below (by decide) (by decide) f23
  have f25 : fld 3 2 (put 2 t 0x34000013) = t.toNat := fld_put_eq rfl f0
  have f26 : fld 3 2 (put 5 b (put 2 t 0x34000013)) = t.toNat := fld_put_below (by decide) (by decide) f25
  have f27 : fld 3 2 (put 12 a (put 5 b (put 2 t 0x34000013))) = t.toNat := fld_put_below (by decide) (by decide) f26
  have h0 : fld 31 26 (put 19 d (put 12 a (put 5 b (put 2 t 0x34000013)))) = 13 := fld_put_above (by decide) (by decide) f9 f13
  have h1 : fld 1 0 (put 19 d (put 12 a (put 5 b (put 2 t 0x34000013)))) = 3 := fld_put_below (by decide) (by decide) f17
  have h2 : fld 4 4 (put 19 d (put 12 a (put 5 b (put 2 t 0x34000013)))) = 1 := fld_put_below (by decide) (by decide) f21
  have h3 : BitVec.ofNat 7 (fld 25 19 (put 19 d (put 12 a (put 5 b (put 2 t 0x34000013))))) = d := ofNat_fld (fld_put_eq rfl f9)
  have h4 : BitVec.ofNat 7 (fld 18 12 (put 19 d (put 12 a (put 5 b (put 2 t 0x34000013))))) = a := ofNat_fld (fld_put_below (by decide) (by decide) f22)
  have h5 : BitVec.ofNat 7 (fld 11 5 (put 19 d (put 12 a (put 5 b (put 2 t 0x34000013))))) = b := ofNat_fld (fld_put_below (by decide) (by decide) f24)
  have h6 : BitVec.ofNat 2 (fld 3 2 (put 19 d (put 12 a (put 5 b (put 2 t 0x34000013))))) = t := ofNat_fld (fld_put_below (by decide) (by decide) f27)
  rw [decodeWord_0D h0]
  simp [decodeOp0D, h1, h2, h3, h4, h5, h6]

theorem Sys2Proof.Laws.Encodes.fabs (d : BitVec 7) (a : BitVec 7) (t : BitVec 2) :
    Sys2Proof.Laws.Encodes.Statement (.fabs d a t) := by
  rintro w ⟨⟩
  have f0 : fld 3 2 0x38000010 = 0 := rfl
  have f1 : fld 18 12 0x38000010 = 0 := rfl
  have f2 : fld 18 12 (put 2 t 0x38000010) = 0 := fld_put_above (by decide) (by decide) f0 f1
  have f3 : fld 25 19 0x38000010 = 0 := rfl
  have f4 : fld 25 19 (put 2 t 0x38000010) = 0 := fld_put_above (by decide) (by decide) f0 f3
  have f5 : fld 25 19 (put 12 a (put 2 t 0x38000010)) = 0 := fld_put_above (by decide) (by decide) f2 f4
  have f6 : fld 31 26 0x38000010 = 14 := rfl
  have f7 : fld 31 26 (put 2 t 0x38000010) = 14 := fld_put_above (by decide) (by decide) f0 f6
  have f8 : fld 31 26 (put 12 a (put 2 t 0x38000010)) = 14 := fld_put_above (by decide) (by decide) f2 f7
  have f9 : fld 1 0 0x38000010 = 0 := rfl
  have f10 : fld 1 0 (put 2 t 0x38000010) = 0 := fld_put_below (by decide) (by decide) f9
  have f11 : fld 1 0 (put 12 a (put 2 t 0x38000010)) = 0 := fld_put_below (by decide) (by decide) f10
  have f12 : fld 11 4 0x38000010 = 1 := rfl
  have f13 : fld 11 4 (put 2 t 0x38000010) = 1 := fld_put_above (by decide) (by decide) f0 f12
  have f14 : fld 11 4 (put 12 a (put 2 t 0x38000010)) = 1 := fld_put_below (by decide) (by decide) f13
  have f15 : fld 18 12 (put 12 a (put 2 t 0x38000010)) = a.toNat := fld_put_eq rfl f2
  have f16 : fld 3 2 (put 2 t 0x38000010) = t.toNat := fld_put_eq rfl f0
  have f17 : fld 3 2 (put 12 a (put 2 t 0x38000010)) = t.toNat := fld_put_below (by decide) (by decide) f16
  have h0 : fld 31 26 (put 19 d (put 12 a (put 2 t 0x38000010))) = 14 := fld_put_above (by decide) (by decide) f5 f8
  have h1 : fld 1 0 (put 19 d (put 12 a (put 2 t 0x38000010))) = 0 := fld_put_below (by decide) (by decide) f11
  have h2 : fld 11 4 (put 19 d (put 12 a (put 2 t 0x38000010))) = 1 := fld_put_below (by decide) (by decide) f14
  have h3 : BitVec.ofNat 7 (fld 25 19 (put 19 d (put 12 a (put 2 t 0x38000010)))) = d := ofNat_fld (fld_put_eq rfl f5)
  have h4 : BitVec.ofNat 7 (fld 18 12 (put 19 d (put 12 a (put 2 t 0x38000010)))) = a := ofNat_fld (fld_put_below (by decide) (by decide) f15)
  have h5 : BitVec.ofNat 2 (fld 3 2 (put 19 d (put 12 a (put 2 t 0x38000010)))) = t := ofNat_fld (fld_put_below (by decide) (by decide) f17)
  rw [decodeWord_0E h0]
  simp [decodeOp0E, h1, h2, h3, h4, h5]

theorem Sys2Proof.Laws.Encodes.fneg (d : BitVec 7) (a : BitVec 7) (t : BitVec 2) :
    Sys2Proof.Laws.Encodes.Statement (.fneg d a t) := by
  rintro w ⟨⟩
  have f0 : fld 3 2 0x38000011 = 0 := rfl
  have f1 : fld 18 12 0x38000011 = 0 := rfl
  have f2 : fld 18 12 (put 2 t 0x38000011) = 0 := fld_put_above (by decide) (by decide) f0 f1
  have f3 : fld 25 19 0x38000011 = 0 := rfl
  have f4 : fld 25 19 (put 2 t 0x38000011) = 0 := fld_put_above (by decide) (by decide) f0 f3
  have f5 : fld 25 19 (put 12 a (put 2 t 0x38000011)) = 0 := fld_put_above (by decide) (by decide) f2 f4
  have f6 : fld 31 26 0x38000011 = 14 := rfl
  have f7 : fld 31 26 (put 2 t 0x38000011) = 14 := fld_put_above (by decide) (by decide) f0 f6
  have f8 : fld 31 26 (put 12 a (put 2 t 0x38000011)) = 14 := fld_put_above (by decide) (by decide) f2 f7
  have f9 : fld 1 0 0x38000011 = 1 := rfl
  have f10 : fld 1 0 (put 2 t 0x38000011) = 1 := fld_put_below (by decide) (by decide) f9
  have f11 : fld 1 0 (put 12 a (put 2 t 0x38000011)) = 1 := fld_put_below (by decide) (by decide) f10
  have f12 : fld 11 4 0x38000011 = 1 := rfl
  have f13 : fld 11 4 (put 2 t 0x38000011) = 1 := fld_put_above (by decide) (by decide) f0 f12
  have f14 : fld 11 4 (put 12 a (put 2 t 0x38000011)) = 1 := fld_put_below (by decide) (by decide) f13
  have f15 : fld 18 12 (put 12 a (put 2 t 0x38000011)) = a.toNat := fld_put_eq rfl f2
  have f16 : fld 3 2 (put 2 t 0x38000011) = t.toNat := fld_put_eq rfl f0
  have f17 : fld 3 2 (put 12 a (put 2 t 0x38000011)) = t.toNat := fld_put_below (by decide) (by decide) f16
  have h0 : fld 31 26 (put 19 d (put 12 a (put 2 t 0x38000011))) = 14 := fld_put_above (by decide) (by decide) f5 f8
  have h1 : fld 1 0 (put 19 d (put 12 a (put 2 t 0x38000011))) = 1 := fld_put_below (by decide) (by decide) f11
  have h2 : fld 11 4 (put 19 d (put 12 a (put 2 t 0x38000011))) = 1 := fld_put_below (by decide) (by decide) f14
  have h3 : BitVec.ofNat 7 (fld 25 19 (put 19 d (put 12 a (put 2 t 0x38000011)))) = d := ofNat_fld (fld_put_eq rfl f5)
  have h4 : BitVec.ofNat 7 (fld 18 12 (put 19 d (put 12 a (put 2 t 0x38000011)))) = a := ofNat_fld (fld_put_below (by decide) (by decide) f15)
  have h5 : BitVec.ofNat 2 (fld 3 2 (put 19 d (put 12 a (put 2 t 0x38000011)))) = t := ofNat_fld (fld_put_below (by decide) (by decide) f17)
  rw [decodeWord_0E h0]
  simp [decodeOp0E, h1, h2, h3, h4, h5]

theorem Sys2Proof.Laws.Encodes.fclass (d : BitVec 7) (a : BitVec 7) (t : BitVec 2) :
    Sys2Proof.Laws.Encodes.Statement (.fclass d a t) := by
  rintro w ⟨⟩
  have f0 : fld 3 2 0x38000012 = 0 := rfl
  have f1 : fld 18 12 0x38000012 = 0 := rfl
  have f2 : fld 18 12 (put 2 t 0x38000012) = 0 := fld_put_above (by decide) (by decide) f0 f1
  have f3 : fld 25 19 0x38000012 = 0 := rfl
  have f4 : fld 25 19 (put 2 t 0x38000012) = 0 := fld_put_above (by decide) (by decide) f0 f3
  have f5 : fld 25 19 (put 12 a (put 2 t 0x38000012)) = 0 := fld_put_above (by decide) (by decide) f2 f4
  have f6 : fld 31 26 0x38000012 = 14 := rfl
  have f7 : fld 31 26 (put 2 t 0x38000012) = 14 := fld_put_above (by decide) (by decide) f0 f6
  have f8 : fld 31 26 (put 12 a (put 2 t 0x38000012)) = 14 := fld_put_above (by decide) (by decide) f2 f7
  have f9 : fld 1 0 0x38000012 = 2 := rfl
  have f10 : fld 1 0 (put 2 t 0x38000012) = 2 := fld_put_below (by decide) (by decide) f9
  have f11 : fld 1 0 (put 12 a (put 2 t 0x38000012)) = 2 := fld_put_below (by decide) (by decide) f10
  have f12 : fld 11 4 0x38000012 = 1 := rfl
  have f13 : fld 11 4 (put 2 t 0x38000012) = 1 := fld_put_above (by decide) (by decide) f0 f12
  have f14 : fld 11 4 (put 12 a (put 2 t 0x38000012)) = 1 := fld_put_below (by decide) (by decide) f13
  have f15 : fld 18 12 (put 12 a (put 2 t 0x38000012)) = a.toNat := fld_put_eq rfl f2
  have f16 : fld 3 2 (put 2 t 0x38000012) = t.toNat := fld_put_eq rfl f0
  have f17 : fld 3 2 (put 12 a (put 2 t 0x38000012)) = t.toNat := fld_put_below (by decide) (by decide) f16
  have h0 : fld 31 26 (put 19 d (put 12 a (put 2 t 0x38000012))) = 14 := fld_put_above (by decide) (by decide) f5 f8
  have h1 : fld 1 0 (put 19 d (put 12 a (put 2 t 0x38000012))) = 2 := fld_put_below (by decide) (by decide) f11
  have h2 : fld 11 4 (put 19 d (put 12 a (put 2 t 0x38000012))) = 1 := fld_put_below (by decide) (by decide) f14
  have h3 : BitVec.ofNat 7 (fld 25 19 (put 19 d (put 12 a (put 2 t 0x38000012)))) = d := ofNat_fld (fld_put_eq rfl f5)
  have h4 : BitVec.ofNat 7 (fld 18 12 (put 19 d (put 12 a (put 2 t 0x38000012)))) = a := ofNat_fld (fld_put_below (by decide) (by decide) f15)
  have h5 : BitVec.ofNat 2 (fld 3 2 (put 19 d (put 12 a (put 2 t 0x38000012)))) = t := ofNat_fld (fld_put_below (by decide) (by decide) f17)
  rw [decodeWord_0E h0]
  simp [decodeOp0E, h1, h2, h3, h4, h5]

theorem Sys2Proof.Laws.Encodes.frnd (d : BitVec 7) (a : BitVec 7) (t : BitVec 2) :
    Sys2Proof.Laws.Encodes.Statement (.frnd d a t) := by
  rintro w ⟨⟩
  have f0 : fld 3 2 0x38000013 = 0 := rfl
  have f1 : fld 18 12 0x38000013 = 0 := rfl
  have f2 : fld 18 12 (put 2 t 0x38000013) = 0 := fld_put_above (by decide) (by decide) f0 f1
  have f3 : fld 25 19 0x38000013 = 0 := rfl
  have f4 : fld 25 19 (put 2 t 0x38000013) = 0 := fld_put_above (by decide) (by decide) f0 f3
  have f5 : fld 25 19 (put 12 a (put 2 t 0x38000013)) = 0 := fld_put_above (by decide) (by decide) f2 f4
  have f6 : fld 31 26 0x38000013 = 14 := rfl
  have f7 : fld 31 26 (put 2 t 0x38000013) = 14 := fld_put_above (by decide) (by decide) f0 f6
  have f8 : fld 31 26 (put 12 a (put 2 t 0x38000013)) = 14 := fld_put_above (by decide) (by decide) f2 f7
  have f9 : fld 1 0 0x38000013 = 3 := rfl
  have f10 : fld 1 0 (put 2 t 0x38000013) = 3 := fld_put_below (by decide) (by decide) f9
  have f11 : fld 1 0 (put 12 a (put 2 t 0x38000013)) = 3 := fld_put_below (by decide) (by decide) f10
  have f12 : fld 11 4 0x38000013 = 1 := rfl
  have f13 : fld 11 4 (put 2 t 0x38000013) = 1 := fld_put_above (by decide) (by decide) f0 f12
  have f14 : fld 11 4 (put 12 a (put 2 t 0x38000013)) = 1 := fld_put_below (by decide) (by decide) f13
  have f15 : fld 18 12 (put 12 a (put 2 t 0x38000013)) = a.toNat := fld_put_eq rfl f2
  have f16 : fld 3 2 (put 2 t 0x38000013) = t.toNat := fld_put_eq rfl f0
  have f17 : fld 3 2 (put 12 a (put 2 t 0x38000013)) = t.toNat := fld_put_below (by decide) (by decide) f16
  have h0 : fld 31 26 (put 19 d (put 12 a (put 2 t 0x38000013))) = 14 := fld_put_above (by decide) (by decide) f5 f8
  have h1 : fld 1 0 (put 19 d (put 12 a (put 2 t 0x38000013))) = 3 := fld_put_below (by decide) (by decide) f11
  have h2 : fld 11 4 (put 19 d (put 12 a (put 2 t 0x38000013))) = 1 := fld_put_below (by decide) (by decide) f14
  have h3 : BitVec.ofNat 7 (fld 25 19 (put 19 d (put 12 a (put 2 t 0x38000013)))) = d := ofNat_fld (fld_put_eq rfl f5)
  have h4 : BitVec.ofNat 7 (fld 18 12 (put 19 d (put 12 a (put 2 t 0x38000013)))) = a := ofNat_fld (fld_put_below (by decide) (by decide) f15)
  have h5 : BitVec.ofNat 2 (fld 3 2 (put 19 d (put 12 a (put 2 t 0x38000013)))) = t := ofNat_fld (fld_put_below (by decide) (by decide) f17)
  rw [decodeWord_0E h0]
  simp [decodeOp0E, h1, h2, h3, h4, h5]

theorem Sys2Proof.Laws.Encodes.fcmpSet (k : BitVec 4) (c : BitVec 3) (a : BitVec 7) (b : BitVec 7) (t : BitVec 2) :
    Sys2Proof.Laws.Encodes.Statement (.fcmpSet k c a b t) := by
  rintro w ⟨⟩
  have f0 : fld 3 2 0x3C000010 = 0 := rfl
  have f1 : fld 11 5 0x3C000010 = 0 := rfl
  have f2 : fld 11 5 (put 2 t 0x3C000010) = 0 := fld_put_above (by decide) (by decide) f0 f1
  have f3 : fld 18 12 0x3C000010 = 0 := rfl
  have f4 : fld 18 12 (put 2 t 0x3C000010) = 0 := fld_put_above (by decide) (by decide) f0 f3
  have f5 : fld 18 12 (put 5 b (put 2 t 0x3C000010)) = 0 := fld_put_above (by decide) (by decide) f2 f4
  have f6 : fld 21 19 0x3C000010 = 0 := rfl
  have f7 : fld 21 19 (put 2 t 0x3C000010) = 0 := fld_put_above (by decide) (by decide) f0 f6
  have f8 : fld 21 19 (put 5 b (put 2 t 0x3C000010)) = 0 := fld_put_above (by decide) (by decide) f2 f7
  have f9 : fld 21 19 (put 12 a (put 5 b (put 2 t 0x3C000010))) = 0 := fld_put_above (by decide) (by decide) f5 f8
  have f10 : fld 25 22 0x3C000010 = 0 := rfl
  have f11 : fld 25 22 (put 2 t 0x3C000010) = 0 := fld_put_above (by decide) (by decide) f0 f10
  have f12 : fld 25 22 (put 5 b (put 2 t 0x3C000010)) = 0 := fld_put_above (by decide) (by decide) f2 f11
  have f13 : fld 25 22 (put 12 a (put 5 b (put 2 t 0x3C000010))) = 0 := fld_put_above (by decide) (by decide) f5 f12
  have f14 : fld 25 22 (put 19 c (put 12 a (put 5 b (put 2 t 0x3C000010)))) = 0 := fld_put_above (by decide) (by decide) f9 f13
  have f15 : fld 31 26 0x3C000010 = 15 := rfl
  have f16 : fld 31 26 (put 2 t 0x3C000010) = 15 := fld_put_above (by decide) (by decide) f0 f15
  have f17 : fld 31 26 (put 5 b (put 2 t 0x3C000010)) = 15 := fld_put_above (by decide) (by decide) f2 f16
  have f18 : fld 31 26 (put 12 a (put 5 b (put 2 t 0x3C000010))) = 15 := fld_put_above (by decide) (by decide) f5 f17
  have f19 : fld 31 26 (put 19 c (put 12 a (put 5 b (put 2 t 0x3C000010)))) = 15 := fld_put_above (by decide) (by decide) f9 f18
  have f20 : fld 1 0 0x3C000010 = 0 := rfl
  have f21 : fld 1 0 (put 2 t 0x3C000010) = 0 := fld_put_below (by decide) (by decide) f20
  have f22 : fld 1 0 (put 5 b (put 2 t 0x3C000010)) = 0 := fld_put_below (by decide) (by decide) f21
  have f23 : fld 1 0 (put 12 a (put 5 b (put 2 t 0x3C000010))) = 0 := fld_put_below (by decide) (by decide) f22
  have f24 : fld 1 0 (put 19 c (put 12 a (put 5 b (put 2 t 0x3C000010)))) = 0 := fld_put_below (by decide) (by decide) f23
  have f25 : fld 4 4 0x3C000010 = 1 := rfl
  have f26 : fld 4 4 (put 2 t 0x3C000010) = 1 := fld_put_above (by decide) (by decide) f0 f25
  have f27 : fld 4 4 (put 5 b (put 2 t 0x3C000010)) = 1 := fld_put_below (by decide) (by decide) f26
  have f28 : fld 4 4 (put 12 a (put 5 b (put 2 t 0x3C000010))) = 1 := fld_put_below (by decide) (by decide) f27
  have f29 : fld 4 4 (put 19 c (put 12 a (put 5 b (put 2 t 0x3C000010)))) = 1 := fld_put_below (by decide) (by decide) f28
  have f30 : fld 21 19 (put 19 c (put 12 a (put 5 b (put 2 t 0x3C000010)))) = c.toNat := fld_put_eq rfl f9
  have f31 : fld 18 12 (put 12 a (put 5 b (put 2 t 0x3C000010))) = a.toNat := fld_put_eq rfl f5
  have f32 : fld 18 12 (put 19 c (put 12 a (put 5 b (put 2 t 0x3C000010)))) = a.toNat := fld_put_below (by decide) (by decide) f31
  have f33 : fld 11 5 (put 5 b (put 2 t 0x3C000010)) = b.toNat := fld_put_eq rfl f2
  have f34 : fld 11 5 (put 12 a (put 5 b (put 2 t 0x3C000010))) = b.toNat := fld_put_below (by decide) (by decide) f33
  have f35 : fld 11 5 (put 19 c (put 12 a (put 5 b (put 2 t 0x3C000010)))) = b.toNat := fld_put_below (by decide) (by decide) f34
  have f36 : fld 3 2 (put 2 t 0x3C000010) = t.toNat := fld_put_eq rfl f0
  have f37 : fld 3 2 (put 5 b (put 2 t 0x3C000010)) = t.toNat := fld_put_below (by decide) (by decide) f36
  have f38 : fld 3 2 (put 12 a (put 5 b (put 2 t 0x3C000010))) = t.toNat := fld_put_below (by decide) (by decide) f37
  have f39 : fld 3 2 (put 19 c (put 12 a (put 5 b (put 2 t 0x3C000010)))) = t.toNat := fld_put_below (by decide) (by decide) f38
  have h0 : fld 31 26 (put 22 k (put 19 c (put 12 a (put 5 b (put 2 t 0x3C000010))))) = 15 := fld_put_above (by decide) (by decide) f14 f19
  have h1 : fld 1 0 (put 22 k (put 19 c (put 12 a (put 5 b (put 2 t 0x3C000010))))) = 0 := fld_put_below (by decide) (by decide) f24
  have h2 : fld 4 4 (put 22 k (put 19 c (put 12 a (put 5 b (put 2 t 0x3C000010))))) = 1 := fld_put_below (by decide) (by decide) f29
  have h3 : BitVec.ofNat 4 (fld 25 22 (put 22 k (put 19 c (put 12 a (put 5 b (put 2 t 0x3C000010)))))) = k := ofNat_fld (fld_put_eq rfl f14)
  have h4 : BitVec.ofNat 3 (fld 21 19 (put 22 k (put 19 c (put 12 a (put 5 b (put 2 t 0x3C000010)))))) = c := ofNat_fld (fld_put_below (by decide) (by decide) f30)
  have h5 : BitVec.ofNat 7 (fld 18 12 (put 22 k (put 19 c (put 12 a (put 5 b (put 2 t 0x3C000010)))))) = a := ofNat_fld (fld_put_below (by decide) (by decide) f32)
  have h6 : BitVec.ofNat 7 (fld 11 5 (put 22 k (put 19 c (put 12 a (put 5 b (put 2 t 0x3C000010)))))) = b := ofNat_fld (fld_put_below (by decide) (by decide) f35)
  have h7 : BitVec.ofNat 2 (fld 3 2 (put 22 k (put 19 c (put 12 a (put 5 b (put 2 t 0x3C000010)))))) = t := ofNat_fld (fld_put_below (by decide) (by decide) f39)
  rw [decodeWord_0F h0]
  simp [decodeOp0F, h1, h2, h3, h4, h5, h6, h7]

theorem Sys2Proof.Laws.Encodes.fcmpAnd (k : BitVec 4) (c : BitVec 3) (a : BitVec 7) (b : BitVec 7) (t : BitVec 2) :
    Sys2Proof.Laws.Encodes.Statement (.fcmpAnd k c a b t) := by
  rintro w ⟨⟩
  have f0 : fld 3 2 0x3C000011 = 0 := rfl
  have f1 : fld 11 5 0x3C000011 = 0 := rfl
  have f2 : fld 11 5 (put 2 t 0x3C000011) = 0 := fld_put_above (by decide) (by decide) f0 f1
  have f3 : fld 18 12 0x3C000011 = 0 := rfl
  have f4 : fld 18 12 (put 2 t 0x3C000011) = 0 := fld_put_above (by decide) (by decide) f0 f3
  have f5 : fld 18 12 (put 5 b (put 2 t 0x3C000011)) = 0 := fld_put_above (by decide) (by decide) f2 f4
  have f6 : fld 21 19 0x3C000011 = 0 := rfl
  have f7 : fld 21 19 (put 2 t 0x3C000011) = 0 := fld_put_above (by decide) (by decide) f0 f6
  have f8 : fld 21 19 (put 5 b (put 2 t 0x3C000011)) = 0 := fld_put_above (by decide) (by decide) f2 f7
  have f9 : fld 21 19 (put 12 a (put 5 b (put 2 t 0x3C000011))) = 0 := fld_put_above (by decide) (by decide) f5 f8
  have f10 : fld 25 22 0x3C000011 = 0 := rfl
  have f11 : fld 25 22 (put 2 t 0x3C000011) = 0 := fld_put_above (by decide) (by decide) f0 f10
  have f12 : fld 25 22 (put 5 b (put 2 t 0x3C000011)) = 0 := fld_put_above (by decide) (by decide) f2 f11
  have f13 : fld 25 22 (put 12 a (put 5 b (put 2 t 0x3C000011))) = 0 := fld_put_above (by decide) (by decide) f5 f12
  have f14 : fld 25 22 (put 19 c (put 12 a (put 5 b (put 2 t 0x3C000011)))) = 0 := fld_put_above (by decide) (by decide) f9 f13
  have f15 : fld 31 26 0x3C000011 = 15 := rfl
  have f16 : fld 31 26 (put 2 t 0x3C000011) = 15 := fld_put_above (by decide) (by decide) f0 f15
  have f17 : fld 31 26 (put 5 b (put 2 t 0x3C000011)) = 15 := fld_put_above (by decide) (by decide) f2 f16
  have f18 : fld 31 26 (put 12 a (put 5 b (put 2 t 0x3C000011))) = 15 := fld_put_above (by decide) (by decide) f5 f17
  have f19 : fld 31 26 (put 19 c (put 12 a (put 5 b (put 2 t 0x3C000011)))) = 15 := fld_put_above (by decide) (by decide) f9 f18
  have f20 : fld 1 0 0x3C000011 = 1 := rfl
  have f21 : fld 1 0 (put 2 t 0x3C000011) = 1 := fld_put_below (by decide) (by decide) f20
  have f22 : fld 1 0 (put 5 b (put 2 t 0x3C000011)) = 1 := fld_put_below (by decide) (by decide) f21
  have f23 : fld 1 0 (put 12 a (put 5 b (put 2 t 0x3C000011))) = 1 := fld_put_below (by decide) (by decide) f22
  have f24 : fld 1 0 (put 19 c (put 12 a (put 5 b (put 2 t 0x3C000011)))) = 1 := fld_put_below (by decide) (by decide) f23
  have f25 : fld 4 4 0x3C000011 = 1 := rfl
  have f26 : fld 4 4 (put 2 t 0x3C000011) = 1 := fld_put_above (by decide) (by decide) f0 f25
  have f27 : fld 4 4 (put 5 b (put 2 t 0x3C000011)) = 1 := fld_put_below (by decide) (by decide) f26
  have f28 : fld 4 4 (put 12 a (put 5 b (put 2 t 0x3C000011))) = 1 := fld_put_below (by decide) (by decide) f27
  have f29 : fld 4 4 (put 19 c (put 12 a (put 5 b (put 2 t 0x3C000011)))) = 1 := fld_put_below (by decide) (by decide) f28
  have f30 : fld 21 19 (put 19 c (put 12 a (put 5 b (put 2 t 0x3C000011)))) = c.toNat := fld_put_eq rfl f9
  have f31 : fld 18 12 (put 12 a (put 5 b (put 2 t 0x3C000011))) = a.toNat := fld_put_eq rfl f5
  have f32 : fld 18 12 (put 19 c (put 12 a (put 5 b (put 2 t 0x3C000011)))) = a.toNat := fld_put_below (by decide) (by decide) f31
  have f33 : fld 11 5 (put 5 b (put 2 t 0x3C000011)) = b.toNat := fld_put_eq rfl f2
  have f34 : fld 11 5 (put 12 a (put 5 b (put 2 t 0x3C000011))) = b.toNat := fld_put_below (by decide) (by decide) f33
  have f35 : fld 11 5 (put 19 c (put 12 a (put 5 b (put 2 t 0x3C000011)))) = b.toNat := fld_put_below (by decide) (by decide) f34
  have f36 : fld 3 2 (put 2 t 0x3C000011) = t.toNat := fld_put_eq rfl f0
  have f37 : fld 3 2 (put 5 b (put 2 t 0x3C000011)) = t.toNat := fld_put_below (by decide) (by decide) f36
  have f38 : fld 3 2 (put 12 a (put 5 b (put 2 t 0x3C000011))) = t.toNat := fld_put_below (by decide) (by decide) f37
  have f39 : fld 3 2 (put 19 c (put 12 a (put 5 b (put 2 t 0x3C000011)))) = t.toNat := fld_put_below (by decide) (by decide) f38
  have h0 : fld 31 26 (put 22 k (put 19 c (put 12 a (put 5 b (put 2 t 0x3C000011))))) = 15 := fld_put_above (by decide) (by decide) f14 f19
  have h1 : fld 1 0 (put 22 k (put 19 c (put 12 a (put 5 b (put 2 t 0x3C000011))))) = 1 := fld_put_below (by decide) (by decide) f24
  have h2 : fld 4 4 (put 22 k (put 19 c (put 12 a (put 5 b (put 2 t 0x3C000011))))) = 1 := fld_put_below (by decide) (by decide) f29
  have h3 : BitVec.ofNat 4 (fld 25 22 (put 22 k (put 19 c (put 12 a (put 5 b (put 2 t 0x3C000011)))))) = k := ofNat_fld (fld_put_eq rfl f14)
  have h4 : BitVec.ofNat 3 (fld 21 19 (put 22 k (put 19 c (put 12 a (put 5 b (put 2 t 0x3C000011)))))) = c := ofNat_fld (fld_put_below (by decide) (by decide) f30)
  have h5 : BitVec.ofNat 7 (fld 18 12 (put 22 k (put 19 c (put 12 a (put 5 b (put 2 t 0x3C000011)))))) = a := ofNat_fld (fld_put_below (by decide) (by decide) f32)
  have h6 : BitVec.ofNat 7 (fld 11 5 (put 22 k (put 19 c (put 12 a (put 5 b (put 2 t 0x3C000011)))))) = b := ofNat_fld (fld_put_below (by decide) (by decide) f35)
  have h7 : BitVec.ofNat 2 (fld 3 2 (put 22 k (put 19 c (put 12 a (put 5 b (put 2 t 0x3C000011)))))) = t := ofNat_fld (fld_put_below (by decide) (by decide) f39)
  rw [decodeWord_0F h0]
  simp [decodeOp0F, h1, h2, h3, h4, h5, h6, h7]

theorem Sys2Proof.Laws.Encodes.fcmpOr (k : BitVec 4) (c : BitVec 3) (a : BitVec 7) (b : BitVec 7) (t : BitVec 2) :
    Sys2Proof.Laws.Encodes.Statement (.fcmpOr k c a b t) := by
  rintro w ⟨⟩
  have f0 : fld 3 2 0x3C000012 = 0 := rfl
  have f1 : fld 11 5 0x3C000012 = 0 := rfl
  have f2 : fld 11 5 (put 2 t 0x3C000012) = 0 := fld_put_above (by decide) (by decide) f0 f1
  have f3 : fld 18 12 0x3C000012 = 0 := rfl
  have f4 : fld 18 12 (put 2 t 0x3C000012) = 0 := fld_put_above (by decide) (by decide) f0 f3
  have f5 : fld 18 12 (put 5 b (put 2 t 0x3C000012)) = 0 := fld_put_above (by decide) (by decide) f2 f4
  have f6 : fld 21 19 0x3C000012 = 0 := rfl
  have f7 : fld 21 19 (put 2 t 0x3C000012) = 0 := fld_put_above (by decide) (by decide) f0 f6
  have f8 : fld 21 19 (put 5 b (put 2 t 0x3C000012)) = 0 := fld_put_above (by decide) (by decide) f2 f7
  have f9 : fld 21 19 (put 12 a (put 5 b (put 2 t 0x3C000012))) = 0 := fld_put_above (by decide) (by decide) f5 f8
  have f10 : fld 25 22 0x3C000012 = 0 := rfl
  have f11 : fld 25 22 (put 2 t 0x3C000012) = 0 := fld_put_above (by decide) (by decide) f0 f10
  have f12 : fld 25 22 (put 5 b (put 2 t 0x3C000012)) = 0 := fld_put_above (by decide) (by decide) f2 f11
  have f13 : fld 25 22 (put 12 a (put 5 b (put 2 t 0x3C000012))) = 0 := fld_put_above (by decide) (by decide) f5 f12
  have f14 : fld 25 22 (put 19 c (put 12 a (put 5 b (put 2 t 0x3C000012)))) = 0 := fld_put_above (by decide) (by decide) f9 f13
  have f15 : fld 31 26 0x3C000012 = 15 := rfl
  have f16 : fld 31 26 (put 2 t 0x3C000012) = 15 := fld_put_above (by decide) (by decide) f0 f15
  have f17 : fld 31 26 (put 5 b (put 2 t 0x3C000012)) = 15 := fld_put_above (by decide) (by decide) f2 f16
  have f18 : fld 31 26 (put 12 a (put 5 b (put 2 t 0x3C000012))) = 15 := fld_put_above (by decide) (by decide) f5 f17
  have f19 : fld 31 26 (put 19 c (put 12 a (put 5 b (put 2 t 0x3C000012)))) = 15 := fld_put_above (by decide) (by decide) f9 f18
  have f20 : fld 1 0 0x3C000012 = 2 := rfl
  have f21 : fld 1 0 (put 2 t 0x3C000012) = 2 := fld_put_below (by decide) (by decide) f20
  have f22 : fld 1 0 (put 5 b (put 2 t 0x3C000012)) = 2 := fld_put_below (by decide) (by decide) f21
  have f23 : fld 1 0 (put 12 a (put 5 b (put 2 t 0x3C000012))) = 2 := fld_put_below (by decide) (by decide) f22
  have f24 : fld 1 0 (put 19 c (put 12 a (put 5 b (put 2 t 0x3C000012)))) = 2 := fld_put_below (by decide) (by decide) f23
  have f25 : fld 4 4 0x3C000012 = 1 := rfl
  have f26 : fld 4 4 (put 2 t 0x3C000012) = 1 := fld_put_above (by decide) (by decide) f0 f25
  have f27 : fld 4 4 (put 5 b (put 2 t 0x3C000012)) = 1 := fld_put_below (by decide) (by decide) f26
  have f28 : fld 4 4 (put 12 a (put 5 b (put 2 t 0x3C000012))) = 1 := fld_put_below (by decide) (by decide) f27
  have f29 : fld 4 4 (put 19 c (put 12 a (put 5 b (put 2 t 0x3C000012)))) = 1 := fld_put_below (by decide) (by decide) f28
  have f30 : fld 21 19 (put 19 c (put 12 a (put 5 b (put 2 t 0x3C000012)))) = c.toNat := fld_put_eq rfl f9
  have f31 : fld 18 12 (put 12 a (put 5 b (put 2 t 0x3C000012))) = a.toNat := fld_put_eq rfl f5
  have f32 : fld 18 12 (put 19 c (put 12 a (put 5 b (put 2 t 0x3C000012)))) = a.toNat := fld_put_below (by decide) (by decide) f31
  have f33 : fld 11 5 (put 5 b (put 2 t 0x3C000012)) = b.toNat := fld_put_eq rfl f2
  have f34 : fld 11 5 (put 12 a (put 5 b (put 2 t 0x3C000012))) = b.toNat := fld_put_below (by decide) (by decide) f33
  have f35 : fld 11 5 (put 19 c (put 12 a (put 5 b (put 2 t 0x3C000012)))) = b.toNat := fld_put_below (by decide) (by decide) f34
  have f36 : fld 3 2 (put 2 t 0x3C000012) = t.toNat := fld_put_eq rfl f0
  have f37 : fld 3 2 (put 5 b (put 2 t 0x3C000012)) = t.toNat := fld_put_below (by decide) (by decide) f36
  have f38 : fld 3 2 (put 12 a (put 5 b (put 2 t 0x3C000012))) = t.toNat := fld_put_below (by decide) (by decide) f37
  have f39 : fld 3 2 (put 19 c (put 12 a (put 5 b (put 2 t 0x3C000012)))) = t.toNat := fld_put_below (by decide) (by decide) f38
  have h0 : fld 31 26 (put 22 k (put 19 c (put 12 a (put 5 b (put 2 t 0x3C000012))))) = 15 := fld_put_above (by decide) (by decide) f14 f19
  have h1 : fld 1 0 (put 22 k (put 19 c (put 12 a (put 5 b (put 2 t 0x3C000012))))) = 2 := fld_put_below (by decide) (by decide) f24
  have h2 : fld 4 4 (put 22 k (put 19 c (put 12 a (put 5 b (put 2 t 0x3C000012))))) = 1 := fld_put_below (by decide) (by decide) f29
  have h3 : BitVec.ofNat 4 (fld 25 22 (put 22 k (put 19 c (put 12 a (put 5 b (put 2 t 0x3C000012)))))) = k := ofNat_fld (fld_put_eq rfl f14)
  have h4 : BitVec.ofNat 3 (fld 21 19 (put 22 k (put 19 c (put 12 a (put 5 b (put 2 t 0x3C000012)))))) = c := ofNat_fld (fld_put_below (by decide) (by decide) f30)
  have h5 : BitVec.ofNat 7 (fld 18 12 (put 22 k (put 19 c (put 12 a (put 5 b (put 2 t 0x3C000012)))))) = a := ofNat_fld (fld_put_below (by decide) (by decide) f32)
  have h6 : BitVec.ofNat 7 (fld 11 5 (put 22 k (put 19 c (put 12 a (put 5 b (put 2 t 0x3C000012)))))) = b := ofNat_fld (fld_put_below (by decide) (by decide) f35)
  have h7 : BitVec.ofNat 2 (fld 3 2 (put 22 k (put 19 c (put 12 a (put 5 b (put 2 t 0x3C000012)))))) = t := ofNat_fld (fld_put_below (by decide) (by decide) f39)
  rw [decodeWord_0F h0]
  simp [decodeOp0F, h1, h2, h3, h4, h5, h6, h7]

theorem Sys2Proof.Laws.Encodes.fdiv (d : BitVec 7) (a : BitVec 7) (b : BitVec 7) (t : BitVec 2) :
    Sys2Proof.Laws.Encodes.Statement (.fdiv d a b t) := by
  rintro w ⟨⟩
  have f0 : fld 3 2 0x40000010 = 0 := rfl
  have f1 : fld 11 5 0x40000010 = 0 := rfl
  have f2 : fld 11 5 (put 2 t 0x40000010) = 0 := fld_put_above (by decide) (by decide) f0 f1
  have f3 : fld 18 12 0x40000010 = 0 := rfl
  have f4 : fld 18 12 (put 2 t 0x40000010) = 0 := fld_put_above (by decide) (by decide) f0 f3
  have f5 : fld 18 12 (put 5 b (put 2 t 0x40000010)) = 0 := fld_put_above (by decide) (by decide) f2 f4
  have f6 : fld 25 19 0x40000010 = 0 := rfl
  have f7 : fld 25 19 (put 2 t 0x40000010) = 0 := fld_put_above (by decide) (by decide) f0 f6
  have f8 : fld 25 19 (put 5 b (put 2 t 0x40000010)) = 0 := fld_put_above (by decide) (by decide) f2 f7
  have f9 : fld 25 19 (put 12 a (put 5 b (put 2 t 0x40000010))) = 0 := fld_put_above (by decide) (by decide) f5 f8
  have f10 : fld 31 26 0x40000010 = 16 := rfl
  have f11 : fld 31 26 (put 2 t 0x40000010) = 16 := fld_put_above (by decide) (by decide) f0 f10
  have f12 : fld 31 26 (put 5 b (put 2 t 0x40000010)) = 16 := fld_put_above (by decide) (by decide) f2 f11
  have f13 : fld 31 26 (put 12 a (put 5 b (put 2 t 0x40000010))) = 16 := fld_put_above (by decide) (by decide) f5 f12
  have f14 : fld 1 0 0x40000010 = 0 := rfl
  have f15 : fld 1 0 (put 2 t 0x40000010) = 0 := fld_put_below (by decide) (by decide) f14
  have f16 : fld 1 0 (put 5 b (put 2 t 0x40000010)) = 0 := fld_put_below (by decide) (by decide) f15
  have f17 : fld 1 0 (put 12 a (put 5 b (put 2 t 0x40000010))) = 0 := fld_put_below (by decide) (by decide) f16
  have f18 : fld 4 4 0x40000010 = 1 := rfl
  have f19 : fld 4 4 (put 2 t 0x40000010) = 1 := fld_put_above (by decide) (by decide) f0 f18
  have f20 : fld 4 4 (put 5 b (put 2 t 0x40000010)) = 1 := fld_put_below (by decide) (by decide) f19
  have f21 : fld 4 4 (put 12 a (put 5 b (put 2 t 0x40000010))) = 1 := fld_put_below (by decide) (by decide) f20
  have f22 : fld 18 12 (put 12 a (put 5 b (put 2 t 0x40000010))) = a.toNat := fld_put_eq rfl f5
  have f23 : fld 11 5 (put 5 b (put 2 t 0x40000010)) = b.toNat := fld_put_eq rfl f2
  have f24 : fld 11 5 (put 12 a (put 5 b (put 2 t 0x40000010))) = b.toNat := fld_put_below (by decide) (by decide) f23
  have f25 : fld 3 2 (put 2 t 0x40000010) = t.toNat := fld_put_eq rfl f0
  have f26 : fld 3 2 (put 5 b (put 2 t 0x40000010)) = t.toNat := fld_put_below (by decide) (by decide) f25
  have f27 : fld 3 2 (put 12 a (put 5 b (put 2 t 0x40000010))) = t.toNat := fld_put_below (by decide) (by decide) f26
  have h0 : fld 31 26 (put 19 d (put 12 a (put 5 b (put 2 t 0x40000010)))) = 16 := fld_put_above (by decide) (by decide) f9 f13
  have h1 : fld 1 0 (put 19 d (put 12 a (put 5 b (put 2 t 0x40000010)))) = 0 := fld_put_below (by decide) (by decide) f17
  have h2 : fld 4 4 (put 19 d (put 12 a (put 5 b (put 2 t 0x40000010)))) = 1 := fld_put_below (by decide) (by decide) f21
  have h3 : BitVec.ofNat 7 (fld 25 19 (put 19 d (put 12 a (put 5 b (put 2 t 0x40000010))))) = d := ofNat_fld (fld_put_eq rfl f9)
  have h4 : BitVec.ofNat 7 (fld 18 12 (put 19 d (put 12 a (put 5 b (put 2 t 0x40000010))))) = a := ofNat_fld (fld_put_below (by decide) (by decide) f22)
  have h5 : BitVec.ofNat 7 (fld 11 5 (put 19 d (put 12 a (put 5 b (put 2 t 0x40000010))))) = b := ofNat_fld (fld_put_below (by decide) (by decide) f24)
  have h6 : BitVec.ofNat 2 (fld 3 2 (put 19 d (put 12 a (put 5 b (put 2 t 0x40000010))))) = t := ofNat_fld (fld_put_below (by decide) (by decide) f27)
  rw [decodeWord_10 h0]
  simp [decodeOp10, h1, h2, h3, h4, h5, h6]

theorem Sys2Proof.Laws.Encodes.fsqrt (d : BitVec 7) (a : BitVec 7) (t : BitVec 2) :
    Sys2Proof.Laws.Encodes.Statement (.fsqrt d a t) := by
  rintro w ⟨⟩
  have f0 : fld 3 2 0x40000011 = 0 := rfl
  have f1 : fld 18 12 0x40000011 = 0 := rfl
  have f2 : fld 18 12 (put 2 t 0x40000011) = 0 := fld_put_above (by decide) (by decide) f0 f1
  have f3 : fld 25 19 0x40000011 = 0 := rfl
  have f4 : fld 25 19 (put 2 t 0x40000011) = 0 := fld_put_above (by decide) (by decide) f0 f3
  have f5 : fld 25 19 (put 12 a (put 2 t 0x40000011)) = 0 := fld_put_above (by decide) (by decide) f2 f4
  have f6 : fld 31 26 0x40000011 = 16 := rfl
  have f7 : fld 31 26 (put 2 t 0x40000011) = 16 := fld_put_above (by decide) (by decide) f0 f6
  have f8 : fld 31 26 (put 12 a (put 2 t 0x40000011)) = 16 := fld_put_above (by decide) (by decide) f2 f7
  have f9 : fld 1 0 0x40000011 = 1 := rfl
  have f10 : fld 1 0 (put 2 t 0x40000011) = 1 := fld_put_below (by decide) (by decide) f9
  have f11 : fld 1 0 (put 12 a (put 2 t 0x40000011)) = 1 := fld_put_below (by decide) (by decide) f10
  have f12 : fld 11 4 0x40000011 = 1 := rfl
  have f13 : fld 11 4 (put 2 t 0x40000011) = 1 := fld_put_above (by decide) (by decide) f0 f12
  have f14 : fld 11 4 (put 12 a (put 2 t 0x40000011)) = 1 := fld_put_below (by decide) (by decide) f13
  have f15 : fld 18 12 (put 12 a (put 2 t 0x40000011)) = a.toNat := fld_put_eq rfl f2
  have f16 : fld 3 2 (put 2 t 0x40000011) = t.toNat := fld_put_eq rfl f0
  have f17 : fld 3 2 (put 12 a (put 2 t 0x40000011)) = t.toNat := fld_put_below (by decide) (by decide) f16
  have h0 : fld 31 26 (put 19 d (put 12 a (put 2 t 0x40000011))) = 16 := fld_put_above (by decide) (by decide) f5 f8
  have h1 : fld 1 0 (put 19 d (put 12 a (put 2 t 0x40000011))) = 1 := fld_put_below (by decide) (by decide) f11
  have h3 : fld 11 4 (put 19 d (put 12 a (put 2 t 0x40000011))) = 1 := fld_put_below (by decide) (by decide) f14
  have h4 : BitVec.ofNat 7 (fld 25 19 (put 19 d (put 12 a (put 2 t 0x40000011)))) = d := ofNat_fld (fld_put_eq rfl f5)
  have h5 : BitVec.ofNat 7 (fld 18 12 (put 19 d (put 12 a (put 2 t 0x40000011)))) = a := ofNat_fld (fld_put_below (by decide) (by decide) f15)
  have h6 : BitVec.ofNat 2 (fld 3 2 (put 19 d (put 12 a (put 2 t 0x40000011)))) = t := ofNat_fld (fld_put_below (by decide) (by decide) f17)
  rw [decodeWord_10 h0]
  simp [decodeOp10, h1, h3, h4, h5, h6]

theorem Sys2Proof.Laws.Encodes.fscale (d : BitVec 7) (a : BitVec 7) (b : BitVec 7) (t : BitVec 2) :
    Sys2Proof.Laws.Encodes.Statement (.fscale d a b t) := by
  rintro w ⟨⟩
  have f0 : fld 3 2 0x40000012 = 0 := rfl
  have f1 : fld 11 5 0x40000012 = 0 := rfl
  have f2 : fld 11 5 (put 2 t 0x40000012) = 0 := fld_put_above (by decide) (by decide) f0 f1
  have f3 : fld 18 12 0x40000012 = 0 := rfl
  have f4 : fld 18 12 (put 2 t 0x40000012) = 0 := fld_put_above (by decide) (by decide) f0 f3
  have f5 : fld 18 12 (put 5 b (put 2 t 0x40000012)) = 0 := fld_put_above (by decide) (by decide) f2 f4
  have f6 : fld 25 19 0x40000012 = 0 := rfl
  have f7 : fld 25 19 (put 2 t 0x40000012) = 0 := fld_put_above (by decide) (by decide) f0 f6
  have f8 : fld 25 19 (put 5 b (put 2 t 0x40000012)) = 0 := fld_put_above (by decide) (by decide) f2 f7
  have f9 : fld 25 19 (put 12 a (put 5 b (put 2 t 0x40000012))) = 0 := fld_put_above (by decide) (by decide) f5 f8
  have f10 : fld 31 26 0x40000012 = 16 := rfl
  have f11 : fld 31 26 (put 2 t 0x40000012) = 16 := fld_put_above (by decide) (by decide) f0 f10
  have f12 : fld 31 26 (put 5 b (put 2 t 0x40000012)) = 16 := fld_put_above (by decide) (by decide) f2 f11
  have f13 : fld 31 26 (put 12 a (put 5 b (put 2 t 0x40000012))) = 16 := fld_put_above (by decide) (by decide) f5 f12
  have f14 : fld 1 0 0x40000012 = 2 := rfl
  have f15 : fld 1 0 (put 2 t 0x40000012) = 2 := fld_put_below (by decide) (by decide) f14
  have f16 : fld 1 0 (put 5 b (put 2 t 0x40000012)) = 2 := fld_put_below (by decide) (by decide) f15
  have f17 : fld 1 0 (put 12 a (put 5 b (put 2 t 0x40000012))) = 2 := fld_put_below (by decide) (by decide) f16
  have f18 : fld 4 4 0x40000012 = 1 := rfl
  have f19 : fld 4 4 (put 2 t 0x40000012) = 1 := fld_put_above (by decide) (by decide) f0 f18
  have f20 : fld 4 4 (put 5 b (put 2 t 0x40000012)) = 1 := fld_put_below (by decide) (by decide) f19
  have f21 : fld 4 4 (put 12 a (put 5 b (put 2 t 0x40000012))) = 1 := fld_put_below (by decide) (by decide) f20
  have f22 : fld 18 12 (put 12 a (put 5 b (put 2 t 0x40000012))) = a.toNat := fld_put_eq rfl f5
  have f23 : fld 11 5 (put 5 b (put 2 t 0x40000012)) = b.toNat := fld_put_eq rfl f2
  have f24 : fld 11 5 (put 12 a (put 5 b (put 2 t 0x40000012))) = b.toNat := fld_put_below (by decide) (by decide) f23
  have f25 : fld 3 2 (put 2 t 0x40000012) = t.toNat := fld_put_eq rfl f0
  have f26 : fld 3 2 (put 5 b (put 2 t 0x40000012)) = t.toNat := fld_put_below (by decide) (by decide) f25
  have f27 : fld 3 2 (put 12 a (put 5 b (put 2 t 0x40000012))) = t.toNat := fld_put_below (by decide) (by decide) f26
  have h0 : fld 31 26 (put 19 d (put 12 a (put 5 b (put 2 t 0x40000012)))) = 16 := fld_put_above (by decide) (by decide) f9 f13
  have h1 : fld 1 0 (put 19 d (put 12 a (put 5 b (put 2 t 0x40000012)))) = 2 := fld_put_below (by decide) (by decide) f17
  have h2 : fld 4 4 (put 19 d (put 12 a (put 5 b (put 2 t 0x40000012)))) = 1 := fld_put_below (by decide) (by decide) f21
  have h3 : BitVec.ofNat 7 (fld 25 19 (put 19 d (put 12 a (put 5 b (put 2 t 0x40000012))))) = d := ofNat_fld (fld_put_eq rfl f9)
  have h4 : BitVec.ofNat 7 (fld 18 12 (put 19 d (put 12 a (put 5 b (put 2 t 0x40000012))))) = a := ofNat_fld (fld_put_below (by decide) (by decide) f22)
  have h5 : BitVec.ofNat 7 (fld 11 5 (put 19 d (put 12 a (put 5 b (put 2 t 0x40000012))))) = b := ofNat_fld (fld_put_below (by decide) (by decide) f24)
  have h6 : BitVec.ofNat 2 (fld 3 2 (put 19 d (put 12 a (put 5 b (put 2 t 0x40000012))))) = t := ofNat_fld (fld_put_below (by decide) (by decide) f27)
  rw [decodeWord_10 h0]
  simp [decodeOp10, h1, h2, h3, h4, h5, h6]

theorem Sys2Proof.Laws.Encodes.flogb (d : BitVec 7) (a : BitVec 7) (t : BitVec 2) :
    Sys2Proof.Laws.Encodes.Statement (.flogb d a t) := by
  rintro w ⟨⟩
  have f0 : fld 3 2 0x40000013 = 0 := rfl
  have f1 : fld 18 12 0x40000013 = 0 := rfl
  have f2 : fld 18 12 (put 2 t 0x40000013) = 0 := fld_put_above (by decide) (by decide) f0 f1
  have f3 : fld 25 19 0x40000013 = 0 := rfl
  have f4 : fld 25 19 (put 2 t 0x40000013) = 0 := fld_put_above (by decide) (by decide) f0 f3
  have f5 : fld 25 19 (put 12 a (put 2 t 0x40000013)) = 0 := fld_put_above (by decide) (by decide) f2 f4
  have f6 : fld 31 26 0x40000013 = 16 := rfl
  have f7 : fld 31 26 (put 2 t 0x40000013) = 16 := fld_put_above (by decide) (by decide) f0 f6
  have f8 : fld 31 26 (put 12 a (put 2 t 0x40000013)) = 16 := fld_put_above (by decide) (by decide) f2 f7
  have f9 : fld 1 0 0x40000013 = 3 := rfl
  have f10 : fld 1 0 (put 2 t 0x40000013) = 3 := fld_put_below (by decide) (by decide) f9
  have f11 : fld 1 0 (put 12 a (put 2 t 0x40000013)) = 3 := fld_put_below (by decide) (by decide) f10
  have f12 : fld 11 4 0x40000013 = 1 := rfl
  have f13 : fld 11 4 (put 2 t 0x40000013) = 1 := fld_put_above (by decide) (by decide) f0 f12
  have f14 : fld 11 4 (put 12 a (put 2 t 0x40000013)) = 1 := fld_put_below (by decide) (by decide) f13
  have f15 : fld 18 12 (put 12 a (put 2 t 0x40000013)) = a.toNat := fld_put_eq rfl f2
  have f16 : fld 3 2 (put 2 t 0x40000013) = t.toNat := fld_put_eq rfl f0
  have f17 : fld 3 2 (put 12 a (put 2 t 0x40000013)) = t.toNat := fld_put_below (by decide) (by decide) f16
  have h0 : fld 31 26 (put 19 d (put 12 a (put 2 t 0x40000013))) = 16 := fld_put_above (by decide) (by decide) f5 f8
  have h1 : fld 1 0 (put 19 d (put 12 a (put 2 t 0x40000013))) = 3 := fld_put_below (by decide) (by decide) f11
  have h3 : fld 11 4 (put 19 d (put 12 a (put 2 t 0x40000013))) = 1 := fld_put_below (by decide) (by decide) f14
  have h4 : BitVec.ofNat 7 (fld 25 19 (put 19 d (put 12 a (put 2 t 0x40000013)))) = d := ofNat_fld (fld_put_eq rfl f5)
  have h5 : BitVec.ofNat 7 (fld 18 12 (put 19 d (put 12 a (put 2 t 0x40000013)))) = a := ofNat_fld (fld_put_below (by decide) (by decide) f15)
  have h6 : BitVec.ofNat 2 (fld 3 2 (put 19 d (put 12 a (put 2 t 0x40000013)))) = t := ofNat_fld (fld_put_below (by decide) (by decide) f17)
  rw [decodeWord_10 h0]
  simp [decodeOp10, h1, h3, h4, h5, h6]

theorem Sys2Proof.Laws.Encodes.exp2 (d : BitVec 7) (a : BitVec 7) (t : BitVec 2) :
    Sys2Proof.Laws.Encodes.Statement (.exp2 d a t) := by
  rintro w ⟨⟩
  have f0 : fld 3 2 0x44000010 = 0 := rfl
  have f1 : fld 18 12 0x44000010 = 0 := rfl
  have f2 : fld 18 12 (put 2 t 0x44000010) = 0 := fld_put_above (by decide) (by decide) f0 f1
  have f3 : fld 25 19 0x44000010 = 0 := rfl
  have f4 : fld 25 19 (put 2 t 0x44000010) = 0 := fld_put_above (by decide) (by decide) f0 f3
  have f5 : fld 25 19 (put 12 a (put 2 t 0x44000010)) = 0 := fld_put_above (by decide) (by decide) f2 f4
  have f6 : fld 31 26 0x44000010 = 17 := rfl
  have f7 : fld 31 26 (put 2 t 0x44000010) = 17 := fld_put_above (by decide) (by decide) f0 f6
  have f8 : fld 31 26 (put 12 a (put 2 t 0x44000010)) = 17 := fld_put_above (by decide) (by decide) f2 f7
  have f9 : fld 1 0 0x44000010 = 0 := rfl
  have f10 : fld 1 0 (put 2 t 0x44000010) = 0 := fld_put_below (by decide) (by decide) f9
  have f11 : fld 1 0 (put 12 a (put 2 t 0x44000010)) = 0 := fld_put_below (by decide) (by decide) f10
  have f12 : fld 11 4 0x44000010 = 1 := rfl
  have f13 : fld 11 4 (put 2 t 0x44000010) = 1 := fld_put_above (by decide) (by decide) f0 f12
  have f14 : fld 11 4 (put 12 a (put 2 t 0x44000010)) = 1 := fld_put_below (by decide) (by decide) f13
  have f15 : fld 18 12 (put 12 a (put 2 t 0x44000010)) = a.toNat := fld_put_eq rfl f2
  have f16 : fld 3 2 (put 2 t 0x44000010) = t.toNat := fld_put_eq rfl f0
  have f17 : fld 3 2 (put 12 a (put 2 t 0x44000010)) = t.toNat := fld_put_below (by decide) (by decide) f16
  have h0 : fld 31 26 (put 19 d (put 12 a (put 2 t 0x44000010))) = 17 := fld_put_above (by decide) (by decide) f5 f8
  have h1 : fld 1 0 (put 19 d (put 12 a (put 2 t 0x44000010))) = 0 := fld_put_below (by decide) (by decide) f11
  have h2 : fld 11 4 (put 19 d (put 12 a (put 2 t 0x44000010))) = 1 := fld_put_below (by decide) (by decide) f14
  have h3 : BitVec.ofNat 7 (fld 25 19 (put 19 d (put 12 a (put 2 t 0x44000010)))) = d := ofNat_fld (fld_put_eq rfl f5)
  have h4 : BitVec.ofNat 7 (fld 18 12 (put 19 d (put 12 a (put 2 t 0x44000010)))) = a := ofNat_fld (fld_put_below (by decide) (by decide) f15)
  have h5 : BitVec.ofNat 2 (fld 3 2 (put 19 d (put 12 a (put 2 t 0x44000010)))) = t := ofNat_fld (fld_put_below (by decide) (by decide) f17)
  rw [decodeWord_11 h0]
  simp [decodeOp11, h1, h2, h3, h4, h5]

theorem Sys2Proof.Laws.Encodes.log2 (d : BitVec 7) (a : BitVec 7) (t : BitVec 2) :
    Sys2Proof.Laws.Encodes.Statement (.log2 d a t) := by
  rintro w ⟨⟩
  have f0 : fld 3 2 0x44000011 = 0 := rfl
  have f1 : fld 18 12 0x44000011 = 0 := rfl
  have f2 : fld 18 12 (put 2 t 0x44000011) = 0 := fld_put_above (by decide) (by decide) f0 f1
  have f3 : fld 25 19 0x44000011 = 0 := rfl
  have f4 : fld 25 19 (put 2 t 0x44000011) = 0 := fld_put_above (by decide) (by decide) f0 f3
  have f5 : fld 25 19 (put 12 a (put 2 t 0x44000011)) = 0 := fld_put_above (by decide) (by decide) f2 f4
  have f6 : fld 31 26 0x44000011 = 17 := rfl
  have f7 : fld 31 26 (put 2 t 0x44000011) = 17 := fld_put_above (by decide) (by decide) f0 f6
  have f8 : fld 31 26 (put 12 a (put 2 t 0x44000011)) = 17 := fld_put_above (by decide) (by decide) f2 f7
  have f9 : fld 1 0 0x44000011 = 1 := rfl
  have f10 : fld 1 0 (put 2 t 0x44000011) = 1 := fld_put_below (by decide) (by decide) f9
  have f11 : fld 1 0 (put 12 a (put 2 t 0x44000011)) = 1 := fld_put_below (by decide) (by decide) f10
  have f12 : fld 11 4 0x44000011 = 1 := rfl
  have f13 : fld 11 4 (put 2 t 0x44000011) = 1 := fld_put_above (by decide) (by decide) f0 f12
  have f14 : fld 11 4 (put 12 a (put 2 t 0x44000011)) = 1 := fld_put_below (by decide) (by decide) f13
  have f15 : fld 18 12 (put 12 a (put 2 t 0x44000011)) = a.toNat := fld_put_eq rfl f2
  have f16 : fld 3 2 (put 2 t 0x44000011) = t.toNat := fld_put_eq rfl f0
  have f17 : fld 3 2 (put 12 a (put 2 t 0x44000011)) = t.toNat := fld_put_below (by decide) (by decide) f16
  have h0 : fld 31 26 (put 19 d (put 12 a (put 2 t 0x44000011))) = 17 := fld_put_above (by decide) (by decide) f5 f8
  have h1 : fld 1 0 (put 19 d (put 12 a (put 2 t 0x44000011))) = 1 := fld_put_below (by decide) (by decide) f11
  have h2 : fld 11 4 (put 19 d (put 12 a (put 2 t 0x44000011))) = 1 := fld_put_below (by decide) (by decide) f14
  have h3 : BitVec.ofNat 7 (fld 25 19 (put 19 d (put 12 a (put 2 t 0x44000011)))) = d := ofNat_fld (fld_put_eq rfl f5)
  have h4 : BitVec.ofNat 7 (fld 18 12 (put 19 d (put 12 a (put 2 t 0x44000011)))) = a := ofNat_fld (fld_put_below (by decide) (by decide) f15)
  have h5 : BitVec.ofNat 2 (fld 3 2 (put 19 d (put 12 a (put 2 t 0x44000011)))) = t := ofNat_fld (fld_put_below (by decide) (by decide) f17)
  rw [decodeWord_11 h0]
  simp [decodeOp11, h1, h2, h3, h4, h5]

theorem Sys2Proof.Laws.Encodes.rcp (d : BitVec 7) (a : BitVec 7) (t : BitVec 2) :
    Sys2Proof.Laws.Encodes.Statement (.rcp d a t) := by
  rintro w ⟨⟩
  have f0 : fld 3 2 0x44000012 = 0 := rfl
  have f1 : fld 18 12 0x44000012 = 0 := rfl
  have f2 : fld 18 12 (put 2 t 0x44000012) = 0 := fld_put_above (by decide) (by decide) f0 f1
  have f3 : fld 25 19 0x44000012 = 0 := rfl
  have f4 : fld 25 19 (put 2 t 0x44000012) = 0 := fld_put_above (by decide) (by decide) f0 f3
  have f5 : fld 25 19 (put 12 a (put 2 t 0x44000012)) = 0 := fld_put_above (by decide) (by decide) f2 f4
  have f6 : fld 31 26 0x44000012 = 17 := rfl
  have f7 : fld 31 26 (put 2 t 0x44000012) = 17 := fld_put_above (by decide) (by decide) f0 f6
  have f8 : fld 31 26 (put 12 a (put 2 t 0x44000012)) = 17 := fld_put_above (by decide) (by decide) f2 f7
  have f9 : fld 1 0 0x44000012 = 2 := rfl
  have f10 : fld 1 0 (put 2 t 0x44000012) = 2 := fld_put_below (by decide) (by decide) f9
  have f11 : fld 1 0 (put 12 a (put 2 t 0x44000012)) = 2 := fld_put_below (by decide) (by decide) f10
  have f12 : fld 11 4 0x44000012 = 1 := rfl
  have f13 : fld 11 4 (put 2 t 0x44000012) = 1 := fld_put_above (by decide) (by decide) f0 f12
  have f14 : fld 11 4 (put 12 a (put 2 t 0x44000012)) = 1 := fld_put_below (by decide) (by decide) f13
  have f15 : fld 18 12 (put 12 a (put 2 t 0x44000012)) = a.toNat := fld_put_eq rfl f2
  have f16 : fld 3 2 (put 2 t 0x44000012) = t.toNat := fld_put_eq rfl f0
  have f17 : fld 3 2 (put 12 a (put 2 t 0x44000012)) = t.toNat := fld_put_below (by decide) (by decide) f16
  have h0 : fld 31 26 (put 19 d (put 12 a (put 2 t 0x44000012))) = 17 := fld_put_above (by decide) (by decide) f5 f8
  have h1 : fld 1 0 (put 19 d (put 12 a (put 2 t 0x44000012))) = 2 := fld_put_below (by decide) (by decide) f11
  have h2 : fld 11 4 (put 19 d (put 12 a (put 2 t 0x44000012))) = 1 := fld_put_below (by decide) (by decide) f14
  have h3 : BitVec.ofNat 7 (fld 25 19 (put 19 d (put 12 a (put 2 t 0x44000012)))) = d := ofNat_fld (fld_put_eq rfl f5)
  have h4 : BitVec.ofNat 7 (fld 18 12 (put 19 d (put 12 a (put 2 t 0x44000012)))) = a := ofNat_fld (fld_put_below (by decide) (by decide) f15)
  have h5 : BitVec.ofNat 2 (fld 3 2 (put 19 d (put 12 a (put 2 t 0x44000012)))) = t := ofNat_fld (fld_put_below (by decide) (by decide) f17)
  rw [decodeWord_11 h0]
  simp [decodeOp11, h1, h2, h3, h4, h5]

theorem Sys2Proof.Laws.Encodes.rsq (d : BitVec 7) (a : BitVec 7) (t : BitVec 2) :
    Sys2Proof.Laws.Encodes.Statement (.rsq d a t) := by
  rintro w ⟨⟩
  have f0 : fld 3 2 0x44000013 = 0 := rfl
  have f1 : fld 18 12 0x44000013 = 0 := rfl
  have f2 : fld 18 12 (put 2 t 0x44000013) = 0 := fld_put_above (by decide) (by decide) f0 f1
  have f3 : fld 25 19 0x44000013 = 0 := rfl
  have f4 : fld 25 19 (put 2 t 0x44000013) = 0 := fld_put_above (by decide) (by decide) f0 f3
  have f5 : fld 25 19 (put 12 a (put 2 t 0x44000013)) = 0 := fld_put_above (by decide) (by decide) f2 f4
  have f6 : fld 31 26 0x44000013 = 17 := rfl
  have f7 : fld 31 26 (put 2 t 0x44000013) = 17 := fld_put_above (by decide) (by decide) f0 f6
  have f8 : fld 31 26 (put 12 a (put 2 t 0x44000013)) = 17 := fld_put_above (by decide) (by decide) f2 f7
  have f9 : fld 1 0 0x44000013 = 3 := rfl
  have f10 : fld 1 0 (put 2 t 0x44000013) = 3 := fld_put_below (by decide) (by decide) f9
  have f11 : fld 1 0 (put 12 a (put 2 t 0x44000013)) = 3 := fld_put_below (by decide) (by decide) f10
  have f12 : fld 11 4 0x44000013 = 1 := rfl
  have f13 : fld 11 4 (put 2 t 0x44000013) = 1 := fld_put_above (by decide) (by decide) f0 f12
  have f14 : fld 11 4 (put 12 a (put 2 t 0x44000013)) = 1 := fld_put_below (by decide) (by decide) f13
  have f15 : fld 18 12 (put 12 a (put 2 t 0x44000013)) = a.toNat := fld_put_eq rfl f2
  have f16 : fld 3 2 (put 2 t 0x44000013) = t.toNat := fld_put_eq rfl f0
  have f17 : fld 3 2 (put 12 a (put 2 t 0x44000013)) = t.toNat := fld_put_below (by decide) (by decide) f16
  have h0 : fld 31 26 (put 19 d (put 12 a (put 2 t 0x44000013))) = 17 := fld_put_above (by decide) (by decide) f5 f8
  have h1 : fld 1 0 (put 19 d (put 12 a (put 2 t 0x44000013))) = 3 := fld_put_below (by decide) (by decide) f11
  have h2 : fld 11 4 (put 19 d (put 12 a (put 2 t 0x44000013))) = 1 := fld_put_below (by decide) (by decide) f14
  have h3 : BitVec.ofNat 7 (fld 25 19 (put 19 d (put 12 a (put 2 t 0x44000013)))) = d := ofNat_fld (fld_put_eq rfl f5)
  have h4 : BitVec.ofNat 7 (fld 18 12 (put 19 d (put 12 a (put 2 t 0x44000013)))) = a := ofNat_fld (fld_put_below (by decide) (by decide) f15)
  have h5 : BitVec.ofNat 2 (fld 3 2 (put 19 d (put 12 a (put 2 t 0x44000013)))) = t := ofNat_fld (fld_put_below (by decide) (by decide) f17)
  rw [decodeWord_11 h0]
  simp [decodeOp11, h1, h2, h3, h4, h5]

theorem Sys2Proof.Laws.Encodes.sin (d : BitVec 7) (a : BitVec 7) (t : BitVec 2) :
    Sys2Proof.Laws.Encodes.Statement (.sin d a t) := by
  rintro w ⟨⟩
  have f0 : fld 3 2 0x48000010 = 0 := rfl
  have f1 : fld 18 12 0x48000010 = 0 := rfl
  have f2 : fld 18 12 (put 2 t 0x48000010) = 0 := fld_put_above (by decide) (by decide) f0 f1
  have f3 : fld 25 19 0x48000010 = 0 := rfl
  have f4 : fld 25 19 (put 2 t 0x48000010) = 0 := fld_put_above (by decide) (by decide) f0 f3
  have f5 : fld 25 19 (put 12 a (put 2 t 0x48000010)) = 0 := fld_put_above (by decide) (by decide) f2 f4
  have f6 : fld 31 26 0x48000010 = 18 := rfl
  have f7 : fld 31 26 (put 2 t 0x48000010) = 18 := fld_put_above (by decide) (by decide) f0 f6
  have f8 : fld 31 26 (put 12 a (put 2 t 0x48000010)) = 18 := fld_put_above (by decide) (by decide) f2 f7
  have f9 : fld 1 0 0x48000010 = 0 := rfl
  have f10 : fld 1 0 (put 2 t 0x48000010) = 0 := fld_put_below (by decide) (by decide) f9
  have f11 : fld 1 0 (put 12 a (put 2 t 0x48000010)) = 0 := fld_put_below (by decide) (by decide) f10
  have f12 : fld 11 4 0x48000010 = 1 := rfl
  have f13 : fld 11 4 (put 2 t 0x48000010) = 1 := fld_put_above (by decide) (by decide) f0 f12
  have f14 : fld 11 4 (put 12 a (put 2 t 0x48000010)) = 1 := fld_put_below (by decide) (by decide) f13
  have f15 : fld 18 12 (put 12 a (put 2 t 0x48000010)) = a.toNat := fld_put_eq rfl f2
  have f16 : fld 3 2 (put 2 t 0x48000010) = t.toNat := fld_put_eq rfl f0
  have f17 : fld 3 2 (put 12 a (put 2 t 0x48000010)) = t.toNat := fld_put_below (by decide) (by decide) f16
  have h0 : fld 31 26 (put 19 d (put 12 a (put 2 t 0x48000010))) = 18 := fld_put_above (by decide) (by decide) f5 f8
  have h1 : fld 1 0 (put 19 d (put 12 a (put 2 t 0x48000010))) = 0 := fld_put_below (by decide) (by decide) f11
  have h2 : fld 11 4 (put 19 d (put 12 a (put 2 t 0x48000010))) = 1 := fld_put_below (by decide) (by decide) f14
  have h3 : BitVec.ofNat 7 (fld 25 19 (put 19 d (put 12 a (put 2 t 0x48000010)))) = d := ofNat_fld (fld_put_eq rfl f5)
  have h4 : BitVec.ofNat 7 (fld 18 12 (put 19 d (put 12 a (put 2 t 0x48000010)))) = a := ofNat_fld (fld_put_below (by decide) (by decide) f15)
  have h5 : BitVec.ofNat 2 (fld 3 2 (put 19 d (put 12 a (put 2 t 0x48000010)))) = t := ofNat_fld (fld_put_below (by decide) (by decide) f17)
  rw [decodeWord_12 h0]
  simp [decodeOp12, h1, h2, h3, h4, h5]

theorem Sys2Proof.Laws.Encodes.cos (d : BitVec 7) (a : BitVec 7) (t : BitVec 2) :
    Sys2Proof.Laws.Encodes.Statement (.cos d a t) := by
  rintro w ⟨⟩
  have f0 : fld 3 2 0x48000011 = 0 := rfl
  have f1 : fld 18 12 0x48000011 = 0 := rfl
  have f2 : fld 18 12 (put 2 t 0x48000011) = 0 := fld_put_above (by decide) (by decide) f0 f1
  have f3 : fld 25 19 0x48000011 = 0 := rfl
  have f4 : fld 25 19 (put 2 t 0x48000011) = 0 := fld_put_above (by decide) (by decide) f0 f3
  have f5 : fld 25 19 (put 12 a (put 2 t 0x48000011)) = 0 := fld_put_above (by decide) (by decide) f2 f4
  have f6 : fld 31 26 0x48000011 = 18 := rfl
  have f7 : fld 31 26 (put 2 t 0x48000011) = 18 := fld_put_above (by decide) (by decide) f0 f6
  have f8 : fld 31 26 (put 12 a (put 2 t 0x48000011)) = 18 := fld_put_above (by decide) (by decide) f2 f7
  have f9 : fld 1 0 0x48000011 = 1 := rfl
  have f10 : fld 1 0 (put 2 t 0x48000011) = 1 := fld_put_below (by decide) (by decide) f9
  have f11 : fld 1 0 (put 12 a (put 2 t 0x48000011)) = 1 := fld_put_below (by decide) (by decide) f10
  have f12 : fld 11 4 0x48000011 = 1 := rfl
  have f13 : fld 11 4 (put 2 t 0x48000011) = 1 := fld_put_above (by decide) (by decide) f0 f12
  have f14 : fld 11 4 (put 12 a (put 2 t 0x48000011)) = 1 := fld_put_below (by decide) (by decide) f13
  have f15 : fld 18 12 (put 12 a (put 2 t 0x48000011)) = a.toNat := fld_put_eq rfl f2
  have f16 : fld 3 2 (put 2 t 0x48000011) = t.toNat := fld_put_eq rfl f0
  have f17 : fld 3 2 (put 12 a (put 2 t 0x48000011)) = t.toNat := fld_put_below (by decide) (by decide) f16
  have h0 : fld 31 26 (put 19 d (put 12 a (put 2 t 0x48000011))) = 18 := fld_put_above (by decide) (by decide) f5 f8
  have h1 : fld 1 0 (put 19 d (put 12 a (put 2 t 0x48000011))) = 1 := fld_put_below (by decide) (by decide) f11
  have h2 : fld 11 4 (put 19 d (put 12 a (put 2 t 0x48000011))) = 1 := fld_put_below (by decide) (by decide) f14
  have h3 : BitVec.ofNat 7 (fld 25 19 (put 19 d (put 12 a (put 2 t 0x48000011)))) = d := ofNat_fld (fld_put_eq rfl f5)
  have h4 : BitVec.ofNat 7 (fld 18 12 (put 19 d (put 12 a (put 2 t 0x48000011)))) = a := ofNat_fld (fld_put_below (by decide) (by decide) f15)
  have h5 : BitVec.ofNat 2 (fld 3 2 (put 19 d (put 12 a (put 2 t 0x48000011)))) = t := ofNat_fld (fld_put_below (by decide) (by decide) f17)
  rw [decodeWord_12 h0]
  simp [decodeOp12, h1, h2, h3, h4, h5]

theorem Sys2Proof.Laws.Encodes.sinpi (d : BitVec 7) (a : BitVec 7) (t : BitVec 2) :
    Sys2Proof.Laws.Encodes.Statement (.sinpi d a t) := by
  rintro w ⟨⟩
  have f0 : fld 3 2 0x48000012 = 0 := rfl
  have f1 : fld 18 12 0x48000012 = 0 := rfl
  have f2 : fld 18 12 (put 2 t 0x48000012) = 0 := fld_put_above (by decide) (by decide) f0 f1
  have f3 : fld 25 19 0x48000012 = 0 := rfl
  have f4 : fld 25 19 (put 2 t 0x48000012) = 0 := fld_put_above (by decide) (by decide) f0 f3
  have f5 : fld 25 19 (put 12 a (put 2 t 0x48000012)) = 0 := fld_put_above (by decide) (by decide) f2 f4
  have f6 : fld 31 26 0x48000012 = 18 := rfl
  have f7 : fld 31 26 (put 2 t 0x48000012) = 18 := fld_put_above (by decide) (by decide) f0 f6
  have f8 : fld 31 26 (put 12 a (put 2 t 0x48000012)) = 18 := fld_put_above (by decide) (by decide) f2 f7
  have f9 : fld 1 0 0x48000012 = 2 := rfl
  have f10 : fld 1 0 (put 2 t 0x48000012) = 2 := fld_put_below (by decide) (by decide) f9
  have f11 : fld 1 0 (put 12 a (put 2 t 0x48000012)) = 2 := fld_put_below (by decide) (by decide) f10
  have f12 : fld 11 4 0x48000012 = 1 := rfl
  have f13 : fld 11 4 (put 2 t 0x48000012) = 1 := fld_put_above (by decide) (by decide) f0 f12
  have f14 : fld 11 4 (put 12 a (put 2 t 0x48000012)) = 1 := fld_put_below (by decide) (by decide) f13
  have f15 : fld 18 12 (put 12 a (put 2 t 0x48000012)) = a.toNat := fld_put_eq rfl f2
  have f16 : fld 3 2 (put 2 t 0x48000012) = t.toNat := fld_put_eq rfl f0
  have f17 : fld 3 2 (put 12 a (put 2 t 0x48000012)) = t.toNat := fld_put_below (by decide) (by decide) f16
  have h0 : fld 31 26 (put 19 d (put 12 a (put 2 t 0x48000012))) = 18 := fld_put_above (by decide) (by decide) f5 f8
  have h1 : fld 1 0 (put 19 d (put 12 a (put 2 t 0x48000012))) = 2 := fld_put_below (by decide) (by decide) f11
  have h2 : fld 11 4 (put 19 d (put 12 a (put 2 t 0x48000012))) = 1 := fld_put_below (by decide) (by decide) f14
  have h3 : BitVec.ofNat 7 (fld 25 19 (put 19 d (put 12 a (put 2 t 0x48000012)))) = d := ofNat_fld (fld_put_eq rfl f5)
  have h4 : BitVec.ofNat 7 (fld 18 12 (put 19 d (put 12 a (put 2 t 0x48000012)))) = a := ofNat_fld (fld_put_below (by decide) (by decide) f15)
  have h5 : BitVec.ofNat 2 (fld 3 2 (put 19 d (put 12 a (put 2 t 0x48000012)))) = t := ofNat_fld (fld_put_below (by decide) (by decide) f17)
  rw [decodeWord_12 h0]
  simp [decodeOp12, h1, h2, h3, h4, h5]

theorem Sys2Proof.Laws.Encodes.cospi (d : BitVec 7) (a : BitVec 7) (t : BitVec 2) :
    Sys2Proof.Laws.Encodes.Statement (.cospi d a t) := by
  rintro w ⟨⟩
  have f0 : fld 3 2 0x48000013 = 0 := rfl
  have f1 : fld 18 12 0x48000013 = 0 := rfl
  have f2 : fld 18 12 (put 2 t 0x48000013) = 0 := fld_put_above (by decide) (by decide) f0 f1
  have f3 : fld 25 19 0x48000013 = 0 := rfl
  have f4 : fld 25 19 (put 2 t 0x48000013) = 0 := fld_put_above (by decide) (by decide) f0 f3
  have f5 : fld 25 19 (put 12 a (put 2 t 0x48000013)) = 0 := fld_put_above (by decide) (by decide) f2 f4
  have f6 : fld 31 26 0x48000013 = 18 := rfl
  have f7 : fld 31 26 (put 2 t 0x48000013) = 18 := fld_put_above (by decide) (by decide) f0 f6
  have f8 : fld 31 26 (put 12 a (put 2 t 0x48000013)) = 18 := fld_put_above (by decide) (by decide) f2 f7
  have f9 : fld 1 0 0x48000013 = 3 := rfl
  have f10 : fld 1 0 (put 2 t 0x48000013) = 3 := fld_put_below (by decide) (by decide) f9
  have f11 : fld 1 0 (put 12 a (put 2 t 0x48000013)) = 3 := fld_put_below (by decide) (by decide) f10
  have f12 : fld 11 4 0x48000013 = 1 := rfl
  have f13 : fld 11 4 (put 2 t 0x48000013) = 1 := fld_put_above (by decide) (by decide) f0 f12
  have f14 : fld 11 4 (put 12 a (put 2 t 0x48000013)) = 1 := fld_put_below (by decide) (by decide) f13
  have f15 : fld 18 12 (put 12 a (put 2 t 0x48000013)) = a.toNat := fld_put_eq rfl f2
  have f16 : fld 3 2 (put 2 t 0x48000013) = t.toNat := fld_put_eq rfl f0
  have f17 : fld 3 2 (put 12 a (put 2 t 0x48000013)) = t.toNat := fld_put_below (by decide) (by decide) f16
  have h0 : fld 31 26 (put 19 d (put 12 a (put 2 t 0x48000013))) = 18 := fld_put_above (by decide) (by decide) f5 f8
  have h1 : fld 1 0 (put 19 d (put 12 a (put 2 t 0x48000013))) = 3 := fld_put_below (by decide) (by decide) f11
  have h2 : fld 11 4 (put 19 d (put 12 a (put 2 t 0x48000013))) = 1 := fld_put_below (by decide) (by decide) f14
  have h3 : BitVec.ofNat 7 (fld 25 19 (put 19 d (put 12 a (put 2 t 0x48000013)))) = d := ofNat_fld (fld_put_eq rfl f5)
  have h4 : BitVec.ofNat 7 (fld 18 12 (put 19 d (put 12 a (put 2 t 0x48000013)))) = a := ofNat_fld (fld_put_below (by decide) (by decide) f15)
  have h5 : BitVec.ofNat 2 (fld 3 2 (put 19 d (put 12 a (put 2 t 0x48000013)))) = t := ofNat_fld (fld_put_below (by decide) (by decide) f17)
  rw [decodeWord_12 h0]
  simp [decodeOp12, h1, h2, h3, h4, h5]

theorem Sys2Proof.Laws.Encodes.tanh (d : BitVec 7) (a : BitVec 7) (t : BitVec 2) :
    Sys2Proof.Laws.Encodes.Statement (.tanh d a t) := by
  rintro w ⟨⟩
  have f0 : fld 3 2 0x4C000010 = 0 := rfl
  have f1 : fld 18 12 0x4C000010 = 0 := rfl
  have f2 : fld 18 12 (put 2 t 0x4C000010) = 0 := fld_put_above (by decide) (by decide) f0 f1
  have f3 : fld 25 19 0x4C000010 = 0 := rfl
  have f4 : fld 25 19 (put 2 t 0x4C000010) = 0 := fld_put_above (by decide) (by decide) f0 f3
  have f5 : fld 25 19 (put 12 a (put 2 t 0x4C000010)) = 0 := fld_put_above (by decide) (by decide) f2 f4
  have f6 : fld 31 26 0x4C000010 = 19 := rfl
  have f7 : fld 31 26 (put 2 t 0x4C000010) = 19 := fld_put_above (by decide) (by decide) f0 f6
  have f8 : fld 31 26 (put 12 a (put 2 t 0x4C000010)) = 19 := fld_put_above (by decide) (by decide) f2 f7
  have f9 : fld 1 0 0x4C000010 = 0 := rfl
  have f10 : fld 1 0 (put 2 t 0x4C000010) = 0 := fld_put_below (by decide) (by decide) f9
  have f11 : fld 1 0 (put 12 a (put 2 t 0x4C000010)) = 0 := fld_put_below (by decide) (by decide) f10
  have f12 : fld 11 4 0x4C000010 = 1 := rfl
  have f13 : fld 11 4 (put 2 t 0x4C000010) = 1 := fld_put_above (by decide) (by decide) f0 f12
  have f14 : fld 11 4 (put 12 a (put 2 t 0x4C000010)) = 1 := fld_put_below (by decide) (by decide) f13
  have f15 : fld 18 12 (put 12 a (put 2 t 0x4C000010)) = a.toNat := fld_put_eq rfl f2
  have f16 : fld 3 2 (put 2 t 0x4C000010) = t.toNat := fld_put_eq rfl f0
  have f17 : fld 3 2 (put 12 a (put 2 t 0x4C000010)) = t.toNat := fld_put_below (by decide) (by decide) f16
  have h0 : fld 31 26 (put 19 d (put 12 a (put 2 t 0x4C000010))) = 19 := fld_put_above (by decide) (by decide) f5 f8
  have h1 : fld 1 0 (put 19 d (put 12 a (put 2 t 0x4C000010))) = 0 := fld_put_below (by decide) (by decide) f11
  have h2 : fld 11 4 (put 19 d (put 12 a (put 2 t 0x4C000010))) = 1 := fld_put_below (by decide) (by decide) f14
  have h3 : BitVec.ofNat 7 (fld 25 19 (put 19 d (put 12 a (put 2 t 0x4C000010)))) = d := ofNat_fld (fld_put_eq rfl f5)
  have h4 : BitVec.ofNat 7 (fld 18 12 (put 19 d (put 12 a (put 2 t 0x4C000010)))) = a := ofNat_fld (fld_put_below (by decide) (by decide) f15)
  have h5 : BitVec.ofNat 2 (fld 3 2 (put 19 d (put 12 a (put 2 t 0x4C000010)))) = t := ofNat_fld (fld_put_below (by decide) (by decide) f17)
  rw [decodeWord_13 h0]
  simp [decodeOp13, h1, h2, h3, h4, h5]

theorem Sys2Proof.Laws.Encodes.erf (d : BitVec 7) (a : BitVec 7) (t : BitVec 2) :
    Sys2Proof.Laws.Encodes.Statement (.erf d a t) := by
  rintro w ⟨⟩
  have f0 : fld 3 2 0x4C000011 = 0 := rfl
  have f1 : fld 18 12 0x4C000011 = 0 := rfl
  have f2 : fld 18 12 (put 2 t 0x4C000011) = 0 := fld_put_above (by decide) (by decide) f0 f1
  have f3 : fld 25 19 0x4C000011 = 0 := rfl
  have f4 : fld 25 19 (put 2 t 0x4C000011) = 0 := fld_put_above (by decide) (by decide) f0 f3
  have f5 : fld 25 19 (put 12 a (put 2 t 0x4C000011)) = 0 := fld_put_above (by decide) (by decide) f2 f4
  have f6 : fld 31 26 0x4C000011 = 19 := rfl
  have f7 : fld 31 26 (put 2 t 0x4C000011) = 19 := fld_put_above (by decide) (by decide) f0 f6
  have f8 : fld 31 26 (put 12 a (put 2 t 0x4C000011)) = 19 := fld_put_above (by decide) (by decide) f2 f7
  have f9 : fld 1 0 0x4C000011 = 1 := rfl
  have f10 : fld 1 0 (put 2 t 0x4C000011) = 1 := fld_put_below (by decide) (by decide) f9
  have f11 : fld 1 0 (put 12 a (put 2 t 0x4C000011)) = 1 := fld_put_below (by decide) (by decide) f10
  have f12 : fld 11 4 0x4C000011 = 1 := rfl
  have f13 : fld 11 4 (put 2 t 0x4C000011) = 1 := fld_put_above (by decide) (by decide) f0 f12
  have f14 : fld 11 4 (put 12 a (put 2 t 0x4C000011)) = 1 := fld_put_below (by decide) (by decide) f13
  have f15 : fld 18 12 (put 12 a (put 2 t 0x4C000011)) = a.toNat := fld_put_eq rfl f2
  have f16 : fld 3 2 (put 2 t 0x4C000011) = t.toNat := fld_put_eq rfl f0
  have f17 : fld 3 2 (put 12 a (put 2 t 0x4C000011)) = t.toNat := fld_put_below (by decide) (by decide) f16
  have h0 : fld 31 26 (put 19 d (put 12 a (put 2 t 0x4C000011))) = 19 := fld_put_above (by decide) (by decide) f5 f8
  have h1 : fld 1 0 (put 19 d (put 12 a (put 2 t 0x4C000011))) = 1 := fld_put_below (by decide) (by decide) f11
  have h2 : fld 11 4 (put 19 d (put 12 a (put 2 t 0x4C000011))) = 1 := fld_put_below (by decide) (by decide) f14
  have h3 : BitVec.ofNat 7 (fld 25 19 (put 19 d (put 12 a (put 2 t 0x4C000011)))) = d := ofNat_fld (fld_put_eq rfl f5)
  have h4 : BitVec.ofNat 7 (fld 18 12 (put 19 d (put 12 a (put 2 t 0x4C000011)))) = a := ofNat_fld (fld_put_below (by decide) (by decide) f15)
  have h5 : BitVec.ofNat 2 (fld 3 2 (put 19 d (put 12 a (put 2 t 0x4C000011)))) = t := ofNat_fld (fld_put_below (by decide) (by decide) f17)
  rw [decodeWord_13 h0]
  simp [decodeOp13, h1, h2, h3, h4, h5]

theorem Sys2Proof.Laws.Encodes.cvt (d : BitVec 7) (a : BitVec 7) (u : BitVec 1) (p : BitVec 2) (s : BitVec 3) (t : BitVec 3) :
    Sys2Proof.Laws.Encodes.Statement (.cvt d a u p s t) := by
  rintro w ⟨⟩
  have f0 : fld 4 2 0x50000000 = 0 := rfl
  have f1 : fld 7 5 0x50000000 = 0 := rfl
  have f2 : fld 7 5 (put 2 t 0x50000000) = 0 := fld_put_above (by decide) (by decide) f0 f1
  have f3 : fld 9 8 0x50000000 = 0 := rfl
  have f4 : fld 9 8 (put 2 t 0x50000000) = 0 := fld_put_above (by decide) (by decide) f0 f3
  have f5 : fld 9 8 (put 5 s (put 2 t 0x50000000)) = 0 := fld_put_above (by decide) (by decide) f2 f4
  have f6 : fld 10 10 0x50000000 = 0 := rfl
  have f7 : fld 10 10 (put 2 t 0x50000000) = 0 := fld_put_above (by decide) (by decide) f0 f6
  have f8 : fld 10 10 (put 5 s (put 2 t 0x50000000)) = 0 := fld_put_above (by decide) (by decide) f2 f7
  have f9 : fld 10 10 (put 8 p (put 5 s (put 2 t 0x50000000))) = 0 := fld_put_above (by decide) (by decide) f5 f8
  have f10 : fld 18 12 0x50000000 = 0 := rfl
  have f11 : fld 18 12 (put 2 t 0x50000000) = 0 := fld_put_above (by decide) (by decide) f0 f10
  have f12 : fld 18 12 (put 5 s (put 2 t 0x50000000)) = 0 := fld_put_above (by decide) (by decide) f2 f11
  have f13 : fld 18 12 (put 8 p (put 5 s (put 2 t 0x50000000))) = 0 := fld_put_above (by decide) (by decide) f5 f12
  have f14 : fld 18 12 (put 10 u (put 8 p (put 5 s (put 2 t 0x50000000)))) = 0 := fld_put_above (by decide) (by decide) f9 f13
  have f15 : fld 25 19 0x50000000 = 0 := rfl
  have f16 : fld 25 19 (put 2 t 0x50000000) = 0 := fld_put_above (by decide) (by decide) f0 f15
  have f17 : fld 25 19 (put 5 s (put 2 t 0x50000000)) = 0 := fld_put_above (by decide) (by decide) f2 f16
  have f18 : fld 25 19 (put 8 p (put 5 s (put 2 t 0x50000000))) = 0 := fld_put_above (by decide) (by decide) f5 f17
  have f19 : fld 25 19 (put 10 u (put 8 p (put 5 s (put 2 t 0x50000000)))) = 0 := fld_put_above (by decide) (by decide) f9 f18
  have f20 : fld 25 19 (put 12 a (put 10 u (put 8 p (put 5 s (put 2 t 0x50000000))))) = 0 := fld_put_above (by decide) (by decide) f14 f19
  have f21 : fld 31 26 0x50000000 = 20 := rfl
  have f22 : fld 31 26 (put 2 t 0x50000000) = 20 := fld_put_above (by decide) (by decide) f0 f21
  have f23 : fld 31 26 (put 5 s (put 2 t 0x50000000)) = 20 := fld_put_above (by decide) (by decide) f2 f22
  have f24 : fld 31 26 (put 8 p (put 5 s (put 2 t 0x50000000))) = 20 := fld_put_above (by decide) (by decide) f5 f23
  have f25 : fld 31 26 (put 10 u (put 8 p (put 5 s (put 2 t 0x50000000)))) = 20 := fld_put_above (by decide) (by decide) f9 f24
  have f26 : fld 31 26 (put 12 a (put 10 u (put 8 p (put 5 s (put 2 t 0x50000000))))) = 20 := fld_put_above (by decide) (by decide) f14 f25
  have f27 : fld 1 0 0x50000000 = 0 := rfl
  have f28 : fld 1 0 (put 2 t 0x50000000) = 0 := fld_put_below (by decide) (by decide) f27
  have f29 : fld 1 0 (put 5 s (put 2 t 0x50000000)) = 0 := fld_put_below (by decide) (by decide) f28
  have f30 : fld 1 0 (put 8 p (put 5 s (put 2 t 0x50000000))) = 0 := fld_put_below (by decide) (by decide) f29
  have f31 : fld 1 0 (put 10 u (put 8 p (put 5 s (put 2 t 0x50000000)))) = 0 := fld_put_below (by decide) (by decide) f30
  have f32 : fld 1 0 (put 12 a (put 10 u (put 8 p (put 5 s (put 2 t 0x50000000))))) = 0 := fld_put_below (by decide) (by decide) f31
  have f33 : fld 11 11 0x50000000 = 0 := rfl
  have f34 : fld 11 11 (put 2 t 0x50000000) = 0 := fld_put_above (by decide) (by decide) f0 f33
  have f35 : fld 11 11 (put 5 s (put 2 t 0x50000000)) = 0 := fld_put_above (by decide) (by decide) f2 f34
  have f36 : fld 11 11 (put 8 p (put 5 s (put 2 t 0x50000000))) = 0 := fld_put_above (by decide) (by decide) f5 f35
  have f37 : fld 11 11 (put 10 u (put 8 p (put 5 s (put 2 t 0x50000000)))) = 0 := fld_put_above (by decide) (by decide) f9 f36
  have f38 : fld 11 11 (put 12 a (put 10 u (put 8 p (put 5 s (put 2 t 0x50000000))))) = 0 := fld_put_below (by decide) (by decide) f37
  have f39 : fld 18 12 (put 12 a (put 10 u (put 8 p (put 5 s (put 2 t 0x50000000))))) = a.toNat := fld_put_eq rfl f14
  have f40 : fld 10 10 (put 10 u (put 8 p (put 5 s (put 2 t 0x50000000)))) = u.toNat := fld_put_eq rfl f9
  have f41 : fld 10 10 (put 12 a (put 10 u (put 8 p (put 5 s (put 2 t 0x50000000))))) = u.toNat := fld_put_below (by decide) (by decide) f40
  have f42 : fld 9 8 (put 8 p (put 5 s (put 2 t 0x50000000))) = p.toNat := fld_put_eq rfl f5
  have f43 : fld 9 8 (put 10 u (put 8 p (put 5 s (put 2 t 0x50000000)))) = p.toNat := fld_put_below (by decide) (by decide) f42
  have f44 : fld 9 8 (put 12 a (put 10 u (put 8 p (put 5 s (put 2 t 0x50000000))))) = p.toNat := fld_put_below (by decide) (by decide) f43
  have f45 : fld 7 5 (put 5 s (put 2 t 0x50000000)) = s.toNat := fld_put_eq rfl f2
  have f46 : fld 7 5 (put 8 p (put 5 s (put 2 t 0x50000000))) = s.toNat := fld_put_below (by decide) (by decide) f45
  have f47 : fld 7 5 (put 10 u (put 8 p (put 5 s (put 2 t 0x50000000)))) = s.toNat := fld_put_below (by decide) (by decide) f46
  have f48 : fld 7 5 (put 12 a (put 10 u (put 8 p (put 5 s (put 2 t 0x50000000))))) = s.toNat := fld_put_below (by decide) (by decide) f47
  have f49 : fld 4 2 (put 2 t 0x50000000) = t.toNat := fld_put_eq rfl f0
  have f50 : fld 4 2 (put 5 s (put 2 t 0x50000000)) = t.toNat := fld_put_below (by decide) (by decide) f49
  have f51 : fld 4 2 (put 8 p (put 5 s (put 2 t 0x50000000))) = t.toNat := fld_put_below (by decide) (by decide) f50
  have f52 : fld 4 2 (put 10 u (put 8 p (put 5 s (put 2 t 0x50000000)))) = t.toNat := fld_put_below (by decide) (by decide) f51
  have f53 : fld 4 2 (put 12 a (put 10 u (put 8 p (put 5 s (put 2 t 0x50000000))))) = t.toNat := fld_put_below (by decide) (by decide) f52
  have h0 : fld 31 26 (put 19 d (put 12 a (put 10 u (put 8 p (put 5 s (put 2 t 0x50000000)))))) = 20 := fld_put_above (by decide) (by decide) f20 f26
  have h1 : fld 1 0 (put 19 d (put 12 a (put 10 u (put 8 p (put 5 s (put 2 t 0x50000000)))))) = 0 := fld_put_below (by decide) (by decide) f32
  have h2 : fld 11 11 (put 19 d (put 12 a (put 10 u (put 8 p (put 5 s (put 2 t 0x50000000)))))) = 0 := fld_put_below (by decide) (by decide) f38
  have h3 : BitVec.ofNat 7 (fld 25 19 (put 19 d (put 12 a (put 10 u (put 8 p (put 5 s (put 2 t 0x50000000))))))) = d := ofNat_fld (fld_put_eq rfl f20)
  have h4 : BitVec.ofNat 7 (fld 18 12 (put 19 d (put 12 a (put 10 u (put 8 p (put 5 s (put 2 t 0x50000000))))))) = a := ofNat_fld (fld_put_below (by decide) (by decide) f39)
  have h5 : BitVec.ofNat 1 (fld 10 10 (put 19 d (put 12 a (put 10 u (put 8 p (put 5 s (put 2 t 0x50000000))))))) = u := ofNat_fld (fld_put_below (by decide) (by decide) f41)
  have h6 : BitVec.ofNat 2 (fld 9 8 (put 19 d (put 12 a (put 10 u (put 8 p (put 5 s (put 2 t 0x50000000))))))) = p := ofNat_fld (fld_put_below (by decide) (by decide) f44)
  have h7 : BitVec.ofNat 3 (fld 7 5 (put 19 d (put 12 a (put 10 u (put 8 p (put 5 s (put 2 t 0x50000000))))))) = s := ofNat_fld (fld_put_below (by decide) (by decide) f48)
  have h8 : BitVec.ofNat 3 (fld 4 2 (put 19 d (put 12 a (put 10 u (put 8 p (put 5 s (put 2 t 0x50000000))))))) = t := ofNat_fld (fld_put_below (by decide) (by decide) f53)
  rw [decodeWord_14 h0]
  simp [decodeOp14, h1, h2, h3, h4, h5, h6, h7, h8]

theorem Sys2Proof.Laws.Encodes.cvts (d : BitVec 7) (a : BitVec 7) (u : BitVec 1) (p : BitVec 2) (s : BitVec 3) (t : BitVec 2) :
    Sys2Proof.Laws.Encodes.Statement (.cvts d a u p s t) := by
  rintro w ⟨⟩
  have f0 : fld 3 2 0x50000001 = 0 := rfl
  have f1 : fld 7 5 0x50000001 = 0 := rfl
  have f2 : fld 7 5 (put 2 t 0x50000001) = 0 := fld_put_above (by decide) (by decide) f0 f1
  have f3 : fld 9 8 0x50000001 = 0 := rfl
  have f4 : fld 9 8 (put 2 t 0x50000001) = 0 := fld_put_above (by decide) (by decide) f0 f3
  have f5 : fld 9 8 (put 5 s (put 2 t 0x50000001)) = 0 := fld_put_above (by decide) (by decide) f2 f4
  have f6 : fld 10 10 0x50000001 = 0 := rfl
  have f7 : fld 10 10 (put 2 t 0x50000001) = 0 := fld_put_above (by decide) (by decide) f0 f6
  have f8 : fld 10 10 (put 5 s (put 2 t 0x50000001)) = 0 := fld_put_above (by decide) (by decide) f2 f7
  have f9 : fld 10 10 (put 8 p (put 5 s (put 2 t 0x50000001))) = 0 := fld_put_above (by decide) (by decide) f5 f8
  have f10 : fld 18 12 0x50000001 = 0 := rfl
  have f11 : fld 18 12 (put 2 t 0x50000001) = 0 := fld_put_above (by decide) (by decide) f0 f10
  have f12 : fld 18 12 (put 5 s (put 2 t 0x50000001)) = 0 := fld_put_above (by decide) (by decide) f2 f11
  have f13 : fld 18 12 (put 8 p (put 5 s (put 2 t 0x50000001))) = 0 := fld_put_above (by decide) (by decide) f5 f12
  have f14 : fld 18 12 (put 10 u (put 8 p (put 5 s (put 2 t 0x50000001)))) = 0 := fld_put_above (by decide) (by decide) f9 f13
  have f15 : fld 25 19 0x50000001 = 0 := rfl
  have f16 : fld 25 19 (put 2 t 0x50000001) = 0 := fld_put_above (by decide) (by decide) f0 f15
  have f17 : fld 25 19 (put 5 s (put 2 t 0x50000001)) = 0 := fld_put_above (by decide) (by decide) f2 f16
  have f18 : fld 25 19 (put 8 p (put 5 s (put 2 t 0x50000001))) = 0 := fld_put_above (by decide) (by decide) f5 f17
  have f19 : fld 25 19 (put 10 u (put 8 p (put 5 s (put 2 t 0x50000001)))) = 0 := fld_put_above (by decide) (by decide) f9 f18
  have f20 : fld 25 19 (put 12 a (put 10 u (put 8 p (put 5 s (put 2 t 0x50000001))))) = 0 := fld_put_above (by decide) (by decide) f14 f19
  have f21 : fld 31 26 0x50000001 = 20 := rfl
  have f22 : fld 31 26 (put 2 t 0x50000001) = 20 := fld_put_above (by decide) (by decide) f0 f21
  have f23 : fld 31 26 (put 5 s (put 2 t 0x50000001)) = 20 := fld_put_above (by decide) (by decide) f2 f22
  have f24 : fld 31 26 (put 8 p (put 5 s (put 2 t 0x50000001))) = 20 := fld_put_above (by decide) (by decide) f5 f23
  have f25 : fld 31 26 (put 10 u (put 8 p (put 5 s (put 2 t 0x50000001)))) = 20 := fld_put_above (by decide) (by decide) f9 f24
  have f26 : fld 31 26 (put 12 a (put 10 u (put 8 p (put 5 s (put 2 t 0x50000001))))) = 20 := fld_put_above (by decide) (by decide) f14 f25
  have f27 : fld 1 0 0x50000001 = 1 := rfl
  have f28 : fld 1 0 (put 2 t 0x50000001) = 1 := fld_put_below (by decide) (by decide) f27
  have f29 : fld 1 0 (put 5 s (put 2 t 0x50000001)) = 1 := fld_put_below (by decide) (by decide) f28
  have f30 : fld 1 0 (put 8 p (put 5 s (put 2 t 0x50000001))) = 1 := fld_put_below (by decide) (by decide) f29
  have f31 : fld 1 0 (put 10 u (put 8 p (put 5 s (put 2 t 0x50000001)))) = 1 := fld_put_below (by decide) (by decide) f30
  have f32 : fld 1 0 (put 12 a (put 10 u (put 8 p (put 5 s (put 2 t 0x50000001))))) = 1 := fld_put_below (by decide) (by decide) f31
  have f33 : fld 4 4 0x50000001 = 0 := rfl
  have f34 : fld 4 4 (put 2 t 0x50000001) = 0 := fld_put_above (by decide) (by decide) f0 f33
  have f35 : fld 4 4 (put 5 s (put 2 t 0x50000001)) = 0 := fld_put_below (by decide) (by decide) f34
  have f36 : fld 4 4 (put 8 p (put 5 s (put 2 t 0x50000001))) = 0 := fld_put_below (by decide) (by decide) f35
  have f37 : fld 4 4 (put 10 u (put 8 p (put 5 s (put 2 t 0x50000001)))) = 0 := fld_put_below (by decide) (by decide) f36
  have f38 : fld 4 4 (put 12 a (put 10 u (put 8 p (put 5 s (put 2 t 0x50000001))))) = 0 := fld_put_below (by decide) (by decide) f37
  have f39 : fld 11 11 0x50000001 = 0 := rfl
  have f40 : fld 11 11 (put 2 t 0x50000001) = 0 := fld_put_above (by decide) (by decide) f0 f39
  have f41 : fld 11 11 (put 5 s (put 2 t 0x50000001)) = 0 := fld_put_above (by decide) (by decide) f2 f40
  have f42 : fld 11 11 (put 8 p (put 5 s (put 2 t 0x50000001))) = 0 := fld_put_above (by decide) (by decide) f5 f41
  have f43 : fld 11 11 (put 10 u (put 8 p (put 5 s (put 2 t 0x50000001)))) = 0 := fld_put_above (by decide) (by decide) f9 f42
  have f44 : fld 11 11 (put 12 a (put 10 u (put 8 p (put 5 s (put 2 t 0x50000001))))) = 0 := fld_put_below (by decide) (by decide) f43
  have f45 : fld 18 12 (put 12 a (put 10 u (put 8 p (put 5 s (put 2 t 0x50000001))))) = a.toNat := fld_put_eq rfl f14
  have f46 : fld 10 10 (put 10 u (put 8 p (put 5 s (put 2 t 0x50000001)))) = u.toNat := fld_put_eq rfl f9
  have f47 : fld 10 10 (put 12 a (put 10 u (put 8 p (put 5 s (put 2 t 0x50000001))))) = u.toNat := fld_put_below (by decide) (by decide) f46
  have f48 : fld 9 8 (put 8 p (put 5 s (put 2 t 0x50000001))) = p.toNat := fld_put_eq rfl f5
  have f49 : fld 9 8 (put 10 u (put 8 p (put 5 s (put 2 t 0x50000001)))) = p.toNat := fld_put_below (by decide) (by decide) f48
  have f50 : fld 9 8 (put 12 a (put 10 u (put 8 p (put 5 s (put 2 t 0x50000001))))) = p.toNat := fld_put_below (by decide) (by decide) f49
  have f51 : fld 7 5 (put 5 s (put 2 t 0x50000001)) = s.toNat := fld_put_eq rfl f2
  have f52 : fld 7 5 (put 8 p (put 5 s (put 2 t 0x50000001))) = s.toNat := fld_put_below (by decide) (by decide) f51
  have f53 : fld 7 5 (put 10 u (put 8 p (put 5 s (put 2 t 0x50000001)))) = s.toNat := fld_put_below (by decide) (by decide) f52
  have f54 : fld 7 5 (put 12 a (put 10 u (put 8 p (put 5 s (put 2 t 0x50000001))))) = s.toNat := fld_put_below (by decide) (by decide) f53
  have f55 : fld 3 2 (put 2 t 0x50000001) = t.toNat := fld_put_eq rfl f0
  have f56 : fld 3 2 (put 5 s (put 2 t 0x50000001)) = t.toNat := fld_put_below (by decide) (by decide) f55
  have f57 : fld 3 2 (put 8 p (put 5 s (put 2 t 0x50000001))) = t.toNat := fld_put_below (by decide) (by decide) f56
  have f58 : fld 3 2 (put 10 u (put 8 p (put 5 s (put 2 t 0x50000001)))) = t.toNat := fld_put_below (by decide) (by decide) f57
  have f59 : fld 3 2 (put 12 a (put 10 u (put 8 p (put 5 s (put 2 t 0x50000001))))) = t.toNat := fld_put_below (by decide) (by decide) f58
  have h0 : fld 31 26 (put 19 d (put 12 a (put 10 u (put 8 p (put 5 s (put 2 t 0x50000001)))))) = 20 := fld_put_above (by decide) (by decide) f20 f26
  have h1 : fld 1 0 (put 19 d (put 12 a (put 10 u (put 8 p (put 5 s (put 2 t 0x50000001)))))) = 1 := fld_put_below (by decide) (by decide) f32
  have h2 : fld 4 4 (put 19 d (put 12 a (put 10 u (put 8 p (put 5 s (put 2 t 0x50000001)))))) = 0 := fld_put_below (by decide) (by decide) f38
  have h3 : fld 11 11 (put 19 d (put 12 a (put 10 u (put 8 p (put 5 s (put 2 t 0x50000001)))))) = 0 := fld_put_below (by decide) (by decide) f44
  have h4 : BitVec.ofNat 7 (fld 25 19 (put 19 d (put 12 a (put 10 u (put 8 p (put 5 s (put 2 t 0x50000001))))))) = d := ofNat_fld (fld_put_eq rfl f20)
  have h5 : BitVec.ofNat 7 (fld 18 12 (put 19 d (put 12 a (put 10 u (put 8 p (put 5 s (put 2 t 0x50000001))))))) = a := ofNat_fld (fld_put_below (by decide) (by decide) f45)
  have h6 : BitVec.ofNat 1 (fld 10 10 (put 19 d (put 12 a (put 10 u (put 8 p (put 5 s (put 2 t 0x50000001))))))) = u := ofNat_fld (fld_put_below (by decide) (by decide) f47)
  have h7 : BitVec.ofNat 2 (fld 9 8 (put 19 d (put 12 a (put 10 u (put 8 p (put 5 s (put 2 t 0x50000001))))))) = p := ofNat_fld (fld_put_below (by decide) (by decide) f50)
  have h8 : BitVec.ofNat 3 (fld 7 5 (put 19 d (put 12 a (put 10 u (put 8 p (put 5 s (put 2 t 0x50000001))))))) = s := ofNat_fld (fld_put_below (by decide) (by decide) f54)
  have h9 : BitVec.ofNat 2 (fld 3 2 (put 19 d (put 12 a (put 10 u (put 8 p (put 5 s (put 2 t 0x50000001))))))) = t := ofNat_fld (fld_put_below (by decide) (by decide) f59)
  rw [decodeWord_14 h0]
  simp [decodeOp14, h1, h2, h3, h4, h5, h6, h7, h8, h9]

theorem Sys2Proof.Laws.Encodes.cvtb (d : BitVec 7) (a : BitVec 7) (s : BitVec 3) :
    Sys2Proof.Laws.Encodes.Statement (.cvtb d a s) := by
  rintro w ⟨⟩
  have f0 : fld 7 5 0x5000001A = 0 := rfl
  have f1 : fld 18 12 0x5000001A = 0 := rfl
  have f2 : fld 18 12 (put 5 s 0x5000001A) = 0 := fld_put_above (by decide) (by decide) f0 f1
  have f3 : fld 25 19 0x5000001A = 0 := rfl
  have f4 : fld 25 19 (put 5 s 0x5000001A) = 0 := fld_put_above (by decide) (by decide) f0 f3
  have f5 : fld 25 19 (put 12 a (put 5 s 0x5000001A)) = 0 := fld_put_above (by decide) (by decide) f2 f4
  have f6 : fld 31 26 0x5000001A = 20 := rfl
  have f7 : fld 31 26 (put 5 s 0x5000001A) = 20 := fld_put_above (by decide) (by decide) f0 f6
  have f8 : fld 31 26 (put 12 a (put 5 s 0x5000001A)) = 20 := fld_put_above (by decide) (by decide) f2 f7
  have f9 : fld 1 0 0x5000001A = 2 := rfl
  have f10 : fld 1 0 (put 5 s 0x5000001A) = 2 := fld_put_below (by decide) (by decide) f9
  have f11 : fld 1 0 (put 12 a (put 5 s 0x5000001A)) = 2 := fld_put_below (by decide) (by decide) f10
  have f12 : fld 4 2 0x5000001A = 6 := rfl
  have f13 : fld 4 2 (put 5 s 0x5000001A) = 6 := fld_put_below (by decide) (by decide) f12
  have f14 : fld 4 2 (put 12 a (put 5 s 0x5000001A)) = 6 := fld_put_below (by decide) (by decide) f13
  have f15 : fld 11 8 0x5000001A = 0 := rfl
  have f16 : fld 11 8 (put 5 s 0x5000001A) = 0 := fld_put_above (by decide) (by decide) f0 f15
  have f17 : fld 11 8 (put 12 a (put 5 s 0x5000001A)) = 0 := fld_put_below (by decide) (by decide) f16
  have f18 : fld 18 12 (put 12 a (put 5 s 0x5000001A)) = a.toNat := fld_put_eq rfl f2
  have f19 : fld 7 5 (put 5 s 0x5000001A) = s.toNat := fld_put_eq rfl f0
  have f20 : fld 7 5 (put 12 a (put 5 s 0x5000001A)) = s.toNat := fld_put_below (by decide) (by decide) f19
  have h0 : fld 31 26 (put 19 d (put 12 a (put 5 s 0x5000001A))) = 20 := fld_put_above (by decide) (by decide) f5 f8
  have h1 : fld 1 0 (put 19 d (put 12 a (put 5 s 0x5000001A))) = 2 := fld_put_below (by decide) (by decide) f11
  have h2 : fld 4 2 (put 19 d (put 12 a (put 5 s 0x5000001A))) = 6 := fld_put_below (by decide) (by decide) f14
  have h4 : fld 11 8 (put 19 d (put 12 a (put 5 s 0x5000001A))) = 0 := fld_put_below (by decide) (by decide) f17
  have h6 : BitVec.ofNat 7 (fld 25 19 (put 19 d (put 12 a (put 5 s 0x5000001A)))) = d := ofNat_fld (fld_put_eq rfl f5)
  have h7 : BitVec.ofNat 7 (fld 18 12 (put 19 d (put 12 a (put 5 s 0x5000001A)))) = a := ofNat_fld (fld_put_below (by decide) (by decide) f18)
  have h8 : BitVec.ofNat 3 (fld 7 5 (put 19 d (put 12 a (put 5 s 0x5000001A)))) = s := ofNat_fld (fld_put_below (by decide) (by decide) f20)
  rw [decodeWord_14 h0]
  simp [decodeOp14, h1, h2, h4, h6, h7, h8]

theorem Sys2Proof.Laws.Encodes.cvtbx (d : BitVec 7) (a : BitVec 7) (s : BitVec 3) :
    Sys2Proof.Laws.Encodes.Statement (.cvtbx d a s) := by
  rintro w ⟨⟩
  have f0 : fld 7 5 0x5000001B = 0 := rfl
  have f1 : fld 18 12 0x5000001B = 0 := rfl
  have f2 : fld 18 12 (put 5 s 0x5000001B) = 0 := fld_put_above (by decide) (by decide) f0 f1
  have f3 : fld 25 19 0x5000001B = 0 := rfl
  have f4 : fld 25 19 (put 5 s 0x5000001B) = 0 := fld_put_above (by decide) (by decide) f0 f3
  have f5 : fld 25 19 (put 12 a (put 5 s 0x5000001B)) = 0 := fld_put_above (by decide) (by decide) f2 f4
  have f6 : fld 31 26 0x5000001B = 20 := rfl
  have f7 : fld 31 26 (put 5 s 0x5000001B) = 20 := fld_put_above (by decide) (by decide) f0 f6
  have f8 : fld 31 26 (put 12 a (put 5 s 0x5000001B)) = 20 := fld_put_above (by decide) (by decide) f2 f7
  have f9 : fld 1 0 0x5000001B = 3 := rfl
  have f10 : fld 1 0 (put 5 s 0x5000001B) = 3 := fld_put_below (by decide) (by decide) f9
  have f11 : fld 1 0 (put 12 a (put 5 s 0x5000001B)) = 3 := fld_put_below (by decide) (by decide) f10
  have f12 : fld 4 2 0x5000001B = 6 := rfl
  have f13 : fld 4 2 (put 5 s 0x5000001B) = 6 := fld_put_below (by decide) (by decide) f12
  have f14 : fld 4 2 (put 12 a (put 5 s 0x5000001B)) = 6 := fld_put_below (by decide) (by decide) f13
  have f15 : fld 11 8 0x5000001B = 0 := rfl
  have f16 : fld 11 8 (put 5 s 0x5000001B) = 0 := fld_put_above (by decide) (by decide) f0 f15
  have f17 : fld 11 8 (put 12 a (put 5 s 0x5000001B)) = 0 := fld_put_below (by decide) (by decide) f16
  have f18 : fld 18 12 (put 12 a (put 5 s 0x5000001B)) = a.toNat := fld_put_eq rfl f2
  have f19 : fld 7 5 (put 5 s 0x5000001B) = s.toNat := fld_put_eq rfl f0
  have f20 : fld 7 5 (put 12 a (put 5 s 0x5000001B)) = s.toNat := fld_put_below (by decide) (by decide) f19
  have h0 : fld 31 26 (put 19 d (put 12 a (put 5 s 0x5000001B))) = 20 := fld_put_above (by decide) (by decide) f5 f8
  have h1 : fld 1 0 (put 19 d (put 12 a (put 5 s 0x5000001B))) = 3 := fld_put_below (by decide) (by decide) f11
  have h2 : fld 4 2 (put 19 d (put 12 a (put 5 s 0x5000001B))) = 6 := fld_put_below (by decide) (by decide) f14
  have h4 : fld 11 8 (put 19 d (put 12 a (put 5 s 0x5000001B))) = 0 := fld_put_below (by decide) (by decide) f17
  have h6 : BitVec.ofNat 7 (fld 25 19 (put 19 d (put 12 a (put 5 s 0x5000001B)))) = d := ofNat_fld (fld_put_eq rfl f5)
  have h7 : BitVec.ofNat 7 (fld 18 12 (put 19 d (put 12 a (put 5 s 0x5000001B)))) = a := ofNat_fld (fld_put_below (by decide) (by decide) f18)
  have h8 : BitVec.ofNat 3 (fld 7 5 (put 19 d (put 12 a (put 5 s 0x5000001B)))) = s := ofNat_fld (fld_put_below (by decide) (by decide) f20)
  rw [decodeWord_14 h0]
  simp [decodeOp14, h1, h2, h4, h6, h7, h8]

theorem Sys2Proof.Laws.Encodes.shfl (d : BitVec 7) (a : BitVec 7) (b : BitVec 7) (t : BitVec 3) :
    Sys2Proof.Laws.Encodes.Statement (.shfl d a b t) := by
  rintro w ⟨⟩
  have f0 : fld 4 2 0x54000000 = 0 := rfl
  have f1 : fld 11 5 0x54000000 = 0 := rfl
  have f2 : fld 11 5 (put 2 t 0x54000000) = 0 := fld_put_above (by decide) (by decide) f0 f1
  have f3 : fld 18 12 0x54000000 = 0 := rfl
  have f4 : fld 18 12 (put 2 t 0x54000000) = 0 := fld_put_above (by decide) (by decide) f0 f3
  have f5 : fld 18 12 (put 5 b (put 2 t 0x54000000)) = 0 := fld_put_above (by decide) (by decide) f2 f4
  have f6 : fld 25 19 0x54000000 = 0 := rfl
  have f7 : fld 25 19 (put 2 t 0x54000000) = 0 := fld_put_above (by decide) (by decide) f0 f6
  have f8 : fld 25 19 (put 5 b (put 2 t 0x54000000)) = 0 := fld_put_above (by decide) (by decide) f2 f7
  have f9 : fld 25 19 (put 12 a (put 5 b (put 2 t 0x54000000))) = 0 := fld_put_above (by decide) (by decide) f5 f8
  have f10 : fld 31 26 0x54000000 = 21 := rfl
  have f11 : fld 31 26 (put 2 t 0x54000000) = 21 := fld_put_above (by decide) (by decide) f0 f10
  have f12 : fld 31 26 (put 5 b (put 2 t 0x54000000)) = 21 := fld_put_above (by decide) (by decide) f2 f11
  have f13 : fld 31 26 (put 12 a (put 5 b (put 2 t 0x54000000))) = 21 := fld_put_above (by decide) (by decide) f5 f12
  have f14 : fld 1 0 0x54000000 = 0 := rfl
  have f15 : fld 1 0 (put 2 t 0x54000000) = 0 := fld_put_below (by decide) (by decide) f14
  have f16 : fld 1 0 (put 5 b (put 2 t 0x54000000)) = 0 := fld_put_below (by decide) (by decide) f15
  have f17 : fld 1 0 (put 12 a (put 5 b (put 2 t 0x54000000))) = 0 := fld_put_below (by decide) (by decide) f16
  have f18 : fld 18 12 (put 12 a (put 5 b (put 2 t 0x54000000))) = a.toNat := fld_put_eq rfl f5
  have f19 : fld 11 5 (put 5 b (put 2 t 0x54000000)) = b.toNat := fld_put_eq rfl f2
  have f20 : fld 11 5 (put 12 a (put 5 b (put 2 t 0x54000000))) = b.toNat := fld_put_below (by decide) (by decide) f19
  have f21 : fld 4 2 (put 2 t 0x54000000) = t.toNat := fld_put_eq rfl f0
  have f22 : fld 4 2 (put 5 b (put 2 t 0x54000000)) = t.toNat := fld_put_below (by decide) (by decide) f21
  have f23 : fld 4 2 (put 12 a (put 5 b (put 2 t 0x54000000))) = t.toNat := fld_put_below (by decide) (by decide) f22
  have h0 : fld 31 26 (put 19 d (put 12 a (put 5 b (put 2 t 0x54000000)))) = 21 := fld_put_above (by decide) (by decide) f9 f13
  have h1 : fld 1 0 (put 19 d (put 12 a (put 5 b (put 2 t 0x54000000)))) = 0 := fld_put_below (by decide) (by decide) f17
  have h2 : BitVec.ofNat 7 (fld 25 19 (put 19 d (put 12 a (put 5 b (put 2 t 0x54000000))))) = d := ofNat_fld (fld_put_eq rfl f9)
  have h3 : BitVec.ofNat 7 (fld 18 12 (put 19 d (put 12 a (put 5 b (put 2 t 0x54000000))))) = a := ofNat_fld (fld_put_below (by decide) (by decide) f18)
  have h4 : BitVec.ofNat 7 (fld 11 5 (put 19 d (put 12 a (put 5 b (put 2 t 0x54000000))))) = b := ofNat_fld (fld_put_below (by decide) (by decide) f20)
  have h5 : BitVec.ofNat 3 (fld 4 2 (put 19 d (put 12 a (put 5 b (put 2 t 0x54000000))))) = t := ofNat_fld (fld_put_below (by decide) (by decide) f23)
  rw [decodeWord_15 h0]
  simp [decodeOp15, h1, h2, h3, h4, h5]

theorem Sys2Proof.Laws.Encodes.bcast (d : BitVec 7) (a : BitVec 7) (b : BitVec 7) (t : BitVec 3) :
    Sys2Proof.Laws.Encodes.Statement (.bcast d a b t) := by
  rintro w ⟨⟩
  have f0 : fld 4 2 0x54000001 = 0 := rfl
  have f1 : fld 11 5 0x54000001 = 0 := rfl
  have f2 : fld 11 5 (put 2 t 0x54000001) = 0 := fld_put_above (by decide) (by decide) f0 f1
  have f3 : fld 18 12 0x54000001 = 0 := rfl
  have f4 : fld 18 12 (put 2 t 0x54000001) = 0 := fld_put_above (by decide) (by decide) f0 f3
  have f5 : fld 18 12 (put 5 b (put 2 t 0x54000001)) = 0 := fld_put_above (by decide) (by decide) f2 f4
  have f6 : fld 25 19 0x54000001 = 0 := rfl
  have f7 : fld 25 19 (put 2 t 0x54000001) = 0 := fld_put_above (by decide) (by decide) f0 f6
  have f8 : fld 25 19 (put 5 b (put 2 t 0x54000001)) = 0 := fld_put_above (by decide) (by decide) f2 f7
  have f9 : fld 25 19 (put 12 a (put 5 b (put 2 t 0x54000001))) = 0 := fld_put_above (by decide) (by decide) f5 f8
  have f10 : fld 31 26 0x54000001 = 21 := rfl
  have f11 : fld 31 26 (put 2 t 0x54000001) = 21 := fld_put_above (by decide) (by decide) f0 f10
  have f12 : fld 31 26 (put 5 b (put 2 t 0x54000001)) = 21 := fld_put_above (by decide) (by decide) f2 f11
  have f13 : fld 31 26 (put 12 a (put 5 b (put 2 t 0x54000001))) = 21 := fld_put_above (by decide) (by decide) f5 f12
  have f14 : fld 1 0 0x54000001 = 1 := rfl
  have f15 : fld 1 0 (put 2 t 0x54000001) = 1 := fld_put_below (by decide) (by decide) f14
  have f16 : fld 1 0 (put 5 b (put 2 t 0x54000001)) = 1 := fld_put_below (by decide) (by decide) f15
  have f17 : fld 1 0 (put 12 a (put 5 b (put 2 t 0x54000001))) = 1 := fld_put_below (by decide) (by decide) f16
  have f18 : fld 18 12 (put 12 a (put 5 b (put 2 t 0x54000001))) = a.toNat := fld_put_eq rfl f5
  have f19 : fld 11 5 (put 5 b (put 2 t 0x54000001)) = b.toNat := fld_put_eq rfl f2
  have f20 : fld 11 5 (put 12 a (put 5 b (put 2 t 0x54000001))) = b.toNat := fld_put_below (by decide) (by decide) f19
  have f21 : fld 4 2 (put 2 t 0x54000001) = t.toNat := fld_put_eq rfl f0
  have f22 : fld 4 2 (put 5 b (put 2 t 0x54000001)) = t.toNat := fld_put_below (by decide) (by decide) f21
  have f23 : fld 4 2 (put 12 a (put 5 b (put 2 t 0x54000001))) = t.toNat := fld_put_below (by decide) (by decide) f22
  have h0 : fld 31 26 (put 19 d (put 12 a (put 5 b (put 2 t 0x54000001)))) = 21 := fld_put_above (by decide) (by decide) f9 f13
  have h1 : fld 1 0 (put 19 d (put 12 a (put 5 b (put 2 t 0x54000001)))) = 1 := fld_put_below (by decide) (by decide) f17
  have h2 : BitVec.ofNat 7 (fld 25 19 (put 19 d (put 12 a (put 5 b (put 2 t 0x54000001))))) = d := ofNat_fld (fld_put_eq rfl f9)
  have h3 : BitVec.ofNat 7 (fld 18 12 (put 19 d (put 12 a (put 5 b (put 2 t 0x54000001))))) = a := ofNat_fld (fld_put_below (by decide) (by decide) f18)
  have h4 : BitVec.ofNat 7 (fld 11 5 (put 19 d (put 12 a (put 5 b (put 2 t 0x54000001))))) = b := ofNat_fld (fld_put_below (by decide) (by decide) f20)
  have h5 : BitVec.ofNat 3 (fld 4 2 (put 19 d (put 12 a (put 5 b (put 2 t 0x54000001))))) = t := ofNat_fld (fld_put_below (by decide) (by decide) f23)
  rw [decodeWord_15 h0]
  simp [decodeOp15, h1, h2, h3, h4, h5]

theorem Sys2Proof.Laws.Encodes.permb (d : BitVec 7) (a : BitVec 7) (b : BitVec 7) :
    Sys2Proof.Laws.Encodes.Statement (.permb d a b) := by
  rintro w ⟨⟩
  have f0 : fld 11 5 0x54000002 = 0 := rfl
  have f1 : fld 18 12 0x54000002 = 0 := rfl
  have f2 : fld 18 12 (put 5 b 0x54000002) = 0 := fld_put_above (by decide) (by decide) f0 f1
  have f3 : fld 25 19 0x54000002 = 0 := rfl
  have f4 : fld 25 19 (put 5 b 0x54000002) = 0 := fld_put_above (by decide) (by decide) f0 f3
  have f5 : fld 25 19 (put 12 a (put 5 b 0x54000002)) = 0 := fld_put_above (by decide) (by decide) f2 f4
  have f6 : fld 31 26 0x54000002 = 21 := rfl
  have f7 : fld 31 26 (put 5 b 0x54000002) = 21 := fld_put_above (by decide) (by decide) f0 f6
  have f8 : fld 31 26 (put 12 a (put 5 b 0x54000002)) = 21 := fld_put_above (by decide) (by decide) f2 f7
  have f9 : fld 1 0 0x54000002 = 2 := rfl
  have f10 : fld 1 0 (put 5 b 0x54000002) = 2 := fld_put_below (by decide) (by decide) f9
  have f11 : fld 1 0 (put 12 a (put 5 b 0x54000002)) = 2 := fld_put_below (by decide) (by decide) f10
  have f12 : fld 4 2 0x54000002 = 0 := rfl
  have f13 : fld 4 2 (put 5 b 0x54000002) = 0 := fld_put_below (by decide) (by decide) f12
  have f14 : fld 4 2 (put 12 a (put 5 b 0x54000002)) = 0 := fld_put_below (by decide) (by decide) f13
  have f15 : fld 18 12 (put 12 a (put 5 b 0x54000002)) = a.toNat := fld_put_eq rfl f2
  have f16 : fld 11 5 (put 5 b 0x54000002) = b.toNat := fld_put_eq rfl f0
  have f17 : fld 11 5 (put 12 a (put 5 b 0x54000002)) = b.toNat := fld_put_below (by decide) (by decide) f16
  have h0 : fld 31 26 (put 19 d (put 12 a (put 5 b 0x54000002))) = 21 := fld_put_above (by decide) (by decide) f5 f8
  have h1 : fld 1 0 (put 19 d (put 12 a (put 5 b 0x54000002))) = 2 := fld_put_below (by decide) (by decide) f11
  have h2 : fld 4 2 (put 19 d (put 12 a (put 5 b 0x54000002))) = 0 := fld_put_below (by decide) (by decide) f14
  have h3 : BitVec.ofNat 7 (fld 25 19 (put 19 d (put 12 a (put 5 b 0x54000002)))) = d := ofNat_fld (fld_put_eq rfl f5)
  have h4 : BitVec.ofNat 7 (fld 18 12 (put 19 d (put 12 a (put 5 b 0x54000002)))) = a := ofNat_fld (fld_put_below (by decide) (by decide) f15)
  have h5 : BitVec.ofNat 7 (fld 11 5 (put 19 d (put 12 a (put 5 b 0x54000002)))) = b := ofNat_fld (fld_put_below (by decide) (by decide) f17)
  rw [decodeWord_15 h0]
  simp [decodeOp15, h1, h2, h3, h4, h5]

theorem Sys2Proof.Laws.Encodes.qswp (d : BitVec 7) (a : BitVec 7) (b : BitVec 2) (t : BitVec 3) :
    Sys2Proof.Laws.Encodes.Statement (.qswp d a b t) := by
  rintro w ⟨⟩
  have f0 : fld 4 2 0x58000000 = 0 := rfl
  have f1 : fld 6 5 0x58000000 = 0 := rfl
  have f2 : fld 6 5 (put 2 t 0x58000000) = 0 := fld_put_above (by decide) (by decide) f0 f1
  have f3 : fld 18 12 0x58000000 = 0 := rfl
  have f4 : fld 18 12 (put 2 t 0x58000000) = 0 := fld_put_above (by decide) (by decide) f0 f3
  have f5 : fld 18 12 (put 5 b (put 2 t 0x58000000)) = 0 := fld_put_above (by decide) (by decide) f2 f4
  have f6 : fld 25 19 0x58000000 = 0 := rfl
  have f7 : fld 25 19 (put 2 t 0x58000000) = 0 := fld_put_above (by decide) (by decide) f0 f6
  have f8 : fld 25 19 (put 5 b (put 2 t 0x58000000)) = 0 := fld_put_above (by decide) (by decide) f2 f7
  have f9 : fld 25 19 (put 12 a (put 5 b (put 2 t 0x58000000))) = 0 := fld_put_above (by decide) (by decide) f5 f8
  have f10 : fld 31 26 0x58000000 = 22 := rfl
  have f11 : fld 31 26 (put 2 t 0x58000000) = 22 := fld_put_above (by decide) (by decide) f0 f10
  have f12 : fld 31 26 (put 5 b (put 2 t 0x58000000)) = 22 := fld_put_above (by decide) (by decide) f2 f11
  have f13 : fld 31 26 (put 12 a (put 5 b (put 2 t 0x58000000))) = 22 := fld_put_above (by decide) (by decide) f5 f12
  have f14 : fld 1 0 0x58000000 = 0 := rfl
  have f15 : fld 1 0 (put 2 t 0x58000000) = 0 := fld_put_below (by decide) (by decide) f14
  have f16 : fld 1 0 (put 5 b (put 2 t 0x58000000)) = 0 := fld_put_below (by decide) (by decide) f15
  have f17 : fld 1 0 (put 12 a (put 5 b (put 2 t 0x58000000))) = 0 := fld_put_below (by decide) (by decide) f16
  have f18 : fld 11 7 0x58000000 = 0 := rfl
  have f19 : fld 11 7 (put 2 t 0x58000000) = 0 := fld_put_above (by decide) (by decide) f0 f18
  have f20 : fld 11 7 (put 5 b (put 2 t 0x58000000)) = 0 := fld_put_above (by decide) (by decide) f2 f19
  have f21 : fld 11 7 (put 12 a (put 5 b (put 2 t 0x58000000))) = 0 := fld_put_below (by decide) (by decide) f20
  have f22 : fld 18 12 (put 12 a (put 5 b (put 2 t 0x58000000))) = a.toNat := fld_put_eq rfl f5
  have f23 : fld 6 5 (put 5 b (put 2 t 0x58000000)) = b.toNat := fld_put_eq rfl f2
  have f24 : fld 6 5 (put 12 a (put 5 b (put 2 t 0x58000000))) = b.toNat := fld_put_below (by decide) (by decide) f23
  have f25 : fld 4 2 (put 2 t 0x58000000) = t.toNat := fld_put_eq rfl f0
  have f26 : fld 4 2 (put 5 b (put 2 t 0x58000000)) = t.toNat := fld_put_below (by decide) (by decide) f25
  have f27 : fld 4 2 (put 12 a (put 5 b (put 2 t 0x58000000))) = t.toNat := fld_put_below (by decide) (by decide) f26
  have h0 : fld 31 26 (put 19 d (put 12 a (put 5 b (put 2 t 0x58000000)))) = 22 := fld_put_above (by decide) (by decide) f9 f13
  have h1 : fld 1 0 (put 19 d (put 12 a (put 5 b (put 2 t 0x58000000)))) = 0 := fld_put_below (by decide) (by decide) f17
  have h2 : fld 11 7 (put 19 d (put 12 a (put 5 b (put 2 t 0x58000000)))) = 0 := fld_put_below (by decide) (by decide) f21
  have h3 : BitVec.ofNat 7 (fld 25 19 (put 19 d (put 12 a (put 5 b (put 2 t 0x58000000))))) = d := ofNat_fld (fld_put_eq rfl f9)
  have h4 : BitVec.ofNat 7 (fld 18 12 (put 19 d (put 12 a (put 5 b (put 2 t 0x58000000))))) = a := ofNat_fld (fld_put_below (by decide) (by decide) f22)
  have h5 : BitVec.ofNat 2 (fld 6 5 (put 19 d (put 12 a (put 5 b (put 2 t 0x58000000))))) = b := ofNat_fld (fld_put_below (by decide) (by decide) f24)
  have h6 : BitVec.ofNat 3 (fld 4 2 (put 19 d (put 12 a (put 5 b (put 2 t 0x58000000))))) = t := ofNat_fld (fld_put_below (by decide) (by decide) f27)
  rw [decodeWord_16 h0]
  simp [decodeOp16, h1, h2, h3, h4, h5, h6]

theorem Sys2Proof.Laws.Encodes.ddx (d : BitVec 7) (a : BitVec 7) (c : BitVec 1) (t : BitVec 2) :
    Sys2Proof.Laws.Encodes.Statement (.ddx d a c t) := by
  rintro w ⟨⟩
  have f0 : fld 3 2 0x58000011 = 0 := rfl
  have f1 : fld 5 5 0x58000011 = 0 := rfl
  have f2 : fld 5 5 (put 2 t 0x58000011) = 0 := fld_put_above (by decide) (by decide) f0 f1
  have f3 : fld 18 12 0x58000011 = 0 := rfl
  have f4 : fld 18 12 (put 2 t 0x58000011) = 0 := fld_put_above (by decide) (by decide) f0 f3
  have f5 : fld 18 12 (put 5 c (put 2 t 0x58000011)) = 0 := fld_put_above (by decide) (by decide) f2 f4
  have f6 : fld 25 19 0x58000011 = 0 := rfl
  have f7 : fld 25 19 (put 2 t 0x58000011) = 0 := fld_put_above (by decide) (by decide) f0 f6
  have f8 : fld 25 19 (put 5 c (put 2 t 0x58000011)) = 0 := fld_put_above (by decide) (by decide) f2 f7
  have f9 : fld 25 19 (put 12 a (put 5 c (put 2 t 0x58000011))) = 0 := fld_put_above (by decide) (by decide) f5 f8
  have f10 : fld 31 26 0x58000011 = 22 := rfl
  have f11 : fld 31 26 (put 2 t 0x58000011) = 22 := fld_put_above (by decide) (by decide) f0 f10
  have f12 : fld 31 26 (put 5 c (put 2 t 0x58000011)) = 22 := fld_put_above (by decide) (by decide) f2 f11
  have f13 : fld 31 26 (put 12 a (put 5 c (put 2 t 0x58000011))) = 22 := fld_put_above (by decide) (by decide) f5 f12
  have f14 : fld 1 0 0x58000011 = 1 := rfl
  have f15 : fld 1 0 (put 2 t 0x58000011) = 1 := fld_put_below (by decide) (by decide) f14
  have f16 : fld 1 0 (put 5 c (put 2 t 0x58000011)) = 1 := fld_put_below (by decide) (by decide) f15
  have f17 : fld 1 0 (put 12 a (put 5 c (put 2 t 0x58000011))) = 1 := fld_put_below (by decide) (by decide) f16
  have f18 : fld 4 4 0x58000011 = 1 := rfl
  have f19 : fld 4 4 (put 2 t 0x58000011) = 1 := fld_put_above (by decide) (by decide) f0 f18
  have f20 : fld 4 4 (put 5 c (put 2 t 0x58000011)) = 1 := fld_put_below (by decide) (by decide) f19
  have f21 : fld 4 4 (put 12 a (put 5 c (put 2 t 0x58000011))) = 1 := fld_put_below (by decide) (by decide) f20
  have f22 : fld 11 6 0x58000011 = 0 := rfl
  have f23 : fld 11 6 (put 2 t 0x58000011) = 0 := fld_put_above (by decide) (by decide) f0 f22
  have f24 : fld 11 6 (put 5 c (put 2 t 0x58000011)) = 0 := fld_put_above (by decide) (by decide) f2 f23
  have f25 : fld 11 6 (put 12 a (put 5 c (put 2 t 0x58000011))) = 0 := fld_put_below (by decide) (by decide) f24
  have f26 : fld 18 12 (put 12 a (put 5 c (put 2 t 0x58000011))) = a.toNat := fld_put_eq rfl f5
  have f27 : fld 5 5 (put 5 c (put 2 t 0x58000011)) = c.toNat := fld_put_eq rfl f2
  have f28 : fld 5 5 (put 12 a (put 5 c (put 2 t 0x58000011))) = c.toNat := fld_put_below (by decide) (by decide) f27
  have f29 : fld 3 2 (put 2 t 0x58000011) = t.toNat := fld_put_eq rfl f0
  have f30 : fld 3 2 (put 5 c (put 2 t 0x58000011)) = t.toNat := fld_put_below (by decide) (by decide) f29
  have f31 : fld 3 2 (put 12 a (put 5 c (put 2 t 0x58000011))) = t.toNat := fld_put_below (by decide) (by decide) f30
  have h0 : fld 31 26 (put 19 d (put 12 a (put 5 c (put 2 t 0x58000011)))) = 22 := fld_put_above (by decide) (by decide) f9 f13
  have h1 : fld 1 0 (put 19 d (put 12 a (put 5 c (put 2 t 0x58000011)))) = 1 := fld_put_below (by decide) (by decide) f17
  have h2 : fld 4 4 (put 19 d (put 12 a (put 5 c (put 2 t 0x58000011)))) = 1 := fld_put_below (by decide) (by decide) f21
  have h3 : fld 11 6 (put 19 d (put 12 a (put 5 c (put 2 t 0x58000011)))) = 0 := fld_put_below (by decide) (by decide) f25
  have h5 : BitVec.ofNat 7 (fld 25 19 (put 19 d (put 12 a (put 5 c (put 2 t 0x58000011))))) = d := ofNat_fld (fld_put_eq rfl f9)
  have h6 : BitVec.ofNat 7 (fld 18 12 (put 19 d (put 12 a (put 5 c (put 2 t 0x58000011))))) = a := ofNat_fld (fld_put_below (by decide) (by decide) f26)
  have h7 : BitVec.ofNat 1 (fld 5 5 (put 19 d (put 12 a (put 5 c (put 2 t 0x58000011))))) = c := ofNat_fld (fld_put_below (by decide) (by decide) f28)
  have h8 : BitVec.ofNat 2 (fld 3 2 (put 19 d (put 12 a (put 5 c (put 2 t 0x58000011))))) = t := ofNat_fld (fld_put_below (by decide) (by decide) f31)
  rw [decodeWord_16 h0]
  simp [decodeOp16, h1, h2, h3, h5, h6, h7, h8]

theorem Sys2Proof.Laws.Encodes.ddy (d : BitVec 7) (a : BitVec 7) (c : BitVec 1) (t : BitVec 2) :
    Sys2Proof.Laws.Encodes.Statement (.ddy d a c t) := by
  rintro w ⟨⟩
  have f0 : fld 3 2 0x58000012 = 0 := rfl
  have f1 : fld 5 5 0x58000012 = 0 := rfl
  have f2 : fld 5 5 (put 2 t 0x58000012) = 0 := fld_put_above (by decide) (by decide) f0 f1
  have f3 : fld 18 12 0x58000012 = 0 := rfl
  have f4 : fld 18 12 (put 2 t 0x58000012) = 0 := fld_put_above (by decide) (by decide) f0 f3
  have f5 : fld 18 12 (put 5 c (put 2 t 0x58000012)) = 0 := fld_put_above (by decide) (by decide) f2 f4
  have f6 : fld 25 19 0x58000012 = 0 := rfl
  have f7 : fld 25 19 (put 2 t 0x58000012) = 0 := fld_put_above (by decide) (by decide) f0 f6
  have f8 : fld 25 19 (put 5 c (put 2 t 0x58000012)) = 0 := fld_put_above (by decide) (by decide) f2 f7
  have f9 : fld 25 19 (put 12 a (put 5 c (put 2 t 0x58000012))) = 0 := fld_put_above (by decide) (by decide) f5 f8
  have f10 : fld 31 26 0x58000012 = 22 := rfl
  have f11 : fld 31 26 (put 2 t 0x58000012) = 22 := fld_put_above (by decide) (by decide) f0 f10
  have f12 : fld 31 26 (put 5 c (put 2 t 0x58000012)) = 22 := fld_put_above (by decide) (by decide) f2 f11
  have f13 : fld 31 26 (put 12 a (put 5 c (put 2 t 0x58000012))) = 22 := fld_put_above (by decide) (by decide) f5 f12
  have f14 : fld 1 0 0x58000012 = 2 := rfl
  have f15 : fld 1 0 (put 2 t 0x58000012) = 2 := fld_put_below (by decide) (by decide) f14
  have f16 : fld 1 0 (put 5 c (put 2 t 0x58000012)) = 2 := fld_put_below (by decide) (by decide) f15
  have f17 : fld 1 0 (put 12 a (put 5 c (put 2 t 0x58000012))) = 2 := fld_put_below (by decide) (by decide) f16
  have f18 : fld 4 4 0x58000012 = 1 := rfl
  have f19 : fld 4 4 (put 2 t 0x58000012) = 1 := fld_put_above (by decide) (by decide) f0 f18
  have f20 : fld 4 4 (put 5 c (put 2 t 0x58000012)) = 1 := fld_put_below (by decide) (by decide) f19
  have f21 : fld 4 4 (put 12 a (put 5 c (put 2 t 0x58000012))) = 1 := fld_put_below (by decide) (by decide) f20
  have f22 : fld 11 6 0x58000012 = 0 := rfl
  have f23 : fld 11 6 (put 2 t 0x58000012) = 0 := fld_put_above (by decide) (by decide) f0 f22
  have f24 : fld 11 6 (put 5 c (put 2 t 0x58000012)) = 0 := fld_put_above (by decide) (by decide) f2 f23
  have f25 : fld 11 6 (put 12 a (put 5 c (put 2 t 0x58000012))) = 0 := fld_put_below (by decide) (by decide) f24
  have f26 : fld 18 12 (put 12 a (put 5 c (put 2 t 0x58000012))) = a.toNat := fld_put_eq rfl f5
  have f27 : fld 5 5 (put 5 c (put 2 t 0x58000012)) = c.toNat := fld_put_eq rfl f2
  have f28 : fld 5 5 (put 12 a (put 5 c (put 2 t 0x58000012))) = c.toNat := fld_put_below (by decide) (by decide) f27
  have f29 : fld 3 2 (put 2 t 0x58000012) = t.toNat := fld_put_eq rfl f0
  have f30 : fld 3 2 (put 5 c (put 2 t 0x58000012)) = t.toNat := fld_put_below (by decide) (by decide) f29
  have f31 : fld 3 2 (put 12 a (put 5 c (put 2 t 0x58000012))) = t.toNat := fld_put_below (by decide) (by decide) f30
  have h0 : fld 31 26 (put 19 d (put 12 a (put 5 c (put 2 t 0x58000012)))) = 22 := fld_put_above (by decide) (by decide) f9 f13
  have h1 : fld 1 0 (put 19 d (put 12 a (put 5 c (put 2 t 0x58000012)))) = 2 := fld_put_below (by decide) (by decide) f17
  have h2 : fld 4 4 (put 19 d (put 12 a (put 5 c (put 2 t 0x58000012)))) = 1 := fld_put_below (by decide) (by decide) f21
  have h3 : fld 11 6 (put 19 d (put 12 a (put 5 c (put 2 t 0x58000012)))) = 0 := fld_put_below (by decide) (by decide) f25
  have h5 : BitVec.ofNat 7 (fld 25 19 (put 19 d (put 12 a (put 5 c (put 2 t 0x58000012))))) = d := ofNat_fld (fld_put_eq rfl f9)
  have h6 : BitVec.ofNat 7 (fld 18 12 (put 19 d (put 12 a (put 5 c (put 2 t 0x58000012))))) = a := ofNat_fld (fld_put_below (by decide) (by decide) f26)
  have h7 : BitVec.ofNat 1 (fld 5 5 (put 19 d (put 12 a (put 5 c (put 2 t 0x58000012))))) = c := ofNat_fld (fld_put_below (by decide) (by decide) f28)
  have h8 : BitVec.ofNat 2 (fld 3 2 (put 19 d (put 12 a (put 5 c (put 2 t 0x58000012))))) = t := ofNat_fld (fld_put_below (by decide) (by decide) f31)
  rw [decodeWord_16 h0]
  simp [decodeOp16, h1, h2, h3, h5, h6, h7, h8]

theorem Sys2Proof.Laws.Encodes.elect (d : BitVec 4) (a : BitVec 4) :
    Sys2Proof.Laws.Encodes.Statement (.elect d a) := by
  rintro w ⟨⟩
  have f0 : fld 15 12 0x58000003 = 0 := rfl
  have f1 : fld 22 19 0x58000003 = 0 := rfl
  have f2 : fld 22 19 (put 12 a 0x58000003) = 0 := fld_put_above (by decide) (by decide) f0 f1
  have f3 : fld 31 26 0x58000003 = 22 := rfl
  have f4 : fld 31 26 (put 12 a 0x58000003) = 22 := fld_put_above (by decide) (by decide) f0 f3
  have f5 : fld 1 0 0x58000003 = 3 := rfl
  have f6 : fld 1 0 (put 12 a 0x58000003) = 3 := fld_put_below (by decide) (by decide) f5
  have f7 : fld 11 2 0x58000003 = 0 := rfl
  have f8 : fld 11 2 (put 12 a 0x58000003) = 0 := fld_put_below (by decide) (by decide) f7
  have f9 : fld 18 16 0x58000003 = 0 := rfl
  have f10 : fld 18 16 (put 12 a 0x58000003) = 0 := fld_put_above (by decide) (by decide) f0 f9
  have f11 : fld 25 23 0x58000003 = 0 := rfl
  have f12 : fld 25 23 (put 12 a 0x58000003) = 0 := fld_put_above (by decide) (by decide) f0 f11
  have f13 : fld 15 12 (put 12 a 0x58000003) = a.toNat := fld_put_eq rfl f0
  have h0 : fld 31 26 (put 19 d (put 12 a 0x58000003)) = 22 := fld_put_above (by decide) (by decide) f2 f4
  have h1 : fld 1 0 (put 19 d (put 12 a 0x58000003)) = 3 := fld_put_below (by decide) (by decide) f6
  have h3 : fld 11 2 (put 19 d (put 12 a 0x58000003)) = 0 := fld_put_below (by decide) (by decide) f8
  have h6 : fld 18 16 (put 19 d (put 12 a 0x58000003)) = 0 := fld_put_below (by decide) (by decide) f10
  have h7 : fld 25 23 (put 19 d (put 12 a 0x58000003)) = 0 := fld_put_above (by decide) (by decide) f2 f12
  have h8 : BitVec.ofNat 4 (fld 22 19 (put 19 d (put 12 a 0x58000003))) = d := ofNat_fld (fld_put_eq rfl f2)
  have h9 : BitVec.ofNat 4 (fld 15 12 (put 19 d (put 12 a 0x58000003))) = a := ofNat_fld (fld_put_below (by decide) (by decide) f13)
  rw [decodeWord_16 h0]
  simp [decodeOp16, h1, h3, h6, h7, h8, h9]

theorem Sys2Proof.Laws.Encodes.vote (d : BitVec 7) (a : BitVec 4) :
    Sys2Proof.Laws.Encodes.Statement (.vote d a) := by
  rintro w ⟨⟩
  have f0 : fld 15 12 0x5C000000 = 0 := rfl
  have f1 : fld 25 19 0x5C000000 = 0 := rfl
  have f2 : fld 25 19 (put 12 a 0x5C000000) = 0 := fld_put_above (by decide) (by decide) f0 f1
  have f3 : fld 31 26 0x5C000000 = 23 := rfl
  have f4 : fld 31 26 (put 12 a 0x5C000000) = 23 := fld_put_above (by decide) (by decide) f0 f3
  have f5 : fld 1 0 0x5C000000 = 0 := rfl
  have f6 : fld 1 0 (put 12 a 0x5C000000) = 0 := fld_put_below (by decide) (by decide) f5
  have f7 : fld 11 2 0x5C000000 = 0 := rfl
  have f8 : fld 11 2 (put 12 a 0x5C000000) = 0 := fld_put_below (by decide) (by decide) f7
  have f9 : fld 18 16 0x5C000000 = 0 := rfl
  have f10 : fld 18 16 (put 12 a 0x5C000000) = 0 := fld_put_above (by decide) (by decide) f0 f9
  have f11 : fld 15 12 (put 12 a 0x5C000000) = a.toNat := fld_put_eq rfl f0
  have h0 : fld 31 26 (put 19 d (put 12 a 0x5C000000)) = 23 := fld_put_above (by decide) (by decide) f2 f4
  have h1 : fld 1 0 (put 19 d (put 12 a 0x5C000000)) = 0 := fld_put_below (by decide) (by decide) f6
  have h3 : fld 11 2 (put 19 d (put 12 a 0x5C000000)) = 0 := fld_put_below (by decide) (by decide) f8
  have h6 : fld 18 16 (put 19 d (put 12 a 0x5C000000)) = 0 := fld_put_below (by decide) (by decide) f10
  have h7 : BitVec.ofNat 7 (fld 25 19 (put 19 d (put 12 a 0x5C000000))) = d := ofNat_fld (fld_put_eq rfl f2)
  have h8 : BitVec.ofNat 4 (fld 15 12 (put 19 d (put 12 a 0x5C000000))) = a := ofNat_fld (fld_put_below (by decide) (by decide) f11)
  rw [decodeWord_17 h0]
  simp [decodeOp17, h1, h3, h6, h7, h8]

theorem Sys2Proof.Laws.Encodes.redi (d : BitVec 7) (a : BitVec 7) (o : BitVec 3) (t : BitVec 2) :
    Sys2Proof.Laws.Encodes.Statement (.redi d a o t) := by
  rintro w ⟨⟩
  have f0 : fld 3 2 0x5C000001 = 0 := rfl
  have f1 : fld 7 5 0x5C000001 = 0 := rfl
  have f2 : fld 7 5 (put 2 t 0x5C000001) = 0 := fld_put_above (by decide) (by decide) f0 f1
  have f3 : fld 18 12 0x5C000001 = 0 := rfl
  have f4 : fld 18 12 (put 2 t 0x5C000001) = 0 := fld_put_above (by decide) (by decide) f0 f3
  have f5 : fld 18 12 (put 5 o (put 2 t 0x5C000001)) = 0 := fld_put_above (by decide) (by decide) f2 f4
  have f6 : fld 25 19 0x5C000001 = 0 := rfl
  have f7 : fld 25 19 (put 2 t 0x5C000001) = 0 := fld_put_above (by decide) (by decide) f0 f6
  have f8 : fld 25 19 (put 5 o (put 2 t 0x5C000001)) = 0 := fld_put_above (by decide) (by decide) f2 f7
  have f9 : fld 25 19 (put 12 a (put 5 o (put 2 t 0x5C000001))) = 0 := fld_put_above (by decide) (by decide) f5 f8
  have f10 : fld 31 26 0x5C000001 = 23 := rfl
  have f11 : fld 31 26 (put 2 t 0x5C000001) = 23 := fld_put_above (by decide) (by decide) f0 f10
  have f12 : fld 31 26 (put 5 o (put 2 t 0x5C000001)) = 23 := fld_put_above (by decide) (by decide) f2 f11
  have f13 : fld 31 26 (put 12 a (put 5 o (put 2 t 0x5C000001))) = 23 := fld_put_above (by decide) (by decide) f5 f12
  have f14 : fld 1 0 0x5C000001 = 1 := rfl
  have f15 : fld 1 0 (put 2 t 0x5C000001) = 1 := fld_put_below (by decide) (by decide) f14
  have f16 : fld 1 0 (put 5 o (put 2 t 0x5C000001)) = 1 := fld_put_below (by decide) (by decide) f15
  have f17 : fld 1 0 (put 12 a (put 5 o (put 2 t 0x5C000001))) = 1 := fld_put_below (by decide) (by decide) f16
  have f18 : fld 4 4 0x5C000001 = 0 := rfl
  have f19 : fld 4 4 (put 2 t 0x5C000001) = 0 := fld_put_above (by decide) (by decide) f0 f18
  have f20 : fld 4 4 (put 5 o (put 2 t 0x5C000001)) = 0 := fld_put_below (by decide) (by decide) f19
  have f21 : fld 4 4 (put 12 a (put 5 o (put 2 t 0x5C000001))) = 0 := fld_put_below (by decide) (by decide) f20
  have f22 : fld 11 8 0x5C000001 = 0 := rfl
  have f23 : fld 11 8 (put 2 t 0x5C000001) = 0 := fld_put_above (by decide) (by decide) f0 f22
  have f24 : fld 11 8 (put 5 o (put 2 t 0x5C000001)) = 0 := fld_put_above (by decide) (by decide) f2 f23
  have f25 : fld 11 8 (put 12 a (put 5 o (put 2 t 0x5C000001))) = 0 := fld_put_below (by decide) (by decide) f24
  have f26 : fld 18 12 (put 12 a (put 5 o (put 2 t 0x5C000001))) = a.toNat := fld_put_eq rfl f5
  have f27 : fld 7 5 (put 5 o (put 2 t 0x5C000001)) = o.toNat := fld_put_eq rfl f2
  have f28 : fld 7 5 (put 12 a (put 5 o (put 2 t 0x5C000001))) = o.toNat := fld_put_below (by decide) (by decide) f27
  have f29 : fld 3 2 (put 2 t 0x5C000001) = t.toNat := fld_put_eq rfl f0
  have f30 : fld 3 2 (put 5 o (put 2 t 0x5C000001)) = t.toNat := fld_put_below (by decide) (by decide) f29
  have f31 : fld 3 2 (put 12 a (put 5 o (put 2 t 0x5C000001))) = t.toNat := fld_put_below (by decide) (by decide) f30
  have h0 : fld 31 26 (put 19 d (put 12 a (put 5 o (put 2 t 0x5C000001)))) = 23 := fld_put_above (by decide) (by decide) f9 f13
  have h1 : fld 1 0 (put 19 d (put 12 a (put 5 o (put 2 t 0x5C000001)))) = 1 := fld_put_below (by decide) (by decide) f17
  have h2 : fld 4 4 (put 19 d (put 12 a (put 5 o (put 2 t 0x5C000001)))) = 0 := fld_put_below (by decide) (by decide) f21
  have h3 : fld 11 8 (put 19 d (put 12 a (put 5 o (put 2 t 0x5C000001)))) = 0 := fld_put_below (by decide) (by decide) f25
  have h5 : BitVec.ofNat 7 (fld 25 19 (put 19 d (put 12 a (put 5 o (put 2 t 0x5C000001))))) = d := ofNat_fld (fld_put_eq rfl f9)
  have h6 : BitVec.ofNat 7 (fld 18 12 (put 19 d (put 12 a (put 5 o (put 2 t 0x5C000001))))) = a := ofNat_fld (fld_put_below (by decide) (by decide) f26)
  have h7 : BitVec.ofNat 3 (fld 7 5 (put 19 d (put 12 a (put 5 o (put 2 t 0x5C000001))))) = o := ofNat_fld (fld_put_below (by decide) (by decide) f28)
  have h8 : BitVec.ofNat 2 (fld 3 2 (put 19 d (put 12 a (put 5 o (put 2 t 0x5C000001))))) = t := ofNat_fld (fld_put_below (by decide) (by decide) f31)
  rw [decodeWord_17 h0]
  simp [decodeOp17, h1, h2, h3, h5, h6, h7, h8]

theorem Sys2Proof.Laws.Encodes.redf (d : BitVec 7) (a : BitVec 7) (o : BitVec 3) (t : BitVec 2) :
    Sys2Proof.Laws.Encodes.Statement (.redf d a o t) := by
  rintro w ⟨⟩
  have f0 : fld 3 2 0x5C000012 = 0 := rfl
  have f1 : fld 7 5 0x5C000012 = 0 := rfl
  have f2 : fld 7 5 (put 2 t 0x5C000012) = 0 := fld_put_above (by decide) (by decide) f0 f1
  have f3 : fld 18 12 0x5C000012 = 0 := rfl
  have f4 : fld 18 12 (put 2 t 0x5C000012) = 0 := fld_put_above (by decide) (by decide) f0 f3
  have f5 : fld 18 12 (put 5 o (put 2 t 0x5C000012)) = 0 := fld_put_above (by decide) (by decide) f2 f4
  have f6 : fld 25 19 0x5C000012 = 0 := rfl
  have f7 : fld 25 19 (put 2 t 0x5C000012) = 0 := fld_put_above (by decide) (by decide) f0 f6
  have f8 : fld 25 19 (put 5 o (put 2 t 0x5C000012)) = 0 := fld_put_above (by decide) (by decide) f2 f7
  have f9 : fld 25 19 (put 12 a (put 5 o (put 2 t 0x5C000012))) = 0 := fld_put_above (by decide) (by decide) f5 f8
  have f10 : fld 31 26 0x5C000012 = 23 := rfl
  have f11 : fld 31 26 (put 2 t 0x5C000012) = 23 := fld_put_above (by decide) (by decide) f0 f10
  have f12 : fld 31 26 (put 5 o (put 2 t 0x5C000012)) = 23 := fld_put_above (by decide) (by decide) f2 f11
  have f13 : fld 31 26 (put 12 a (put 5 o (put 2 t 0x5C000012))) = 23 := fld_put_above (by decide) (by decide) f5 f12
  have f14 : fld 1 0 0x5C000012 = 2 := rfl
  have f15 : fld 1 0 (put 2 t 0x5C000012) = 2 := fld_put_below (by decide) (by decide) f14
  have f16 : fld 1 0 (put 5 o (put 2 t 0x5C000012)) = 2 := fld_put_below (by decide) (by decide) f15
  have f17 : fld 1 0 (put 12 a (put 5 o (put 2 t 0x5C000012))) = 2 := fld_put_below (by decide) (by decide) f16
  have f18 : fld 4 4 0x5C000012 = 1 := rfl
  have f19 : fld 4 4 (put 2 t 0x5C000012) = 1 := fld_put_above (by decide) (by decide) f0 f18
  have f20 : fld 4 4 (put 5 o (put 2 t 0x5C000012)) = 1 := fld_put_below (by decide) (by decide) f19
  have f21 : fld 4 4 (put 12 a (put 5 o (put 2 t 0x5C000012))) = 1 := fld_put_below (by decide) (by decide) f20
  have f22 : fld 11 8 0x5C000012 = 0 := rfl
  have f23 : fld 11 8 (put 2 t 0x5C000012) = 0 := fld_put_above (by decide) (by decide) f0 f22
  have f24 : fld 11 8 (put 5 o (put 2 t 0x5C000012)) = 0 := fld_put_above (by decide) (by decide) f2 f23
  have f25 : fld 11 8 (put 12 a (put 5 o (put 2 t 0x5C000012))) = 0 := fld_put_below (by decide) (by decide) f24
  have f26 : fld 18 12 (put 12 a (put 5 o (put 2 t 0x5C000012))) = a.toNat := fld_put_eq rfl f5
  have f27 : fld 7 5 (put 5 o (put 2 t 0x5C000012)) = o.toNat := fld_put_eq rfl f2
  have f28 : fld 7 5 (put 12 a (put 5 o (put 2 t 0x5C000012))) = o.toNat := fld_put_below (by decide) (by decide) f27
  have f29 : fld 3 2 (put 2 t 0x5C000012) = t.toNat := fld_put_eq rfl f0
  have f30 : fld 3 2 (put 5 o (put 2 t 0x5C000012)) = t.toNat := fld_put_below (by decide) (by decide) f29
  have f31 : fld 3 2 (put 12 a (put 5 o (put 2 t 0x5C000012))) = t.toNat := fld_put_below (by decide) (by decide) f30
  have h0 : fld 31 26 (put 19 d (put 12 a (put 5 o (put 2 t 0x5C000012)))) = 23 := fld_put_above (by decide) (by decide) f9 f13
  have h1 : fld 1 0 (put 19 d (put 12 a (put 5 o (put 2 t 0x5C000012)))) = 2 := fld_put_below (by decide) (by decide) f17
  have h2 : fld 4 4 (put 19 d (put 12 a (put 5 o (put 2 t 0x5C000012)))) = 1 := fld_put_below (by decide) (by decide) f21
  have h3 : fld 11 8 (put 19 d (put 12 a (put 5 o (put 2 t 0x5C000012)))) = 0 := fld_put_below (by decide) (by decide) f25
  have h5 : BitVec.ofNat 7 (fld 25 19 (put 19 d (put 12 a (put 5 o (put 2 t 0x5C000012))))) = d := ofNat_fld (fld_put_eq rfl f9)
  have h6 : BitVec.ofNat 7 (fld 18 12 (put 19 d (put 12 a (put 5 o (put 2 t 0x5C000012))))) = a := ofNat_fld (fld_put_below (by decide) (by decide) f26)
  have h7 : BitVec.ofNat 3 (fld 7 5 (put 19 d (put 12 a (put 5 o (put 2 t 0x5C000012))))) = o := ofNat_fld (fld_put_below (by decide) (by decide) f28)
  have h8 : BitVec.ofNat 2 (fld 3 2 (put 19 d (put 12 a (put 5 o (put 2 t 0x5C000012))))) = t := ofNat_fld (fld_put_below (by decide) (by decide) f31)
  rw [decodeWord_17 h0]
  simp [decodeOp17, h1, h2, h3, h5, h6, h7, h8]

theorem Sys2Proof.Laws.Encodes.scani (d : BitVec 7) (a : BitVec 7) (x : BitVec 1) (o : BitVec 3) (t : BitVec 2) :
    Sys2Proof.Laws.Encodes.Statement (.scani d a x o t) := by
  rintro w ⟨⟩
  have f0 : fld 3 2 0x5C000003 = 0 := rfl
  have f1 : fld 7 5 0x5C000003 = 0 := rfl
  have f2 : fld 7 5 (put 2 t 0x5C000003) = 0 := fld_put_above (by decide) (by decide) f0 f1
  have f3 : fld 8 8 0x5C000003 = 0 := rfl
  have f4 : fld 8 8 (put 2 t 0x5C000003) = 0 := fld_put_above (by decide) (by decide) f0 f3
  have f5 : fld 8 8 (put 5 o (put 2 t 0x5C000003)) = 0 := fld_put_above (by decide) (by decide) f2 f4
  have f6 : fld 18 12 0x5C000003 = 0 := rfl
  have f7 : fld 18 12 (put 2 t 0x5C000003) = 0 := fld_put_above (by decide) (by decide) f0 f6
  have f8 : fld 18 12 (put 5 o (put 2 t 0x5C000003)) = 0 := fld_put_above (by decide) (by decide) f2 f7
  have f9 : fld 18 12 (put 8 x (put 5 o (put 2 t 0x5C000003))) = 0 := fld_put_above (by decide) (by decide) f5 f8
  have f10 : fld 25 19 0x5C000003 = 0 := rfl
  have f11 : fld 25 19 (put 2 t 0x5C000003) = 0 := fld_put_above (by decide) (by decide) f0 f10
  have f12 : fld 25 19 (put 5 o (put 2 t 0x5C000003)) = 0 := fld_put_above (by decide) (by decide) f2 f11
  have f13 : fld 25 19 (put 8 x (put 5 o (put 2 t 0x5C000003))) = 0 := fld_put_above (by decide) (by decide) f5 f12
  have f14 : fld 25 19 (put 12 a (put 8 x (put 5 o (put 2 t 0x5C000003)))) = 0 := fld_put_above (by decide) (by decide) f9 f13
  have f15 : fld 31 26 0x5C000003 = 23 := rfl
  have f16 : fld 31 26 (put 2 t 0x5C000003) = 23 := fld_put_above (by decide) (by decide) f0 f15
  have f17 : fld 31 26 (put 5 o (put 2 t 0x5C000003)) = 23 := fld_put_above (by decide) (by decide) f2 f16
  have f18 : fld 31 26 (put 8 x (put 5 o (put 2 t 0x5C000003))) = 23 := fld_put_above (by decide) (by decide) f5 f17
  have f19 : fld 31 26 (put 12 a (put 8 x (put 5 o (put 2 t 0x5C000003)))) = 23 := fld_put_above (by decide) (by decide) f9 f18
  have f20 : fld 1 0 0x5C000003 = 3 := rfl
  have f21 : fld 1 0 (put 2 t 0x5C000003) = 3 := fld_put_below (by decide) (by decide) f20
  have f22 : fld 1 0 (put 5 o (put 2 t 0x5C000003)) = 3 := fld_put_below (by decide) (by decide) f21
  have f23 : fld 1 0 (put 8 x (put 5 o (put 2 t 0x5C000003))) = 3 := fld_put_below (by decide) (by decide) f22
  have f24 : fld 1 0 (put 12 a (put 8 x (put 5 o (put 2 t 0x5C000003)))) = 3 := fld_put_below (by decide) (by decide) f23
  have f25 : fld 4 4 0x5C000003 = 0 := rfl
  have f26 : fld 4 4 (put 2 t 0x5C000003) = 0 := fld_put_above (by decide) (by decide) f0 f25
  have f27 : fld 4 4 (put 5 o (put 2 t 0x5C000003)) = 0 := fld_put_below (by decide) (by decide) f26
  have f28 : fld 4 4 (put 8 x (put 5 o (put 2 t 0x5C000003))) = 0 := fld_put_below (by decide) (by decide) f27
  have f29 : fld 4 4 (put 12 a (put 8 x (put 5 o (put 2 t 0x5C000003)))) = 0 := fld_put_below (by decide) (by decide) f28
  have f30 : fld 11 9 0x5C000003 = 0 := rfl
  have f31 : fld 11 9 (put 2 t 0x5C000003) = 0 := fld_put_above (by decide) (by decide) f0 f30
  have f32 : fld 11 9 (put 5 o (put 2 t 0x5C000003)) = 0 := fld_put_above (by decide) (by decide) f2 f31
  have f33 : fld 11 9 (put 8 x (put 5 o (put 2 t 0x5C000003))) = 0 := fld_put_above (by decide) (by decide) f5 f32
  have f34 : fld 11 9 (put 12 a (put 8 x (put 5 o (put 2 t 0x5C000003)))) = 0 := fld_put_below (by decide) (by decide) f33
  have f35 : fld 18 12 (put 12 a (put 8 x (put 5 o (put 2 t 0x5C000003)))) = a.toNat := fld_put_eq rfl f9
  have f36 : fld 8 8 (put 8 x (put 5 o (put 2 t 0x5C000003))) = x.toNat := fld_put_eq rfl f5
  have f37 : fld 8 8 (put 12 a (put 8 x (put 5 o (put 2 t 0x5C000003)))) = x.toNat := fld_put_below (by decide) (by decide) f36
  have f38 : fld 7 5 (put 5 o (put 2 t 0x5C000003)) = o.toNat := fld_put_eq rfl f2
  have f39 : fld 7 5 (put 8 x (put 5 o (put 2 t 0x5C000003))) = o.toNat := fld_put_below (by decide) (by decide) f38
  have f40 : fld 7 5 (put 12 a (put 8 x (put 5 o (put 2 t 0x5C000003)))) = o.toNat := fld_put_below (by decide) (by decide) f39
  have f41 : fld 3 2 (put 2 t 0x5C000003) = t.toNat := fld_put_eq rfl f0
  have f42 : fld 3 2 (put 5 o (put 2 t 0x5C000003)) = t.toNat := fld_put_below (by decide) (by decide) f41
  have f43 : fld 3 2 (put 8 x (put 5 o (put 2 t 0x5C000003))) = t.toNat := fld_put_below (by decide) (by decide) f42
  have f44 : fld 3 2 (put 12 a (put 8 x (put 5 o (put 2 t 0x5C000003)))) = t.toNat := fld_put_below (by decide) (by decide) f43
  have h0 : fld 31 26 (put 19 d (put 12 a (put 8 x (put 5 o (put 2 t 0x5C000003))))) = 23 := fld_put_above (by decide) (by decide) f14 f19
  have h1 : fld 1 0 (put 19 d (put 12 a (put 8 x (put 5 o (put 2 t 0x5C000003))))) = 3 := fld_put_below (by decide) (by decide) f24
  have h2 : fld 4 4 (put 19 d (put 12 a (put 8 x (put 5 o (put 2 t 0x5C000003))))) = 0 := fld_put_below (by decide) (by decide) f29
  have h3 : fld 11 9 (put 19 d (put 12 a (put 8 x (put 5 o (put 2 t 0x5C000003))))) = 0 := fld_put_below (by decide) (by decide) f34
  have h4 : BitVec.ofNat 7 (fld 25 19 (put 19 d (put 12 a (put 8 x (put 5 o (put 2 t 0x5C000003)))))) = d := ofNat_fld (fld_put_eq rfl f14)
  have h5 : BitVec.ofNat 7 (fld 18 12 (put 19 d (put 12 a (put 8 x (put 5 o (put 2 t 0x5C000003)))))) = a := ofNat_fld (fld_put_below (by decide) (by decide) f35)
  have h6 : BitVec.ofNat 1 (fld 8 8 (put 19 d (put 12 a (put 8 x (put 5 o (put 2 t 0x5C000003)))))) = x := ofNat_fld (fld_put_below (by decide) (by decide) f37)
  have h7 : BitVec.ofNat 3 (fld 7 5 (put 19 d (put 12 a (put 8 x (put 5 o (put 2 t 0x5C000003)))))) = o := ofNat_fld (fld_put_below (by decide) (by decide) f40)
  have h8 : BitVec.ofNat 2 (fld 3 2 (put 19 d (put 12 a (put 8 x (put 5 o (put 2 t 0x5C000003)))))) = t := ofNat_fld (fld_put_below (by decide) (by decide) f44)
  rw [decodeWord_17 h0]
  simp [decodeOp17, h1, h2, h3, h4, h5, h6, h7, h8]

theorem Sys2Proof.Laws.Encodes.kand (d : BitVec 4) (a : BitVec 4) (b : BitVec 4) :
    Sys2Proof.Laws.Encodes.Statement (.kand d a b) := by
  rintro w ⟨⟩
  have f0 : fld 8 5 0x60000000 = 0 := rfl
  have f1 : fld 15 12 0x60000000 = 0 := rfl
  have f2 : fld 15 12 (put 5 b 0x60000000) = 0 := fld_put_above (by decide) (by decide) f0 f1
  have f3 : fld 22 19 0x60000000 = 0 := rfl
  have f4 : fld 22 19 (put 5 b 0x60000000) = 0 := fld_put_above (by decide) (by decide) f0 f3
  have f5 : fld 22 19 (put 12 a (put 5 b 0x60000000)) = 0 := fld_put_above (by decide) (by decide) f2 f4
  have f6 : fld 31 26 0x60000000 = 24 := rfl
  have f7 : fld 31 26 (put 5 b 0x60000000) = 24 := fld_put_above (by decide) (by decide) f0 f6
  have f8 : fld 31 26 (put 12 a (put 5 b 0x60000000)) = 24 := fld_put_above (by decide) (by decide) f2 f7
  have f9 : fld 1 0 0x60000000 = 0 := rfl
  have f10 : fld 1 0 (put 5 b 0x60000000) = 0 := fld_put_below (by decide) (by decide) f9
  have f11 : fld 1 0 (put 12 a (put 5 b 0x60000000)) = 0 := fld_put_below (by decide) (by decide) f10
  have f12 : fld 4 2 0x60000000 = 0 := rfl
  have f13 : fld 4 2 (put 5 b 0x60000000) = 0 := fld_put_below (by decide) (by decide) f12
  have f14 : fld 4 2 (put 12 a (put 5 b 0x60000000)) = 0 := fld_put_below (by decide) (by decide) f13
  have f15 : fld 11 9 0x60000000 = 0 := rfl
  have f16 : fld 11 9 (put 5 b 0x60000000) = 0 := fld_put_above (by decide) (by decide) f0 f15
  have f17 : fld 11 9 (put 12 a (put 5 b 0x60000000)) = 0 := fld_put_below (by decide) (by decide) f16
  have f18 : fld 18 16 0x60000000 = 0 := rfl
  have f19 : fld 18 16 (put 5 b 0x60000000) = 0 := fld_put_above (by decide) (by decide) f0 f18
  have f20 : fld 18 16 (put 12 a (put 5 b 0x60000000)) = 0 := fld_put_above (by decide) (by decide) f2 f19
  have f21 : fld 25 23 0x60000000 = 0 := rfl
  have f22 : fld 25 23 (put 5 b 0x60000000) = 0 := fld_put_above (by decide) (by decide) f0 f21
  have f23 : fld 25 23 (put 12 a (put 5 b 0x60000000)) = 0 := fld_put_above (by decide) (by decide) f2 f22
  have f24 : fld 15 12 (put 12 a (put 5 b 0x60000000)) = a.toNat := fld_put_eq rfl f2
  have f25 : fld 8 5 (put 5 b 0x60000000) = b.toNat := fld_put_eq rfl f0
  have f26 : fld 8 5 (put 12 a (put 5 b 0x60000000)) = b.toNat := fld_put_below (by decide) (by decide) f25
  have h0 : fld 31 26 (put 19 d (put 12 a (put 5 b 0x60000000))) = 24 := fld_put_above (by decide) (by decide) f5 f8
  have h1 : fld 1 0 (put 19 d (put 12 a (put 5 b 0x60000000))) = 0 := fld_put_below (by decide) (by decide) f11
  have h2 : fld 4 2 (put 19 d (put 12 a (put 5 b 0x60000000))) = 0 := fld_put_below (by decide) (by decide) f14
  have h3 : fld 11 9 (put 19 d (put 12 a (put 5 b 0x60000000))) = 0 := fld_put_below (by decide) (by decide) f17
  have h4 : fld 18 16 (put 19 d (put 12 a (put 5 b 0x60000000))) = 0 := fld_put_below (by decide) (by decide) f20
  have h5 : fld 25 23 (put 19 d (put 12 a (put 5 b 0x60000000))) = 0 := fld_put_above (by decide) (by decide) f5 f23
  have h6 : BitVec.ofNat 4 (fld 22 19 (put 19 d (put 12 a (put 5 b 0x60000000)))) = d := ofNat_fld (fld_put_eq rfl f5)
  have h7 : BitVec.ofNat 4 (fld 15 12 (put 19 d (put 12 a (put 5 b 0x60000000)))) = a := ofNat_fld (fld_put_below (by decide) (by decide) f24)
  have h8 : BitVec.ofNat 4 (fld 8 5 (put 19 d (put 12 a (put 5 b 0x60000000)))) = b := ofNat_fld (fld_put_below (by decide) (by decide) f26)
  rw [decodeWord_18 h0]
  simp [decodeOp18, h1, h2, h3, h4, h5, h6, h7, h8]

theorem Sys2Proof.Laws.Encodes.kor (d : BitVec 4) (a : BitVec 4) (b : BitVec 4) :
    Sys2Proof.Laws.Encodes.Statement (.kor d a b) := by
  rintro w ⟨⟩
  have f0 : fld 8 5 0x60000001 = 0 := rfl
  have f1 : fld 15 12 0x60000001 = 0 := rfl
  have f2 : fld 15 12 (put 5 b 0x60000001) = 0 := fld_put_above (by decide) (by decide) f0 f1
  have f3 : fld 22 19 0x60000001 = 0 := rfl
  have f4 : fld 22 19 (put 5 b 0x60000001) = 0 := fld_put_above (by decide) (by decide) f0 f3
  have f5 : fld 22 19 (put 12 a (put 5 b 0x60000001)) = 0 := fld_put_above (by decide) (by decide) f2 f4
  have f6 : fld 31 26 0x60000001 = 24 := rfl
  have f7 : fld 31 26 (put 5 b 0x60000001) = 24 := fld_put_above (by decide) (by decide) f0 f6
  have f8 : fld 31 26 (put 12 a (put 5 b 0x60000001)) = 24 := fld_put_above (by decide) (by decide) f2 f7
  have f9 : fld 1 0 0x60000001 = 1 := rfl
  have f10 : fld 1 0 (put 5 b 0x60000001) = 1 := fld_put_below (by decide) (by decide) f9
  have f11 : fld 1 0 (put 12 a (put 5 b 0x60000001)) = 1 := fld_put_below (by decide) (by decide) f10
  have f12 : fld 4 2 0x60000001 = 0 := rfl
  have f13 : fld 4 2 (put 5 b 0x60000001) = 0 := fld_put_below (by decide) (by decide) f12
  have f14 : fld 4 2 (put 12 a (put 5 b 0x60000001)) = 0 := fld_put_below (by decide) (by decide) f13
  have f15 : fld 11 9 0x60000001 = 0 := rfl
  have f16 : fld 11 9 (put 5 b 0x60000001) = 0 := fld_put_above (by decide) (by decide) f0 f15
  have f17 : fld 11 9 (put 12 a (put 5 b 0x60000001)) = 0 := fld_put_below (by decide) (by decide) f16
  have f18 : fld 18 16 0x60000001 = 0 := rfl
  have f19 : fld 18 16 (put 5 b 0x60000001) = 0 := fld_put_above (by decide) (by decide) f0 f18
  have f20 : fld 18 16 (put 12 a (put 5 b 0x60000001)) = 0 := fld_put_above (by decide) (by decide) f2 f19
  have f21 : fld 25 23 0x60000001 = 0 := rfl
  have f22 : fld 25 23 (put 5 b 0x60000001) = 0 := fld_put_above (by decide) (by decide) f0 f21
  have f23 : fld 25 23 (put 12 a (put 5 b 0x60000001)) = 0 := fld_put_above (by decide) (by decide) f2 f22
  have f24 : fld 15 12 (put 12 a (put 5 b 0x60000001)) = a.toNat := fld_put_eq rfl f2
  have f25 : fld 8 5 (put 5 b 0x60000001) = b.toNat := fld_put_eq rfl f0
  have f26 : fld 8 5 (put 12 a (put 5 b 0x60000001)) = b.toNat := fld_put_below (by decide) (by decide) f25
  have h0 : fld 31 26 (put 19 d (put 12 a (put 5 b 0x60000001))) = 24 := fld_put_above (by decide) (by decide) f5 f8
  have h1 : fld 1 0 (put 19 d (put 12 a (put 5 b 0x60000001))) = 1 := fld_put_below (by decide) (by decide) f11
  have h2 : fld 4 2 (put 19 d (put 12 a (put 5 b 0x60000001))) = 0 := fld_put_below (by decide) (by decide) f14
  have h3 : fld 11 9 (put 19 d (put 12 a (put 5 b 0x60000001))) = 0 := fld_put_below (by decide) (by decide) f17
  have h4 : fld 18 16 (put 19 d (put 12 a (put 5 b 0x60000001))) = 0 := fld_put_below (by decide) (by decide) f20
  have h5 : fld 25 23 (put 19 d (put 12 a (put 5 b 0x60000001))) = 0 := fld_put_above (by decide) (by decide) f5 f23
  have h6 : BitVec.ofNat 4 (fld 22 19 (put 19 d (put 12 a (put 5 b 0x60000001)))) = d := ofNat_fld (fld_put_eq rfl f5)
  have h7 : BitVec.ofNat 4 (fld 15 12 (put 19 d (put 12 a (put 5 b 0x60000001)))) = a := ofNat_fld (fld_put_below (by decide) (by decide) f24)
  have h8 : BitVec.ofNat 4 (fld 8 5 (put 19 d (put 12 a (put 5 b 0x60000001)))) = b := ofNat_fld (fld_put_below (by decide) (by decide) f26)
  rw [decodeWord_18 h0]
  simp [decodeOp18, h1, h2, h3, h4, h5, h6, h7, h8]

theorem Sys2Proof.Laws.Encodes.kxor (d : BitVec 4) (a : BitVec 4) (b : BitVec 4) :
    Sys2Proof.Laws.Encodes.Statement (.kxor d a b) := by
  rintro w ⟨⟩
  have f0 : fld 8 5 0x60000002 = 0 := rfl
  have f1 : fld 15 12 0x60000002 = 0 := rfl
  have f2 : fld 15 12 (put 5 b 0x60000002) = 0 := fld_put_above (by decide) (by decide) f0 f1
  have f3 : fld 22 19 0x60000002 = 0 := rfl
  have f4 : fld 22 19 (put 5 b 0x60000002) = 0 := fld_put_above (by decide) (by decide) f0 f3
  have f5 : fld 22 19 (put 12 a (put 5 b 0x60000002)) = 0 := fld_put_above (by decide) (by decide) f2 f4
  have f6 : fld 31 26 0x60000002 = 24 := rfl
  have f7 : fld 31 26 (put 5 b 0x60000002) = 24 := fld_put_above (by decide) (by decide) f0 f6
  have f8 : fld 31 26 (put 12 a (put 5 b 0x60000002)) = 24 := fld_put_above (by decide) (by decide) f2 f7
  have f9 : fld 1 0 0x60000002 = 2 := rfl
  have f10 : fld 1 0 (put 5 b 0x60000002) = 2 := fld_put_below (by decide) (by decide) f9
  have f11 : fld 1 0 (put 12 a (put 5 b 0x60000002)) = 2 := fld_put_below (by decide) (by decide) f10
  have f12 : fld 4 2 0x60000002 = 0 := rfl
  have f13 : fld 4 2 (put 5 b 0x60000002) = 0 := fld_put_below (by decide) (by decide) f12
  have f14 : fld 4 2 (put 12 a (put 5 b 0x60000002)) = 0 := fld_put_below (by decide) (by decide) f13
  have f15 : fld 11 9 0x60000002 = 0 := rfl
  have f16 : fld 11 9 (put 5 b 0x60000002) = 0 := fld_put_above (by decide) (by decide) f0 f15
  have f17 : fld 11 9 (put 12 a (put 5 b 0x60000002)) = 0 := fld_put_below (by decide) (by decide) f16
  have f18 : fld 18 16 0x60000002 = 0 := rfl
  have f19 : fld 18 16 (put 5 b 0x60000002) = 0 := fld_put_above (by decide) (by decide) f0 f18
  have f20 : fld 18 16 (put 12 a (put 5 b 0x60000002)) = 0 := fld_put_above (by decide) (by decide) f2 f19
  have f21 : fld 25 23 0x60000002 = 0 := rfl
  have f22 : fld 25 23 (put 5 b 0x60000002) = 0 := fld_put_above (by decide) (by decide) f0 f21
  have f23 : fld 25 23 (put 12 a (put 5 b 0x60000002)) = 0 := fld_put_above (by decide) (by decide) f2 f22
  have f24 : fld 15 12 (put 12 a (put 5 b 0x60000002)) = a.toNat := fld_put_eq rfl f2
  have f25 : fld 8 5 (put 5 b 0x60000002) = b.toNat := fld_put_eq rfl f0
  have f26 : fld 8 5 (put 12 a (put 5 b 0x60000002)) = b.toNat := fld_put_below (by decide) (by decide) f25
  have h0 : fld 31 26 (put 19 d (put 12 a (put 5 b 0x60000002))) = 24 := fld_put_above (by decide) (by decide) f5 f8
  have h1 : fld 1 0 (put 19 d (put 12 a (put 5 b 0x60000002))) = 2 := fld_put_below (by decide) (by decide) f11
  have h2 : fld 4 2 (put 19 d (put 12 a (put 5 b 0x60000002))) = 0 := fld_put_below (by decide) (by decide) f14
  have h3 : fld 11 9 (put 19 d (put 12 a (put 5 b 0x60000002))) = 0 := fld_put_below (by decide) (by decide) f17
  have h4 : fld 18 16 (put 19 d (put 12 a (put 5 b 0x60000002))) = 0 := fld_put_below (by decide) (by decide) f20
  have h5 : fld 25 23 (put 19 d (put 12 a (put 5 b 0x60000002))) = 0 := fld_put_above (by decide) (by decide) f5 f23
  have h6 : BitVec.ofNat 4 (fld 22 19 (put 19 d (put 12 a (put 5 b 0x60000002)))) = d := ofNat_fld (fld_put_eq rfl f5)
  have h7 : BitVec.ofNat 4 (fld 15 12 (put 19 d (put 12 a (put 5 b 0x60000002)))) = a := ofNat_fld (fld_put_below (by decide) (by decide) f24)
  have h8 : BitVec.ofNat 4 (fld 8 5 (put 19 d (put 12 a (put 5 b 0x60000002)))) = b := ofNat_fld (fld_put_below (by decide) (by decide) f26)
  rw [decodeWord_18 h0]
  simp [decodeOp18, h1, h2, h3, h4, h5, h6, h7, h8]

theorem Sys2Proof.Laws.Encodes.knot (d : BitVec 4) (a : BitVec 4) :
    Sys2Proof.Laws.Encodes.Statement (.knot d a) := by
  rintro w ⟨⟩
  have f0 : fld 15 12 0x60000003 = 0 := rfl
  have f1 : fld 22 19 0x60000003 = 0 := rfl
  have f2 : fld 22 19 (put 12 a 0x60000003) = 0 := fld_put_above (by decide) (by decide) f0 f1
  have f3 : fld 31 26 0x60000003 = 24 := rfl
  have f4 : fld 31 26 (put 12 a 0x60000003) = 24 := fld_put_above (by decide) (by decide) f0 f3
  have f5 : fld 1 0 0x60000003 = 3 := rfl
  have f6 : fld 1 0 (put 12 a 0x60000003) = 3 := fld_put_below (by decide) (by decide) f5
  have f7 : fld 11 2 0x60000003 = 0 := rfl
  have f8 : fld 11 2 (put 12 a 0x60000003) = 0 := fld_put_below (by decide) (by decide) f7
  have f9 : fld 18 16 0x60000003 = 0 := rfl
  have f10 : fld 18 16 (put 12 a 0x60000003) = 0 := fld_put_above (by decide) (by decide) f0 f9
  have f11 : fld 25 23 0x60000003 = 0 := rfl
  have f12 : fld 25 23 (put 12 a 0x60000003) = 0 := fld_put_above (by decide) (by decide) f0 f11
  have f13 : fld 15 12 (put 12 a 0x60000003) = a.toNat := fld_put_eq rfl f0
  have h0 : fld 31 26 (put 19 d (put 12 a 0x60000003)) = 24 := fld_put_above (by decide) (by decide) f2 f4
  have h1 : fld 1 0 (put 19 d (put 12 a 0x60000003)) = 3 := fld_put_below (by decide) (by decide) f6
  have h3 : fld 11 2 (put 19 d (put 12 a 0x60000003)) = 0 := fld_put_below (by decide) (by decide) f8
  have h5 : fld 18 16 (put 19 d (put 12 a 0x60000003)) = 0 := fld_put_below (by decide) (by decide) f10
  have h6 : fld 25 23 (put 19 d (put 12 a 0x60000003)) = 0 := fld_put_above (by decide) (by decide) f2 f12
  have h7 : BitVec.ofNat 4 (fld 22 19 (put 19 d (put 12 a 0x60000003))) = d := ofNat_fld (fld_put_eq rfl f2)
  have h8 : BitVec.ofNat 4 (fld 15 12 (put 19 d (put 12 a 0x60000003))) = a := ofNat_fld (fld_put_below (by decide) (by decide) f13)
  rw [decodeWord_18 h0]
  simp [decodeOp18, h1, h3, h5, h6, h7, h8]

theorem Sys2Proof.Laws.Encodes.kmov (d : BitVec 4) (a : BitVec 4) :
    Sys2Proof.Laws.Encodes.Statement (.kmov d a) := by
  rintro w ⟨⟩
  have f0 : fld 15 12 0x64000000 = 0 := rfl
  have f1 : fld 22 19 0x64000000 = 0 := rfl
  have f2 : fld 22 19 (put 12 a 0x64000000) = 0 := fld_put_above (by decide) (by decide) f0 f1
  have f3 : fld 31 26 0x64000000 = 25 := rfl
  have f4 : fld 31 26 (put 12 a 0x64000000) = 25 := fld_put_above (by decide) (by decide) f0 f3
  have f5 : fld 1 0 0x64000000 = 0 := rfl
  have f6 : fld 1 0 (put 12 a 0x64000000) = 0 := fld_put_below (by decide) (by decide) f5
  have f7 : fld 11 2 0x64000000 = 0 := rfl
  have f8 : fld 11 2 (put 12 a 0x64000000) = 0 := fld_put_below (by decide) (by decide) f7
  have f9 : fld 18 16 0x64000000 = 0 := rfl
  have f10 : fld 18 16 (put 12 a 0x64000000) = 0 := fld_put_above (by decide) (by decide) f0 f9
  have f11 : fld 25 23 0x64000000 = 0 := rfl
  have f12 : fld 25 23 (put 12 a 0x64000000) = 0 := fld_put_above (by decide) (by decide) f0 f11
  have f13 : fld 15 12 (put 12 a 0x64000000) = a.toNat := fld_put_eq rfl f0
  have h0 : fld 31 26 (put 19 d (put 12 a 0x64000000)) = 25 := fld_put_above (by decide) (by decide) f2 f4
  have h1 : fld 1 0 (put 19 d (put 12 a 0x64000000)) = 0 := fld_put_below (by decide) (by decide) f6
  have h2 : fld 11 2 (put 19 d (put 12 a 0x64000000)) = 0 := fld_put_below (by decide) (by decide) f8
  have h3 : fld 18 16 (put 19 d (put 12 a 0x64000000)) = 0 := fld_put_below (by decide) (by decide) f10
  have h4 : fld 25 23 (put 19 d (put 12 a 0x64000000)) = 0 := fld_put_above (by decide) (by decide) f2 f12
  have h5 : BitVec.ofNat 4 (fld 22 19 (put 19 d (put 12 a 0x64000000))) = d := ofNat_fld (fld_put_eq rfl f2)
  have h6 : BitVec.ofNat 4 (fld 15 12 (put 19 d (put 12 a 0x64000000))) = a := ofNat_fld (fld_put_below (by decide) (by decide) f13)
  rw [decodeWord_19 h0]
  simp [decodeOp19, h1, h2, h3, h4, h5, h6]

theorem Sys2Proof.Laws.Encodes.kmovS (d : BitVec 7) (a : BitVec 4) :
    Sys2Proof.Laws.Encodes.Statement (.kmovS d a) := by
  rintro w ⟨⟩
  have f0 : fld 15 12 0x64000004 = 0 := rfl
  have f1 : fld 25 19 0x64000004 = 0 := rfl
  have f2 : fld 25 19 (put 12 a 0x64000004) = 0 := fld_put_above (by decide) (by decide) f0 f1
  have f3 : fld 31 26 0x64000004 = 25 := rfl
  have f4 : fld 31 26 (put 12 a 0x64000004) = 25 := fld_put_above (by decide) (by decide) f0 f3
  have f5 : fld 1 0 0x64000004 = 0 := rfl
  have f6 : fld 1 0 (put 12 a 0x64000004) = 0 := fld_put_below (by decide) (by decide) f5
  have f7 : fld 11 2 0x64000004 = 1 := rfl
  have f8 : fld 11 2 (put 12 a 0x64000004) = 1 := fld_put_below (by decide) (by decide) f7
  have f9 : fld 18 16 0x64000004 = 0 := rfl
  have f10 : fld 18 16 (put 12 a 0x64000004) = 0 := fld_put_above (by decide) (by decide) f0 f9
  have f11 : fld 15 12 (put 12 a 0x64000004) = a.toNat := fld_put_eq rfl f0
  have h0 : fld 31 26 (put 19 d (put 12 a 0x64000004)) = 25 := fld_put_above (by decide) (by decide) f2 f4
  have h1 : fld 1 0 (put 19 d (put 12 a 0x64000004)) = 0 := fld_put_below (by decide) (by decide) f6
  have h2 : fld 11 2 (put 19 d (put 12 a 0x64000004)) = 1 := fld_put_below (by decide) (by decide) f8
  have h3 : fld 18 16 (put 19 d (put 12 a 0x64000004)) = 0 := fld_put_below (by decide) (by decide) f10
  have h4 : BitVec.ofNat 7 (fld 25 19 (put 19 d (put 12 a 0x64000004))) = d := ofNat_fld (fld_put_eq rfl f2)
  have h5 : BitVec.ofNat 4 (fld 15 12 (put 19 d (put 12 a 0x64000004))) = a := ofNat_fld (fld_put_below (by decide) (by decide) f11)
  rw [decodeWord_19 h0]
  simp [decodeOp19, h1, h2, h3, h4, h5]

theorem Sys2Proof.Laws.Encodes.kmovK (d : BitVec 4) (a : BitVec 7) :
    Sys2Proof.Laws.Encodes.Statement (.kmovK d a) := by
  rintro w ⟨⟩
  have f0 : fld 18 12 0x64000008 = 0 := rfl
  have f1 : fld 22 19 0x64000008 = 0 := rfl
  have f2 : fld 22 19 (put 12 a 0x64000008) = 0 := fld_put_above (by decide) (by decide) f0 f1
  have f3 : fld 31 26 0x64000008 = 25 := rfl
  have f4 : fld 31 26 (put 12 a 0x64000008) = 25 := fld_put_above (by decide) (by decide) f0 f3
  have f5 : fld 1 0 0x64000008 = 0 := rfl
  have f6 : fld 1 0 (put 12 a 0x64000008) = 0 := fld_put_below (by decide) (by decide) f5
  have f7 : fld 11 2 0x64000008 = 2 := rfl
  have f8 : fld 11 2 (put 12 a 0x64000008) = 2 := fld_put_below (by decide) (by decide) f7
  have f9 : fld 25 23 0x64000008 = 0 := rfl
  have f10 : fld 25 23 (put 12 a 0x64000008) = 0 := fld_put_above (by decide) (by decide) f0 f9
  have f11 : fld 18 12 (put 12 a 0x64000008) = a.toNat := fld_put_eq rfl f0
  have h0 : fld 31 26 (put 19 d (put 12 a 0x64000008)) = 25 := fld_put_above (by decide) (by decide) f2 f4
  have h1 : fld 1 0 (put 19 d (put 12 a 0x64000008)) = 0 := fld_put_below (by decide) (by decide) f6
  have h2 : fld 11 2 (put 19 d (put 12 a 0x64000008)) = 2 := fld_put_below (by decide) (by decide) f8
  have h3 : fld 25 23 (put 19 d (put 12 a 0x64000008)) = 0 := fld_put_above (by decide) (by decide) f2 f10
  have h4 : BitVec.ofNat 4 (fld 22 19 (put 19 d (put 12 a 0x64000008))) = d := ofNat_fld (fld_put_eq rfl f2)
  have h5 : BitVec.ofNat 7 (fld 18 12 (put 19 d (put 12 a 0x64000008))) = a := ofNat_fld (fld_put_below (by decide) (by decide) f11)
  rw [decodeWord_19 h0]
  simp [decodeOp19, h1, h2, h3, h4, h5]

theorem Sys2Proof.Laws.Encodes.kmovV (d : BitVec 7) (a : BitVec 4) :
    Sys2Proof.Laws.Encodes.Statement (.kmovV d a) := by
  rintro w ⟨⟩
  have f0 : fld 15 12 0x6400000C = 0 := rfl
  have f1 : fld 25 19 0x6400000C = 0 := rfl
  have f2 : fld 25 19 (put 12 a 0x6400000C) = 0 := fld_put_above (by decide) (by decide) f0 f1
  have f3 : fld 31 26 0x6400000C = 25 := rfl
  have f4 : fld 31 26 (put 12 a 0x6400000C) = 25 := fld_put_above (by decide) (by decide) f0 f3
  have f5 : fld 1 0 0x6400000C = 0 := rfl
  have f6 : fld 1 0 (put 12 a 0x6400000C) = 0 := fld_put_below (by decide) (by decide) f5
  have f7 : fld 11 2 0x6400000C = 3 := rfl
  have f8 : fld 11 2 (put 12 a 0x6400000C) = 3 := fld_put_below (by decide) (by decide) f7
  have f9 : fld 18 16 0x6400000C = 0 := rfl
  have f10 : fld 18 16 (put 12 a 0x6400000C) = 0 := fld_put_above (by decide) (by decide) f0 f9
  have f11 : fld 15 12 (put 12 a 0x6400000C) = a.toNat := fld_put_eq rfl f0
  have h0 : fld 31 26 (put 19 d (put 12 a 0x6400000C)) = 25 := fld_put_above (by decide) (by decide) f2 f4
  have h1 : fld 1 0 (put 19 d (put 12 a 0x6400000C)) = 0 := fld_put_below (by decide) (by decide) f6
  have h2 : fld 11 2 (put 19 d (put 12 a 0x6400000C)) = 3 := fld_put_below (by decide) (by decide) f8
  have h3 : fld 18 16 (put 19 d (put 12 a 0x6400000C)) = 0 := fld_put_below (by decide) (by decide) f10
  have h4 : BitVec.ofNat 7 (fld 25 19 (put 19 d (put 12 a 0x6400000C))) = d := ofNat_fld (fld_put_eq rfl f2)
  have h5 : BitVec.ofNat 4 (fld 15 12 (put 19 d (put 12 a 0x6400000C))) = a := ofNat_fld (fld_put_below (by decide) (by decide) f11)
  rw [decodeWord_19 h0]
  simp [decodeOp19, h1, h2, h3, h4, h5]

theorem Sys2Proof.Laws.Encodes.kpop (d : BitVec 7) (a : BitVec 4) :
    Sys2Proof.Laws.Encodes.Statement (.kpop d a) := by
  rintro w ⟨⟩
  have f0 : fld 15 12 0x64000001 = 0 := rfl
  have f1 : fld 25 19 0x64000001 = 0 := rfl
  have f2 : fld 25 19 (put 12 a 0x64000001) = 0 := fld_put_above (by decide) (by decide) f0 f1
  have f3 : fld 31 26 0x64000001 = 25 := rfl
  have f4 : fld 31 26 (put 12 a 0x64000001) = 25 := fld_put_above (by decide) (by decide) f0 f3
  have f5 : fld 1 0 0x64000001 = 1 := rfl
  have f6 : fld 1 0 (put 12 a 0x64000001) = 1 := fld_put_below (by decide) (by decide) f5
  have f7 : fld 11 2 0x64000001 = 0 := rfl
  have f8 : fld 11 2 (put 12 a 0x64000001) = 0 := fld_put_below (by decide) (by decide) f7
  have f9 : fld 18 16 0x64000001 = 0 := rfl
  have f10 : fld 18 16 (put 12 a 0x64000001) = 0 := fld_put_above (by decide) (by decide) f0 f9
  have f11 : fld 15 12 (put 12 a 0x64000001) = a.toNat := fld_put_eq rfl f0
  have h0 : fld 31 26 (put 19 d (put 12 a 0x64000001)) = 25 := fld_put_above (by decide) (by decide) f2 f4
  have h1 : fld 1 0 (put 19 d (put 12 a 0x64000001)) = 1 := fld_put_below (by decide) (by decide) f6
  have h2 : fld 11 2 (put 19 d (put 12 a 0x64000001)) = 0 := fld_put_below (by decide) (by decide) f8
  have h3 : fld 18 16 (put 19 d (put 12 a 0x64000001)) = 0 := fld_put_below (by decide) (by decide) f10
  have h4 : BitVec.ofNat 7 (fld 25 19 (put 19 d (put 12 a 0x64000001))) = d := ofNat_fld (fld_put_eq rfl f2)
  have h5 : BitVec.ofNat 4 (fld 15 12 (put 19 d (put 12 a 0x64000001))) = a := ofNat_fld (fld_put_below (by decide) (by decide) f11)
  rw [decodeWord_19 h0]
  simp [decodeOp19, h1, h2, h3, h4, h5]

theorem Sys2Proof.Laws.Encodes.kfirst (d : BitVec 7) (a : BitVec 4) :
    Sys2Proof.Laws.Encodes.Statement (.kfirst d a) := by
  rintro w ⟨⟩
  have f0 : fld 15 12 0x64000002 = 0 := rfl
  have f1 : fld 25 19 0x64000002 = 0 := rfl
  have f2 : fld 25 19 (put 12 a 0x64000002) = 0 := fld_put_above (by decide) (by decide) f0 f1
  have f3 : fld 31 26 0x64000002 = 25 := rfl
  have f4 : fld 31 26 (put 12 a 0x64000002) = 25 := fld_put_above (by decide) (by decide) f0 f3
  have f5 : fld 1 0 0x64000002 = 2 := rfl
  have f6 : fld 1 0 (put 12 a 0x64000002) = 2 := fld_put_below (by decide) (by decide) f5
  have f7 : fld 11 2 0x64000002 = 0 := rfl
  have f8 : fld 11 2 (put 12 a 0x64000002) = 0 := fld_put_below (by decide) (by decide) f7
  have f9 : fld 18 16 0x64000002 = 0 := rfl
  have f10 : fld 18 16 (put 12 a 0x64000002) = 0 := fld_put_above (by decide) (by decide) f0 f9
  have f11 : fld 15 12 (put 12 a 0x64000002) = a.toNat := fld_put_eq rfl f0
  have h0 : fld 31 26 (put 19 d (put 12 a 0x64000002)) = 25 := fld_put_above (by decide) (by decide) f2 f4
  have h1 : fld 1 0 (put 19 d (put 12 a 0x64000002)) = 2 := fld_put_below (by decide) (by decide) f6
  have h2 : fld 11 2 (put 19 d (put 12 a 0x64000002)) = 0 := fld_put_below (by decide) (by decide) f8
  have h3 : fld 18 16 (put 19 d (put 12 a 0x64000002)) = 0 := fld_put_below (by decide) (by decide) f10
  have h4 : BitVec.ofNat 7 (fld 25 19 (put 19 d (put 12 a 0x64000002))) = d := ofNat_fld (fld_put_eq rfl f2)
  have h5 : BitVec.ofNat 4 (fld 15 12 (put 19 d (put 12 a 0x64000002))) = a := ofNat_fld (fld_put_below (by decide) (by decide) f11)
  rw [decodeWord_19 h0]
  simp [decodeOp19, h1, h2, h3, h4, h5]

theorem Sys2Proof.Laws.Encodes.dropk (d : BitVec 4) (a : BitVec 7) (b : BitVec 7) (t : BitVec 3) :
    Sys2Proof.Laws.Encodes.Statement (.dropk d a b t) := by
  rintro w ⟨⟩
  have f0 : fld 4 2 0x64000003 = 0 := rfl
  have f1 : fld 11 5 0x64000003 = 0 := rfl
  have f2 : fld 11 5 (put 2 t 0x64000003) = 0 := fld_put_above (by decide) (by decide) f0 f1
  have f3 : fld 18 12 0x64000003 = 0 := rfl
  have f4 : fld 18 12 (put 2 t 0x64000003) = 0 := fld_put_above (by decide) (by decide) f0 f3
  have f5 : fld 18 12 (put 5 b (put 2 t 0x64000003)) = 0 := fld_put_above (by decide) (by decide) f2 f4
  have f6 : fld 22 19 0x64000003 = 0 := rfl
  have f7 : fld 22 19 (put 2 t 0x64000003) = 0 := fld_put_above (by decide) (by decide) f0 f6
  have f8 : fld 22 19 (put 5 b (put 2 t 0x64000003)) = 0 := fld_put_above (by decide) (by decide) f2 f7
  have f9 : fld 22 19 (put 12 a (put 5 b (put 2 t 0x64000003))) = 0 := fld_put_above (by decide) (by decide) f5 f8
  have f10 : fld 31 26 0x64000003 = 25 := rfl
  have f11 : fld 31 26 (put 2 t 0x64000003) = 25 := fld_put_above (by decide) (by decide) f0 f10
  have f12 : fld 31 26 (put 5 b (put 2 t 0x64000003)) = 25 := fld_put_above (by decide) (by decide) f2 f11
  have f13 : fld 31 26 (put 12 a (put 5 b (put 2 t 0x64000003))) = 25 := fld_put_above (by decide) (by decide) f5 f12
  have f14 : fld 1 0 0x64000003 = 3 := rfl
  have f15 : fld 1 0 (put 2 t 0x64000003) = 3 := fld_put_below (by decide) (by decide) f14
  have f16 : fld 1 0 (put 5 b (put 2 t 0x64000003)) = 3 := fld_put_below (by decide) (by decide) f15
  have f17 : fld 1 0 (put 12 a (put 5 b (put 2 t 0x64000003))) = 3 := fld_put_below (by decide) (by decide) f16
  have f18 : fld 25 23 0x64000003 = 0 := rfl
  have f19 : fld 25 23 (put 2 t 0x64000003) = 0 := fld_put_above (by decide) (by decide) f0 f18
  have f20 : fld 25 23 (put 5 b (put 2 t 0x64000003)) = 0 := fld_put_above (by decide) (by decide) f2 f19
  have f21 : fld 25 23 (put 12 a (put 5 b (put 2 t 0x64000003))) = 0 := fld_put_above (by decide) (by decide) f5 f20
  have f22 : fld 18 12 (put 12 a (put 5 b (put 2 t 0x64000003))) = a.toNat := fld_put_eq rfl f5
  have f23 : fld 11 5 (put 5 b (put 2 t 0x64000003)) = b.toNat := fld_put_eq rfl f2
  have f24 : fld 11 5 (put 12 a (put 5 b (put 2 t 0x64000003))) = b.toNat := fld_put_below (by decide) (by decide) f23
  have f25 : fld 4 2 (put 2 t 0x64000003) = t.toNat := fld_put_eq rfl f0
  have f26 : fld 4 2 (put 5 b (put 2 t 0x64000003)) = t.toNat := fld_put_below (by decide) (by decide) f25
  have f27 : fld 4 2 (put 12 a (put 5 b (put 2 t 0x64000003))) = t.toNat := fld_put_below (by decide) (by decide) f26
  have h0 : fld 31 26 (put 19 d (put 12 a (put 5 b (put 2 t 0x64000003)))) = 25 := fld_put_above (by decide) (by decide) f9 f13
  have h1 : fld 1 0 (put 19 d (put 12 a (put 5 b (put 2 t 0x64000003)))) = 3 := fld_put_below (by decide) (by decide) f17
  have h2 : fld 25 23 (put 19 d (put 12 a (put 5 b (put 2 t 0x64000003)))) = 0 := fld_put_above (by decide) (by decide) f9 f21
  have h3 : BitVec.ofNat 4 (fld 22 19 (put 19 d (put 12 a (put 5 b (put 2 t 0x64000003))))) = d := ofNat_fld (fld_put_eq rfl f9)
  have h4 : BitVec.ofNat 7 (fld 18 12 (put 19 d (put 12 a (put 5 b (put 2 t 0x64000003))))) = a := ofNat_fld (fld_put_below (by decide) (by decide) f22)
  have h5 : BitVec.ofNat 7 (fld 11 5 (put 19 d (put 12 a (put 5 b (put 2 t 0x64000003))))) = b := ofNat_fld (fld_put_below (by decide) (by decide) f24)
  have h6 : BitVec.ofNat 3 (fld 4 2 (put 19 d (put 12 a (put 5 b (put 2 t 0x64000003))))) = t := ofNat_fld (fld_put_below (by decide) (by decide) f27)
  rw [decodeWord_19 h0]
  simp [decodeOp19, h1, h2, h3, h4, h5, h6]

theorem Sys2Proof.Laws.Encodes.readln (d : BitVec 7) (a : BitVec 7) (b : BitVec 7) :
    Sys2Proof.Laws.Encodes.Statement (.readln d a b) := by
  rintro w ⟨⟩
  have f0 : fld 11 5 0x68000000 = 0 := rfl
  have f1 : fld 18 12 0x68000000 = 0 := rfl
  have f2 : fld 18 12 (put 5 b 0x68000000) = 0 := fld_put_above (by decide) (by decide) f0 f1
  have f3 : fld 25 19 0x68000000 = 0 := rfl
  have f4 : fld 25 19 (put 5 b 0x68000000) = 0 := fld_put_above (by decide) (by decide) f0 f3
  have f5 : fld 25 19 (put 12 a (put 5 b 0x68000000)) = 0 := fld_put_above (by decide) (by decide) f2 f4
  have f6 : fld 31 26 0x68000000 = 26 := rfl
  have f7 : fld 31 26 (put 5 b 0x68000000) = 26 := fld_put_above (by decide) (by decide) f0 f6
  have f8 : fld 31 26 (put 12 a (put 5 b 0x68000000)) = 26 := fld_put_above (by decide) (by decide) f2 f7
  have f9 : fld 1 0 0x68000000 = 0 := rfl
  have f10 : fld 1 0 (put 5 b 0x68000000) = 0 := fld_put_below (by decide) (by decide) f9
  have f11 : fld 1 0 (put 12 a (put 5 b 0x68000000)) = 0 := fld_put_below (by decide) (by decide) f10
  have f12 : fld 4 2 0x68000000 = 0 := rfl
  have f13 : fld 4 2 (put 5 b 0x68000000) = 0 := fld_put_below (by decide) (by decide) f12
  have f14 : fld 4 2 (put 12 a (put 5 b 0x68000000)) = 0 := fld_put_below (by decide) (by decide) f13
  have f15 : fld 18 12 (put 12 a (put 5 b 0x68000000)) = a.toNat := fld_put_eq rfl f2
  have f16 : fld 11 5 (put 5 b 0x68000000) = b.toNat := fld_put_eq rfl f0
  have f17 : fld 11 5 (put 12 a (put 5 b 0x68000000)) = b.toNat := fld_put_below (by decide) (by decide) f16
  have h0 : fld 31 26 (put 19 d (put 12 a (put 5 b 0x68000000))) = 26 := fld_put_above (by decide) (by decide) f5 f8
  have h1 : fld 1 0 (put 19 d (put 12 a (put 5 b 0x68000000))) = 0 := fld_put_below (by decide) (by decide) f11
  have h2 : fld 4 2 (put 19 d (put 12 a (put 5 b 0x68000000))) = 0 := fld_put_below (by decide) (by decide) f14
  have h3 : BitVec.ofNat 7 (fld 25 19 (put 19 d (put 12 a (put 5 b 0x68000000)))) = d := ofNat_fld (fld_put_eq rfl f5)
  have h4 : BitVec.ofNat 7 (fld 18 12 (put 19 d (put 12 a (put 5 b 0x68000000)))) = a := ofNat_fld (fld_put_below (by decide) (by decide) f15)
  have h5 : BitVec.ofNat 7 (fld 11 5 (put 19 d (put 12 a (put 5 b 0x68000000)))) = b := ofNat_fld (fld_put_below (by decide) (by decide) f17)
  rw [decodeWord_1A h0]
  simp [decodeOp1A, h1, h2, h3, h4, h5]

theorem Sys2Proof.Laws.Encodes.writeln (d : BitVec 7) (a : BitVec 7) (b : BitVec 7) :
    Sys2Proof.Laws.Encodes.Statement (.writeln d a b) := by
  rintro w ⟨⟩
  have f0 : fld 11 5 0x68000001 = 0 := rfl
  have f1 : fld 18 12 0x68000001 = 0 := rfl
  have f2 : fld 18 12 (put 5 b 0x68000001) = 0 := fld_put_above (by decide) (by decide) f0 f1
  have f3 : fld 25 19 0x68000001 = 0 := rfl
  have f4 : fld 25 19 (put 5 b 0x68000001) = 0 := fld_put_above (by decide) (by decide) f0 f3
  have f5 : fld 25 19 (put 12 a (put 5 b 0x68000001)) = 0 := fld_put_above (by decide) (by decide) f2 f4
  have f6 : fld 31 26 0x68000001 = 26 := rfl
  have f7 : fld 31 26 (put 5 b 0x68000001) = 26 := fld_put_above (by decide) (by decide) f0 f6
  have f8 : fld 31 26 (put 12 a (put 5 b 0x68000001)) = 26 := fld_put_above (by decide) (by decide) f2 f7
  have f9 : fld 1 0 0x68000001 = 1 := rfl
  have f10 : fld 1 0 (put 5 b 0x68000001) = 1 := fld_put_below (by decide) (by decide) f9
  have f11 : fld 1 0 (put 12 a (put 5 b 0x68000001)) = 1 := fld_put_below (by decide) (by decide) f10
  have f12 : fld 4 2 0x68000001 = 0 := rfl
  have f13 : fld 4 2 (put 5 b 0x68000001) = 0 := fld_put_below (by decide) (by decide) f12
  have f14 : fld 4 2 (put 12 a (put 5 b 0x68000001)) = 0 := fld_put_below (by decide) (by decide) f13
  have f15 : fld 18 12 (put 12 a (put 5 b 0x68000001)) = a.toNat := fld_put_eq rfl f2
  have f16 : fld 11 5 (put 5 b 0x68000001) = b.toNat := fld_put_eq rfl f0
  have f17 : fld 11 5 (put 12 a (put 5 b 0x68000001)) = b.toNat := fld_put_below (by decide) (by decide) f16
  have h0 : fld 31 26 (put 19 d (put 12 a (put 5 b 0x68000001))) = 26 := fld_put_above (by decide) (by decide) f5 f8
  have h1 : fld 1 0 (put 19 d (put 12 a (put 5 b 0x68000001))) = 1 := fld_put_below (by decide) (by decide) f11
  have h2 : fld 4 2 (put 19 d (put 12 a (put 5 b 0x68000001))) = 0 := fld_put_below (by decide) (by decide) f14
  have h3 : BitVec.ofNat 7 (fld 25 19 (put 19 d (put 12 a (put 5 b 0x68000001)))) = d := ofNat_fld (fld_put_eq rfl f5)
  have h4 : BitVec.ofNat 7 (fld 18 12 (put 19 d (put 12 a (put 5 b 0x68000001)))) = a := ofNat_fld (fld_put_below (by decide) (by decide) f15)
  have h5 : BitVec.ofNat 7 (fld 11 5 (put 19 d (put 12 a (put 5 b 0x68000001)))) = b := ofNat_fld (fld_put_below (by decide) (by decide) f17)
  rw [decodeWord_1A h0]
  simp [decodeOp1A, h1, h2, h3, h4, h5]

theorem Sys2Proof.Laws.Encodes.srd (d : BitVec 7) (a : BitVec 7) :
    Sys2Proof.Laws.Encodes.Statement (.srd d a) := by
  rintro w ⟨⟩
  have f0 : fld 18 12 0x68000002 = 0 := rfl
  have f1 : fld 25 19 0x68000002 = 0 := rfl
  have f2 : fld 25 19 (put 12 a 0x68000002) = 0 := fld_put_above (by decide) (by decide) f0 f1
  have f3 : fld 31 26 0x68000002 = 26 := rfl
  have f4 : fld 31 26 (put 12 a 0x68000002) = 26 := fld_put_above (by decide) (by decide) f0 f3
  have f5 : fld 1 0 0x68000002 = 2 := rfl
  have f6 : fld 1 0 (put 12 a 0x68000002) = 2 := fld_put_below (by decide) (by decide) f5
  have f7 : fld 11 2 0x68000002 = 0 := rfl
  have f8 : fld 11 2 (put 12 a 0x68000002) = 0 := fld_put_below (by decide) (by decide) f7
  have f9 : fld 18 12 (put 12 a 0x68000002) = a.toNat := fld_put_eq rfl f0
  have h0 : fld 31 26 (put 19 d (put 12 a 0x68000002)) = 26 := fld_put_above (by decide) (by decide) f2 f4
  have h1 : fld 1 0 (put 19 d (put 12 a 0x68000002)) = 2 := fld_put_below (by decide) (by decide) f6
  have h3 : fld 11 2 (put 19 d (put 12 a 0x68000002)) = 0 := fld_put_below (by decide) (by decide) f8
  have h4 : BitVec.ofNat 7 (fld 25 19 (put 19 d (put 12 a 0x68000002))) = d := ofNat_fld (fld_put_eq rfl f2)
  have h5 : BitVec.ofNat 7 (fld 18 12 (put 19 d (put 12 a 0x68000002))) = a := ofNat_fld (fld_put_below (by decide) (by decide) f9)
  rw [decodeWord_1A h0]
  simp [decodeOp1A, h1, h3, h4, h5]

theorem Sys2Proof.Laws.Encodes.locq (d : BitVec 7) (a : BitVec 7) :
    Sys2Proof.Laws.Encodes.Statement (.locq d a) := by
  rintro w ⟨⟩
  have f0 : fld 18 12 0x68000003 = 0 := rfl
  have f1 : fld 25 19 0x68000003 = 0 := rfl
  have f2 : fld 25 19 (put 12 a 0x68000003) = 0 := fld_put_above (by decide) (by decide) f0 f1
  have f3 : fld 31 26 0x68000003 = 26 := rfl
  have f4 : fld 31 26 (put 12 a 0x68000003) = 26 := fld_put_above (by decide) (by decide) f0 f3
  have f5 : fld 1 0 0x68000003 = 3 := rfl
  have f6 : fld 1 0 (put 12 a 0x68000003) = 3 := fld_put_below (by decide) (by decide) f5
  have f7 : fld 11 2 0x68000003 = 0 := rfl
  have f8 : fld 11 2 (put 12 a 0x68000003) = 0 := fld_put_below (by decide) (by decide) f7
  have f9 : fld 18 12 (put 12 a 0x68000003) = a.toNat := fld_put_eq rfl f0
  have h0 : fld 31 26 (put 19 d (put 12 a 0x68000003)) = 26 := fld_put_above (by decide) (by decide) f2 f4
  have h1 : fld 1 0 (put 19 d (put 12 a 0x68000003)) = 3 := fld_put_below (by decide) (by decide) f6
  have h3 : fld 11 2 (put 19 d (put 12 a 0x68000003)) = 0 := fld_put_below (by decide) (by decide) f8
  have h4 : BitVec.ofNat 7 (fld 25 19 (put 19 d (put 12 a 0x68000003))) = d := ofNat_fld (fld_put_eq rfl f2)
  have h5 : BitVec.ofNat 7 (fld 18 12 (put 19 d (put 12 a 0x68000003))) = a := ofNat_fld (fld_put_below (by decide) (by decide) f9)
  rw [decodeWord_1A h0]
  simp [decodeOp1A, h1, h3, h4, h5]

theorem Sys2Proof.Laws.Encodes.sadd (d : BitVec 7) (a : BitVec 7) (b : BitVec 7) :
    Sys2Proof.Laws.Encodes.Statement (.sadd d a b) := by
  rintro w ⟨⟩
  have f0 : fld 11 5 0x6C000000 = 0 := rfl
  have f1 : fld 18 12 0x6C000000 = 0 := rfl
  have f2 : fld 18 12 (put 5 b 0x6C000000) = 0 := fld_put_above (by decide) (by decide) f0 f1
  have f3 : fld 25 19 0x6C000000 = 0 := rfl
  have f4 : fld 25 19 (put 5 b 0x6C000000) = 0 := fld_put_above (by decide) (by decide) f0 f3
  have f5 : fld 25 19 (put 12 a (put 5 b 0x6C000000)) = 0 := fld_put_above (by decide) (by decide) f2 f4
  have f6 : fld 31 26 0x6C000000 = 27 := rfl
  have f7 : fld 31 26 (put 5 b 0x6C000000) = 27 := fld_put_above (by decide) (by decide) f0 f6
  have f8 : fld 31 26 (put 12 a (put 5 b 0x6C000000)) = 27 := fld_put_above (by decide) (by decide) f2 f7
  have f9 : fld 1 0 0x6C000000 = 0 := rfl
  have f10 : fld 1 0 (put 5 b 0x6C000000) = 0 := fld_put_below (by decide) (by decide) f9
  have f11 : fld 1 0 (put 12 a (put 5 b 0x6C000000)) = 0 := fld_put_below (by decide) (by decide) f10
  have f12 : fld 4 2 0x6C000000 = 0 := rfl
  have f13 : fld 4 2 (put 5 b 0x6C000000) = 0 := fld_put_below (by decide) (by decide) f12
  have f14 : fld 4 2 (put 12 a (put 5 b 0x6C000000)) = 0 := fld_put_below (by decide) (by decide) f13
  have f15 : fld 18 12 (put 12 a (put 5 b 0x6C000000)) = a.toNat := fld_put_eq rfl f2
  have f16 : fld 11 5 (put 5 b 0x6C000000) = b.toNat := fld_put_eq rfl f0
  have f17 : fld 11 5 (put 12 a (put 5 b 0x6C000000)) = b.toNat := fld_put_below (by decide) (by decide) f16
  have h0 : fld 31 26 (put 19 d (put 12 a (put 5 b 0x6C000000))) = 27 := fld_put_above (by decide) (by decide) f5 f8
  have h1 : fld 1 0 (put 19 d (put 12 a (put 5 b 0x6C000000))) = 0 := fld_put_below (by decide) (by decide) f11
  have h2 : fld 4 2 (put 19 d (put 12 a (put 5 b 0x6C000000))) = 0 := fld_put_below (by decide) (by decide) f14
  have h3 : BitVec.ofNat 7 (fld 25 19 (put 19 d (put 12 a (put 5 b 0x6C000000)))) = d := ofNat_fld (fld_put_eq rfl f5)
  have h4 : BitVec.ofNat 7 (fld 18 12 (put 19 d (put 12 a (put 5 b 0x6C000000)))) = a := ofNat_fld (fld_put_below (by decide) (by decide) f15)
  have h5 : BitVec.ofNat 7 (fld 11 5 (put 19 d (put 12 a (put 5 b 0x6C000000)))) = b := ofNat_fld (fld_put_below (by decide) (by decide) f17)
  rw [decodeWord_1B h0]
  simp [decodeOp1B, h1, h2, h3, h4, h5]

theorem Sys2Proof.Laws.Encodes.ssub (d : BitVec 7) (a : BitVec 7) (b : BitVec 7) :
    Sys2Proof.Laws.Encodes.Statement (.ssub d a b) := by
  rintro w ⟨⟩
  have f0 : fld 11 5 0x6C000001 = 0 := rfl
  have f1 : fld 18 12 0x6C000001 = 0 := rfl
  have f2 : fld 18 12 (put 5 b 0x6C000001) = 0 := fld_put_above (by decide) (by decide) f0 f1
  have f3 : fld 25 19 0x6C000001 = 0 := rfl
  have f4 : fld 25 19 (put 5 b 0x6C000001) = 0 := fld_put_above (by decide) (by decide) f0 f3
  have f5 : fld 25 19 (put 12 a (put 5 b 0x6C000001)) = 0 := fld_put_above (by decide) (by decide) f2 f4
  have f6 : fld 31 26 0x6C000001 = 27 := rfl
  have f7 : fld 31 26 (put 5 b 0x6C000001) = 27 := fld_put_above (by decide) (by decide) f0 f6
  have f8 : fld 31 26 (put 12 a (put 5 b 0x6C000001)) = 27 := fld_put_above (by decide) (by decide) f2 f7
  have f9 : fld 1 0 0x6C000001 = 1 := rfl
  have f10 : fld 1 0 (put 5 b 0x6C000001) = 1 := fld_put_below (by decide) (by decide) f9
  have f11 : fld 1 0 (put 12 a (put 5 b 0x6C000001)) = 1 := fld_put_below (by decide) (by decide) f10
  have f12 : fld 4 2 0x6C000001 = 0 := rfl
  have f13 : fld 4 2 (put 5 b 0x6C000001) = 0 := fld_put_below (by decide) (by decide) f12
  have f14 : fld 4 2 (put 12 a (put 5 b 0x6C000001)) = 0 := fld_put_below (by decide) (by decide) f13
  have f15 : fld 18 12 (put 12 a (put 5 b 0x6C000001)) = a.toNat := fld_put_eq rfl f2
  have f16 : fld 11 5 (put 5 b 0x6C000001) = b.toNat := fld_put_eq rfl f0
  have f17 : fld 11 5 (put 12 a (put 5 b 0x6C000001)) = b.toNat := fld_put_below (by decide) (by decide) f16
  have h0 : fld 31 26 (put 19 d (put 12 a (put 5 b 0x6C000001))) = 27 := fld_put_above (by decide) (by decide) f5 f8
  have h1 : fld 1 0 (put 19 d (put 12 a (put 5 b 0x6C000001))) = 1 := fld_put_below (by decide) (by decide) f11
  have h2 : fld 4 2 (put 19 d (put 12 a (put 5 b 0x6C000001))) = 0 := fld_put_below (by decide) (by decide) f14
  have h3 : BitVec.ofNat 7 (fld 25 19 (put 19 d (put 12 a (put 5 b 0x6C000001)))) = d := ofNat_fld (fld_put_eq rfl f5)
  have h4 : BitVec.ofNat 7 (fld 18 12 (put 19 d (put 12 a (put 5 b 0x6C000001)))) = a := ofNat_fld (fld_put_below (by decide) (by decide) f15)
  have h5 : BitVec.ofNat 7 (fld 11 5 (put 19 d (put 12 a (put 5 b 0x6C000001)))) = b := ofNat_fld (fld_put_below (by decide) (by decide) f17)
  rw [decodeWord_1B h0]
  simp [decodeOp1B, h1, h2, h3, h4, h5]

theorem Sys2Proof.Laws.Encodes.smul (d : BitVec 7) (a : BitVec 7) (b : BitVec 7) :
    Sys2Proof.Laws.Encodes.Statement (.smul d a b) := by
  rintro w ⟨⟩
  have f0 : fld 11 5 0x6C000002 = 0 := rfl
  have f1 : fld 18 12 0x6C000002 = 0 := rfl
  have f2 : fld 18 12 (put 5 b 0x6C000002) = 0 := fld_put_above (by decide) (by decide) f0 f1
  have f3 : fld 25 19 0x6C000002 = 0 := rfl
  have f4 : fld 25 19 (put 5 b 0x6C000002) = 0 := fld_put_above (by decide) (by decide) f0 f3
  have f5 : fld 25 19 (put 12 a (put 5 b 0x6C000002)) = 0 := fld_put_above (by decide) (by decide) f2 f4
  have f6 : fld 31 26 0x6C000002 = 27 := rfl
  have f7 : fld 31 26 (put 5 b 0x6C000002) = 27 := fld_put_above (by decide) (by decide) f0 f6
  have f8 : fld 31 26 (put 12 a (put 5 b 0x6C000002)) = 27 := fld_put_above (by decide) (by decide) f2 f7
  have f9 : fld 1 0 0x6C000002 = 2 := rfl
  have f10 : fld 1 0 (put 5 b 0x6C000002) = 2 := fld_put_below (by decide) (by decide) f9
  have f11 : fld 1 0 (put 12 a (put 5 b 0x6C000002)) = 2 := fld_put_below (by decide) (by decide) f10
  have f12 : fld 4 2 0x6C000002 = 0 := rfl
  have f13 : fld 4 2 (put 5 b 0x6C000002) = 0 := fld_put_below (by decide) (by decide) f12
  have f14 : fld 4 2 (put 12 a (put 5 b 0x6C000002)) = 0 := fld_put_below (by decide) (by decide) f13
  have f15 : fld 18 12 (put 12 a (put 5 b 0x6C000002)) = a.toNat := fld_put_eq rfl f2
  have f16 : fld 11 5 (put 5 b 0x6C000002) = b.toNat := fld_put_eq rfl f0
  have f17 : fld 11 5 (put 12 a (put 5 b 0x6C000002)) = b.toNat := fld_put_below (by decide) (by decide) f16
  have h0 : fld 31 26 (put 19 d (put 12 a (put 5 b 0x6C000002))) = 27 := fld_put_above (by decide) (by decide) f5 f8
  have h1 : fld 1 0 (put 19 d (put 12 a (put 5 b 0x6C000002))) = 2 := fld_put_below (by decide) (by decide) f11
  have h2 : fld 4 2 (put 19 d (put 12 a (put 5 b 0x6C000002))) = 0 := fld_put_below (by decide) (by decide) f14
  have h3 : BitVec.ofNat 7 (fld 25 19 (put 19 d (put 12 a (put 5 b 0x6C000002)))) = d := ofNat_fld (fld_put_eq rfl f5)
  have h4 : BitVec.ofNat 7 (fld 18 12 (put 19 d (put 12 a (put 5 b 0x6C000002)))) = a := ofNat_fld (fld_put_below (by decide) (by decide) f15)
  have h5 : BitVec.ofNat 7 (fld 11 5 (put 19 d (put 12 a (put 5 b 0x6C000002)))) = b := ofNat_fld (fld_put_below (by decide) (by decide) f17)
  rw [decodeWord_1B h0]
  simp [decodeOp1B, h1, h2, h3, h4, h5]

theorem Sys2Proof.Laws.Encodes.smulh (d : BitVec 7) (a : BitVec 7) (b : BitVec 7) :
    Sys2Proof.Laws.Encodes.Statement (.smulh d a b) := by
  rintro w ⟨⟩
  have f0 : fld 11 5 0x6C000003 = 0 := rfl
  have f1 : fld 18 12 0x6C000003 = 0 := rfl
  have f2 : fld 18 12 (put 5 b 0x6C000003) = 0 := fld_put_above (by decide) (by decide) f0 f1
  have f3 : fld 25 19 0x6C000003 = 0 := rfl
  have f4 : fld 25 19 (put 5 b 0x6C000003) = 0 := fld_put_above (by decide) (by decide) f0 f3
  have f5 : fld 25 19 (put 12 a (put 5 b 0x6C000003)) = 0 := fld_put_above (by decide) (by decide) f2 f4
  have f6 : fld 31 26 0x6C000003 = 27 := rfl
  have f7 : fld 31 26 (put 5 b 0x6C000003) = 27 := fld_put_above (by decide) (by decide) f0 f6
  have f8 : fld 31 26 (put 12 a (put 5 b 0x6C000003)) = 27 := fld_put_above (by decide) (by decide) f2 f7
  have f9 : fld 1 0 0x6C000003 = 3 := rfl
  have f10 : fld 1 0 (put 5 b 0x6C000003) = 3 := fld_put_below (by decide) (by decide) f9
  have f11 : fld 1 0 (put 12 a (put 5 b 0x6C000003)) = 3 := fld_put_below (by decide) (by decide) f10
  have f12 : fld 4 2 0x6C000003 = 0 := rfl
  have f13 : fld 4 2 (put 5 b 0x6C000003) = 0 := fld_put_below (by decide) (by decide) f12
  have f14 : fld 4 2 (put 12 a (put 5 b 0x6C000003)) = 0 := fld_put_below (by decide) (by decide) f13
  have f15 : fld 18 12 (put 12 a (put 5 b 0x6C000003)) = a.toNat := fld_put_eq rfl f2
  have f16 : fld 11 5 (put 5 b 0x6C000003) = b.toNat := fld_put_eq rfl f0
  have f17 : fld 11 5 (put 12 a (put 5 b 0x6C000003)) = b.toNat := fld_put_below (by decide) (by decide) f16
  have h0 : fld 31 26 (put 19 d (put 12 a (put 5 b 0x6C000003))) = 27 := fld_put_above (by decide) (by decide) f5 f8
  have h1 : fld 1 0 (put 19 d (put 12 a (put 5 b 0x6C000003))) = 3 := fld_put_below (by decide) (by decide) f11
  have h2 : fld 4 2 (put 19 d (put 12 a (put 5 b 0x6C000003))) = 0 := fld_put_below (by decide) (by decide) f14
  have h3 : BitVec.ofNat 7 (fld 25 19 (put 19 d (put 12 a (put 5 b 0x6C000003)))) = d := ofNat_fld (fld_put_eq rfl f5)
  have h4 : BitVec.ofNat 7 (fld 18 12 (put 19 d (put 12 a (put 5 b 0x6C000003)))) = a := ofNat_fld (fld_put_below (by decide) (by decide) f15)
  have h5 : BitVec.ofNat 7 (fld 11 5 (put 19 d (put 12 a (put 5 b 0x6C000003)))) = b := ofNat_fld (fld_put_below (by decide) (by decide) f17)
  rw [decodeWord_1B h0]
  simp [decodeOp1B, h1, h2, h3, h4, h5]

theorem Sys2Proof.Laws.Encodes.sand (d : BitVec 7) (a : BitVec 7) (b : BitVec 7) :
    Sys2Proof.Laws.Encodes.Statement (.sand d a b) := by
  rintro w ⟨⟩
  have f0 : fld 11 5 0x70000000 = 0 := rfl
  have f1 : fld 18 12 0x70000000 = 0 := rfl
  have f2 : fld 18 12 (put 5 b 0x70000000) = 0 := fld_put_above (by decide) (by decide) f0 f1
  have f3 : fld 25 19 0x70000000 = 0 := rfl
  have f4 : fld 25 19 (put 5 b 0x70000000) = 0 := fld_put_above (by decide) (by decide) f0 f3
  have f5 : fld 25 19 (put 12 a (put 5 b 0x70000000)) = 0 := fld_put_above (by decide) (by decide) f2 f4
  have f6 : fld 31 26 0x70000000 = 28 := rfl
  have f7 : fld 31 26 (put 5 b 0x70000000) = 28 := fld_put_above (by decide) (by decide) f0 f6
  have f8 : fld 31 26 (put 12 a (put 5 b 0x70000000)) = 28 := fld_put_above (by decide) (by decide) f2 f7
  have f9 : fld 1 0 0x70000000 = 0 := rfl
  have f10 : fld 1 0 (put 5 b 0x70000000) = 0 := fld_put_below (by decide) (by decide) f9
  have f11 : fld 1 0 (put 12 a (put 5 b 0x70000000)) = 0 := fld_put_below (by decide) (by decide) f10
  have f12 : fld 4 2 0x70000000 = 0 := rfl
  have f13 : fld 4 2 (put 5 b 0x70000000) = 0 := fld_put_below (by decide) (by decide) f12
  have f14 : fld 4 2 (put 12 a (put 5 b 0x70000000)) = 0 := fld_put_below (by decide) (by decide) f13
  have f15 : fld 18 12 (put 12 a (put 5 b 0x70000000)) = a.toNat := fld_put_eq rfl f2
  have f16 : fld 11 5 (put 5 b 0x70000000) = b.toNat := fld_put_eq rfl f0
  have f17 : fld 11 5 (put 12 a (put 5 b 0x70000000)) = b.toNat := fld_put_below (by decide) (by decide) f16
  have h0 : fld 31 26 (put 19 d (put 12 a (put 5 b 0x70000000))) = 28 := fld_put_above (by decide) (by decide) f5 f8
  have h1 : fld 1 0 (put 19 d (put 12 a (put 5 b 0x70000000))) = 0 := fld_put_below (by decide) (by decide) f11
  have h2 : fld 4 2 (put 19 d (put 12 a (put 5 b 0x70000000))) = 0 := fld_put_below (by decide) (by decide) f14
  have h3 : BitVec.ofNat 7 (fld 25 19 (put 19 d (put 12 a (put 5 b 0x70000000)))) = d := ofNat_fld (fld_put_eq rfl f5)
  have h4 : BitVec.ofNat 7 (fld 18 12 (put 19 d (put 12 a (put 5 b 0x70000000)))) = a := ofNat_fld (fld_put_below (by decide) (by decide) f15)
  have h5 : BitVec.ofNat 7 (fld 11 5 (put 19 d (put 12 a (put 5 b 0x70000000)))) = b := ofNat_fld (fld_put_below (by decide) (by decide) f17)
  rw [decodeWord_1C h0]
  simp [decodeOp1C, h1, h2, h3, h4, h5]

theorem Sys2Proof.Laws.Encodes.sor (d : BitVec 7) (a : BitVec 7) (b : BitVec 7) :
    Sys2Proof.Laws.Encodes.Statement (.sor d a b) := by
  rintro w ⟨⟩
  have f0 : fld 11 5 0x70000001 = 0 := rfl
  have f1 : fld 18 12 0x70000001 = 0 := rfl
  have f2 : fld 18 12 (put 5 b 0x70000001) = 0 := fld_put_above (by decide) (by decide) f0 f1
  have f3 : fld 25 19 0x70000001 = 0 := rfl
  have f4 : fld 25 19 (put 5 b 0x70000001) = 0 := fld_put_above (by decide) (by decide) f0 f3
  have f5 : fld 25 19 (put 12 a (put 5 b 0x70000001)) = 0 := fld_put_above (by decide) (by decide) f2 f4
  have f6 : fld 31 26 0x70000001 = 28 := rfl
  have f7 : fld 31 26 (put 5 b 0x70000001) = 28 := fld_put_above (by decide) (by decide) f0 f6
  have f8 : fld 31 26 (put 12 a (put 5 b 0x70000001)) = 28 := fld_put_above (by decide) (by decide) f2 f7
  have f9 : fld 1 0 0x70000001 = 1 := rfl
  have f10 : fld 1 0 (put 5 b 0x70000001) = 1 := fld_put_below (by decide) (by decide) f9
  have f11 : fld 1 0 (put 12 a (put 5 b 0x70000001)) = 1 := fld_put_below (by decide) (by decide) f10
  have f12 : fld 4 2 0x70000001 = 0 := rfl
  have f13 : fld 4 2 (put 5 b 0x70000001) = 0 := fld_put_below (by decide) (by decide) f12
  have f14 : fld 4 2 (put 12 a (put 5 b 0x70000001)) = 0 := fld_put_below (by decide) (by decide) f13
  have f15 : fld 18 12 (put 12 a (put 5 b 0x70000001)) = a.toNat := fld_put_eq rfl f2
  have f16 : fld 11 5 (put 5 b 0x70000001) = b.toNat := fld_put_eq rfl f0
  have f17 : fld 11 5 (put 12 a (put 5 b 0x70000001)) = b.toNat := fld_put_below (by decide) (by decide) f16
  have h0 : fld 31 26 (put 19 d (put 12 a (put 5 b 0x70000001))) = 28 := fld_put_above (by decide) (by decide) f5 f8
  have h1 : fld 1 0 (put 19 d (put 12 a (put 5 b 0x70000001))) = 1 := fld_put_below (by decide) (by decide) f11
  have h2 : fld 4 2 (put 19 d (put 12 a (put 5 b 0x70000001))) = 0 := fld_put_below (by decide) (by decide) f14
  have h3 : BitVec.ofNat 7 (fld 25 19 (put 19 d (put 12 a (put 5 b 0x70000001)))) = d := ofNat_fld (fld_put_eq rfl f5)
  have h4 : BitVec.ofNat 7 (fld 18 12 (put 19 d (put 12 a (put 5 b 0x70000001)))) = a := ofNat_fld (fld_put_below (by decide) (by decide) f15)
  have h5 : BitVec.ofNat 7 (fld 11 5 (put 19 d (put 12 a (put 5 b 0x70000001)))) = b := ofNat_fld (fld_put_below (by decide) (by decide) f17)
  rw [decodeWord_1C h0]
  simp [decodeOp1C, h1, h2, h3, h4, h5]

theorem Sys2Proof.Laws.Encodes.sxor (d : BitVec 7) (a : BitVec 7) (b : BitVec 7) :
    Sys2Proof.Laws.Encodes.Statement (.sxor d a b) := by
  rintro w ⟨⟩
  have f0 : fld 11 5 0x70000002 = 0 := rfl
  have f1 : fld 18 12 0x70000002 = 0 := rfl
  have f2 : fld 18 12 (put 5 b 0x70000002) = 0 := fld_put_above (by decide) (by decide) f0 f1
  have f3 : fld 25 19 0x70000002 = 0 := rfl
  have f4 : fld 25 19 (put 5 b 0x70000002) = 0 := fld_put_above (by decide) (by decide) f0 f3
  have f5 : fld 25 19 (put 12 a (put 5 b 0x70000002)) = 0 := fld_put_above (by decide) (by decide) f2 f4
  have f6 : fld 31 26 0x70000002 = 28 := rfl
  have f7 : fld 31 26 (put 5 b 0x70000002) = 28 := fld_put_above (by decide) (by decide) f0 f6
  have f8 : fld 31 26 (put 12 a (put 5 b 0x70000002)) = 28 := fld_put_above (by decide) (by decide) f2 f7
  have f9 : fld 1 0 0x70000002 = 2 := rfl
  have f10 : fld 1 0 (put 5 b 0x70000002) = 2 := fld_put_below (by decide) (by decide) f9
  have f11 : fld 1 0 (put 12 a (put 5 b 0x70000002)) = 2 := fld_put_below (by decide) (by decide) f10
  have f12 : fld 4 2 0x70000002 = 0 := rfl
  have f13 : fld 4 2 (put 5 b 0x70000002) = 0 := fld_put_below (by decide) (by decide) f12
  have f14 : fld 4 2 (put 12 a (put 5 b 0x70000002)) = 0 := fld_put_below (by decide) (by decide) f13
  have f15 : fld 18 12 (put 12 a (put 5 b 0x70000002)) = a.toNat := fld_put_eq rfl f2
  have f16 : fld 11 5 (put 5 b 0x70000002) = b.toNat := fld_put_eq rfl f0
  have f17 : fld 11 5 (put 12 a (put 5 b 0x70000002)) = b.toNat := fld_put_below (by decide) (by decide) f16
  have h0 : fld 31 26 (put 19 d (put 12 a (put 5 b 0x70000002))) = 28 := fld_put_above (by decide) (by decide) f5 f8
  have h1 : fld 1 0 (put 19 d (put 12 a (put 5 b 0x70000002))) = 2 := fld_put_below (by decide) (by decide) f11
  have h2 : fld 4 2 (put 19 d (put 12 a (put 5 b 0x70000002))) = 0 := fld_put_below (by decide) (by decide) f14
  have h3 : BitVec.ofNat 7 (fld 25 19 (put 19 d (put 12 a (put 5 b 0x70000002)))) = d := ofNat_fld (fld_put_eq rfl f5)
  have h4 : BitVec.ofNat 7 (fld 18 12 (put 19 d (put 12 a (put 5 b 0x70000002)))) = a := ofNat_fld (fld_put_below (by decide) (by decide) f15)
  have h5 : BitVec.ofNat 7 (fld 11 5 (put 19 d (put 12 a (put 5 b 0x70000002)))) = b := ofNat_fld (fld_put_below (by decide) (by decide) f17)
  rw [decodeWord_1C h0]
  simp [decodeOp1C, h1, h2, h3, h4, h5]

theorem Sys2Proof.Laws.Encodes.ssel (d : BitVec 7) (a : BitVec 7) (b : BitVec 7) :
    Sys2Proof.Laws.Encodes.Statement (.ssel d a b) := by
  rintro w ⟨⟩
  have f0 : fld 11 5 0x70000003 = 0 := rfl
  have f1 : fld 18 12 0x70000003 = 0 := rfl
  have f2 : fld 18 12 (put 5 b 0x70000003) = 0 := fld_put_above (by decide) (by decide) f0 f1
  have f3 : fld 25 19 0x70000003 = 0 := rfl
  have f4 : fld 25 19 (put 5 b 0x70000003) = 0 := fld_put_above (by decide) (by decide) f0 f3
  have f5 : fld 25 19 (put 12 a (put 5 b 0x70000003)) = 0 := fld_put_above (by decide) (by decide) f2 f4
  have f6 : fld 31 26 0x70000003 = 28 := rfl
  have f7 : fld 31 26 (put 5 b 0x70000003) = 28 := fld_put_above (by decide) (by decide) f0 f6
  have f8 : fld 31 26 (put 12 a (put 5 b 0x70000003)) = 28 := fld_put_above (by decide) (by decide) f2 f7
  have f9 : fld 1 0 0x70000003 = 3 := rfl
  have f10 : fld 1 0 (put 5 b 0x70000003) = 3 := fld_put_below (by decide) (by decide) f9
  have f11 : fld 1 0 (put 12 a (put 5 b 0x70000003)) = 3 := fld_put_below (by decide) (by decide) f10
  have f12 : fld 4 2 0x70000003 = 0 := rfl
  have f13 : fld 4 2 (put 5 b 0x70000003) = 0 := fld_put_below (by decide) (by decide) f12
  have f14 : fld 4 2 (put 12 a (put 5 b 0x70000003)) = 0 := fld_put_below (by decide) (by decide) f13
  have f15 : fld 18 12 (put 12 a (put 5 b 0x70000003)) = a.toNat := fld_put_eq rfl f2
  have f16 : fld 11 5 (put 5 b 0x70000003) = b.toNat := fld_put_eq rfl f0
  have f17 : fld 11 5 (put 12 a (put 5 b 0x70000003)) = b.toNat := fld_put_below (by decide) (by decide) f16
  have h0 : fld 31 26 (put 19 d (put 12 a (put 5 b 0x70000003))) = 28 := fld_put_above (by decide) (by decide) f5 f8
  have h1 : fld 1 0 (put 19 d (put 12 a (put 5 b 0x70000003))) = 3 := fld_put_below (by decide) (by decide) f11
  have h2 : fld 4 2 (put 19 d (put 12 a (put 5 b 0x70000003))) = 0 := fld_put_below (by decide) (by decide) f14
  have h3 : BitVec.ofNat 7 (fld 25 19 (put 19 d (put 12 a (put 5 b 0x70000003)))) = d := ofNat_fld (fld_put_eq rfl f5)
  have h4 : BitVec.ofNat 7 (fld 18 12 (put 19 d (put 12 a (put 5 b 0x70000003)))) = a := ofNat_fld (fld_put_below (by decide) (by decide) f15)
  have h5 : BitVec.ofNat 7 (fld 11 5 (put 19 d (put 12 a (put 5 b 0x70000003)))) = b := ofNat_fld (fld_put_below (by decide) (by decide) f17)
  rw [decodeWord_1C h0]
  simp [decodeOp1C, h1, h2, h3, h4, h5]

theorem Sys2Proof.Laws.Encodes.sshl (d : BitVec 7) (a : BitVec 7) (b : BitVec 7) :
    Sys2Proof.Laws.Encodes.Statement (.sshl d a b) := by
  rintro w ⟨⟩
  have f0 : fld 11 5 0x74000000 = 0 := rfl
  have f1 : fld 18 12 0x74000000 = 0 := rfl
  have f2 : fld 18 12 (put 5 b 0x74000000) = 0 := fld_put_above (by decide) (by decide) f0 f1
  have f3 : fld 25 19 0x74000000 = 0 := rfl
  have f4 : fld 25 19 (put 5 b 0x74000000) = 0 := fld_put_above (by decide) (by decide) f0 f3
  have f5 : fld 25 19 (put 12 a (put 5 b 0x74000000)) = 0 := fld_put_above (by decide) (by decide) f2 f4
  have f6 : fld 31 26 0x74000000 = 29 := rfl
  have f7 : fld 31 26 (put 5 b 0x74000000) = 29 := fld_put_above (by decide) (by decide) f0 f6
  have f8 : fld 31 26 (put 12 a (put 5 b 0x74000000)) = 29 := fld_put_above (by decide) (by decide) f2 f7
  have f9 : fld 1 0 0x74000000 = 0 := rfl
  have f10 : fld 1 0 (put 5 b 0x74000000) = 0 := fld_put_below (by decide) (by decide) f9
  have f11 : fld 1 0 (put 12 a (put 5 b 0x74000000)) = 0 := fld_put_below (by decide) (by decide) f10
  have f12 : fld 4 2 0x74000000 = 0 := rfl
  have f13 : fld 4 2 (put 5 b 0x74000000) = 0 := fld_put_below (by decide) (by decide) f12
  have f14 : fld 4 2 (put 12 a (put 5 b 0x74000000)) = 0 := fld_put_below (by decide) (by decide) f13
  have f15 : fld 18 12 (put 12 a (put 5 b 0x74000000)) = a.toNat := fld_put_eq rfl f2
  have f16 : fld 11 5 (put 5 b 0x74000000) = b.toNat := fld_put_eq rfl f0
  have f17 : fld 11 5 (put 12 a (put 5 b 0x74000000)) = b.toNat := fld_put_below (by decide) (by decide) f16
  have h0 : fld 31 26 (put 19 d (put 12 a (put 5 b 0x74000000))) = 29 := fld_put_above (by decide) (by decide) f5 f8
  have h1 : fld 1 0 (put 19 d (put 12 a (put 5 b 0x74000000))) = 0 := fld_put_below (by decide) (by decide) f11
  have h2 : fld 4 2 (put 19 d (put 12 a (put 5 b 0x74000000))) = 0 := fld_put_below (by decide) (by decide) f14
  have h3 : BitVec.ofNat 7 (fld 25 19 (put 19 d (put 12 a (put 5 b 0x74000000)))) = d := ofNat_fld (fld_put_eq rfl f5)
  have h4 : BitVec.ofNat 7 (fld 18 12 (put 19 d (put 12 a (put 5 b 0x74000000)))) = a := ofNat_fld (fld_put_below (by decide) (by decide) f15)
  have h5 : BitVec.ofNat 7 (fld 11 5 (put 19 d (put 12 a (put 5 b 0x74000000)))) = b := ofNat_fld (fld_put_below (by decide) (by decide) f17)
  rw [decodeWord_1D h0]
  simp [decodeOp1D, h1, h2, h3, h4, h5]

theorem Sys2Proof.Laws.Encodes.sshr (d : BitVec 7) (a : BitVec 7) (b : BitVec 7) :
    Sys2Proof.Laws.Encodes.Statement (.sshr d a b) := by
  rintro w ⟨⟩
  have f0 : fld 11 5 0x74000001 = 0 := rfl
  have f1 : fld 18 12 0x74000001 = 0 := rfl
  have f2 : fld 18 12 (put 5 b 0x74000001) = 0 := fld_put_above (by decide) (by decide) f0 f1
  have f3 : fld 25 19 0x74000001 = 0 := rfl
  have f4 : fld 25 19 (put 5 b 0x74000001) = 0 := fld_put_above (by decide) (by decide) f0 f3
  have f5 : fld 25 19 (put 12 a (put 5 b 0x74000001)) = 0 := fld_put_above (by decide) (by decide) f2 f4
  have f6 : fld 31 26 0x74000001 = 29 := rfl
  have f7 : fld 31 26 (put 5 b 0x74000001) = 29 := fld_put_above (by decide) (by decide) f0 f6
  have f8 : fld 31 26 (put 12 a (put 5 b 0x74000001)) = 29 := fld_put_above (by decide) (by decide) f2 f7
  have f9 : fld 1 0 0x74000001 = 1 := rfl
  have f10 : fld 1 0 (put 5 b 0x74000001) = 1 := fld_put_below (by decide) (by decide) f9
  have f11 : fld 1 0 (put 12 a (put 5 b 0x74000001)) = 1 := fld_put_below (by decide) (by decide) f10
  have f12 : fld 4 2 0x74000001 = 0 := rfl
  have f13 : fld 4 2 (put 5 b 0x74000001) = 0 := fld_put_below (by decide) (by decide) f12
  have f14 : fld 4 2 (put 12 a (put 5 b 0x74000001)) = 0 := fld_put_below (by decide) (by decide) f13
  have f15 : fld 18 12 (put 12 a (put 5 b 0x74000001)) = a.toNat := fld_put_eq rfl f2
  have f16 : fld 11 5 (put 5 b 0x74000001) = b.toNat := fld_put_eq rfl f0
  have f17 : fld 11 5 (put 12 a (put 5 b 0x74000001)) = b.toNat := fld_put_below (by decide) (by decide) f16
  have h0 : fld 31 26 (put 19 d (put 12 a (put 5 b 0x74000001))) = 29 := fld_put_above (by decide) (by decide) f5 f8
  have h1 : fld 1 0 (put 19 d (put 12 a (put 5 b 0x74000001))) = 1 := fld_put_below (by decide) (by decide) f11
  have h2 : fld 4 2 (put 19 d (put 12 a (put 5 b 0x74000001))) = 0 := fld_put_below (by decide) (by decide) f14
  have h3 : BitVec.ofNat 7 (fld 25 19 (put 19 d (put 12 a (put 5 b 0x74000001)))) = d := ofNat_fld (fld_put_eq rfl f5)
  have h4 : BitVec.ofNat 7 (fld 18 12 (put 19 d (put 12 a (put 5 b 0x74000001)))) = a := ofNat_fld (fld_put_below (by decide) (by decide) f15)
  have h5 : BitVec.ofNat 7 (fld 11 5 (put 19 d (put 12 a (put 5 b 0x74000001)))) = b := ofNat_fld (fld_put_below (by decide) (by decide) f17)
  rw [decodeWord_1D h0]
  simp [decodeOp1D, h1, h2, h3, h4, h5]

theorem Sys2Proof.Laws.Encodes.ssar (d : BitVec 7) (a : BitVec 7) (b : BitVec 7) :
    Sys2Proof.Laws.Encodes.Statement (.ssar d a b) := by
  rintro w ⟨⟩
  have f0 : fld 11 5 0x74000002 = 0 := rfl
  have f1 : fld 18 12 0x74000002 = 0 := rfl
  have f2 : fld 18 12 (put 5 b 0x74000002) = 0 := fld_put_above (by decide) (by decide) f0 f1
  have f3 : fld 25 19 0x74000002 = 0 := rfl
  have f4 : fld 25 19 (put 5 b 0x74000002) = 0 := fld_put_above (by decide) (by decide) f0 f3
  have f5 : fld 25 19 (put 12 a (put 5 b 0x74000002)) = 0 := fld_put_above (by decide) (by decide) f2 f4
  have f6 : fld 31 26 0x74000002 = 29 := rfl
  have f7 : fld 31 26 (put 5 b 0x74000002) = 29 := fld_put_above (by decide) (by decide) f0 f6
  have f8 : fld 31 26 (put 12 a (put 5 b 0x74000002)) = 29 := fld_put_above (by decide) (by decide) f2 f7
  have f9 : fld 1 0 0x74000002 = 2 := rfl
  have f10 : fld 1 0 (put 5 b 0x74000002) = 2 := fld_put_below (by decide) (by decide) f9
  have f11 : fld 1 0 (put 12 a (put 5 b 0x74000002)) = 2 := fld_put_below (by decide) (by decide) f10
  have f12 : fld 4 2 0x74000002 = 0 := rfl
  have f13 : fld 4 2 (put 5 b 0x74000002) = 0 := fld_put_below (by decide) (by decide) f12
  have f14 : fld 4 2 (put 12 a (put 5 b 0x74000002)) = 0 := fld_put_below (by decide) (by decide) f13
  have f15 : fld 18 12 (put 12 a (put 5 b 0x74000002)) = a.toNat := fld_put_eq rfl f2
  have f16 : fld 11 5 (put 5 b 0x74000002) = b.toNat := fld_put_eq rfl f0
  have f17 : fld 11 5 (put 12 a (put 5 b 0x74000002)) = b.toNat := fld_put_below (by decide) (by decide) f16
  have h0 : fld 31 26 (put 19 d (put 12 a (put 5 b 0x74000002))) = 29 := fld_put_above (by decide) (by decide) f5 f8
  have h1 : fld 1 0 (put 19 d (put 12 a (put 5 b 0x74000002))) = 2 := fld_put_below (by decide) (by decide) f11
  have h2 : fld 4 2 (put 19 d (put 12 a (put 5 b 0x74000002))) = 0 := fld_put_below (by decide) (by decide) f14
  have h3 : BitVec.ofNat 7 (fld 25 19 (put 19 d (put 12 a (put 5 b 0x74000002)))) = d := ofNat_fld (fld_put_eq rfl f5)
  have h4 : BitVec.ofNat 7 (fld 18 12 (put 19 d (put 12 a (put 5 b 0x74000002)))) = a := ofNat_fld (fld_put_below (by decide) (by decide) f15)
  have h5 : BitVec.ofNat 7 (fld 11 5 (put 19 d (put 12 a (put 5 b 0x74000002)))) = b := ofNat_fld (fld_put_below (by decide) (by decide) f17)
  rw [decodeWord_1D h0]
  simp [decodeOp1D, h1, h2, h3, h4, h5]

theorem Sys2Proof.Laws.Encodes.smov (d : BitVec 7) (a : BitVec 7) :
    Sys2Proof.Laws.Encodes.Statement (.smov d a) := by
  rintro w ⟨⟩
  have f0 : fld 18 12 0x74000003 = 0 := rfl
  have f1 : fld 25 19 0x74000003 = 0 := rfl
  have f2 : fld 25 19 (put 12 a 0x74000003) = 0 := fld_put_above (by decide) (by decide) f0 f1
  have f3 : fld 31 26 0x74000003 = 29 := rfl
  have f4 : fld 31 26 (put 12 a 0x74000003) = 29 := fld_put_above (by decide) (by decide) f0 f3
  have f5 : fld 1 0 0x74000003 = 3 := rfl
  have f6 : fld 1 0 (put 12 a 0x74000003) = 3 := fld_put_below (by decide) (by decide) f5
  have f7 : fld 11 2 0x74000003 = 0 := rfl
  have f8 : fld 11 2 (put 12 a 0x74000003) = 0 := fld_put_below (by decide) (by decide) f7
  have f9 : fld 18 12 (put 12 a 0x74000003) = a.toNat := fld_put_eq rfl f0
  have h0 : fld 31 26 (put 19 d (put 12 a 0x74000003)) = 29 := fld_put_above (by decide) (by decide) f2 f4
  have h1 : fld 1 0 (put 19 d (put 12 a 0x74000003)) = 3 := fld_put_below (by decide) (by decide) f6
  have h3 : fld 11 2 (put 19 d (put 12 a 0x74000003)) = 0 := fld_put_below (by decide) (by decide) f8
  have h4 : BitVec.ofNat 7 (fld 25 19 (put 19 d (put 12 a 0x74000003))) = d := ofNat_fld (fld_put_eq rfl f2)
  have h5 : BitVec.ofNat 7 (fld 18 12 (put 19 d (put 12 a 0x74000003))) = a := ofNat_fld (fld_put_below (by decide) (by decide) f9)
  rw [decodeWord_1D h0]
  simp [decodeOp1D, h1, h3, h4, h5]

theorem Sys2Proof.Laws.Encodes.scmp (d : BitVec 7) (a : BitVec 7) (b : BitVec 7) (c : BitVec 3) :
    Sys2Proof.Laws.Encodes.Statement (.scmp d a b c) := by
  rintro w ⟨⟩
  have f0 : fld 4 2 0x78000000 = 0 := rfl
  have f1 : fld 11 5 0x78000000 = 0 := rfl
  have f2 : fld 11 5 (put 2 c 0x78000000) = 0 := fld_put_above (by decide) (by decide) f0 f1
  have f3 : fld 18 12 0x78000000 = 0 := rfl
  have f4 : fld 18 12 (put 2 c 0x78000000) = 0 := fld_put_above (by decide) (by decide) f0 f3
  have f5 : fld 18 12 (put 5 b (put 2 c 0x78000000)) = 0 := fld_put_above (by decide) (by decide) f2 f4
  have f6 : fld 25 19 0x78000000 = 0 := rfl
  have f7 : fld 25 19 (put 2 c 0x78000000) = 0 := fld_put_above (by decide) (by decide) f0 f6
  have f8 : fld 25 19 (put 5 b (put 2 c 0x78000000)) = 0 := fld_put_above (by decide) (by decide) f2 f7
  have f9 : fld 25 19 (put 12 a (put 5 b (put 2 c 0x78000000))) = 0 := fld_put_above (by decide) (by decide) f5 f8
  have f10 : fld 31 26 0x78000000 = 30 := rfl
  have f11 : fld 31 26 (put 2 c 0x78000000) = 30 := fld_put_above (by decide) (by decide) f0 f10
  have f12 : fld 31 26 (put 5 b (put 2 c 0x78000000)) = 30 := fld_put_above (by decide) (by decide) f2 f11
  have f13 : fld 31 26 (put 12 a (put 5 b (put 2 c 0x78000000))) = 30 := fld_put_above (by decide) (by decide) f5 f12
  have f14 : fld 1 0 0x78000000 = 0 := rfl
  have f15 : fld 1 0 (put 2 c 0x78000000) = 0 := fld_put_below (by decide) (by decide) f14
  have f16 : fld 1 0 (put 5 b (put 2 c 0x78000000)) = 0 := fld_put_below (by decide) (by decide) f15
  have f17 : fld 1 0 (put 12 a (put 5 b (put 2 c 0x78000000))) = 0 := fld_put_below (by decide) (by decide) f16
  have f18 : fld 18 12 (put 12 a (put 5 b (put 2 c 0x78000000))) = a.toNat := fld_put_eq rfl f5
  have f19 : fld 11 5 (put 5 b (put 2 c 0x78000000)) = b.toNat := fld_put_eq rfl f2
  have f20 : fld 11 5 (put 12 a (put 5 b (put 2 c 0x78000000))) = b.toNat := fld_put_below (by decide) (by decide) f19
  have f21 : fld 4 2 (put 2 c 0x78000000) = c.toNat := fld_put_eq rfl f0
  have f22 : fld 4 2 (put 5 b (put 2 c 0x78000000)) = c.toNat := fld_put_below (by decide) (by decide) f21
  have f23 : fld 4 2 (put 12 a (put 5 b (put 2 c 0x78000000))) = c.toNat := fld_put_below (by decide) (by decide) f22
  have h0 : fld 31 26 (put 19 d (put 12 a (put 5 b (put 2 c 0x78000000)))) = 30 := fld_put_above (by decide) (by decide) f9 f13
  have h1 : fld 1 0 (put 19 d (put 12 a (put 5 b (put 2 c 0x78000000)))) = 0 := fld_put_below (by decide) (by decide) f17
  have h2 : BitVec.ofNat 7 (fld 25 19 (put 19 d (put 12 a (put 5 b (put 2 c 0x78000000))))) = d := ofNat_fld (fld_put_eq rfl f9)
  have h3 : BitVec.ofNat 7 (fld 18 12 (put 19 d (put 12 a (put 5 b (put 2 c 0x78000000))))) = a := ofNat_fld (fld_put_below (by decide) (by decide) f18)
  have h4 : BitVec.ofNat 7 (fld 11 5 (put 19 d (put 12 a (put 5 b (put 2 c 0x78000000))))) = b := ofNat_fld (fld_put_below (by decide) (by decide) f20)
  have h5 : BitVec.ofNat 3 (fld 4 2 (put 19 d (put 12 a (put 5 b (put 2 c 0x78000000))))) = c := ofNat_fld (fld_put_below (by decide) (by decide) f23)
  rw [decodeWord_1E h0]
  simp [decodeOp1E, h1, h2, h3, h4, h5]

theorem Sys2Proof.Laws.Encodes.saddi (d : BitVec 7) (a : BitVec 7) (i : BitVec 12) :
    Sys2Proof.Laws.Encodes.Statement (.saddi d a i) := by
  rintro w ⟨⟩
  have f0 : fld 11 0 0x7C000000 = 0 := rfl
  have f1 : fld 18 12 0x7C000000 = 0 := rfl
  have f2 : fld 18 12 (put 0 i 0x7C000000) = 0 := fld_put_above (by decide) (by decide) f0 f1
  have f3 : fld 25 19 0x7C000000 = 0 := rfl
  have f4 : fld 25 19 (put 0 i 0x7C000000) = 0 := fld_put_above (by decide) (by decide) f0 f3
  have f5 : fld 25 19 (put 12 a (put 0 i 0x7C000000)) = 0 := fld_put_above (by decide) (by decide) f2 f4
  have f6 : fld 31 26 0x7C000000 = 31 := rfl
  have f7 : fld 31 26 (put 0 i 0x7C000000) = 31 := fld_put_above (by decide) (by decide) f0 f6
  have f8 : fld 31 26 (put 12 a (put 0 i 0x7C000000)) = 31 := fld_put_above (by decide) (by decide) f2 f7
  have f9 : fld 18 12 (put 12 a (put 0 i 0x7C000000)) = a.toNat := fld_put_eq rfl f2
  have f10 : fld 11 0 (put 0 i 0x7C000000) = i.toNat := fld_put_eq rfl f0
  have f11 : fld 11 0 (put 12 a (put 0 i 0x7C000000)) = i.toNat := fld_put_below (by decide) (by decide) f10
  have h0 : fld 31 26 (put 19 d (put 12 a (put 0 i 0x7C000000))) = 31 := fld_put_above (by decide) (by decide) f5 f8
  have h1 : BitVec.ofNat 7 (fld 25 19 (put 19 d (put 12 a (put 0 i 0x7C000000)))) = d := ofNat_fld (fld_put_eq rfl f5)
  have h2 : BitVec.ofNat 7 (fld 18 12 (put 19 d (put 12 a (put 0 i 0x7C000000)))) = a := ofNat_fld (fld_put_below (by decide) (by decide) f9)
  have h3 : BitVec.ofNat 12 (fld 11 0 (put 19 d (put 12 a (put 0 i 0x7C000000)))) = i := ofNat_fld (fld_put_below (by decide) (by decide) f11)
  rw [decodeWord_1F h0]
  simp [decodeOp1F, h1, h2, h3]

theorem Sys2Proof.Laws.Encodes.smovw (d : BitVec 7) (z : BitVec 1) (p : BitVec 2) (i : BitVec 16) :
    Sys2Proof.Laws.Encodes.Statement (.smovw d z p i) := by
  rintro w ⟨⟩
  have f0 : fld 15 0 0x80000000 = 0 := rfl
  have f1 : fld 17 16 0x80000000 = 0 := rfl
  have f2 : fld 17 16 (put 0 i 0x80000000) = 0 := fld_put_above (by decide) (by decide) f0 f1
  have f3 : fld 18 18 0x80000000 = 0 := rfl
  have f4 : fld 18 18 (put 0 i 0x80000000) = 0 := fld_put_above (by decide) (by decide) f0 f3
  have f5 : fld 18 18 (put 16 p (put 0 i 0x80000000)) = 0 := fld_put_above (by decide) (by decide) f2 f4
  have f6 : fld 25 19 0x80000000 = 0 := rfl
  have f7 : fld 25 19 (put 0 i 0x80000000) = 0 := fld_put_above (by decide) (by decide) f0 f6
  have f8 : fld 25 19 (put 16 p (put 0 i 0x80000000)) = 0 := fld_put_above (by decide) (by decide) f2 f7
  have f9 : fld 25 19 (put 18 z (put 16 p (put 0 i 0x80000000))) = 0 := fld_put_above (by decide) (by decide) f5 f8
  have f10 : fld 31 26 0x80000000 = 32 := rfl
  have f11 : fld 31 26 (put 0 i 0x80000000) = 32 := fld_put_above (by decide) (by decide) f0 f10
  have f12 : fld 31 26 (put 16 p (put 0 i 0x80000000)) = 32 := fld_put_above (by decide) (by decide) f2 f11
  have f13 : fld 31 26 (put 18 z (put 16 p (put 0 i 0x80000000))) = 32 := fld_put_above (by decide) (by decide) f5 f12
  have f14 : fld 18 18 (put 18 z (put 16 p (put 0 i 0x80000000))) = z.toNat := fld_put_eq rfl f5
  have f15 : fld 17 16 (put 16 p (put 0 i 0x80000000)) = p.toNat := fld_put_eq rfl f2
  have f16 : fld 17 16 (put 18 z (put 16 p (put 0 i 0x80000000))) = p.toNat := fld_put_below (by decide) (by decide) f15
  have f17 : fld 15 0 (put 0 i 0x80000000) = i.toNat := fld_put_eq rfl f0
  have f18 : fld 15 0 (put 16 p (put 0 i 0x80000000)) = i.toNat := fld_put_below (by decide) (by decide) f17
  have f19 : fld 15 0 (put 18 z (put 16 p (put 0 i 0x80000000))) = i.toNat := fld_put_below (by decide) (by decide) f18
  have h0 : fld 31 26 (put 19 d (put 18 z (put 16 p (put 0 i 0x80000000)))) = 32 := fld_put_above (by decide) (by decide) f9 f13
  have h1 : BitVec.ofNat 7 (fld 25 19 (put 19 d (put 18 z (put 16 p (put 0 i 0x80000000))))) = d := ofNat_fld (fld_put_eq rfl f9)
  have h2 : BitVec.ofNat 1 (fld 18 18 (put 19 d (put 18 z (put 16 p (put 0 i 0x80000000))))) = z := ofNat_fld (fld_put_below (by decide) (by decide) f14)
  have h3 : BitVec.ofNat 2 (fld 17 16 (put 19 d (put 18 z (put 16 p (put 0 i 0x80000000))))) = p := ofNat_fld (fld_put_below (by decide) (by decide) f16)
  have h4 : BitVec.ofNat 16 (fld 15 0 (put 19 d (put 18 z (put 16 p (put 0 i 0x80000000))))) = i := ofNat_fld (fld_put_below (by decide) (by decide) f19)
  rw [decodeWord_20 h0]
  simp [decodeOp20, h1, h2, h3, h4]

theorem Sys2Proof.Laws.Encodes.ld (d : BitVec 7) (a : BitVec 7) (s : BitVec 3) (p : BitVec 2) (o : BitVec 7) :
    Sys2Proof.Laws.Encodes.Statement (.ld d a s p o) := by
  rintro w ⟨⟩
  have f0 : fld 6 0 0x84000000 = 0 := rfl
  have f1 : fld 8 7 0x84000000 = 0 := rfl
  have f2 : fld 8 7 (put 0 o 0x84000000) = 0 := fld_put_above (by decide) (by decide) f0 f1
  have f3 : fld 11 9 0x84000000 = 0 := rfl
  have f4 : fld 11 9 (put 0 o 0x84000000) = 0 := fld_put_above (by decide) (by decide) f0 f3
  have f5 : fld 11 9 (put 7 p (put 0 o 0x84000000)) = 0 := fld_put_above (by decide) (by decide) f2 f4
  have f6 : fld 18 12 0x84000000 = 0 := rfl
  have f7 : fld 18 12 (put 0 o 0x84000000) = 0 := fld_put_above (by decide) (by decide) f0 f6
  have f8 : fld 18 12 (put 7 p (put 0 o 0x84000000)) = 0 := fld_put_above (by decide) (by decide) f2 f7
  have f9 : fld 18 12 (put 9 s (put 7 p (put 0 o 0x84000000))) = 0 := fld_put_above (by decide) (by decide) f5 f8
  have f10 : fld 25 19 0x84000000 = 0 := rfl
  have f11 : fld 25 19 (put 0 o 0x84000000) = 0 := fld_put_above (by decide) (by decide) f0 f10
  have f12 : fld 25 19 (put 7 p (put 0 o 0x84000000)) = 0 := fld_put_above (by decide) (by decide) f2 f11
  have f13 : fld 25 19 (put 9 s (put 7 p (put 0 o 0x84000000))) = 0 := fld_put_above (by decide) (by decide) f5 f12
  have f14 : fld 25 19 (put 12 a (put 9 s (put 7 p (put 0 o 0x84000000)))) = 0 := fld_put_above (by decide) (by decide) f9 f13
  have f15 : fld 31 26 0x84000000 = 33 := rfl
  have f16 : fld 31 26 (put 0 o 0x84000000) = 33 := fld_put_above (by decide) (by decide) f0 f15
  have f17 : fld 31 26 (put 7 p (put 0 o 0x84000000)) = 33 := fld_put_above (by decide) (by decide) f2 f16
  have f18 : fld 31 26 (put 9 s (put 7 p (put 0 o 0x84000000))) = 33 := fld_put_above (by decide) (by decide) f5 f17
  have f19 : fld 31 26 (put 12 a (put 9 s (put 7 p (put 0 o 0x84000000)))) = 33 := fld_put_above (by decide) (by decide) f9 f18
  have f20 : fld 18 12 (put 12 a (put 9 s (put 7 p (put 0 o 0x84000000)))) = a.toNat := fld_put_eq rfl f9
  have f21 : fld 11 9 (put 9 s (put 7 p (put 0 o 0x84000000))) = s.toNat := fld_put_eq rfl f5
  have f22 : fld 11 9 (put 12 a (put 9 s (put 7 p (put 0 o 0x84000000)))) = s.toNat := fld_put_below (by decide) (by decide) f21
  have f23 : fld 8 7 (put 7 p (put 0 o 0x84000000)) = p.toNat := fld_put_eq rfl f2
  have f24 : fld 8 7 (put 9 s (put 7 p (put 0 o 0x84000000))) = p.toNat := fld_put_below (by decide) (by decide) f23
  have f25 : fld 8 7 (put 12 a (put 9 s (put 7 p (put 0 o 0x84000000)))) = p.toNat := fld_put_below (by decide) (by decide) f24
  have f26 : fld 6 0 (put 0 o 0x84000000) = o.toNat := fld_put_eq rfl f0
  have f27 : fld 6 0 (put 7 p (put 0 o 0x84000000)) = o.toNat := fld_put_below (by decide) (by decide) f26
  have f28 : fld 6 0 (put 9 s (put 7 p (put 0 o 0x84000000))) = o.toNat := fld_put_below (by decide) (by decide) f27
  have f29 : fld 6 0 (put 12 a (put 9 s (put 7 p (put 0 o 0x84000000)))) = o.toNat := fld_put_below (by decide) (by decide) f28
  have h0 : fld 31 26 (put 19 d (put 12 a (put 9 s (put 7 p (put 0 o 0x84000000))))) = 33 := fld_put_above (by decide) (by decide) f14 f19
  have h1 : BitVec.ofNat 7 (fld 25 19 (put 19 d (put 12 a (put 9 s (put 7 p (put 0 o 0x84000000)))))) = d := ofNat_fld (fld_put_eq rfl f14)
  have h2 : BitVec.ofNat 7 (fld 18 12 (put 19 d (put 12 a (put 9 s (put 7 p (put 0 o 0x84000000)))))) = a := ofNat_fld (fld_put_below (by decide) (by decide) f20)
  have h3 : BitVec.ofNat 3 (fld 11 9 (put 19 d (put 12 a (put 9 s (put 7 p (put 0 o 0x84000000)))))) = s := ofNat_fld (fld_put_below (by decide) (by decide) f22)
  have h4 : BitVec.ofNat 2 (fld 8 7 (put 19 d (put 12 a (put 9 s (put 7 p (put 0 o 0x84000000)))))) = p := ofNat_fld (fld_put_below (by decide) (by decide) f25)
  have h5 : BitVec.ofNat 7 (fld 6 0 (put 19 d (put 12 a (put 9 s (put 7 p (put 0 o 0x84000000)))))) = o := ofNat_fld (fld_put_below (by decide) (by decide) f29)
  rw [decodeWord_21 h0]
  simp [decodeOp21, h1, h2, h3, h4, h5]

theorem Sys2Proof.Laws.Encodes.st (d : BitVec 7) (a : BitVec 7) (s : BitVec 3) (p : BitVec 2) (o : BitVec 7) :
    Sys2Proof.Laws.Encodes.Statement (.st d a s p o) := by
  rintro w ⟨⟩
  have f0 : fld 6 0 0x88000000 = 0 := rfl
  have f1 : fld 8 7 0x88000000 = 0 := rfl
  have f2 : fld 8 7 (put 0 o 0x88000000) = 0 := fld_put_above (by decide) (by decide) f0 f1
  have f3 : fld 11 9 0x88000000 = 0 := rfl
  have f4 : fld 11 9 (put 0 o 0x88000000) = 0 := fld_put_above (by decide) (by decide) f0 f3
  have f5 : fld 11 9 (put 7 p (put 0 o 0x88000000)) = 0 := fld_put_above (by decide) (by decide) f2 f4
  have f6 : fld 18 12 0x88000000 = 0 := rfl
  have f7 : fld 18 12 (put 0 o 0x88000000) = 0 := fld_put_above (by decide) (by decide) f0 f6
  have f8 : fld 18 12 (put 7 p (put 0 o 0x88000000)) = 0 := fld_put_above (by decide) (by decide) f2 f7
  have f9 : fld 18 12 (put 9 s (put 7 p (put 0 o 0x88000000))) = 0 := fld_put_above (by decide) (by decide) f5 f8
  have f10 : fld 25 19 0x88000000 = 0 := rfl
  have f11 : fld 25 19 (put 0 o 0x88000000) = 0 := fld_put_above (by decide) (by decide) f0 f10
  have f12 : fld 25 19 (put 7 p (put 0 o 0x88000000)) = 0 := fld_put_above (by decide) (by decide) f2 f11
  have f13 : fld 25 19 (put 9 s (put 7 p (put 0 o 0x88000000))) = 0 := fld_put_above (by decide) (by decide) f5 f12
  have f14 : fld 25 19 (put 12 a (put 9 s (put 7 p (put 0 o 0x88000000)))) = 0 := fld_put_above (by decide) (by decide) f9 f13
  have f15 : fld 31 26 0x88000000 = 34 := rfl
  have f16 : fld 31 26 (put 0 o 0x88000000) = 34 := fld_put_above (by decide) (by decide) f0 f15
  have f17 : fld 31 26 (put 7 p (put 0 o 0x88000000)) = 34 := fld_put_above (by decide) (by decide) f2 f16
  have f18 : fld 31 26 (put 9 s (put 7 p (put 0 o 0x88000000))) = 34 := fld_put_above (by decide) (by decide) f5 f17
  have f19 : fld 31 26 (put 12 a (put 9 s (put 7 p (put 0 o 0x88000000)))) = 34 := fld_put_above (by decide) (by decide) f9 f18
  have f20 : fld 18 12 (put 12 a (put 9 s (put 7 p (put 0 o 0x88000000)))) = a.toNat := fld_put_eq rfl f9
  have f21 : fld 11 9 (put 9 s (put 7 p (put 0 o 0x88000000))) = s.toNat := fld_put_eq rfl f5
  have f22 : fld 11 9 (put 12 a (put 9 s (put 7 p (put 0 o 0x88000000)))) = s.toNat := fld_put_below (by decide) (by decide) f21
  have f23 : fld 8 7 (put 7 p (put 0 o 0x88000000)) = p.toNat := fld_put_eq rfl f2
  have f24 : fld 8 7 (put 9 s (put 7 p (put 0 o 0x88000000))) = p.toNat := fld_put_below (by decide) (by decide) f23
  have f25 : fld 8 7 (put 12 a (put 9 s (put 7 p (put 0 o 0x88000000)))) = p.toNat := fld_put_below (by decide) (by decide) f24
  have f26 : fld 6 0 (put 0 o 0x88000000) = o.toNat := fld_put_eq rfl f0
  have f27 : fld 6 0 (put 7 p (put 0 o 0x88000000)) = o.toNat := fld_put_below (by decide) (by decide) f26
  have f28 : fld 6 0 (put 9 s (put 7 p (put 0 o 0x88000000))) = o.toNat := fld_put_below (by decide) (by decide) f27
  have f29 : fld 6 0 (put 12 a (put 9 s (put 7 p (put 0 o 0x88000000)))) = o.toNat := fld_put_below (by decide) (by decide) f28
  have h0 : fld 31 26 (put 19 d (put 12 a (put 9 s (put 7 p (put 0 o 0x88000000))))) = 34 := fld_put_above (by decide) (by decide) f14 f19
  have h1 : BitVec.ofNat 7 (fld 25 19 (put 19 d (put 12 a (put 9 s (put 7 p (put 0 o 0x88000000)))))) = d := ofNat_fld (fld_put_eq rfl f14)
  have h2 : BitVec.ofNat 7 (fld 18 12 (put 19 d (put 12 a (put 9 s (put 7 p (put 0 o 0x88000000)))))) = a := ofNat_fld (fld_put_below (by decide) (by decide) f20)
  have h3 : BitVec.ofNat 3 (fld 11 9 (put 19 d (put 12 a (put 9 s (put 7 p (put 0 o 0x88000000)))))) = s := ofNat_fld (fld_put_below (by decide) (by decide) f22)
  have h4 : BitVec.ofNat 2 (fld 8 7 (put 19 d (put 12 a (put 9 s (put 7 p (put 0 o 0x88000000)))))) = p := ofNat_fld (fld_put_below (by decide) (by decide) f25)
  have h5 : BitVec.ofNat 7 (fld 6 0 (put 19 d (put 12 a (put 9 s (put 7 p (put 0 o 0x88000000)))))) = o := ofNat_fld (fld_put_below (by decide) (by decide) f29)
  rw [decodeWord_22 h0]
  simp [decodeOp22, h1, h2, h3, h4, h5]

theorem Sys2Proof.Laws.Encodes.lds (d : BitVec 7) (a : BitVec 7) (s : BitVec 3) (o : BitVec 7) :
    Sys2Proof.Laws.Encodes.Statement (.lds d a s o) := by
  rintro w ⟨⟩
  have f0 : fld 6 0 0x8C000000 = 0 := rfl
  have f1 : fld 11 9 0x8C000000 = 0 := rfl
  have f2 : fld 11 9 (put 0 o 0x8C000000) = 0 := fld_put_above (by decide) (by decide) f0 f1
  have f3 : fld 18 12 0x8C000000 = 0 := rfl
  have f4 : fld 18 12 (put 0 o 0x8C000000) = 0 := fld_put_above (by decide) (by decide) f0 f3
  have f5 : fld 18 12 (put 9 s (put 0 o 0x8C000000)) = 0 := fld_put_above (by decide) (by decide) f2 f4
  have f6 : fld 25 19 0x8C000000 = 0 := rfl
  have f7 : fld 25 19 (put 0 o 0x8C000000) = 0 := fld_put_above (by decide) (by decide) f0 f6
  have f8 : fld 25 19 (put 9 s (put 0 o 0x8C000000)) = 0 := fld_put_above (by decide) (by decide) f2 f7
  have f9 : fld 25 19 (put 12 a (put 9 s (put 0 o 0x8C000000))) = 0 := fld_put_above (by decide) (by decide) f5 f8
  have f10 : fld 31 26 0x8C000000 = 35 := rfl
  have f11 : fld 31 26 (put 0 o 0x8C000000) = 35 := fld_put_above (by decide) (by decide) f0 f10
  have f12 : fld 31 26 (put 9 s (put 0 o 0x8C000000)) = 35 := fld_put_above (by decide) (by decide) f2 f11
  have f13 : fld 31 26 (put 12 a (put 9 s (put 0 o 0x8C000000))) = 35 := fld_put_above (by decide) (by decide) f5 f12
  have f14 : fld 8 7 0x8C000000 = 0 := rfl
  have f15 : fld 8 7 (put 0 o 0x8C000000) = 0 := fld_put_above (by decide) (by decide) f0 f14
  have f16 : fld 8 7 (put 9 s (put 0 o 0x8C000000)) = 0 := fld_put_below (by decide) (by decide) f15
  have f17 : fld 8 7 (put 12 a (put 9 s (put 0 o 0x8C000000))) = 0 := fld_put_below (by decide) (by decide) f16
  have f18 : fld 18 12 (put 12 a (put 9 s (put 0 o 0x8C000000))) = a.toNat := fld_put_eq rfl f5
  have f19 : fld 11 9 (put 9 s (put 0 o 0x8C000000)) = s.toNat := fld_put_eq rfl f2
  have f20 : fld 11 9 (put 12 a (put 9 s (put 0 o 0x8C000000))) = s.toNat := fld_put_below (by decide) (by decide) f19
  have f21 : fld 6 0 (put 0 o 0x8C000000) = o.toNat := fld_put_eq rfl f0
  have f22 : fld 6 0 (put 9 s (put 0 o 0x8C000000)) = o.toNat := fld_put_below (by decide) (by decide) f21
  have f23 : fld 6 0 (put 12 a (put 9 s (put 0 o 0x8C000000))) = o.toNat := fld_put_below (by decide) (by decide) f22
  have h0 : fld 31 26 (put 19 d (put 12 a (put 9 s (put 0 o 0x8C000000)))) = 35 := fld_put_above (by decide) (by decide) f9 f13
  have h1 : fld 8 7 (put 19 d (put 12 a (put 9 s (put 0 o 0x8C000000)))) = 0 := fld_put_below (by decide) (by decide) f17
  have h2 : BitVec.ofNat 7 (fld 25 19 (put 19 d (put 12 a (put 9 s (put 0 o 0x8C000000))))) = d := ofNat_fld (fld_put_eq rfl f9)
  have h3 : BitVec.ofNat 7 (fld 18 12 (put 19 d (put 12 a (put 9 s (put 0 o 0x8C000000))))) = a := ofNat_fld (fld_put_below (by decide) (by decide) f18)
  have h4 : BitVec.ofNat 3 (fld 11 9 (put 19 d (put 12 a (put 9 s (put 0 o 0x8C000000))))) = s := ofNat_fld (fld_put_below (by decide) (by decide) f20)
  have h5 : BitVec.ofNat 7 (fld 6 0 (put 19 d (put 12 a (put 9 s (put 0 o 0x8C000000))))) = o := ofNat_fld (fld_put_below (by decide) (by decide) f23)
  rw [decodeWord_23 h0]
  simp [decodeOp23, h1, h2, h3, h4, h5]

theorem Sys2Proof.Laws.Encodes.sts (d : BitVec 7) (a : BitVec 7) (s : BitVec 3) (o : BitVec 7) :
    Sys2Proof.Laws.Encodes.Statement (.sts d a s o) := by
  rintro w ⟨⟩
  have f0 : fld 6 0 0x90000000 = 0 := rfl
  have f1 : fld 11 9 0x90000000 = 0 := rfl
  have f2 : fld 11 9 (put 0 o 0x90000000) = 0 := fld_put_above (by decide) (by decide) f0 f1
  have f3 : fld 18 12 0x90000000 = 0 := rfl
  have f4 : fld 18 12 (put 0 o 0x90000000) = 0 := fld_put_above (by decide) (by decide) f0 f3
  have f5 : fld 18 12 (put 9 s (put 0 o 0x90000000)) = 0 := fld_put_above (by decide) (by decide) f2 f4
  have f6 : fld 25 19 0x90000000 = 0 := rfl
  have f7 : fld 25 19 (put 0 o 0x90000000) = 0 := fld_put_above (by decide) (by decide) f0 f6
  have f8 : fld 25 19 (put 9 s (put 0 o 0x90000000)) = 0 := fld_put_above (by decide) (by decide) f2 f7
  have f9 : fld 25 19 (put 12 a (put 9 s (put 0 o 0x90000000))) = 0 := fld_put_above (by decide) (by decide) f5 f8
  have f10 : fld 31 26 0x90000000 = 36 := rfl
  have f11 : fld 31 26 (put 0 o 0x90000000) = 36 := fld_put_above (by decide) (by decide) f0 f10
  have f12 : fld 31 26 (put 9 s (put 0 o 0x90000000)) = 36 := fld_put_above (by decide) (by decide) f2 f11
  have f13 : fld 31 26 (put 12 a (put 9 s (put 0 o 0x90000000))) = 36 := fld_put_above (by decide) (by decide) f5 f12
  have f14 : fld 8 7 0x90000000 = 0 := rfl
  have f15 : fld 8 7 (put 0 o 0x90000000) = 0 := fld_put_above (by decide) (by decide) f0 f14
  have f16 : fld 8 7 (put 9 s (put 0 o 0x90000000)) = 0 := fld_put_below (by decide) (by decide) f15
  have f17 : fld 8 7 (put 12 a (put 9 s (put 0 o 0x90000000))) = 0 := fld_put_below (by decide) (by decide) f16
  have f18 : fld 18 12 (put 12 a (put 9 s (put 0 o 0x90000000))) = a.toNat := fld_put_eq rfl f5
  have f19 : fld 11 9 (put 9 s (put 0 o 0x90000000)) = s.toNat := fld_put_eq rfl f2
  have f20 : fld 11 9 (put 12 a (put 9 s (put 0 o 0x90000000))) = s.toNat := fld_put_below (by decide) (by decide) f19
  have f21 : fld 6 0 (put 0 o 0x90000000) = o.toNat := fld_put_eq rfl f0
  have f22 : fld 6 0 (put 9 s (put 0 o 0x90000000)) = o.toNat := fld_put_below (by decide) (by decide) f21
  have f23 : fld 6 0 (put 12 a (put 9 s (put 0 o 0x90000000))) = o.toNat := fld_put_below (by decide) (by decide) f22
  have h0 : fld 31 26 (put 19 d (put 12 a (put 9 s (put 0 o 0x90000000)))) = 36 := fld_put_above (by decide) (by decide) f9 f13
  have h1 : fld 8 7 (put 19 d (put 12 a (put 9 s (put 0 o 0x90000000)))) = 0 := fld_put_below (by decide) (by decide) f17
  have h2 : BitVec.ofNat 7 (fld 25 19 (put 19 d (put 12 a (put 9 s (put 0 o 0x90000000))))) = d := ofNat_fld (fld_put_eq rfl f9)
  have h3 : BitVec.ofNat 7 (fld 18 12 (put 19 d (put 12 a (put 9 s (put 0 o 0x90000000))))) = a := ofNat_fld (fld_put_below (by decide) (by decide) f18)
  have h4 : BitVec.ofNat 3 (fld 11 9 (put 19 d (put 12 a (put 9 s (put 0 o 0x90000000))))) = s := ofNat_fld (fld_put_below (by decide) (by decide) f20)
  have h5 : BitVec.ofNat 7 (fld 6 0 (put 19 d (put 12 a (put 9 s (put 0 o 0x90000000))))) = o := ofNat_fld (fld_put_below (by decide) (by decide) f23)
  rw [decodeWord_24 h0]
  simp [decodeOp24, h1, h2, h3, h4, h5]

theorem Sys2Proof.Laws.Encodes.ldu (d : BitVec 7) (a : BitVec 7) (s : BitVec 3) (p : BitVec 2) (o : BitVec 7) :
    Sys2Proof.Laws.Encodes.Statement (.ldu d a s p o) := by
  rintro w ⟨⟩
  have f0 : fld 6 0 0x94000000 = 0 := rfl
  have f1 : fld 8 7 0x94000000 = 0 := rfl
  have f2 : fld 8 7 (put 0 o 0x94000000) = 0 := fld_put_above (by decide) (by decide) f0 f1
  have f3 : fld 11 9 0x94000000 = 0 := rfl
  have f4 : fld 11 9 (put 0 o 0x94000000) = 0 := fld_put_above (by decide) (by decide) f0 f3
  have f5 : fld 11 9 (put 7 p (put 0 o 0x94000000)) = 0 := fld_put_above (by decide) (by decide) f2 f4
  have f6 : fld 18 12 0x94000000 = 0 := rfl
  have f7 : fld 18 12 (put 0 o 0x94000000) = 0 := fld_put_above (by decide) (by decide) f0 f6
  have f8 : fld 18 12 (put 7 p (put 0 o 0x94000000)) = 0 := fld_put_above (by decide) (by decide) f2 f7
  have f9 : fld 18 12 (put 9 s (put 7 p (put 0 o 0x94000000))) = 0 := fld_put_above (by decide) (by decide) f5 f8
  have f10 : fld 25 19 0x94000000 = 0 := rfl
  have f11 : fld 25 19 (put 0 o 0x94000000) = 0 := fld_put_above (by decide) (by decide) f0 f10
  have f12 : fld 25 19 (put 7 p (put 0 o 0x94000000)) = 0 := fld_put_above (by decide) (by decide) f2 f11
  have f13 : fld 25 19 (put 9 s (put 7 p (put 0 o 0x94000000))) = 0 := fld_put_above (by decide) (by decide) f5 f12
  have f14 : fld 25 19 (put 12 a (put 9 s (put 7 p (put 0 o 0x94000000)))) = 0 := fld_put_above (by decide) (by decide) f9 f13
  have f15 : fld 31 26 0x94000000 = 37 := rfl
  have f16 : fld 31 26 (put 0 o 0x94000000) = 37 := fld_put_above (by decide) (by decide) f0 f15
  have f17 : fld 31 26 (put 7 p (put 0 o 0x94000000)) = 37 := fld_put_above (by decide) (by decide) f2 f16
  have f18 : fld 31 26 (put 9 s (put 7 p (put 0 o 0x94000000))) = 37 := fld_put_above (by decide) (by decide) f5 f17
  have f19 : fld 31 26 (put 12 a (put 9 s (put 7 p (put 0 o 0x94000000)))) = 37 := fld_put_above (by decide) (by decide) f9 f18
  have f20 : fld 18 12 (put 12 a (put 9 s (put 7 p (put 0 o 0x94000000)))) = a.toNat := fld_put_eq rfl f9
  have f21 : fld 11 9 (put 9 s (put 7 p (put 0 o 0x94000000))) = s.toNat := fld_put_eq rfl f5
  have f22 : fld 11 9 (put 12 a (put 9 s (put 7 p (put 0 o 0x94000000)))) = s.toNat := fld_put_below (by decide) (by decide) f21
  have f23 : fld 8 7 (put 7 p (put 0 o 0x94000000)) = p.toNat := fld_put_eq rfl f2
  have f24 : fld 8 7 (put 9 s (put 7 p (put 0 o 0x94000000))) = p.toNat := fld_put_below (by decide) (by decide) f23
  have f25 : fld 8 7 (put 12 a (put 9 s (put 7 p (put 0 o 0x94000000)))) = p.toNat := fld_put_below (by decide) (by decide) f24
  have f26 : fld 6 0 (put 0 o 0x94000000) = o.toNat := fld_put_eq rfl f0
  have f27 : fld 6 0 (put 7 p (put 0 o 0x94000000)) = o.toNat := fld_put_below (by decide) (by decide) f26
  have f28 : fld 6 0 (put 9 s (put 7 p (put 0 o 0x94000000))) = o.toNat := fld_put_below (by decide) (by decide) f27
  have f29 : fld 6 0 (put 12 a (put 9 s (put 7 p (put 0 o 0x94000000)))) = o.toNat := fld_put_below (by decide) (by decide) f28
  have h0 : fld 31 26 (put 19 d (put 12 a (put 9 s (put 7 p (put 0 o 0x94000000))))) = 37 := fld_put_above (by decide) (by decide) f14 f19
  have h1 : BitVec.ofNat 7 (fld 25 19 (put 19 d (put 12 a (put 9 s (put 7 p (put 0 o 0x94000000)))))) = d := ofNat_fld (fld_put_eq rfl f14)
  have h2 : BitVec.ofNat 7 (fld 18 12 (put 19 d (put 12 a (put 9 s (put 7 p (put 0 o 0x94000000)))))) = a := ofNat_fld (fld_put_below (by decide) (by decide) f20)
  have h3 : BitVec.ofNat 3 (fld 11 9 (put 19 d (put 12 a (put 9 s (put 7 p (put 0 o 0x94000000)))))) = s := ofNat_fld (fld_put_below (by decide) (by decide) f22)
  have h4 : BitVec.ofNat 2 (fld 8 7 (put 19 d (put 12 a (put 9 s (put 7 p (put 0 o 0x94000000)))))) = p := ofNat_fld (fld_put_below (by decide) (by decide) f25)
  have h5 : BitVec.ofNat 7 (fld 6 0 (put 19 d (put 12 a (put 9 s (put 7 p (put 0 o 0x94000000)))))) = o := ofNat_fld (fld_put_below (by decide) (by decide) f29)
  rw [decodeWord_25 h0]
  simp [decodeOp25, h1, h2, h3, h4, h5]

theorem Sys2Proof.Laws.Encodes.stu (d : BitVec 7) (a : BitVec 7) (s : BitVec 3) (p : BitVec 2) (o : BitVec 7) :
    Sys2Proof.Laws.Encodes.Statement (.stu d a s p o) := by
  rintro w ⟨⟩
  have f0 : fld 6 0 0x98000000 = 0 := rfl
  have f1 : fld 8 7 0x98000000 = 0 := rfl
  have f2 : fld 8 7 (put 0 o 0x98000000) = 0 := fld_put_above (by decide) (by decide) f0 f1
  have f3 : fld 11 9 0x98000000 = 0 := rfl
  have f4 : fld 11 9 (put 0 o 0x98000000) = 0 := fld_put_above (by decide) (by decide) f0 f3
  have f5 : fld 11 9 (put 7 p (put 0 o 0x98000000)) = 0 := fld_put_above (by decide) (by decide) f2 f4
  have f6 : fld 18 12 0x98000000 = 0 := rfl
  have f7 : fld 18 12 (put 0 o 0x98000000) = 0 := fld_put_above (by decide) (by decide) f0 f6
  have f8 : fld 18 12 (put 7 p (put 0 o 0x98000000)) = 0 := fld_put_above (by decide) (by decide) f2 f7
  have f9 : fld 18 12 (put 9 s (put 7 p (put 0 o 0x98000000))) = 0 := fld_put_above (by decide) (by decide) f5 f8
  have f10 : fld 25 19 0x98000000 = 0 := rfl
  have f11 : fld 25 19 (put 0 o 0x98000000) = 0 := fld_put_above (by decide) (by decide) f0 f10
  have f12 : fld 25 19 (put 7 p (put 0 o 0x98000000)) = 0 := fld_put_above (by decide) (by decide) f2 f11
  have f13 : fld 25 19 (put 9 s (put 7 p (put 0 o 0x98000000))) = 0 := fld_put_above (by decide) (by decide) f5 f12
  have f14 : fld 25 19 (put 12 a (put 9 s (put 7 p (put 0 o 0x98000000)))) = 0 := fld_put_above (by decide) (by decide) f9 f13
  have f15 : fld 31 26 0x98000000 = 38 := rfl
  have f16 : fld 31 26 (put 0 o 0x98000000) = 38 := fld_put_above (by decide) (by decide) f0 f15
  have f17 : fld 31 26 (put 7 p (put 0 o 0x98000000)) = 38 := fld_put_above (by decide) (by decide) f2 f16
  have f18 : fld 31 26 (put 9 s (put 7 p (put 0 o 0x98000000))) = 38 := fld_put_above (by decide) (by decide) f5 f17
  have f19 : fld 31 26 (put 12 a (put 9 s (put 7 p (put 0 o 0x98000000)))) = 38 := fld_put_above (by decide) (by decide) f9 f18
  have f20 : fld 18 12 (put 12 a (put 9 s (put 7 p (put 0 o 0x98000000)))) = a.toNat := fld_put_eq rfl f9
  have f21 : fld 11 9 (put 9 s (put 7 p (put 0 o 0x98000000))) = s.toNat := fld_put_eq rfl f5
  have f22 : fld 11 9 (put 12 a (put 9 s (put 7 p (put 0 o 0x98000000)))) = s.toNat := fld_put_below (by decide) (by decide) f21
  have f23 : fld 8 7 (put 7 p (put 0 o 0x98000000)) = p.toNat := fld_put_eq rfl f2
  have f24 : fld 8 7 (put 9 s (put 7 p (put 0 o 0x98000000))) = p.toNat := fld_put_below (by decide) (by decide) f23
  have f25 : fld 8 7 (put 12 a (put 9 s (put 7 p (put 0 o 0x98000000)))) = p.toNat := fld_put_below (by decide) (by decide) f24
  have f26 : fld 6 0 (put 0 o 0x98000000) = o.toNat := fld_put_eq rfl f0
  have f27 : fld 6 0 (put 7 p (put 0 o 0x98000000)) = o.toNat := fld_put_below (by decide) (by decide) f26
  have f28 : fld 6 0 (put 9 s (put 7 p (put 0 o 0x98000000))) = o.toNat := fld_put_below (by decide) (by decide) f27
  have f29 : fld 6 0 (put 12 a (put 9 s (put 7 p (put 0 o 0x98000000)))) = o.toNat := fld_put_below (by decide) (by decide) f28
  have h0 : fld 31 26 (put 19 d (put 12 a (put 9 s (put 7 p (put 0 o 0x98000000))))) = 38 := fld_put_above (by decide) (by decide) f14 f19
  have h1 : BitVec.ofNat 7 (fld 25 19 (put 19 d (put 12 a (put 9 s (put 7 p (put 0 o 0x98000000)))))) = d := ofNat_fld (fld_put_eq rfl f14)
  have h2 : BitVec.ofNat 7 (fld 18 12 (put 19 d (put 12 a (put 9 s (put 7 p (put 0 o 0x98000000)))))) = a := ofNat_fld (fld_put_below (by decide) (by decide) f20)
  have h3 : BitVec.ofNat 3 (fld 11 9 (put 19 d (put 12 a (put 9 s (put 7 p (put 0 o 0x98000000)))))) = s := ofNat_fld (fld_put_below (by decide) (by decide) f22)
  have h4 : BitVec.ofNat 2 (fld 8 7 (put 19 d (put 12 a (put 9 s (put 7 p (put 0 o 0x98000000)))))) = p := ofNat_fld (fld_put_below (by decide) (by decide) f25)
  have h5 : BitVec.ofNat 7 (fld 6 0 (put 19 d (put 12 a (put 9 s (put 7 p (put 0 o 0x98000000)))))) = o := ofNat_fld (fld_put_below (by decide) (by decide) f29)
  rw [decodeWord_26 h0]
  simp [decodeOp26, h1, h2, h3, h4, h5]

theorem Sys2Proof.Laws.Encodes.atomW (d : BitVec 7) (a : BitVec 7) (b : BitVec 7) (o : BitVec 4) (r : BitVec 1) :
    Sys2Proof.Laws.Encodes.Statement (.atomW d a b o r) := by
  rintro w ⟨⟩
  have f0 : fld 0 0 0x9C000000 = 0 := rfl
  have f1 : fld 4 1 0x9C000000 = 0 := rfl
  have f2 : fld 4 1 (put 0 r 0x9C000000) = 0 := fld_put_above (by decide) (by decide) f0 f1
  have f3 : fld 11 5 0x9C000000 = 0 := rfl
  have f4 : fld 11 5 (put 0 r 0x9C000000) = 0 := fld_put_above (by decide) (by decide) f0 f3
  have f5 : fld 11 5 (put 1 o (put 0 r 0x9C000000)) = 0 := fld_put_above (by decide) (by decide) f2 f4
  have f6 : fld 18 12 0x9C000000 = 0 := rfl
  have f7 : fld 18 12 (put 0 r 0x9C000000) = 0 := fld_put_above (by decide) (by decide) f0 f6
  have f8 : fld 18 12 (put 1 o (put 0 r 0x9C000000)) = 0 := fld_put_above (by decide) (by decide) f2 f7
  have f9 : fld 18 12 (put 5 b (put 1 o (put 0 r 0x9C000000))) = 0 := fld_put_above (by decide) (by decide) f5 f8
  have f10 : fld 25 19 0x9C000000 = 0 := rfl
  have f11 : fld 25 19 (put 0 r 0x9C000000) = 0 := fld_put_above (by decide) (by decide) f0 f10
  have f12 : fld 25 19 (put 1 o (put 0 r 0x9C000000)) = 0 := fld_put_above (by decide) (by decide) f2 f11
  have f13 : fld 25 19 (put 5 b (put 1 o (put 0 r 0x9C000000))) = 0 := fld_put_above (by decide) (by decide) f5 f12
  have f14 : fld 25 19 (put 12 a (put 5 b (put 1 o (put 0 r 0x9C000000)))) = 0 := fld_put_above (by decide) (by decide) f9 f13
  have f15 : fld 31 26 0x9C000000 = 39 := rfl
  have f16 : fld 31 26 (put 0 r 0x9C000000) = 39 := fld_put_above (by decide) (by decide) f0 f15
  have f17 : fld 31 26 (put 1 o (put 0 r 0x9C000000)) = 39 := fld_put_above (by decide) (by decide) f2 f16
  have f18 : fld 31 26 (put 5 b (put 1 o (put 0 r 0x9C000000))) = 39 := fld_put_above (by decide) (by decide) f5 f17
  have f19 : fld 31 26 (put 12 a (put 5 b (put 1 o (put 0 r 0x9C000000)))) = 39 := fld_put_above (by decide) (by decide) f9 f18
  have f20 : fld 18 12 (put 12 a (put 5 b (put 1 o (put 0 r 0x9C000000)))) = a.toNat := fld_put_eq rfl f9
  have f21 : fld 11 5 (put 5 b (put 1 o (put 0 r 0x9C000000))) = b.toNat := fld_put_eq rfl f5
  have f22 : fld 11 5 (put 12 a (put 5 b (put 1 o (put 0 r 0x9C000000)))) = b.toNat := fld_put_below (by decide) (by decide) f21
  have f23 : fld 4 1 (put 1 o (put 0 r 0x9C000000)) = o.toNat := fld_put_eq rfl f2
  have f24 : fld 4 1 (put 5 b (put 1 o (put 0 r 0x9C000000))) = o.toNat := fld_put_below (by decide) (by decide) f23
  have f25 : fld 4 1 (put 12 a (put 5 b (put 1 o (put 0 r 0x9C000000)))) = o.toNat := fld_put_below (by decide) (by decide) f24
  have f26 : fld 0 0 (put 0 r 0x9C000000) = r.toNat := fld_put_eq rfl f0
  have f27 : fld 0 0 (put 1 o (put 0 r 0x9C000000)) = r.toNat := fld_put_below (by decide) (by decide) f26
  have f28 : fld 0 0 (put 5 b (put 1 o (put 0 r 0x9C000000))) = r.toNat := fld_put_below (by decide) (by decide) f27
  have f29 : fld 0 0 (put 12 a (put 5 b (put 1 o (put 0 r 0x9C000000)))) = r.toNat := fld_put_below (by decide) (by decide) f28
  have h0 : fld 31 26 (put 19 d (put 12 a (put 5 b (put 1 o (put 0 r 0x9C000000))))) = 39 := fld_put_above (by decide) (by decide) f14 f19
  have h1 : BitVec.ofNat 7 (fld 25 19 (put 19 d (put 12 a (put 5 b (put 1 o (put 0 r 0x9C000000)))))) = d := ofNat_fld (fld_put_eq rfl f14)
  have h2 : BitVec.ofNat 7 (fld 18 12 (put 19 d (put 12 a (put 5 b (put 1 o (put 0 r 0x9C000000)))))) = a := ofNat_fld (fld_put_below (by decide) (by decide) f20)
  have h3 : BitVec.ofNat 7 (fld 11 5 (put 19 d (put 12 a (put 5 b (put 1 o (put 0 r 0x9C000000)))))) = b := ofNat_fld (fld_put_below (by decide) (by decide) f22)
  have h4 : BitVec.ofNat 4 (fld 4 1 (put 19 d (put 12 a (put 5 b (put 1 o (put 0 r 0x9C000000)))))) = o := ofNat_fld (fld_put_below (by decide) (by decide) f25)
  have h5 : BitVec.ofNat 1 (fld 0 0 (put 19 d (put 12 a (put 5 b (put 1 o (put 0 r 0x9C000000)))))) = r := ofNat_fld (fld_put_below (by decide) (by decide) f29)
  rw [decodeWord_27 h0]
  simp [decodeOp27, h1, h2, h3, h4, h5]

theorem Sys2Proof.Laws.Encodes.atomD (d : BitVec 7) (a : BitVec 7) (b : BitVec 7) (o : BitVec 4) (r : BitVec 1) :
    Sys2Proof.Laws.Encodes.Statement (.atomD d a b o r) := by
  rintro w ⟨⟩
  have f0 : fld 0 0 0xA0000000 = 0 := rfl
  have f1 : fld 4 1 0xA0000000 = 0 := rfl
  have f2 : fld 4 1 (put 0 r 0xA0000000) = 0 := fld_put_above (by decide) (by decide) f0 f1
  have f3 : fld 11 5 0xA0000000 = 0 := rfl
  have f4 : fld 11 5 (put 0 r 0xA0000000) = 0 := fld_put_above (by decide) (by decide) f0 f3
  have f5 : fld 11 5 (put 1 o (put 0 r 0xA0000000)) = 0 := fld_put_above (by decide) (by decide) f2 f4
  have f6 : fld 18 12 0xA0000000 = 0 := rfl
  have f7 : fld 18 12 (put 0 r 0xA0000000) = 0 := fld_put_above (by decide) (by decide) f0 f6
  have f8 : fld 18 12 (put 1 o (put 0 r 0xA0000000)) = 0 := fld_put_above (by decide) (by decide) f2 f7
  have f9 : fld 18 12 (put 5 b (put 1 o (put 0 r 0xA0000000))) = 0 := fld_put_above (by decide) (by decide) f5 f8
  have f10 : fld 25 19 0xA0000000 = 0 := rfl
  have f11 : fld 25 19 (put 0 r 0xA0000000) = 0 := fld_put_above (by decide) (by decide) f0 f10
  have f12 : fld 25 19 (put 1 o (put 0 r 0xA0000000)) = 0 := fld_put_above (by decide) (by decide) f2 f11
  have f13 : fld 25 19 (put 5 b (put 1 o (put 0 r 0xA0000000))) = 0 := fld_put_above (by decide) (by decide) f5 f12
  have f14 : fld 25 19 (put 12 a (put 5 b (put 1 o (put 0 r 0xA0000000)))) = 0 := fld_put_above (by decide) (by decide) f9 f13
  have f15 : fld 31 26 0xA0000000 = 40 := rfl
  have f16 : fld 31 26 (put 0 r 0xA0000000) = 40 := fld_put_above (by decide) (by decide) f0 f15
  have f17 : fld 31 26 (put 1 o (put 0 r 0xA0000000)) = 40 := fld_put_above (by decide) (by decide) f2 f16
  have f18 : fld 31 26 (put 5 b (put 1 o (put 0 r 0xA0000000))) = 40 := fld_put_above (by decide) (by decide) f5 f17
  have f19 : fld 31 26 (put 12 a (put 5 b (put 1 o (put 0 r 0xA0000000)))) = 40 := fld_put_above (by decide) (by decide) f9 f18
  have f20 : fld 18 12 (put 12 a (put 5 b (put 1 o (put 0 r 0xA0000000)))) = a.toNat := fld_put_eq rfl f9
  have f21 : fld 11 5 (put 5 b (put 1 o (put 0 r 0xA0000000))) = b.toNat := fld_put_eq rfl f5
  have f22 : fld 11 5 (put 12 a (put 5 b (put 1 o (put 0 r 0xA0000000)))) = b.toNat := fld_put_below (by decide) (by decide) f21
  have f23 : fld 4 1 (put 1 o (put 0 r 0xA0000000)) = o.toNat := fld_put_eq rfl f2
  have f24 : fld 4 1 (put 5 b (put 1 o (put 0 r 0xA0000000))) = o.toNat := fld_put_below (by decide) (by decide) f23
  have f25 : fld 4 1 (put 12 a (put 5 b (put 1 o (put 0 r 0xA0000000)))) = o.toNat := fld_put_below (by decide) (by decide) f24
  have f26 : fld 0 0 (put 0 r 0xA0000000) = r.toNat := fld_put_eq rfl f0
  have f27 : fld 0 0 (put 1 o (put 0 r 0xA0000000)) = r.toNat := fld_put_below (by decide) (by decide) f26
  have f28 : fld 0 0 (put 5 b (put 1 o (put 0 r 0xA0000000))) = r.toNat := fld_put_below (by decide) (by decide) f27
  have f29 : fld 0 0 (put 12 a (put 5 b (put 1 o (put 0 r 0xA0000000)))) = r.toNat := fld_put_below (by decide) (by decide) f28
  have h0 : fld 31 26 (put 19 d (put 12 a (put 5 b (put 1 o (put 0 r 0xA0000000))))) = 40 := fld_put_above (by decide) (by decide) f14 f19
  have h1 : BitVec.ofNat 7 (fld 25 19 (put 19 d (put 12 a (put 5 b (put 1 o (put 0 r 0xA0000000)))))) = d := ofNat_fld (fld_put_eq rfl f14)
  have h2 : BitVec.ofNat 7 (fld 18 12 (put 19 d (put 12 a (put 5 b (put 1 o (put 0 r 0xA0000000)))))) = a := ofNat_fld (fld_put_below (by decide) (by decide) f20)
  have h3 : BitVec.ofNat 7 (fld 11 5 (put 19 d (put 12 a (put 5 b (put 1 o (put 0 r 0xA0000000)))))) = b := ofNat_fld (fld_put_below (by decide) (by decide) f22)
  have h4 : BitVec.ofNat 4 (fld 4 1 (put 19 d (put 12 a (put 5 b (put 1 o (put 0 r 0xA0000000)))))) = o := ofNat_fld (fld_put_below (by decide) (by decide) f25)
  have h5 : BitVec.ofNat 1 (fld 0 0 (put 19 d (put 12 a (put 5 b (put 1 o (put 0 r 0xA0000000)))))) = r := ofNat_fld (fld_put_below (by decide) (by decide) f29)
  rw [decodeWord_28 h0]
  simp [decodeOp28, h1, h2, h3, h4, h5]

theorem Sys2Proof.Laws.Encodes.mcas (d : BitVec 7) (a : BitVec 7) :
    Sys2Proof.Laws.Encodes.Statement (.mcas d a) := by
  rintro w ⟨⟩
  have f0 : fld 18 12 0xA4000000 = 0 := rfl
  have f1 : fld 25 19 0xA4000000 = 0 := rfl
  have f2 : fld 25 19 (put 12 a 0xA4000000) = 0 := fld_put_above (by decide) (by decide) f0 f1
  have f3 : fld 31 26 0xA4000000 = 41 := rfl
  have f4 : fld 31 26 (put 12 a 0xA4000000) = 41 := fld_put_above (by decide) (by decide) f0 f3
  have f5 : fld 1 0 0xA4000000 = 0 := rfl
  have f6 : fld 1 0 (put 12 a 0xA4000000) = 0 := fld_put_below (by decide) (by decide) f5
  have f7 : fld 11 2 0xA4000000 = 0 := rfl
  have f8 : fld 11 2 (put 12 a 0xA4000000) = 0 := fld_put_below (by decide) (by decide) f7
  have f9 : fld 18 12 (put 12 a 0xA4000000) = a.toNat := fld_put_eq rfl f0
  have h0 : fld 31 26 (put 19 d (put 12 a 0xA4000000)) = 41 := fld_put_above (by decide) (by decide) f2 f4
  have h1 : fld 1 0 (put 19 d (put 12 a 0xA4000000)) = 0 := fld_put_below (by decide) (by decide) f6
  have h2 : fld 11 2 (put 19 d (put 12 a 0xA4000000)) = 0 := fld_put_below (by decide) (by decide) f8
  have h4 : BitVec.ofNat 7 (fld 25 19 (put 19 d (put 12 a 0xA4000000))) = d := ofNat_fld (fld_put_eq rfl f2)
  have h5 : BitVec.ofNat 7 (fld 18 12 (put 19 d (put 12 a 0xA4000000))) = a := ofNat_fld (fld_put_below (by decide) (by decide) f9)
  rw [decodeWord_29 h0]
  simp [decodeOp29, h1, h2, h4, h5]

theorem Sys2Proof.Laws.Encodes.waitcmp (d : BitVec 7) (a : BitVec 7) (b : BitVec 7) (c : BitVec 3) :
    Sys2Proof.Laws.Encodes.Statement (.waitcmp d a b c) := by
  rintro w ⟨⟩
  have f0 : fld 4 2 0xA4000001 = 0 := rfl
  have f1 : fld 11 5 0xA4000001 = 0 := rfl
  have f2 : fld 11 5 (put 2 c 0xA4000001) = 0 := fld_put_above (by decide) (by decide) f0 f1
  have f3 : fld 18 12 0xA4000001 = 0 := rfl
  have f4 : fld 18 12 (put 2 c 0xA4000001) = 0 := fld_put_above (by decide) (by decide) f0 f3
  have f5 : fld 18 12 (put 5 b (put 2 c 0xA4000001)) = 0 := fld_put_above (by decide) (by decide) f2 f4
  have f6 : fld 25 19 0xA4000001 = 0 := rfl
  have f7 : fld 25 19 (put 2 c 0xA4000001) = 0 := fld_put_above (by decide) (by decide) f0 f6
  have f8 : fld 25 19 (put 5 b (put 2 c 0xA4000001)) = 0 := fld_put_above (by decide) (by decide) f2 f7
  have f9 : fld 25 19 (put 12 a (put 5 b (put 2 c 0xA4000001))) = 0 := fld_put_above (by decide) (by decide) f5 f8
  have f10 : fld 31 26 0xA4000001 = 41 := rfl
  have f11 : fld 31 26 (put 2 c 0xA4000001) = 41 := fld_put_above (by decide) (by decide) f0 f10
  have f12 : fld 31 26 (put 5 b (put 2 c 0xA4000001)) = 41 := fld_put_above (by decide) (by decide) f2 f11
  have f13 : fld 31 26 (put 12 a (put 5 b (put 2 c 0xA4000001))) = 41 := fld_put_above (by decide) (by decide) f5 f12
  have f14 : fld 1 0 0xA4000001 = 1 := rfl
  have f15 : fld 1 0 (put 2 c 0xA4000001) = 1 := fld_put_below (by decide) (by decide) f14
  have f16 : fld 1 0 (put 5 b (put 2 c 0xA4000001)) = 1 := fld_put_below (by decide) (by decide) f15
  have f17 : fld 1 0 (put 12 a (put 5 b (put 2 c 0xA4000001))) = 1 := fld_put_below (by decide) (by decide) f16
  have f18 : fld 18 12 (put 12 a (put 5 b (put 2 c 0xA4000001))) = a.toNat := fld_put_eq rfl f5
  have f19 : fld 11 5 (put 5 b (put 2 c 0xA4000001)) = b.toNat := fld_put_eq rfl f2
  have f20 : fld 11 5 (put 12 a (put 5 b (put 2 c 0xA4000001))) = b.toNat := fld_put_below (by decide) (by decide) f19
  have f21 : fld 4 2 (put 2 c 0xA4000001) = c.toNat := fld_put_eq rfl f0
  have f22 : fld 4 2 (put 5 b (put 2 c 0xA4000001)) = c.toNat := fld_put_below (by decide) (by decide) f21
  have f23 : fld 4 2 (put 12 a (put 5 b (put 2 c 0xA4000001))) = c.toNat := fld_put_below (by decide) (by decide) f22
  have h0 : fld 31 26 (put 19 d (put 12 a (put 5 b (put 2 c 0xA4000001)))) = 41 := fld_put_above (by decide) (by decide) f9 f13
  have h1 : fld 1 0 (put 19 d (put 12 a (put 5 b (put 2 c 0xA4000001)))) = 1 := fld_put_below (by decide) (by decide) f17
  have h2 : BitVec.ofNat 7 (fld 25 19 (put 19 d (put 12 a (put 5 b (put 2 c 0xA4000001))))) = d := ofNat_fld (fld_put_eq rfl f9)
  have h3 : BitVec.ofNat 7 (fld 18 12 (put 19 d (put 12 a (put 5 b (put 2 c 0xA4000001))))) = a := ofNat_fld (fld_put_below (by decide) (by decide) f18)
  have h4 : BitVec.ofNat 7 (fld 11 5 (put 19 d (put 12 a (put 5 b (put 2 c 0xA4000001))))) = b := ofNat_fld (fld_put_below (by decide) (by decide) f20)
  have h5 : BitVec.ofNat 3 (fld 4 2 (put 19 d (put 12 a (put 5 b (put 2 c 0xA4000001))))) = c := ofNat_fld (fld_put_below (by decide) (by decide) f23)
  rw [decodeWord_29 h0]
  simp [decodeOp29, h1, h2, h3, h4, h5]

theorem Sys2Proof.Laws.Encodes.fence (k : BitVec 1) :
    Sys2Proof.Laws.Encodes.Statement (.fence k) := by
  rintro w ⟨⟩
  have f0 : fld 2 2 0xA4000002 = 0 := rfl
  have f1 : fld 31 26 0xA4000002 = 41 := rfl
  have f2 : fld 1 0 0xA4000002 = 2 := rfl
  have f3 : fld 25 3 0xA4000002 = 0 := rfl
  have h0 : fld 31 26 (put 2 k 0xA4000002) = 41 := fld_put_above (by decide) (by decide) f0 f1
  have h1 : fld 1 0 (put 2 k 0xA4000002) = 2 := fld_put_below (by decide) (by decide) f2
  have h3 : fld 25 3 (put 2 k 0xA4000002) = 0 := fld_put_above (by decide) (by decide) f0 f3
  have h5 : BitVec.ofNat 1 (fld 2 2 (put 2 k 0xA4000002)) = k := ofNat_fld (fld_put_eq rfl f0)
  rw [decodeWord_29 h0]
  simp [decodeOp29, h1, h3, h5]

theorem Sys2Proof.Laws.Encodes.cmnt (a : BitVec 7) (k : BitVec 3) :
    Sys2Proof.Laws.Encodes.Statement (.cmnt a k) := by
  rintro w ⟨⟩
  have f0 : fld 4 2 0xA4000003 = 0 := rfl
  have f1 : fld 18 12 0xA4000003 = 0 := rfl
  have f2 : fld 18 12 (put 2 k 0xA4000003) = 0 := fld_put_above (by decide) (by decide) f0 f1
  have f3 : fld 31 26 0xA4000003 = 41 := rfl
  have f4 : fld 31 26 (put 2 k 0xA4000003) = 41 := fld_put_above (by decide) (by decide) f0 f3
  have f5 : fld 1 0 0xA4000003 = 3 := rfl
  have f6 : fld 1 0 (put 2 k 0xA4000003) = 3 := fld_put_below (by decide) (by decide) f5
  have f7 : fld 11 5 0xA4000003 = 0 := rfl
  have f8 : fld 11 5 (put 2 k 0xA4000003) = 0 := fld_put_above (by decide) (by decide) f0 f7
  have f9 : fld 25 19 0xA4000003 = 0 := rfl
  have f10 : fld 25 19 (put 2 k 0xA4000003) = 0 := fld_put_above (by decide) (by decide) f0 f9
  have f11 : fld 4 2 (put 2 k 0xA4000003) = k.toNat := fld_put_eq rfl f0
  have h0 : fld 31 26 (put 12 a (put 2 k 0xA4000003)) = 41 := fld_put_above (by decide) (by decide) f2 f4
  have h1 : fld 1 0 (put 12 a (put 2 k 0xA4000003)) = 3 := fld_put_below (by decide) (by decide) f6
  have h2 : fld 11 5 (put 12 a (put 2 k 0xA4000003)) = 0 := fld_put_below (by decide) (by decide) f8
  have h3 : fld 25 19 (put 12 a (put 2 k 0xA4000003)) = 0 := fld_put_above (by decide) (by decide) f2 f10
  have h4 : BitVec.ofNat 7 (fld 18 12 (put 12 a (put 2 k 0xA4000003))) = a := ofNat_fld (fld_put_eq rfl f2)
  have h5 : BitVec.ofNat 3 (fld 4 2 (put 12 a (put 2 k 0xA4000003))) = k := ofNat_fld (fld_put_below (by decide) (by decide) f11)
  rw [decodeWord_29 h0]
  simp [decodeOp29, h1, h2, h3, h4, h5]

theorem Sys2Proof.Laws.Encodes.qpush (q : BitVec 4) (f : BitVec 3) (a : BitVec 7) (b : BitVec 7) :
    Sys2Proof.Laws.Encodes.Statement (.qpush q f a b) := by
  rintro w ⟨⟩
  have f0 : fld 8 2 0xAC000000 = 0 := rfl
  have f1 : fld 15 9 0xAC000000 = 0 := rfl
  have f2 : fld 15 9 (put 2 b 0xAC000000) = 0 := fld_put_above (by decide) (by decide) f0 f1
  have f3 : fld 21 19 0xAC000000 = 0 := rfl
  have f4 : fld 21 19 (put 2 b 0xAC000000) = 0 := fld_put_above (by decide) (by decide) f0 f3
  have f5 : fld 21 19 (put 9 a (put 2 b 0xAC000000)) = 0 := fld_put_above (by decide) (by decide) f2 f4
  have f6 : fld 25 22 0xAC000000 = 0 := rfl
  have f7 : fld 25 22 (put 2 b 0xAC000000) = 0 := fld_put_above (by decide) (by decide) f0 f6
  have f8 : fld 25 22 (put 9 a (put 2 b 0xAC000000)) = 0 := fld_put_above (by decide) (by decide) f2 f7
  have f9 : fld 25 22 (put 19 f (put 9 a (put 2 b 0xAC000000))) = 0 := fld_put_above (by decide) (by decide) f5 f8
  have f10 : fld 31 26 0xAC000000 = 43 := rfl
  have f11 : fld 31 26 (put 2 b 0xAC000000) = 43 := fld_put_above (by decide) (by decide) f0 f10
  have f12 : fld 31 26 (put 9 a (put 2 b 0xAC000000)) = 43 := fld_put_above (by decide) (by decide) f2 f11
  have f13 : fld 31 26 (put 19 f (put 9 a (put 2 b 0xAC000000))) = 43 := fld_put_above (by decide) (by decide) f5 f12
  have f14 : fld 1 0 0xAC000000 = 0 := rfl
  have f15 : fld 1 0 (put 2 b 0xAC000000) = 0 := fld_put_below (by decide) (by decide) f14
  have f16 : fld 1 0 (put 9 a (put 2 b 0xAC000000)) = 0 := fld_put_below (by decide) (by decide) f15
  have f17 : fld 1 0 (put 19 f (put 9 a (put 2 b 0xAC000000))) = 0 := fld_put_below (by decide) (by decide) f16
  have f18 : fld 18 16 0xAC000000 = 0 := rfl
  have f19 : fld 18 16 (put 2 b 0xAC000000) = 0 := fld_put_above (by decide) (by decide) f0 f18
  have f20 : fld 18 16 (put 9 a (put 2 b 0xAC000000)) = 0 := fld_put_above (by decide) (by decide) f2 f19
  have f21 : fld 18 16 (put 19 f (put 9 a (put 2 b 0xAC000000))) = 0 := fld_put_below (by decide) (by decide) f20
  have f22 : fld 21 19 (put 19 f (put 9 a (put 2 b 0xAC000000))) = f.toNat := fld_put_eq rfl f5
  have f23 : fld 15 9 (put 9 a (put 2 b 0xAC000000)) = a.toNat := fld_put_eq rfl f2
  have f24 : fld 15 9 (put 19 f (put 9 a (put 2 b 0xAC000000))) = a.toNat := fld_put_below (by decide) (by decide) f23
  have f25 : fld 8 2 (put 2 b 0xAC000000) = b.toNat := fld_put_eq rfl f0
  have f26 : fld 8 2 (put 9 a (put 2 b 0xAC000000)) = b.toNat := fld_put_below (by decide) (by decide) f25
  have f27 : fld 8 2 (put 19 f (put 9 a (put 2 b 0xAC000000))) = b.toNat := fld_put_below (by decide) (by decide) f26
  have h0 : fld 31 26 (put 22 q (put 19 f (put 9 a (put 2 b 0xAC000000)))) = 43 := fld_put_above (by decide) (by decide) f9 f13
  have h1 : fld 1 0 (put 22 q (put 19 f (put 9 a (put 2 b 0xAC000000)))) = 0 := fld_put_below (by decide) (by decide) f17
  have h2 : fld 18 16 (put 22 q (put 19 f (put 9 a (put 2 b 0xAC000000)))) = 0 := fld_put_below (by decide) (by decide) f21
  have h3 : BitVec.ofNat 4 (fld 25 22 (put 22 q (put 19 f (put 9 a (put 2 b 0xAC000000))))) = q := ofNat_fld (fld_put_eq rfl f9)
  have h4 : BitVec.ofNat 3 (fld 21 19 (put 22 q (put 19 f (put 9 a (put 2 b 0xAC000000))))) = f := ofNat_fld (fld_put_below (by decide) (by decide) f22)
  have h5 : BitVec.ofNat 7 (fld 15 9 (put 22 q (put 19 f (put 9 a (put 2 b 0xAC000000))))) = a := ofNat_fld (fld_put_below (by decide) (by decide) f24)
  have h6 : BitVec.ofNat 7 (fld 8 2 (put 22 q (put 19 f (put 9 a (put 2 b 0xAC000000))))) = b := ofNat_fld (fld_put_below (by decide) (by decide) f27)
  rw [decodeWord_2B h0]
  simp [decodeOp2B, h1, h2, h3, h4, h5, h6]

theorem Sys2Proof.Laws.Encodes.qpop (q : BitVec 4) (a : BitVec 7) :
    Sys2Proof.Laws.Encodes.Statement (.qpop q a) := by
  rintro w ⟨⟩
  have f0 : fld 15 9 0xAC000001 = 0 := rfl
  have f1 : fld 25 22 0xAC000001 = 0 := rfl
  have f2 : fld 25 22 (put 9 a 0xAC000001) = 0 := fld_put_above (by decide) (by decide) f0 f1
  have f3 : fld 31 26 0xAC000001 = 43 := rfl
  have f4 : fld 31 26 (put 9 a 0xAC000001) = 43 := fld_put_above (by decide) (by decide) f0 f3
  have f5 : fld 1 0 0xAC000001 = 1 := rfl
  have f6 : fld 1 0 (put 9 a 0xAC000001) = 1 := fld_put_below (by decide) (by decide) f5
  have f7 : fld 8 2 0xAC000001 = 0 := rfl
  have f8 : fld 8 2 (put 9 a 0xAC000001) = 0 := fld_put_below (by decide) (by decide) f7
  have f9 : fld 21 16 0xAC000001 = 0 := rfl
  have f10 : fld 21 16 (put 9 a 0xAC000001) = 0 := fld_put_above (by decide) (by decide) f0 f9
  have f11 : fld 15 9 (put 9 a 0xAC000001) = a.toNat := fld_put_eq rfl f0
  have h0 : fld 31 26 (put 22 q (put 9 a 0xAC000001)) = 43 := fld_put_above (by decide) (by decide) f2 f4
  have h1 : fld 1 0 (put 22 q (put 9 a 0xAC000001)) = 1 := fld_put_below (by decide) (by decide) f6
  have h2 : fld 8 2 (put 22 q (put 9 a 0xAC000001)) = 0 := fld_put_below (by decide) (by decide) f8
  have h4 : fld 21 16 (put 22 q (put 9 a 0xAC000001)) = 0 := fld_put_below (by decide) (by decide) f10
  have h5 : BitVec.ofNat 4 (fld 25 22 (put 22 q (put 9 a 0xAC000001))) = q := ofNat_fld (fld_put_eq rfl f2)
  have h6 : BitVec.ofNat 7 (fld 15 9 (put 22 q (put 9 a 0xAC000001))) = a := ofNat_fld (fld_put_below (by decide) (by decide) f11)
  rw [decodeWord_2B h0]
  simp [decodeOp2B, h1, h2, h4, h5, h6]

theorem Sys2Proof.Laws.Encodes.qpeek (q : BitVec 4) (a : BitVec 7) :
    Sys2Proof.Laws.Encodes.Statement (.qpeek q a) := by
  rintro w ⟨⟩
  have f0 : fld 15 9 0xAC000002 = 0 := rfl
  have f1 : fld 25 22 0xAC000002 = 0 := rfl
  have f2 : fld 25 22 (put 9 a 0xAC000002) = 0 := fld_put_above (by decide) (by decide) f0 f1
  have f3 : fld 31 26 0xAC000002 = 43 := rfl
  have f4 : fld 31 26 (put 9 a 0xAC000002) = 43 := fld_put_above (by decide) (by decide) f0 f3
  have f5 : fld 1 0 0xAC000002 = 2 := rfl
  have f6 : fld 1 0 (put 9 a 0xAC000002) = 2 := fld_put_below (by decide) (by decide) f5
  have f7 : fld 8 2 0xAC000002 = 0 := rfl
  have f8 : fld 8 2 (put 9 a 0xAC000002) = 0 := fld_put_below (by decide) (by decide) f7
  have f9 : fld 21 16 0xAC000002 = 0 := rfl
  have f10 : fld 21 16 (put 9 a 0xAC000002) = 0 := fld_put_above (by decide) (by decide) f0 f9
  have f11 : fld 15 9 (put 9 a 0xAC000002) = a.toNat := fld_put_eq rfl f0
  have h0 : fld 31 26 (put 22 q (put 9 a 0xAC000002)) = 43 := fld_put_above (by decide) (by decide) f2 f4
  have h1 : fld 1 0 (put 22 q (put 9 a 0xAC000002)) = 2 := fld_put_below (by decide) (by decide) f6
  have h2 : fld 8 2 (put 22 q (put 9 a 0xAC000002)) = 0 := fld_put_below (by decide) (by decide) f8
  have h4 : fld 21 16 (put 22 q (put 9 a 0xAC000002)) = 0 := fld_put_below (by decide) (by decide) f10
  have h5 : BitVec.ofNat 4 (fld 25 22 (put 22 q (put 9 a 0xAC000002))) = q := ofNat_fld (fld_put_eq rfl f2)
  have h6 : BitVec.ofNat 7 (fld 15 9 (put 22 q (put 9 a 0xAC000002))) = a := ofNat_fld (fld_put_below (by decide) (by decide) f11)
  rw [decodeWord_2B h0]
  simp [decodeOp2B, h1, h2, h4, h5, h6]

theorem Sys2Proof.Laws.Encodes.qstat (q : BitVec 4) (a : BitVec 7) :
    Sys2Proof.Laws.Encodes.Statement (.qstat q a) := by
  rintro w ⟨⟩
  have f0 : fld 15 9 0xAC000003 = 0 := rfl
  have f1 : fld 25 22 0xAC000003 = 0 := rfl
  have f2 : fld 25 22 (put 9 a 0xAC000003) = 0 := fld_put_above (by decide) (by decide) f0 f1
  have f3 : fld 31 26 0xAC000003 = 43 := rfl
  have f4 : fld 31 26 (put 9 a 0xAC000003) = 43 := fld_put_above (by decide) (by decide) f0 f3
  have f5 : fld 1 0 0xAC000003 = 3 := rfl
  have f6 : fld 1 0 (put 9 a 0xAC000003) = 3 := fld_put_below (by decide) (by decide) f5
  have f7 : fld 8 2 0xAC000003 = 0 := rfl
  have f8 : fld 8 2 (put 9 a 0xAC000003) = 0 := fld_put_below (by decide) (by decide) f7
  have f9 : fld 21 16 0xAC000003 = 0 := rfl
  have f10 : fld 21 16 (put 9 a 0xAC000003) = 0 := fld_put_above (by decide) (by decide) f0 f9
  have f11 : fld 15 9 (put 9 a 0xAC000003) = a.toNat := fld_put_eq rfl f0
  have h0 : fld 31 26 (put 22 q (put 9 a 0xAC000003)) = 43 := fld_put_above (by decide) (by decide) f2 f4
  have h1 : fld 1 0 (put 22 q (put 9 a 0xAC000003)) = 3 := fld_put_below (by decide) (by decide) f6
  have h2 : fld 8 2 (put 22 q (put 9 a 0xAC000003)) = 0 := fld_put_below (by decide) (by decide) f8
  have h4 : fld 21 16 (put 22 q (put 9 a 0xAC000003)) = 0 := fld_put_below (by decide) (by decide) f10
  have h5 : BitVec.ofNat 4 (fld 25 22 (put 22 q (put 9 a 0xAC000003))) = q := ofNat_fld (fld_put_eq rfl f2)
  have h6 : BitVec.ofNat 7 (fld 15 9 (put 22 q (put 9 a 0xAC000003))) = a := ofNat_fld (fld_put_below (by decide) (by decide) f11)
  rw [decodeWord_2B h0]
  simp [decodeOp2B, h1, h2, h4, h5, h6]

theorem Sys2Proof.Laws.Encodes.cpyb (q : BitVec 4) (s : BitVec 3) (a : BitVec 7) (b : BitVec 7) :
    Sys2Proof.Laws.Encodes.Statement (.cpyb q s a b) := by
  rintro w ⟨⟩
  have f0 : fld 8 2 0xB0000000 = 0 := rfl
  have f1 : fld 15 9 0xB0000000 = 0 := rfl
  have f2 : fld 15 9 (put 2 b 0xB0000000) = 0 := fld_put_above (by decide) (by decide) f0 f1
  have f3 : fld 18 16 0xB0000000 = 0 := rfl
  have f4 : fld 18 16 (put 2 b 0xB0000000) = 0 := fld_put_above (by decide) (by decide) f0 f3
  have f5 : fld 18 16 (put 9 a (put 2 b 0xB0000000)) = 0 := fld_put_above (by decide) (by decide) f2 f4
  have f6 : fld 25 22 0xB0000000 = 0 := rfl
  have f7 : fld 25 22 (put 2 b 0xB0000000) = 0 := fld_put_above (by decide) (by decide) f0 f6
  have f8 : fld 25 22 (put 9 a (put 2 b 0xB0000000)) = 0 := fld_put_above (by decide) (by decide) f2 f7
  have f9 : fld 25 22 (put 16 s (put 9 a (put 2 b 0xB0000000))) = 0 := fld_put_above (by decide) (by decide) f5 f8
  have f10 : fld 31 26 0xB0000000 = 44 := rfl
  have f11 : fld 31 26 (put 2 b 0xB0000000) = 44 := fld_put_above (by decide) (by decide) f0 f10
  have f12 : fld 31 26 (put 9 a (put 2 b 0xB0000000)) = 44 := fld_put_above (by decide) (by decide) f2 f11
  have f13 : fld 31 26 (put 16 s (put 9 a (put 2 b 0xB0000000))) = 44 := fld_put_above (by decide) (by decide) f5 f12
  have f14 : fld 1 0 0xB0000000 = 0 := rfl
  have f15 : fld 1 0 (put 2 b 0xB0000000) = 0 := fld_put_below (by decide) (by decide) f14
  have f16 : fld 1 0 (put 9 a (put 2 b 0xB0000000)) = 0 := fld_put_below (by decide) (by decide) f15
  have f17 : fld 1 0 (put 16 s (put 9 a (put 2 b 0xB0000000))) = 0 := fld_put_below (by decide) (by decide) f16
  have f18 : fld 21 19 0xB0000000 = 0 := rfl
  have f19 : fld 21 19 (put 2 b 0xB0000000) = 0 := fld_put_above (by decide) (by decide) f0 f18
  have f20 : fld 21 19 (put 9 a (put 2 b 0xB0000000)) = 0 := fld_put_above (by decide) (by decide) f2 f19
  have f21 : fld 21 19 (put 16 s (put 9 a (put 2 b 0xB0000000))) = 0 := fld_put_above (by decide) (by decide) f5 f20
  have f22 : fld 18 16 (put 16 s (put 9 a (put 2 b 0xB0000000))) = s.toNat := fld_put_eq rfl f5
  have f23 : fld 15 9 (put 9 a (put 2 b 0xB0000000)) = a.toNat := fld_put_eq rfl f2
  have f24 : fld 15 9 (put 16 s (put 9 a (put 2 b 0xB0000000))) = a.toNat := fld_put_below (by decide) (by decide) f23
  have f25 : fld 8 2 (put 2 b 0xB0000000) = b.toNat := fld_put_eq rfl f0
  have f26 : fld 8 2 (put 9 a (put 2 b 0xB0000000)) = b.toNat := fld_put_below (by decide) (by decide) f25
  have f27 : fld 8 2 (put 16 s (put 9 a (put 2 b 0xB0000000))) = b.toNat := fld_put_below (by decide) (by decide) f26
  have h0 : fld 31 26 (put 22 q (put 16 s (put 9 a (put 2 b 0xB0000000)))) = 44 := fld_put_above (by decide) (by decide) f9 f13
  have h1 : fld 1 0 (put 22 q (put 16 s (put 9 a (put 2 b 0xB0000000)))) = 0 := fld_put_below (by decide) (by decide) f17
  have h2 : fld 21 19 (put 22 q (put 16 s (put 9 a (put 2 b 0xB0000000)))) = 0 := fld_put_below (by decide) (by decide) f21
  have h3 : BitVec.ofNat 4 (fld 25 22 (put 22 q (put 16 s (put 9 a (put 2 b 0xB0000000))))) = q := ofNat_fld (fld_put_eq rfl f9)
  have h4 : BitVec.ofNat 3 (fld 18 16 (put 22 q (put 16 s (put 9 a (put 2 b 0xB0000000))))) = s := ofNat_fld (fld_put_below (by decide) (by decide) f22)
  have h5 : BitVec.ofNat 7 (fld 15 9 (put 22 q (put 16 s (put 9 a (put 2 b 0xB0000000))))) = a := ofNat_fld (fld_put_below (by decide) (by decide) f24)
  have h6 : BitVec.ofNat 7 (fld 8 2 (put 22 q (put 16 s (put 9 a (put 2 b 0xB0000000))))) = b := ofNat_fld (fld_put_below (by decide) (by decide) f27)
  rw [decodeWord_2C h0]
  simp [decodeOp2C, h1, h2, h3, h4, h5, h6]

theorem Sys2Proof.Laws.Encodes.cpyt (q : BitVec 4) (f : BitVec 3) (s : BitVec 3) (a : BitVec 7) (b : BitVec 7) :
    Sys2Proof.Laws.Encodes.Statement (.cpyt q f s a b) := by
  rintro w ⟨⟩
  have f0 : fld 8 2 0xB0000001 = 0 := rfl
  have f1 : fld 15 9 0xB0000001 = 0 := rfl
  have f2 : fld 15 9 (put 2 b 0xB0000001) = 0 := fld_put_above (by decide) (by decide) f0 f1
  have f3 : fld 18 16 0xB0000001 = 0 := rfl
  have f4 : fld 18 16 (put 2 b 0xB0000001) = 0 := fld_put_above (by decide) (by decide) f0 f3
  have f5 : fld 18 16 (put 9 a (put 2 b 0xB0000001)) = 0 := fld_put_above (by decide) (by decide) f2 f4
  have f6 : fld 21 19 0xB0000001 = 0 := rfl
  have f7 : fld 21 19 (put 2 b 0xB0000001) = 0 := fld_put_above (by decide) (by decide) f0 f6
  have f8 : fld 21 19 (put 9 a (put 2 b 0xB0000001)) = 0 := fld_put_above (by decide) (by decide) f2 f7
  have f9 : fld 21 19 (put 16 s (put 9 a (put 2 b 0xB0000001))) = 0 := fld_put_above (by decide) (by decide) f5 f8
  have f10 : fld 25 22 0xB0000001 = 0 := rfl
  have f11 : fld 25 22 (put 2 b 0xB0000001) = 0 := fld_put_above (by decide) (by decide) f0 f10
  have f12 : fld 25 22 (put 9 a (put 2 b 0xB0000001)) = 0 := fld_put_above (by decide) (by decide) f2 f11
  have f13 : fld 25 22 (put 16 s (put 9 a (put 2 b 0xB0000001))) = 0 := fld_put_above (by decide) (by decide) f5 f12
  have f14 : fld 25 22 (put 19 f (put 16 s (put 9 a (put 2 b 0xB0000001)))) = 0 := fld_put_above (by decide) (by decide) f9 f13
  have f15 : fld 31 26 0xB0000001 = 44 := rfl
  have f16 : fld 31 26 (put 2 b 0xB0000001) = 44 := fld_put_above (by decide) (by decide) f0 f15
  have f17 : fld 31 26 (put 9 a (put 2 b 0xB0000001)) = 44 := fld_put_above (by decide) (by decide) f2 f16
  have f18 : fld 31 26 (put 16 s (put 9 a (put 2 b 0xB0000001))) = 44 := fld_put_above (by decide) (by decide) f5 f17
  have f19 : fld 31 26 (put 19 f (put 16 s (put 9 a (put 2 b 0xB0000001)))) = 44 := fld_put_above (by decide) (by decide) f9 f18
  have f20 : fld 1 0 0xB0000001 = 1 := rfl
  have f21 : fld 1 0 (put 2 b 0xB0000001) = 1 := fld_put_below (by decide) (by decide) f20
  have f22 : fld 1 0 (put 9 a (put 2 b 0xB0000001)) = 1 := fld_put_below (by decide) (by decide) f21
  have f23 : fld 1 0 (put 16 s (put 9 a (put 2 b 0xB0000001))) = 1 := fld_put_below (by decide) (by decide) f22
  have f24 : fld 1 0 (put 19 f (put 16 s (put 9 a (put 2 b 0xB0000001)))) = 1 := fld_put_below (by decide) (by decide) f23
  have f25 : fld 21 19 (put 19 f (put 16 s (put 9 a (put 2 b 0xB0000001)))) = f.toNat := fld_put_eq rfl f9
  have f26 : fld 18 16 (put 16 s (put 9 a (put 2 b 0xB0000001))) = s.toNat := fld_put_eq rfl f5
  have f27 : fld 18 16 (put 19 f (put 16 s (put 9 a (put 2 b 0xB0000001)))) = s.toNat := fld_put_below (by decide) (by decide) f26
  have f28 : fld 15 9 (put 9 a (put 2 b 0xB0000001)) = a.toNat := fld_put_eq rfl f2
  have f29 : fld 15 9 (put 16 s (put 9 a (put 2 b 0xB0000001))) = a.toNat := fld_put_below (by decide) (by decide) f28
  have f30 : fld 15 9 (put 19 f (put 16 s (put 9 a (put 2 b 0xB0000001)))) = a.toNat := fld_put_below (by decide) (by decide) f29
  have f31 : fld 8 2 (put 2 b 0xB0000001) = b.toNat := fld_put_eq rfl f0
  have f32 : fld 8 2 (put 9 a (put 2 b 0xB0000001)) = b.toNat := fld_put_below (by decide) (by decide) f31
  have f33 : fld 8 2 (put 16 s (put 9 a (put 2 b 0xB0000001))) = b.toNat := fld_put_below (by decide) (by decide) f32
  have f34 : fld 8 2 (put 19 f (put 16 s (put 9 a (put 2 b 0xB0000001)))) = b.toNat := fld_put_below (by decide) (by decide) f33
  have h0 : fld 31 26 (put 22 q (put 19 f (put 16 s (put 9 a (put 2 b 0xB0000001))))) = 44 := fld_put_above (by decide) (by decide) f14 f19
  have h1 : fld 1 0 (put 22 q (put 19 f (put 16 s (put 9 a (put 2 b 0xB0000001))))) = 1 := fld_put_below (by decide) (by decide) f24
  have h2 : BitVec.ofNat 4 (fld 25 22 (put 22 q (put 19 f (put 16 s (put 9 a (put 2 b 0xB0000001)))))) = q := ofNat_fld (fld_put_eq rfl f14)
  have h3 : BitVec.ofNat 3 (fld 21 19 (put 22 q (put 19 f (put 16 s (put 9 a (put 2 b 0xB0000001)))))) = f := ofNat_fld (fld_put_below (by decide) (by decide) f25)
  have h4 : BitVec.ofNat 3 (fld 18 16 (put 22 q (put 19 f (put 16 s (put 9 a (put 2 b 0xB0000001)))))) = s := ofNat_fld (fld_put_below (by decide) (by decide) f27)
  have h5 : BitVec.ofNat 7 (fld 15 9 (put 22 q (put 19 f (put 16 s (put 9 a (put 2 b 0xB0000001)))))) = a := ofNat_fld (fld_put_below (by decide) (by decide) f30)
  have h6 : BitVec.ofNat 7 (fld 8 2 (put 22 q (put 19 f (put 16 s (put 9 a (put 2 b 0xB0000001)))))) = b := ofNat_fld (fld_put_below (by decide) (by decide) f34)
  rw [decodeWord_2C h0]
  simp [decodeOp2C, h1, h2, h3, h4, h5, h6]

theorem Sys2Proof.Laws.Encodes.cpyh (q : BitVec 4) (s : BitVec 3) (a : BitVec 7) :
    Sys2Proof.Laws.Encodes.Statement (.cpyh q s a) := by
  rintro w ⟨⟩
  have f0 : fld 15 9 0xB0000002 = 0 := rfl
  have f1 : fld 18 16 0xB0000002 = 0 := rfl
  have f2 : fld 18 16 (put 9 a 0xB0000002) = 0 := fld_put_above (by decide) (by decide) f0 f1
  have f3 : fld 25 22 0xB0000002 = 0 := rfl
  have f4 : fld 25 22 (put 9 a 0xB0000002) = 0 := fld_put_above (by decide) (by decide) f0 f3
  have f5 : fld 25 22 (put 16 s (put 9 a 0xB0000002)) = 0 := fld_put_above (by decide) (by decide) f2 f4
  have f6 : fld 31 26 0xB0000002 = 44 := rfl
  have f7 : fld 31 26 (put 9 a 0xB0000002) = 44 := fld_put_above (by decide) (by decide) f0 f6
  have f8 : fld 31 26 (put 16 s (put 9 a 0xB0000002)) = 44 := fld_put_above (by decide) (by decide) f2 f7
  have f9 : fld 1 0 0xB0000002 = 2 := rfl
  have f10 : fld 1 0 (put 9 a 0xB0000002) = 2 := fld_put_below (by decide) (by decide) f9
  have f11 : fld 1 0 (put 16 s (put 9 a 0xB0000002)) = 2 := fld_put_below (by decide) (by decide) f10
  have f12 : fld 8 2 0xB0000002 = 0 := rfl
  have f13 : fld 8 2 (put 9 a 0xB0000002) = 0 := fld_put_below (by decide) (by decide) f12
  have f14 : fld 8 2 (put 16 s (put 9 a 0xB0000002)) = 0 := fld_put_below (by decide) (by decide) f13
  have f15 : fld 21 19 0xB0000002 = 0 := rfl
  have f16 : fld 21 19 (put 9 a 0xB0000002) = 0 := fld_put_above (by decide) (by decide) f0 f15
  have f17 : fld 21 19 (put 16 s (put 9 a 0xB0000002)) = 0 := fld_put_above (by decide) (by decide) f2 f16
  have f18 : fld 18 16 (put 16 s (put 9 a 0xB0000002)) = s.toNat := fld_put_eq rfl f2
  have f19 : fld 15 9 (put 9 a 0xB0000002) = a.toNat := fld_put_eq rfl f0
  have f20 : fld 15 9 (put 16 s (put 9 a 0xB0000002)) = a.toNat := fld_put_below (by decide) (by decide) f19
  have h0 : fld 31 26 (put 22 q (put 16 s (put 9 a 0xB0000002))) = 44 := fld_put_above (by decide) (by decide) f5 f8
  have h1 : fld 1 0 (put 22 q (put 16 s (put 9 a 0xB0000002))) = 2 := fld_put_below (by decide) (by decide) f11
  have h2 : fld 8 2 (put 22 q (put 16 s (put 9 a 0xB0000002))) = 0 := fld_put_below (by decide) (by decide) f14
  have h3 : fld 21 19 (put 22 q (put 16 s (put 9 a 0xB0000002))) = 0 := fld_put_below (by decide) (by decide) f17
  have h4 : BitVec.ofNat 4 (fld 25 22 (put 22 q (put 16 s (put 9 a 0xB0000002)))) = q := ofNat_fld (fld_put_eq rfl f5)
  have h5 : BitVec.ofNat 3 (fld 18 16 (put 22 q (put 16 s (put 9 a 0xB0000002)))) = s := ofNat_fld (fld_put_below (by decide) (by decide) f18)
  have h6 : BitVec.ofNat 7 (fld 15 9 (put 22 q (put 16 s (put 9 a 0xB0000002)))) = a := ofNat_fld (fld_put_below (by decide) (by decide) f20)
  rw [decodeWord_2C h0]
  simp [decodeOp2C, h1, h2, h3, h4, h5, h6]

theorem Sys2Proof.Laws.Encodes.cpyc (q : BitVec 4) (s : BitVec 3) (a : BitVec 7) (b : BitVec 7) :
    Sys2Proof.Laws.Encodes.Statement (.cpyc q s a b) := by
  rintro w ⟨⟩
  have f0 : fld 8 2 0xB0000003 = 0 := rfl
  have f1 : fld 15 9 0xB0000003 = 0 := rfl
  have f2 : fld 15 9 (put 2 b 0xB0000003) = 0 := fld_put_above (by decide) (by decide) f0 f1
  have f3 : fld 18 16 0xB0000003 = 0 := rfl
  have f4 : fld 18 16 (put 2 b 0xB0000003) = 0 := fld_put_above (by decide) (by decide) f0 f3
  have f5 : fld 18 16 (put 9 a (put 2 b 0xB0000003)) = 0 := fld_put_above (by decide) (by decide) f2 f4
  have f6 : fld 25 22 0xB0000003 = 0 := rfl
  have f7 : fld 25 22 (put 2 b 0xB0000003) = 0 := fld_put_above (by decide) (by decide) f0 f6
  have f8 : fld 25 22 (put 9 a (put 2 b 0xB0000003)) = 0 := fld_put_above (by decide) (by decide) f2 f7
  have f9 : fld 25 22 (put 16 s (put 9 a (put 2 b 0xB0000003))) = 0 := fld_put_above (by decide) (by decide) f5 f8
  have f10 : fld 31 26 0xB0000003 = 44 := rfl
  have f11 : fld 31 26 (put 2 b 0xB0000003) = 44 := fld_put_above (by decide) (by decide) f0 f10
  have f12 : fld 31 26 (put 9 a (put 2 b 0xB0000003)) = 44 := fld_put_above (by decide) (by decide) f2 f11
  have f13 : fld 31 26 (put 16 s (put 9 a (put 2 b 0xB0000003))) = 44 := fld_put_above (by decide) (by decide) f5 f12
  have f14 : fld 1 0 0xB0000003 = 3 := rfl
  have f15 : fld 1 0 (put 2 b 0xB0000003) = 3 := fld_put_below (by decide) (by decide) f14
  have f16 : fld 1 0 (put 9 a (put 2 b 0xB0000003)) = 3 := fld_put_below (by decide) (by decide) f15
  have f17 : fld 1 0 (put 16 s (put 9 a (put 2 b 0xB0000003))) = 3 := fld_put_below (by decide) (by decide) f16
  have f18 : fld 21 19 0xB0000003 = 0 := rfl
  have f19 : fld 21 19 (put 2 b 0xB0000003) = 0 := fld_put_above (by decide) (by decide) f0 f18
  have f20 : fld 21 19 (put 9 a (put 2 b 0xB0000003)) = 0 := fld_put_above (by decide) (by decide) f2 f19
  have f21 : fld 21 19 (put 16 s (put 9 a (put 2 b 0xB0000003))) = 0 := fld_put_above (by decide) (by decide) f5 f20
  have f22 : fld 18 16 (put 16 s (put 9 a (put 2 b 0xB0000003))) = s.toNat := fld_put_eq rfl f5
  have f23 : fld 15 9 (put 9 a (put 2 b 0xB0000003)) = a.toNat := fld_put_eq rfl f2
  have f24 : fld 15 9 (put 16 s (put 9 a (put 2 b 0xB0000003))) = a.toNat := fld_put_below (by decide) (by decide) f23
  have f25 : fld 8 2 (put 2 b 0xB0000003) = b.toNat := fld_put_eq rfl f0
  have f26 : fld 8 2 (put 9 a (put 2 b 0xB0000003)) = b.toNat := fld_put_below (by decide) (by decide) f25
  have f27 : fld 8 2 (put 16 s (put 9 a (put 2 b 0xB0000003))) = b.toNat := fld_put_below (by decide) (by decide) f26
  have h0 : fld 31 26 (put 22 q (put 16 s (put 9 a (put 2 b 0xB0000003)))) = 44 := fld_put_above (by decide) (by decide) f9 f13
  have h1 : fld 1 0 (put 22 q (put 16 s (put 9 a (put 2 b 0xB0000003)))) = 3 := fld_put_below (by decide) (by decide) f17
  have h2 : fld 21 19 (put 22 q (put 16 s (put 9 a (put 2 b 0xB0000003)))) = 0 := fld_put_below (by decide) (by decide) f21
  have h3 : BitVec.ofNat 4 (fld 25 22 (put 22 q (put 16 s (put 9 a (put 2 b 0xB0000003))))) = q := ofNat_fld (fld_put_eq rfl f9)
  have h4 : BitVec.ofNat 3 (fld 18 16 (put 22 q (put 16 s (put 9 a (put 2 b 0xB0000003))))) = s := ofNat_fld (fld_put_below (by decide) (by decide) f22)
  have h5 : BitVec.ofNat 7 (fld 15 9 (put 22 q (put 16 s (put 9 a (put 2 b 0xB0000003))))) = a := ofNat_fld (fld_put_below (by decide) (by decide) f24)
  have h6 : BitVec.ofNat 7 (fld 8 2 (put 22 q (put 16 s (put 9 a (put 2 b 0xB0000003))))) = b := ofNat_fld (fld_put_below (by decide) (by decide) f27)
  rw [decodeWord_2C h0]
  simp [decodeOp2C, h1, h2, h3, h4, h5, h6]

theorem Sys2Proof.Laws.Encodes.seal (a : BitVec 7) :
    Sys2Proof.Laws.Encodes.Statement (.seal a) := by
  rintro w ⟨⟩
  have f0 : fld 15 9 0xB4000000 = 0 := rfl
  have f1 : fld 31 26 0xB4000000 = 45 := rfl
  have f2 : fld 1 0 0xB4000000 = 0 := rfl
  have f3 : fld 8 2 0xB4000000 = 0 := rfl
  have f4 : fld 25 16 0xB4000000 = 0 := rfl
  have h0 : fld 31 26 (put 9 a 0xB4000000) = 45 := fld_put_above (by decide) (by decide) f0 f1
  have h1 : fld 1 0 (put 9 a 0xB4000000) = 0 := fld_put_below (by decide) (by decide) f2
  have h2 : fld 8 2 (put 9 a 0xB4000000) = 0 := fld_put_below (by decide) (by decide) f3
  have h4 : fld 25 16 (put 9 a 0xB4000000) = 0 := fld_put_above (by decide) (by decide) f0 f4
  have h7 : BitVec.ofNat 7 (fld 15 9 (put 9 a 0xB4000000)) = a := ofNat_fld (fld_put_eq rfl f0)
  rw [decodeWord_2D h0]
  simp [decodeOp2D, h1, h2, h4, h7]

theorem Sys2Proof.Laws.Encodes.waitb (a : BitVec 7) :
    Sys2Proof.Laws.Encodes.Statement (.waitb a) := by
  rintro w ⟨⟩
  have f0 : fld 15 9 0xB4000001 = 0 := rfl
  have f1 : fld 31 26 0xB4000001 = 45 := rfl
  have f2 : fld 1 0 0xB4000001 = 1 := rfl
  have f3 : fld 8 2 0xB4000001 = 0 := rfl
  have f4 : fld 25 16 0xB4000001 = 0 := rfl
  have h0 : fld 31 26 (put 9 a 0xB4000001) = 45 := fld_put_above (by decide) (by decide) f0 f1
  have h1 : fld 1 0 (put 9 a 0xB4000001) = 1 := fld_put_below (by decide) (by decide) f2
  have h2 : fld 8 2 (put 9 a 0xB4000001) = 0 := fld_put_below (by decide) (by decide) f3
  have h4 : fld 25 16 (put 9 a 0xB4000001) = 0 := fld_put_above (by decide) (by decide) f0 f4
  have h7 : BitVec.ofNat 7 (fld 15 9 (put 9 a 0xB4000001)) = a := ofNat_fld (fld_put_eq rfl f0)
  rw [decodeWord_2D h0]
  simp [decodeOp2D, h1, h2, h4, h7]

theorem Sys2Proof.Laws.Encodes.rdwp (q : BitVec 2) (a : BitVec 7) :
    Sys2Proof.Laws.Encodes.Statement (.rdwp q a) := by
  rintro w ⟨⟩
  have f0 : fld 15 9 0xB4000002 = 0 := rfl
  have f1 : fld 23 22 0xB4000002 = 0 := rfl
  have f2 : fld 23 22 (put 9 a 0xB4000002) = 0 := fld_put_above (by decide) (by decide) f0 f1
  have f3 : fld 31 26 0xB4000002 = 45 := rfl
  have f4 : fld 31 26 (put 9 a 0xB4000002) = 45 := fld_put_above (by decide) (by decide) f0 f3
  have f5 : fld 1 0 0xB4000002 = 2 := rfl
  have f6 : fld 1 0 (put 9 a 0xB4000002) = 2 := fld_put_below (by decide) (by decide) f5
  have f7 : fld 8 2 0xB4000002 = 0 := rfl
  have f8 : fld 8 2 (put 9 a 0xB4000002) = 0 := fld_put_below (by decide) (by decide) f7
  have f9 : fld 21 16 0xB4000002 = 0 := rfl
  have f10 : fld 21 16 (put 9 a 0xB4000002) = 0 := fld_put_above (by decide) (by decide) f0 f9
  have f11 : fld 25 24 0xB4000002 = 0 := rfl
  have f12 : fld 25 24 (put 9 a 0xB4000002) = 0 := fld_put_above (by decide) (by decide) f0 f11
  have f13 : fld 15 9 (put 9 a 0xB4000002) = a.toNat := fld_put_eq rfl f0
  have h0 : fld 31 26 (put 22 q (put 9 a 0xB4000002)) = 45 := fld_put_above (by decide) (by decide) f2 f4
  have h1 : fld 1 0 (put 22 q (put 9 a 0xB4000002)) = 2 := fld_put_below (by decide) (by decide) f6
  have h2 : fld 8 2 (put 22 q (put 9 a 0xB4000002)) = 0 := fld_put_below (by decide) (by decide) f8
  have h3 : fld 21 16 (put 22 q (put 9 a 0xB4000002)) = 0 := fld_put_below (by decide) (by decide) f10
  have h4 : fld 25 24 (put 22 q (put 9 a 0xB4000002)) = 0 := fld_put_above (by decide) (by decide) f2 f12
  have h6 : BitVec.ofNat 2 (fld 23 22 (put 22 q (put 9 a 0xB4000002))) = q := ofNat_fld (fld_put_eq rfl f2)
  have h7 : BitVec.ofNat 7 (fld 15 9 (put 22 q (put 9 a 0xB4000002))) = a := ofNat_fld (fld_put_below (by decide) (by decide) f13)
  rw [decodeWord_2D h0]
  simp [decodeOp2D, h1, h2, h3, h4, h6, h7]

theorem Sys2Proof.Laws.Encodes.strm (q : BitVec 3) (a : BitVec 7) :
    Sys2Proof.Laws.Encodes.Statement (.strm q a) := by
  rintro w ⟨⟩
  have f0 : fld 15 9 0xB4000003 = 0 := rfl
  have f1 : fld 24 22 0xB4000003 = 0 := rfl
  have f2 : fld 24 22 (put 9 a 0xB4000003) = 0 := fld_put_above (by decide) (by decide) f0 f1
  have f3 : fld 31 26 0xB4000003 = 45 := rfl
  have f4 : fld 31 26 (put 9 a 0xB4000003) = 45 := fld_put_above (by decide) (by decide) f0 f3
  have f5 : fld 1 0 0xB4000003 = 3 := rfl
  have f6 : fld 1 0 (put 9 a 0xB4000003) = 3 := fld_put_below (by decide) (by decide) f5
  have f7 : fld 8 2 0xB4000003 = 0 := rfl
  have f8 : fld 8 2 (put 9 a 0xB4000003) = 0 := fld_put_below (by decide) (by decide) f7
  have f9 : fld 21 16 0xB4000003 = 0 := rfl
  have f10 : fld 21 16 (put 9 a 0xB4000003) = 0 := fld_put_above (by decide) (by decide) f0 f9
  have f11 : fld 25 25 0xB4000003 = 0 := rfl
  have f12 : fld 25 25 (put 9 a 0xB4000003) = 0 := fld_put_above (by decide) (by decide) f0 f11
  have f13 : fld 15 9 (put 9 a 0xB4000003) = a.toNat := fld_put_eq rfl f0
  have h0 : fld 31 26 (put 22 q (put 9 a 0xB4000003)) = 45 := fld_put_above (by decide) (by decide) f2 f4
  have h1 : fld 1 0 (put 22 q (put 9 a 0xB4000003)) = 3 := fld_put_below (by decide) (by decide) f6
  have h2 : fld 8 2 (put 22 q (put 9 a 0xB4000003)) = 0 := fld_put_below (by decide) (by decide) f8
  have h3 : fld 21 16 (put 22 q (put 9 a 0xB4000003)) = 0 := fld_put_below (by decide) (by decide) f10
  have h4 : fld 25 25 (put 22 q (put 9 a 0xB4000003)) = 0 := fld_put_above (by decide) (by decide) f2 f12
  have h5 : BitVec.ofNat 3 (fld 24 22 (put 22 q (put 9 a 0xB4000003))) = q := ofNat_fld (fld_put_eq rfl f2)
  have h6 : BitVec.ofNat 7 (fld 15 9 (put 22 q (put 9 a 0xB4000003))) = a := ofNat_fld (fld_put_below (by decide) (by decide) f13)
  rw [decodeWord_2D h0]
  simp [decodeOp2D, h1, h2, h3, h4, h5, h6]

theorem Sys2Proof.Laws.Encodes.vlk (d : BitVec 7) (a : BitVec 7) (b : BitVec 7) :
    Sys2Proof.Laws.Encodes.Statement (.vlk d a b) := by
  rintro w ⟨⟩
  have f0 : fld 11 5 0xB8000000 = 0 := rfl
  have f1 : fld 18 12 0xB8000000 = 0 := rfl
  have f2 : fld 18 12 (put 5 b 0xB8000000) = 0 := fld_put_above (by decide) (by decide) f0 f1
  have f3 : fld 25 19 0xB8000000 = 0 := rfl
  have f4 : fld 25 19 (put 5 b 0xB8000000) = 0 := fld_put_above (by decide) (by decide) f0 f3
  have f5 : fld 25 19 (put 12 a (put 5 b 0xB8000000)) = 0 := fld_put_above (by decide) (by decide) f2 f4
  have f6 : fld 31 26 0xB8000000 = 46 := rfl
  have f7 : fld 31 26 (put 5 b 0xB8000000) = 46 := fld_put_above (by decide) (by decide) f0 f6
  have f8 : fld 31 26 (put 12 a (put 5 b 0xB8000000)) = 46 := fld_put_above (by decide) (by decide) f2 f7
  have f9 : fld 1 0 0xB8000000 = 0 := rfl
  have f10 : fld 1 0 (put 5 b 0xB8000000) = 0 := fld_put_below (by decide) (by decide) f9
  have f11 : fld 1 0 (put 12 a (put 5 b 0xB8000000)) = 0 := fld_put_below (by decide) (by decide) f10
  have f12 : fld 4 2 0xB8000000 = 0 := rfl
  have f13 : fld 4 2 (put 5 b 0xB8000000) = 0 := fld_put_below (by decide) (by decide) f12
  have f14 : fld 4 2 (put 12 a (put 5 b 0xB8000000)) = 0 := fld_put_below (by decide) (by decide) f13
  have f15 : fld 18 12 (put 12 a (put 5 b 0xB8000000)) = a.toNat := fld_put_eq rfl f2
  have f16 : fld 11 5 (put 5 b 0xB8000000) = b.toNat := fld_put_eq rfl f0
  have f17 : fld 11 5 (put 12 a (put 5 b 0xB8000000)) = b.toNat := fld_put_below (by decide) (by decide) f16
  have h0 : fld 31 26 (put 19 d (put 12 a (put 5 b 0xB8000000))) = 46 := fld_put_above (by decide) (by decide) f5 f8
  have h1 : fld 1 0 (put 19 d (put 12 a (put 5 b 0xB8000000))) = 0 := fld_put_below (by decide) (by decide) f11
  have h2 : fld 4 2 (put 19 d (put 12 a (put 5 b 0xB8000000))) = 0 := fld_put_below (by decide) (by decide) f14
  have h4 : BitVec.ofNat 7 (fld 25 19 (put 19 d (put 12 a (put 5 b 0xB8000000)))) = d := ofNat_fld (fld_put_eq rfl f5)
  have h5 : BitVec.ofNat 7 (fld 18 12 (put 19 d (put 12 a (put 5 b 0xB8000000)))) = a := ofNat_fld (fld_put_below (by decide) (by decide) f15)
  have h6 : BitVec.ofNat 7 (fld 11 5 (put 19 d (put 12 a (put 5 b 0xB8000000)))) = b := ofNat_fld (fld_put_below (by decide) (by decide) f17)
  rw [decodeWord_2E h0]
  simp [decodeOp2E, h1, h2, h4, h5, h6]

theorem Sys2Proof.Laws.Encodes.vld1 (d : BitVec 7) (a : BitVec 7) (b : BitVec 7) (t : BitVec 2) :
    Sys2Proof.Laws.Encodes.Statement (.vld1 d a b t) := by
  rintro w ⟨⟩
  have f0 : fld 3 2 0xB8000011 = 0 := rfl
  have f1 : fld 11 5 0xB8000011 = 0 := rfl
  have f2 : fld 11 5 (put 2 t 0xB8000011) = 0 := fld_put_above (by decide) (by decide) f0 f1
  have f3 : fld 18 12 0xB8000011 = 0 := rfl
  have f4 : fld 18 12 (put 2 t 0xB8000011) = 0 := fld_put_above (by decide) (by decide) f0 f3
  have f5 : fld 18 12 (put 5 b (put 2 t 0xB8000011)) = 0 := fld_put_above (by decide) (by decide) f2 f4
  have f6 : fld 25 19 0xB8000011 = 0 := rfl
  have f7 : fld 25 19 (put 2 t 0xB8000011) = 0 := fld_put_above (by decide) (by decide) f0 f6
  have f8 : fld 25 19 (put 5 b (put 2 t 0xB8000011)) = 0 := fld_put_above (by decide) (by decide) f2 f7
  have f9 : fld 25 19 (put 12 a (put 5 b (put 2 t 0xB8000011))) = 0 := fld_put_above (by decide) (by decide) f5 f8
  have f10 : fld 31 26 0xB8000011 = 46 := rfl
  have f11 : fld 31 26 (put 2 t 0xB8000011) = 46 := fld_put_above (by decide) (by decide) f0 f10
  have f12 : fld 31 26 (put 5 b (put 2 t 0xB8000011)) = 46 := fld_put_above (by decide) (by decide) f2 f11
  have f13 : fld 31 26 (put 12 a (put 5 b (put 2 t 0xB8000011))) = 46 := fld_put_above (by decide) (by decide) f5 f12
  have f14 : fld 1 0 0xB8000011 = 1 := rfl
  have f15 : fld 1 0 (put 2 t 0xB8000011) = 1 := fld_put_below (by decide) (by decide) f14
  have f16 : fld 1 0 (put 5 b (put 2 t 0xB8000011)) = 1 := fld_put_below (by decide) (by decide) f15
  have f17 : fld 1 0 (put 12 a (put 5 b (put 2 t 0xB8000011))) = 1 := fld_put_below (by decide) (by decide) f16
  have f18 : fld 4 4 0xB8000011 = 1 := rfl
  have f19 : fld 4 4 (put 2 t 0xB8000011) = 1 := fld_put_above (by decide) (by decide) f0 f18
  have f20 : fld 4 4 (put 5 b (put 2 t 0xB8000011)) = 1 := fld_put_below (by decide) (by decide) f19
  have f21 : fld 4 4 (put 12 a (put 5 b (put 2 t 0xB8000011))) = 1 := fld_put_below (by decide) (by decide) f20
  have f22 : fld 18 12 (put 12 a (put 5 b (put 2 t 0xB8000011))) = a.toNat := fld_put_eq rfl f5
  have f23 : fld 11 5 (put 5 b (put 2 t 0xB8000011)) = b.toNat := fld_put_eq rfl f2
  have f24 : fld 11 5 (put 12 a (put 5 b (put 2 t 0xB8000011))) = b.toNat := fld_put_below (by decide) (by decide) f23
  have f25 : fld 3 2 (put 2 t 0xB8000011) = t.toNat := fld_put_eq rfl f0
  have f26 : fld 3 2 (put 5 b (put 2 t 0xB8000011)) = t.toNat := fld_put_below (by decide) (by decide) f25
  have f27 : fld 3 2 (put 12 a (put 5 b (put 2 t 0xB8000011))) = t.toNat := fld_put_below (by decide) (by decide) f26
  have h0 : fld 31 26 (put 19 d (put 12 a (put 5 b (put 2 t 0xB8000011)))) = 46 := fld_put_above (by decide) (by decide) f9 f13
  have h1 : fld 1 0 (put 19 d (put 12 a (put 5 b (put 2 t 0xB8000011)))) = 1 := fld_put_below (by decide) (by decide) f17
  have h2 : fld 4 4 (put 19 d (put 12 a (put 5 b (put 2 t 0xB8000011)))) = 1 := fld_put_below (by decide) (by decide) f21
  have h3 : BitVec.ofNat 7 (fld 25 19 (put 19 d (put 12 a (put 5 b (put 2 t 0xB8000011))))) = d := ofNat_fld (fld_put_eq rfl f9)
  have h4 : BitVec.ofNat 7 (fld 18 12 (put 19 d (put 12 a (put 5 b (put 2 t 0xB8000011))))) = a := ofNat_fld (fld_put_below (by decide) (by decide) f22)
  have h5 : BitVec.ofNat 7 (fld 11 5 (put 19 d (put 12 a (put 5 b (put 2 t 0xB8000011))))) = b := ofNat_fld (fld_put_below (by decide) (by decide) f24)
  have h6 : BitVec.ofNat 2 (fld 3 2 (put 19 d (put 12 a (put 5 b (put 2 t 0xB8000011))))) = t := ofNat_fld (fld_put_below (by decide) (by decide) f27)
  rw [decodeWord_2E h0]
  simp [decodeOp2E, h1, h2, h3, h4, h5, h6]

theorem Sys2Proof.Laws.Encodes.vld7 (d : BitVec 7) (a : BitVec 7) (b : BitVec 7) :
    Sys2Proof.Laws.Encodes.Statement (.vld7 d a b) := by
  rintro w ⟨⟩
  have f0 : fld 11 5 0xB800001A = 0 := rfl
  have f1 : fld 18 12 0xB800001A = 0 := rfl
  have f2 : fld 18 12 (put 5 b 0xB800001A) = 0 := fld_put_above (by decide) (by decide) f0 f1
  have f3 : fld 25 19 0xB800001A = 0 := rfl
  have f4 : fld 25 19 (put 5 b 0xB800001A) = 0 := fld_put_above (by decide) (by decide) f0 f3
  have f5 : fld 25 19 (put 12 a (put 5 b 0xB800001A)) = 0 := fld_put_above (by decide) (by decide) f2 f4
  have f6 : fld 31 26 0xB800001A = 46 := rfl
  have f7 : fld 31 26 (put 5 b 0xB800001A) = 46 := fld_put_above (by decide) (by decide) f0 f6
  have f8 : fld 31 26 (put 12 a (put 5 b 0xB800001A)) = 46 := fld_put_above (by decide) (by decide) f2 f7
  have f9 : fld 1 0 0xB800001A = 2 := rfl
  have f10 : fld 1 0 (put 5 b 0xB800001A) = 2 := fld_put_below (by decide) (by decide) f9
  have f11 : fld 1 0 (put 12 a (put 5 b 0xB800001A)) = 2 := fld_put_below (by decide) (by decide) f10
  have f12 : fld 4 2 0xB800001A = 6 := rfl
  have f13 : fld 4 2 (put 5 b 0xB800001A) = 6 := fld_put_below (by decide) (by decide) f12
  have f14 : fld 4 2 (put 12 a (put 5 b 0xB800001A)) = 6 := fld_put_below (by decide) (by decide) f13
  have f15 : fld 18 12 (put 12 a (put 5 b 0xB800001A)) = a.toNat := fld_put_eq rfl f2
  have f16 : fld 11 5 (put 5 b 0xB800001A) = b.toNat := fld_put_eq rfl f0
  have f17 : fld 11 5 (put 12 a (put 5 b 0xB800001A)) = b.toNat := fld_put_below (by decide) (by decide) f16
  have h0 : fld 31 26 (put 19 d (put 12 a (put 5 b 0xB800001A))) = 46 := fld_put_above (by decide) (by decide) f5 f8
  have h1 : fld 1 0 (put 19 d (put 12 a (put 5 b 0xB800001A))) = 2 := fld_put_below (by decide) (by decide) f11
  have h2 : fld 4 2 (put 19 d (put 12 a (put 5 b 0xB800001A))) = 6 := fld_put_below (by decide) (by decide) f14
  have h4 : BitVec.ofNat 7 (fld 25 19 (put 19 d (put 12 a (put 5 b 0xB800001A)))) = d := ofNat_fld (fld_put_eq rfl f5)
  have h5 : BitVec.ofNat 7 (fld 18 12 (put 19 d (put 12 a (put 5 b 0xB800001A)))) = a := ofNat_fld (fld_put_below (by decide) (by decide) f15)
  have h6 : BitVec.ofNat 7 (fld 11 5 (put 19 d (put 12 a (put 5 b 0xB800001A)))) = b := ofNat_fld (fld_put_below (by decide) (by decide) f17)
  rw [decodeWord_2E h0]
  simp [decodeOp2E, h1, h2, h4, h5, h6]

theorem Sys2Proof.Laws.Encodes.vld27 (d : BitVec 7) (a : BitVec 7) (b : BitVec 7) :
    Sys2Proof.Laws.Encodes.Statement (.vld27 d a b) := by
  rintro w ⟨⟩
  have f0 : fld 11 5 0xB800001B = 0 := rfl
  have f1 : fld 18 12 0xB800001B = 0 := rfl
  have f2 : fld 18 12 (put 5 b 0xB800001B) = 0 := fld_put_above (by decide) (by decide) f0 f1
  have f3 : fld 25 19 0xB800001B = 0 := rfl
  have f4 : fld 25 19 (put 5 b 0xB800001B) = 0 := fld_put_above (by decide) (by decide) f0 f3
  have f5 : fld 25 19 (put 12 a (put 5 b 0xB800001B)) = 0 := fld_put_above (by decide) (by decide) f2 f4
  have f6 : fld 31 26 0xB800001B = 46 := rfl
  have f7 : fld 31 26 (put 5 b 0xB800001B) = 46 := fld_put_above (by decide) (by decide) f0 f6
  have f8 : fld 31 26 (put 12 a (put 5 b 0xB800001B)) = 46 := fld_put_above (by decide) (by decide) f2 f7
  have f9 : fld 1 0 0xB800001B = 3 := rfl
  have f10 : fld 1 0 (put 5 b 0xB800001B) = 3 := fld_put_below (by decide) (by decide) f9
  have f11 : fld 1 0 (put 12 a (put 5 b 0xB800001B)) = 3 := fld_put_below (by decide) (by decide) f10
  have f12 : fld 4 2 0xB800001B = 6 := rfl
  have f13 : fld 4 2 (put 5 b 0xB800001B) = 6 := fld_put_below (by decide) (by decide) f12
  have f14 : fld 4 2 (put 12 a (put 5 b 0xB800001B)) = 6 := fld_put_below (by decide) (by decide) f13
  have f15 : fld 18 12 (put 12 a (put 5 b 0xB800001B)) = a.toNat := fld_put_eq rfl f2
  have f16 : fld 11 5 (put 5 b 0xB800001B) = b.toNat := fld_put_eq rfl f0
  have f17 : fld 11 5 (put 12 a (put 5 b 0xB800001B)) = b.toNat := fld_put_below (by decide) (by decide) f16
  have h0 : fld 31 26 (put 19 d (put 12 a (put 5 b 0xB800001B))) = 46 := fld_put_above (by decide) (by decide) f5 f8
  have h1 : fld 1 0 (put 19 d (put 12 a (put 5 b 0xB800001B))) = 3 := fld_put_below (by decide) (by decide) f11
  have h2 : fld 4 2 (put 19 d (put 12 a (put 5 b 0xB800001B))) = 6 := fld_put_below (by decide) (by decide) f14
  have h4 : BitVec.ofNat 7 (fld 25 19 (put 19 d (put 12 a (put 5 b 0xB800001B)))) = d := ofNat_fld (fld_put_eq rfl f5)
  have h5 : BitVec.ofNat 7 (fld 18 12 (put 19 d (put 12 a (put 5 b 0xB800001B)))) = a := ofNat_fld (fld_put_below (by decide) (by decide) f15)
  have h6 : BitVec.ofNat 7 (fld 11 5 (put 19 d (put 12 a (put 5 b 0xB800001B)))) = b := ofNat_fld (fld_put_below (by decide) (by decide) f17)
  rw [decodeWord_2E h0]
  simp [decodeOp2E, h1, h2, h4, h5, h6]

theorem Sys2Proof.Laws.Encodes.vst1 (d : BitVec 7) (a : BitVec 7) (b : BitVec 7) (t : BitVec 2) :
    Sys2Proof.Laws.Encodes.Statement (.vst1 d a b t) := by
  rintro w ⟨⟩
  have f0 : fld 3 2 0xBC000010 = 0 := rfl
  have f1 : fld 11 5 0xBC000010 = 0 := rfl
  have f2 : fld 11 5 (put 2 t 0xBC000010) = 0 := fld_put_above (by decide) (by decide) f0 f1
  have f3 : fld 18 12 0xBC000010 = 0 := rfl
  have f4 : fld 18 12 (put 2 t 0xBC000010) = 0 := fld_put_above (by decide) (by decide) f0 f3
  have f5 : fld 18 12 (put 5 b (put 2 t 0xBC000010)) = 0 := fld_put_above (by decide) (by decide) f2 f4
  have f6 : fld 25 19 0xBC000010 = 0 := rfl
  have f7 : fld 25 19 (put 2 t 0xBC000010) = 0 := fld_put_above (by decide) (by decide) f0 f6
  have f8 : fld 25 19 (put 5 b (put 2 t 0xBC000010)) = 0 := fld_put_above (by decide) (by decide) f2 f7
  have f9 : fld 25 19 (put 12 a (put 5 b (put 2 t 0xBC000010))) = 0 := fld_put_above (by decide) (by decide) f5 f8
  have f10 : fld 31 26 0xBC000010 = 47 := rfl
  have f11 : fld 31 26 (put 2 t 0xBC000010) = 47 := fld_put_above (by decide) (by decide) f0 f10
  have f12 : fld 31 26 (put 5 b (put 2 t 0xBC000010)) = 47 := fld_put_above (by decide) (by decide) f2 f11
  have f13 : fld 31 26 (put 12 a (put 5 b (put 2 t 0xBC000010))) = 47 := fld_put_above (by decide) (by decide) f5 f12
  have f14 : fld 1 0 0xBC000010 = 0 := rfl
  have f15 : fld 1 0 (put 2 t 0xBC000010) = 0 := fld_put_below (by decide) (by decide) f14
  have f16 : fld 1 0 (put 5 b (put 2 t 0xBC000010)) = 0 := fld_put_below (by decide) (by decide) f15
  have f17 : fld 1 0 (put 12 a (put 5 b (put 2 t 0xBC000010))) = 0 := fld_put_below (by decide) (by decide) f16
  have f18 : fld 4 4 0xBC000010 = 1 := rfl
  have f19 : fld 4 4 (put 2 t 0xBC000010) = 1 := fld_put_above (by decide) (by decide) f0 f18
  have f20 : fld 4 4 (put 5 b (put 2 t 0xBC000010)) = 1 := fld_put_below (by decide) (by decide) f19
  have f21 : fld 4 4 (put 12 a (put 5 b (put 2 t 0xBC000010))) = 1 := fld_put_below (by decide) (by decide) f20
  have f22 : fld 18 12 (put 12 a (put 5 b (put 2 t 0xBC000010))) = a.toNat := fld_put_eq rfl f5
  have f23 : fld 11 5 (put 5 b (put 2 t 0xBC000010)) = b.toNat := fld_put_eq rfl f2
  have f24 : fld 11 5 (put 12 a (put 5 b (put 2 t 0xBC000010))) = b.toNat := fld_put_below (by decide) (by decide) f23
  have f25 : fld 3 2 (put 2 t 0xBC000010) = t.toNat := fld_put_eq rfl f0
  have f26 : fld 3 2 (put 5 b (put 2 t 0xBC000010)) = t.toNat := fld_put_below (by decide) (by decide) f25
  have f27 : fld 3 2 (put 12 a (put 5 b (put 2 t 0xBC000010))) = t.toNat := fld_put_below (by decide) (by decide) f26
  have h0 : fld 31 26 (put 19 d (put 12 a (put 5 b (put 2 t 0xBC000010)))) = 47 := fld_put_above (by decide) (by decide) f9 f13
  have h1 : fld 1 0 (put 19 d (put 12 a (put 5 b (put 2 t 0xBC000010)))) = 0 := fld_put_below (by decide) (by decide) f17
  have h2 : fld 4 4 (put 19 d (put 12 a (put 5 b (put 2 t 0xBC000010)))) = 1 := fld_put_below (by decide) (by decide) f21
  have h3 : BitVec.ofNat 7 (fld 25 19 (put 19 d (put 12 a (put 5 b (put 2 t 0xBC000010))))) = d := ofNat_fld (fld_put_eq rfl f9)
  have h4 : BitVec.ofNat 7 (fld 18 12 (put 19 d (put 12 a (put 5 b (put 2 t 0xBC000010))))) = a := ofNat_fld (fld_put_below (by decide) (by decide) f22)
  have h5 : BitVec.ofNat 7 (fld 11 5 (put 19 d (put 12 a (put 5 b (put 2 t 0xBC000010))))) = b := ofNat_fld (fld_put_below (by decide) (by decide) f24)
  have h6 : BitVec.ofNat 2 (fld 3 2 (put 19 d (put 12 a (put 5 b (put 2 t 0xBC000010))))) = t := ofNat_fld (fld_put_below (by decide) (by decide) f27)
  rw [decodeWord_2F h0]
  simp [decodeOp2F, h1, h2, h3, h4, h5, h6]

theorem Sys2Proof.Laws.Encodes.vact (a : BitVec 7) (b : BitVec 7) (s : BitVec 1) :
    Sys2Proof.Laws.Encodes.Statement (.vact a b s) := by
  rintro w ⟨⟩
  have f0 : fld 2 2 0xBC000001 = 0 := rfl
  have f1 : fld 11 5 0xBC000001 = 0 := rfl
  have f2 : fld 11 5 (put 2 s 0xBC000001) = 0 := fld_put_above (by decide) (by decide) f0 f1
  have f3 : fld 18 12 0xBC000001 = 0 := rfl
  have f4 : fld 18 12 (put 2 s 0xBC000001) = 0 := fld_put_above (by decide) (by decide) f0 f3
  have f5 : fld 18 12 (put 5 b (put 2 s 0xBC000001)) = 0 := fld_put_above (by decide) (by decide) f2 f4
  have f6 : fld 31 26 0xBC000001 = 47 := rfl
  have f7 : fld 31 26 (put 2 s 0xBC000001) = 47 := fld_put_above (by decide) (by decide) f0 f6
  have f8 : fld 31 26 (put 5 b (put 2 s 0xBC000001)) = 47 := fld_put_above (by decide) (by decide) f2 f7
  have f9 : fld 1 0 0xBC000001 = 1 := rfl
  have f10 : fld 1 0 (put 2 s 0xBC000001) = 1 := fld_put_below (by decide) (by decide) f9
  have f11 : fld 1 0 (put 5 b (put 2 s 0xBC000001)) = 1 := fld_put_below (by decide) (by decide) f10
  have f12 : fld 4 3 0xBC000001 = 0 := rfl
  have f13 : fld 4 3 (put 2 s 0xBC000001) = 0 := fld_put_above (by decide) (by decide) f0 f12
  have f14 : fld 4 3 (put 5 b (put 2 s 0xBC000001)) = 0 := fld_put_below (by decide) (by decide) f13
  have f15 : fld 25 19 0xBC000001 = 0 := rfl
  have f16 : fld 25 19 (put 2 s 0xBC000001) = 0 := fld_put_above (by decide) (by decide) f0 f15
  have f17 : fld 25 19 (put 5 b (put 2 s 0xBC000001)) = 0 := fld_put_above (by decide) (by decide) f2 f16
  have f18 : fld 11 5 (put 5 b (put 2 s 0xBC000001)) = b.toNat := fld_put_eq rfl f2
  have f19 : fld 2 2 (put 2 s 0xBC000001) = s.toNat := fld_put_eq rfl f0
  have f20 : fld 2 2 (put 5 b (put 2 s 0xBC000001)) = s.toNat := fld_put_below (by decide) (by decide) f19
  have h0 : fld 31 26 (put 12 a (put 5 b (put 2 s 0xBC000001))) = 47 := fld_put_above (by decide) (by decide) f5 f8
  have h1 : fld 1 0 (put 12 a (put 5 b (put 2 s 0xBC000001))) = 1 := fld_put_below (by decide) (by decide) f11
  have h2 : fld 4 3 (put 12 a (put 5 b (put 2 s 0xBC000001))) = 0 := fld_put_below (by decide) (by decide) f14
  have h4 : fld 25 19 (put 12 a (put 5 b (put 2 s 0xBC000001))) = 0 := fld_put_above (by decide) (by decide) f5 f17
  have h5 : BitVec.ofNat 7 (fld 18 12 (put 12 a (put 5 b (put 2 s 0xBC000001)))) = a := ofNat_fld (fld_put_eq rfl f5)
  have h6 : BitVec.ofNat 7 (fld 11 5 (put 12 a (put 5 b (put 2 s 0xBC000001)))) = b := ofNat_fld (fld_put_below (by decide) (by decide) f18)
  have h7 : BitVec.ofNat 1 (fld 2 2 (put 12 a (put 5 b (put 2 s 0xBC000001)))) = s := ofNat_fld (fld_put_below (by decide) (by decide) f20)
  rw [decodeWord_2F h0]
  simp [decodeOp2F, h1, h2, h4, h5, h6, h7]

theorem Sys2Proof.Laws.Encodes.vmarch (d : BitVec 7) (a : BitVec 7) (b : BitVec 7) :
    Sys2Proof.Laws.Encodes.Statement (.vmarch d a b) := by
  rintro w ⟨⟩
  have f0 : fld 11 5 0xBC00001A = 0 := rfl
  have f1 : fld 18 12 0xBC00001A = 0 := rfl
  have f2 : fld 18 12 (put 5 b 0xBC00001A) = 0 := fld_put_above (by decide) (by decide) f0 f1
  have f3 : fld 25 19 0xBC00001A = 0 := rfl
  have f4 : fld 25 19 (put 5 b 0xBC00001A) = 0 := fld_put_above (by decide) (by decide) f0 f3
  have f5 : fld 25 19 (put 12 a (put 5 b 0xBC00001A)) = 0 := fld_put_above (by decide) (by decide) f2 f4
  have f6 : fld 31 26 0xBC00001A = 47 := rfl
  have f7 : fld 31 26 (put 5 b 0xBC00001A) = 47 := fld_put_above (by decide) (by decide) f0 f6
  have f8 : fld 31 26 (put 12 a (put 5 b 0xBC00001A)) = 47 := fld_put_above (by decide) (by decide) f2 f7
  have f9 : fld 1 0 0xBC00001A = 2 := rfl
  have f10 : fld 1 0 (put 5 b 0xBC00001A) = 2 := fld_put_below (by decide) (by decide) f9
  have f11 : fld 1 0 (put 12 a (put 5 b 0xBC00001A)) = 2 := fld_put_below (by decide) (by decide) f10
  have f12 : fld 4 2 0xBC00001A = 6 := rfl
  have f13 : fld 4 2 (put 5 b 0xBC00001A) = 6 := fld_put_below (by decide) (by decide) f12
  have f14 : fld 4 2 (put 12 a (put 5 b 0xBC00001A)) = 6 := fld_put_below (by decide) (by decide) f13
  have f15 : fld 18 12 (put 12 a (put 5 b 0xBC00001A)) = a.toNat := fld_put_eq rfl f2
  have f16 : fld 11 5 (put 5 b 0xBC00001A) = b.toNat := fld_put_eq rfl f0
  have f17 : fld 11 5 (put 12 a (put 5 b 0xBC00001A)) = b.toNat := fld_put_below (by decide) (by decide) f16
  have h0 : fld 31 26 (put 19 d (put 12 a (put 5 b 0xBC00001A))) = 47 := fld_put_above (by decide) (by decide) f5 f8
  have h1 : fld 1 0 (put 19 d (put 12 a (put 5 b 0xBC00001A))) = 2 := fld_put_below (by decide) (by decide) f11
  have h2 : fld 4 2 (put 19 d (put 12 a (put 5 b 0xBC00001A))) = 6 := fld_put_below (by decide) (by decide) f14
  have h5 : BitVec.ofNat 7 (fld 25 19 (put 19 d (put 12 a (put 5 b 0xBC00001A)))) = d := ofNat_fld (fld_put_eq rfl f5)
  have h6 : BitVec.ofNat 7 (fld 18 12 (put 19 d (put 12 a (put 5 b 0xBC00001A)))) = a := ofNat_fld (fld_put_below (by decide) (by decide) f15)
  have h7 : BitVec.ofNat 7 (fld 11 5 (put 19 d (put 12 a (put 5 b 0xBC00001A)))) = b := ofNat_fld (fld_put_below (by decide) (by decide) f17)
  rw [decodeWord_2F h0]
  simp [decodeOp2F, h1, h2, h5, h6, h7]

theorem Sys2Proof.Laws.Encodes.vins (d : BitVec 7) (a : BitVec 7) (b : BitVec 7) :
    Sys2Proof.Laws.Encodes.Statement (.vins d a b) := by
  rintro w ⟨⟩
  have f0 : fld 11 5 0xBC000003 = 0 := rfl
  have f1 : fld 18 12 0xBC000003 = 0 := rfl
  have f2 : fld 18 12 (put 5 b 0xBC000003) = 0 := fld_put_above (by decide) (by decide) f0 f1
  have f3 : fld 25 19 0xBC000003 = 0 := rfl
  have f4 : fld 25 19 (put 5 b 0xBC000003) = 0 := fld_put_above (by decide) (by decide) f0 f3
  have f5 : fld 25 19 (put 12 a (put 5 b 0xBC000003)) = 0 := fld_put_above (by decide) (by decide) f2 f4
  have f6 : fld 31 26 0xBC000003 = 47 := rfl
  have f7 : fld 31 26 (put 5 b 0xBC000003) = 47 := fld_put_above (by decide) (by decide) f0 f6
  have f8 : fld 31 26 (put 12 a (put 5 b 0xBC000003)) = 47 := fld_put_above (by decide) (by decide) f2 f7
  have f9 : fld 1 0 0xBC000003 = 3 := rfl
  have f10 : fld 1 0 (put 5 b 0xBC000003) = 3 := fld_put_below (by decide) (by decide) f9
  have f11 : fld 1 0 (put 12 a (put 5 b 0xBC000003)) = 3 := fld_put_below (by decide) (by decide) f10
  have f12 : fld 4 2 0xBC000003 = 0 := rfl
  have f13 : fld 4 2 (put 5 b 0xBC000003) = 0 := fld_put_below (by decide) (by decide) f12
  have f14 : fld 4 2 (put 12 a (put 5 b 0xBC000003)) = 0 := fld_put_below (by decide) (by decide) f13
  have f15 : fld 18 12 (put 12 a (put 5 b 0xBC000003)) = a.toNat := fld_put_eq rfl f2
  have f16 : fld 11 5 (put 5 b 0xBC000003) = b.toNat := fld_put_eq rfl f0
  have f17 : fld 11 5 (put 12 a (put 5 b 0xBC000003)) = b.toNat := fld_put_below (by decide) (by decide) f16
  have h0 : fld 31 26 (put 19 d (put 12 a (put 5 b 0xBC000003))) = 47 := fld_put_above (by decide) (by decide) f5 f8
  have h1 : fld 1 0 (put 19 d (put 12 a (put 5 b 0xBC000003))) = 3 := fld_put_below (by decide) (by decide) f11
  have h2 : fld 4 2 (put 19 d (put 12 a (put 5 b 0xBC000003))) = 0 := fld_put_below (by decide) (by decide) f14
  have h5 : BitVec.ofNat 7 (fld 25 19 (put 19 d (put 12 a (put 5 b 0xBC000003)))) = d := ofNat_fld (fld_put_eq rfl f5)
  have h6 : BitVec.ofNat 7 (fld 18 12 (put 19 d (put 12 a (put 5 b 0xBC000003)))) = a := ofNat_fld (fld_put_below (by decide) (by decide) f15)
  have h7 : BitVec.ofNat 7 (fld 11 5 (put 19 d (put 12 a (put 5 b 0xBC000003)))) = b := ofNat_fld (fld_put_below (by decide) (by decide) f17)
  rw [decodeWord_2F h0]
  simp [decodeOp2F, h1, h2, h5, h6, h7]

theorem Sys2Proof.Laws.Encodes.mma (q : BitVec 4) (f : BitVec 3) (s : BitVec 3) (a : BitVec 7) (b : BitVec 7) :
    Sys2Proof.Laws.Encodes.Statement (.mma q f s a b) := by
  rintro w ⟨⟩
  have f0 : fld 8 2 0xC4000000 = 0 := rfl
  have f1 : fld 15 9 0xC4000000 = 0 := rfl
  have f2 : fld 15 9 (put 2 b 0xC4000000) = 0 := fld_put_above (by decide) (by decide) f0 f1
  have f3 : fld 18 16 0xC4000000 = 0 := rfl
  have f4 : fld 18 16 (put 2 b 0xC4000000) = 0 := fld_put_above (by decide) (by decide) f0 f3
  have f5 : fld 18 16 (put 9 a (put 2 b 0xC4000000)) = 0 := fld_put_above (by decide) (by decide) f2 f4
  have f6 : fld 21 19 0xC4000000 = 0 := rfl
  have f7 : fld 21 19 (put 2 b 0xC4000000) = 0 := fld_put_above (by decide) (by decide) f0 f6
  have f8 : fld 21 19 (put 9 a (put 2 b 0xC4000000)) = 0 := fld_put_above (by decide) (by decide) f2 f7
  have f9 : fld 21 19 (put 16 s (put 9 a (put 2 b 0xC4000000))) = 0 := fld_put_above (by decide) (by decide) f5 f8
  have f10 : fld 25 22 0xC4000000 = 0 := rfl
  have f11 : fld 25 22 (put 2 b 0xC4000000) = 0 := fld_put_above (by decide) (by decide) f0 f10
  have f12 : fld 25 22 (put 9 a (put 2 b 0xC4000000)) = 0 := fld_put_above (by decide) (by decide) f2 f11
  have f13 : fld 25 22 (put 16 s (put 9 a (put 2 b 0xC4000000))) = 0 := fld_put_above (by decide) (by decide) f5 f12
  have f14 : fld 25 22 (put 19 f (put 16 s (put 9 a (put 2 b 0xC4000000)))) = 0 := fld_put_above (by decide) (by decide) f9 f13
  have f15 : fld 31 26 0xC4000000 = 49 := rfl
  have f16 : fld 31 26 (put 2 b 0xC4000000) = 49 := fld_put_above (by decide) (by decide) f0 f15
  have f17 : fld 31 26 (put 9 a (put 2 b 0xC4000000)) = 49 := fld_put_above (by decide) (by decide) f2 f16
  have f18 : fld 31 26 (put 16 s (put 9 a (put 2 b 0xC4000000))) = 49 := fld_put_above (by decide) (by decide) f5 f17
  have f19 : fld 31 26 (put 19 f (put 16 s (put 9 a (put 2 b 0xC4000000)))) = 49 := fld_put_above (by decide) (by decide) f9 f18
  have f20 : fld 1 0 0xC4000000 = 0 := rfl
  have f21 : fld 1 0 (put 2 b 0xC4000000) = 0 := fld_put_below (by decide) (by decide) f20
  have f22 : fld 1 0 (put 9 a (put 2 b 0xC4000000)) = 0 := fld_put_below (by decide) (by decide) f21
  have f23 : fld 1 0 (put 16 s (put 9 a (put 2 b 0xC4000000))) = 0 := fld_put_below (by decide) (by decide) f22
  have f24 : fld 1 0 (put 19 f (put 16 s (put 9 a (put 2 b 0xC4000000)))) = 0 := fld_put_below (by decide) (by decide) f23
  have f25 : fld 21 19 (put 19 f (put 16 s (put 9 a (put 2 b 0xC4000000)))) = f.toNat := fld_put_eq rfl f9
  have f26 : fld 18 16 (put 16 s (put 9 a (put 2 b 0xC4000000))) = s.toNat := fld_put_eq rfl f5
  have f27 : fld 18 16 (put 19 f (put 16 s (put 9 a (put 2 b 0xC4000000)))) = s.toNat := fld_put_below (by decide) (by decide) f26
  have f28 : fld 15 9 (put 9 a (put 2 b 0xC4000000)) = a.toNat := fld_put_eq rfl f2
  have f29 : fld 15 9 (put 16 s (put 9 a (put 2 b 0xC4000000))) = a.toNat := fld_put_below (by decide) (by decide) f28
  have f30 : fld 15 9 (put 19 f (put 16 s (put 9 a (put 2 b 0xC4000000)))) = a.toNat := fld_put_below (by decide) (by decide) f29
  have f31 : fld 8 2 (put 2 b 0xC4000000) = b.toNat := fld_put_eq rfl f0
  have f32 : fld 8 2 (put 9 a (put 2 b 0xC4000000)) = b.toNat := fld_put_below (by decide) (by decide) f31
  have f33 : fld 8 2 (put 16 s (put 9 a (put 2 b 0xC4000000))) = b.toNat := fld_put_below (by decide) (by decide) f32
  have f34 : fld 8 2 (put 19 f (put 16 s (put 9 a (put 2 b 0xC4000000)))) = b.toNat := fld_put_below (by decide) (by decide) f33
  have h0 : fld 31 26 (put 22 q (put 19 f (put 16 s (put 9 a (put 2 b 0xC4000000))))) = 49 := fld_put_above (by decide) (by decide) f14 f19
  have h1 : fld 1 0 (put 22 q (put 19 f (put 16 s (put 9 a (put 2 b 0xC4000000))))) = 0 := fld_put_below (by decide) (by decide) f24
  have h2 : BitVec.ofNat 4 (fld 25 22 (put 22 q (put 19 f (put 16 s (put 9 a (put 2 b 0xC4000000)))))) = q := ofNat_fld (fld_put_eq rfl f14)
  have h3 : BitVec.ofNat 3 (fld 21 19 (put 22 q (put 19 f (put 16 s (put 9 a (put 2 b 0xC4000000)))))) = f := ofNat_fld (fld_put_below (by decide) (by decide) f25)
  have h4 : BitVec.ofNat 3 (fld 18 16 (put 22 q (put 19 f (put 16 s (put 9 a (put 2 b 0xC4000000)))))) = s := ofNat_fld (fld_put_below (by decide) (by decide) f27)
  have h5 : BitVec.ofNat 7 (fld 15 9 (put 22 q (put 19 f (put 16 s (put 9 a (put 2 b 0xC4000000)))))) = a := ofNat_fld (fld_put_below (by decide) (by decide) f30)
  have h6 : BitVec.ofNat 7 (fld 8 2 (put 22 q (put 19 f (put 16 s (put 9 a (put 2 b 0xC4000000)))))) = b := ofNat_fld (fld_put_below (by decide) (by decide) f34)
  rw [decodeWord_31 h0]
  simp [decodeOp31, h1, h2, h3, h4, h5, h6]

theorem Sys2Proof.Laws.Encodes.mma1 (q : BitVec 4) (f : BitVec 3) (s : BitVec 3) (a : BitVec 7) (b : BitVec 7) :
    Sys2Proof.Laws.Encodes.Statement (.mma1 q f s a b) := by
  rintro w ⟨⟩
  have f0 : fld 8 2 0xC4000001 = 0 := rfl
  have f1 : fld 15 9 0xC4000001 = 0 := rfl
  have f2 : fld 15 9 (put 2 b 0xC4000001) = 0 := fld_put_above (by decide) (by decide) f0 f1
  have f3 : fld 18 16 0xC4000001 = 0 := rfl
  have f4 : fld 18 16 (put 2 b 0xC4000001) = 0 := fld_put_above (by decide) (by decide) f0 f3
  have f5 : fld 18 16 (put 9 a (put 2 b 0xC4000001)) = 0 := fld_put_above (by decide) (by decide) f2 f4
  have f6 : fld 21 19 0xC4000001 = 0 := rfl
  have f7 : fld 21 19 (put 2 b 0xC4000001) = 0 := fld_put_above (by decide) (by decide) f0 f6
  have f8 : fld 21 19 (put 9 a (put 2 b 0xC4000001)) = 0 := fld_put_above (by decide) (by decide) f2 f7
  have f9 : fld 21 19 (put 16 s (put 9 a (put 2 b 0xC4000001))) = 0 := fld_put_above (by decide) (by decide) f5 f8
  have f10 : fld 25 22 0xC4000001 = 0 := rfl
  have f11 : fld 25 22 (put 2 b 0xC4000001) = 0 := fld_put_above (by decide) (by decide) f0 f10
  have f12 : fld 25 22 (put 9 a (put 2 b 0xC4000001)) = 0 := fld_put_above (by decide) (by decide) f2 f11
  have f13 : fld 25 22 (put 16 s (put 9 a (put 2 b 0xC4000001))) = 0 := fld_put_above (by decide) (by decide) f5 f12
  have f14 : fld 25 22 (put 19 f (put 16 s (put 9 a (put 2 b 0xC4000001)))) = 0 := fld_put_above (by decide) (by decide) f9 f13
  have f15 : fld 31 26 0xC4000001 = 49 := rfl
  have f16 : fld 31 26 (put 2 b 0xC4000001) = 49 := fld_put_above (by decide) (by decide) f0 f15
  have f17 : fld 31 26 (put 9 a (put 2 b 0xC4000001)) = 49 := fld_put_above (by decide) (by decide) f2 f16
  have f18 : fld 31 26 (put 16 s (put 9 a (put 2 b 0xC4000001))) = 49 := fld_put_above (by decide) (by decide) f5 f17
  have f19 : fld 31 26 (put 19 f (put 16 s (put 9 a (put 2 b 0xC4000001)))) = 49 := fld_put_above (by decide) (by decide) f9 f18
  have f20 : fld 1 0 0xC4000001 = 1 := rfl
  have f21 : fld 1 0 (put 2 b 0xC4000001) = 1 := fld_put_below (by decide) (by decide) f20
  have f22 : fld 1 0 (put 9 a (put 2 b 0xC4000001)) = 1 := fld_put_below (by decide) (by decide) f21
  have f23 : fld 1 0 (put 16 s (put 9 a (put 2 b 0xC4000001))) = 1 := fld_put_below (by decide) (by decide) f22
  have f24 : fld 1 0 (put 19 f (put 16 s (put 9 a (put 2 b 0xC4000001)))) = 1 := fld_put_below (by decide) (by decide) f23
  have f25 : fld 21 19 (put 19 f (put 16 s (put 9 a (put 2 b 0xC4000001)))) = f.toNat := fld_put_eq rfl f9
  have f26 : fld 18 16 (put 16 s (put 9 a (put 2 b 0xC4000001))) = s.toNat := fld_put_eq rfl f5
  have f27 : fld 18 16 (put 19 f (put 16 s (put 9 a (put 2 b 0xC4000001)))) = s.toNat := fld_put_below (by decide) (by decide) f26
  have f28 : fld 15 9 (put 9 a (put 2 b 0xC4000001)) = a.toNat := fld_put_eq rfl f2
  have f29 : fld 15 9 (put 16 s (put 9 a (put 2 b 0xC4000001))) = a.toNat := fld_put_below (by decide) (by decide) f28
  have f30 : fld 15 9 (put 19 f (put 16 s (put 9 a (put 2 b 0xC4000001)))) = a.toNat := fld_put_below (by decide) (by decide) f29
  have f31 : fld 8 2 (put 2 b 0xC4000001) = b.toNat := fld_put_eq rfl f0
  have f32 : fld 8 2 (put 9 a (put 2 b 0xC4000001)) = b.toNat := fld_put_below (by decide) (by decide) f31
  have f33 : fld 8 2 (put 16 s (put 9 a (put 2 b 0xC4000001))) = b.toNat := fld_put_below (by decide) (by decide) f32
  have f34 : fld 8 2 (put 19 f (put 16 s (put 9 a (put 2 b 0xC4000001)))) = b.toNat := fld_put_below (by decide) (by decide) f33
  have h0 : fld 31 26 (put 22 q (put 19 f (put 16 s (put 9 a (put 2 b 0xC4000001))))) = 49 := fld_put_above (by decide) (by decide) f14 f19
  have h1 : fld 1 0 (put 22 q (put 19 f (put 16 s (put 9 a (put 2 b 0xC4000001))))) = 1 := fld_put_below (by decide) (by decide) f24
  have h2 : BitVec.ofNat 4 (fld 25 22 (put 22 q (put 19 f (put 16 s (put 9 a (put 2 b 0xC4000001)))))) = q := ofNat_fld (fld_put_eq rfl f14)
  have h3 : BitVec.ofNat 3 (fld 21 19 (put 22 q (put 19 f (put 16 s (put 9 a (put 2 b 0xC4000001)))))) = f := ofNat_fld (fld_put_below (by decide) (by decide) f25)
  have h4 : BitVec.ofNat 3 (fld 18 16 (put 22 q (put 19 f (put 16 s (put 9 a (put 2 b 0xC4000001)))))) = s := ofNat_fld (fld_put_below (by decide) (by decide) f27)
  have h5 : BitVec.ofNat 7 (fld 15 9 (put 22 q (put 19 f (put 16 s (put 9 a (put 2 b 0xC4000001)))))) = a := ofNat_fld (fld_put_below (by decide) (by decide) f30)
  have h6 : BitVec.ofNat 7 (fld 8 2 (put 22 q (put 19 f (put 16 s (put 9 a (put 2 b 0xC4000001)))))) = b := ofNat_fld (fld_put_below (by decide) (by decide) f34)
  rw [decodeWord_31 h0]
  simp [decodeOp31, h1, h2, h3, h4, h5, h6]

theorem Sys2Proof.Laws.Encodes.mzero (q : BitVec 4) (a : BitVec 7) (b : BitVec 7) :
    Sys2Proof.Laws.Encodes.Statement (.mzero q a b) := by
  rintro w ⟨⟩
  have f0 : fld 8 2 0xC4000002 = 0 := rfl
  have f1 : fld 15 9 0xC4000002 = 0 := rfl
  have f2 : fld 15 9 (put 2 b 0xC4000002) = 0 := fld_put_above (by decide) (by decide) f0 f1
  have f3 : fld 25 22 0xC4000002 = 0 := rfl
  have f4 : fld 25 22 (put 2 b 0xC4000002) = 0 := fld_put_above (by decide) (by decide) f0 f3
  have f5 : fld 25 22 (put 9 a (put 2 b 0xC4000002)) = 0 := fld_put_above (by decide) (by decide) f2 f4
  have f6 : fld 31 26 0xC4000002 = 49 := rfl
  have f7 : fld 31 26 (put 2 b 0xC4000002) = 49 := fld_put_above (by decide) (by decide) f0 f6
  have f8 : fld 31 26 (put 9 a (put 2 b 0xC4000002)) = 49 := fld_put_above (by decide) (by decide) f2 f7
  have f9 : fld 1 0 0xC4000002 = 2 := rfl
  have f10 : fld 1 0 (put 2 b 0xC4000002) = 2 := fld_put_below (by decide) (by decide) f9
  have f11 : fld 1 0 (put 9 a (put 2 b 0xC4000002)) = 2 := fld_put_below (by decide) (by decide) f10
  have f12 : fld 21 16 0xC4000002 = 0 := rfl
  have f13 : fld 21 16 (put 2 b 0xC4000002) = 0 := fld_put_above (by decide) (by decide) f0 f12
  have f14 : fld 21 16 (put 9 a (put 2 b 0xC4000002)) = 0 := fld_put_above (by decide) (by decide) f2 f13
  have f15 : fld 15 9 (put 9 a (put 2 b 0xC4000002)) = a.toNat := fld_put_eq rfl f2
  have f16 : fld 8 2 (put 2 b 0xC4000002) = b.toNat := fld_put_eq rfl f0
  have f17 : fld 8 2 (put 9 a (put 2 b 0xC4000002)) = b.toNat := fld_put_below (by decide) (by decide) f16
  have h0 : fld 31 26 (put 22 q (put 9 a (put 2 b 0xC4000002))) = 49 := fld_put_above (by decide) (by decide) f5 f8
  have h1 : fld 1 0 (put 22 q (put 9 a (put 2 b 0xC4000002))) = 2 := fld_put_below (by decide) (by decide) f11
  have h3 : fld 21 16 (put 22 q (put 9 a (put 2 b 0xC4000002))) = 0 := fld_put_below (by decide) (by decide) f14
  have h4 : BitVec.ofNat 4 (fld 25 22 (put 22 q (put 9 a (put 2 b 0xC4000002)))) = q := ofNat_fld (fld_put_eq rfl f5)
  have h5 : BitVec.ofNat 7 (fld 15 9 (put 22 q (put 9 a (put 2 b 0xC4000002)))) = a := ofNat_fld (fld_put_below (by decide) (by decide) f15)
  have h6 : BitVec.ofNat 7 (fld 8 2 (put 22 q (put 9 a (put 2 b 0xC4000002)))) = b := ofNat_fld (fld_put_below (by decide) (by decide) f17)
  rw [decodeWord_31 h0]
  simp [decodeOp31, h1, h3, h4, h5, h6]

theorem Sys2Proof.Laws.Encodes.mout (q : BitVec 4) (f : BitVec 3) (a : BitVec 7) (b : BitVec 7) :
    Sys2Proof.Laws.Encodes.Statement (.mout q f a b) := by
  rintro w ⟨⟩
  have f0 : fld 8 2 0xC4000003 = 0 := rfl
  have f1 : fld 15 9 0xC4000003 = 0 := rfl
  have f2 : fld 15 9 (put 2 b 0xC4000003) = 0 := fld_put_above (by decide) (by decide) f0 f1
  have f3 : fld 21 19 0xC4000003 = 0 := rfl
  have f4 : fld 21 19 (put 2 b 0xC4000003) = 0 := fld_put_above (by decide) (by decide) f0 f3
  have f5 : fld 21 19 (put 9 a (put 2 b 0xC4000003)) = 0 := fld_put_above (by decide) (by decide) f2 f4
  have f6 : fld 25 22 0xC4000003 = 0 := rfl
  have f7 : fld 25 22 (put 2 b 0xC4000003) = 0 := fld_put_above (by decide) (by decide) f0 f6
  have f8 : fld 25 22 (put 9 a (put 2 b 0xC4000003)) = 0 := fld_put_above (by decide) (by decide) f2 f7
  have f9 : fld 25 22 (put 19 f (put 9 a (put 2 b 0xC4000003))) = 0 := fld_put_above (by decide) (by decide) f5 f8
  have f10 : fld 31 26 0xC4000003 = 49 := rfl
  have f11 : fld 31 26 (put 2 b 0xC4000003) = 49 := fld_put_above (by decide) (by decide) f0 f10
  have f12 : fld 31 26 (put 9 a (put 2 b 0xC4000003)) = 49 := fld_put_above (by decide) (by decide) f2 f11
  have f13 : fld 31 26 (put 19 f (put 9 a (put 2 b 0xC4000003))) = 49 := fld_put_above (by decide) (by decide) f5 f12
  have f14 : fld 1 0 0xC4000003 = 3 := rfl
  have f15 : fld 1 0 (put 2 b 0xC4000003) = 3 := fld_put_below (by decide) (by decide) f14
  have f16 : fld 1 0 (put 9 a (put 2 b 0xC4000003)) = 3 := fld_put_below (by decide) (by decide) f15
  have f17 : fld 1 0 (put 19 f (put 9 a (put 2 b 0xC4000003))) = 3 := fld_put_below (by decide) (by decide) f16
  have f18 : fld 18 16 0xC4000003 = 0 := rfl
  have f19 : fld 18 16 (put 2 b 0xC4000003) = 0 := fld_put_above (by decide) (by decide) f0 f18
  have f20 : fld 18 16 (put 9 a (put 2 b 0xC4000003)) = 0 := fld_put_above (by decide) (by decide) f2 f19
  have f21 : fld 18 16 (put 19 f (put 9 a (put 2 b 0xC4000003))) = 0 := fld_put_below (by decide) (by decide) f20
  have f22 : fld 21 19 (put 19 f (put 9 a (put 2 b 0xC4000003))) = f.toNat := fld_put_eq rfl f5
  have f23 : fld 15 9 (put 9 a (put 2 b 0xC4000003)) = a.toNat := fld_put_eq rfl f2
  have f24 : fld 15 9 (put 19 f (put 9 a (put 2 b 0xC4000003))) = a.toNat := fld_put_below (by decide) (by decide) f23
  have f25 : fld 8 2 (put 2 b 0xC4000003) = b.toNat := fld_put_eq rfl f0
  have f26 : fld 8 2 (put 9 a (put 2 b 0xC4000003)) = b.toNat := fld_put_below (by decide) (by decide) f25
  have f27 : fld 8 2 (put 19 f (put 9 a (put 2 b 0xC4000003))) = b.toNat := fld_put_below (by decide) (by decide) f26
  have h0 : fld 31 26 (put 22 q (put 19 f (put 9 a (put 2 b 0xC4000003)))) = 49 := fld_put_above (by decide) (by decide) f9 f13
  have h1 : fld 1 0 (put 22 q (put 19 f (put 9 a (put 2 b 0xC4000003)))) = 3 := fld_put_below (by decide) (by decide) f17
  have h2 : fld 18 16 (put 22 q (put 19 f (put 9 a (put 2 b 0xC4000003)))) = 0 := fld_put_below (by decide) (by decide) f21
  have h3 : BitVec.ofNat 4 (fld 25 22 (put 22 q (put 19 f (put 9 a (put 2 b 0xC4000003))))) = q := ofNat_fld (fld_put_eq rfl f9)
  have h4 : BitVec.ofNat 3 (fld 21 19 (put 22 q (put 19 f (put 9 a (put 2 b 0xC4000003))))) = f := ofNat_fld (fld_put_below (by decide) (by decide) f22)
  have h5 : BitVec.ofNat 7 (fld 15 9 (put 22 q (put 19 f (put 9 a (put 2 b 0xC4000003))))) = a := ofNat_fld (fld_put_below (by decide) (by decide) f24)
  have h6 : BitVec.ofNat 7 (fld 8 2 (put 22 q (put 19 f (put 9 a (put 2 b 0xC4000003))))) = b := ofNat_fld (fld_put_below (by decide) (by decide) f27)
  rw [decodeWord_31 h0]
  simp [decodeOp31, h1, h2, h3, h4, h5, h6]

theorem Sys2Proof.Laws.Encodes.tdecl (a : BitVec 7) :
    Sys2Proof.Laws.Encodes.Statement (.tdecl a) := by
  rintro w ⟨⟩
  have f0 : fld 15 9 0xC8000000 = 0 := rfl
  have f1 : fld 31 26 0xC8000000 = 50 := rfl
  have f2 : fld 1 0 0xC8000000 = 0 := rfl
  have f3 : fld 8 2 0xC8000000 = 0 := rfl
  have f4 : fld 25 16 0xC8000000 = 0 := rfl
  have h0 : fld 31 26 (put 9 a 0xC8000000) = 50 := fld_put_above (by decide) (by decide) f0 f1
  have h1 : fld 1 0 (put 9 a 0xC8000000) = 0 := fld_put_below (by decide) (by decide) f2
  have h2 : fld 8 2 (put 9 a 0xC8000000) = 0 := fld_put_below (by decide) (by decide) f3
  have h3 : fld 25 16 (put 9 a 0xC8000000) = 0 := fld_put_above (by decide) (by decide) f0 f4
  have h4 : BitVec.ofNat 7 (fld 15 9 (put 9 a 0xC8000000)) = a := ofNat_fld (fld_put_eq rfl f0)
  rw [decodeWord_32 h0]
  simp [decodeOp32, h1, h2, h3, h4]

theorem Sys2Proof.Laws.Encodes.tsig (a : BitVec 7) (b : BitVec 7) :
    Sys2Proof.Laws.Encodes.Statement (.tsig a b) := by
  rintro w ⟨⟩
  have f0 : fld 8 2 0xC8000001 = 0 := rfl
  have f1 : fld 15 9 0xC8000001 = 0 := rfl
  have f2 : fld 15 9 (put 2 b 0xC8000001) = 0 := fld_put_above (by decide) (by decide) f0 f1
  have f3 : fld 31 26 0xC8000001 = 50 := rfl
  have f4 : fld 31 26 (put 2 b 0xC8000001) = 50 := fld_put_above (by decide) (by decide) f0 f3
  have f5 : fld 1 0 0xC8000001 = 1 := rfl
  have f6 : fld 1 0 (put 2 b 0xC8000001) = 1 := fld_put_below (by decide) (by decide) f5
  have f7 : fld 25 16 0xC8000001 = 0 := rfl
  have f8 : fld 25 16 (put 2 b 0xC8000001) = 0 := fld_put_above (by decide) (by decide) f0 f7
  have f9 : fld 8 2 (put 2 b 0xC8000001) = b.toNat := fld_put_eq rfl f0
  have h0 : fld 31 26 (put 9 a (put 2 b 0xC8000001)) = 50 := fld_put_above (by decide) (by decide) f2 f4
  have h1 : fld 1 0 (put 9 a (put 2 b 0xC8000001)) = 1 := fld_put_below (by decide) (by decide) f6
  have h2 : fld 25 16 (put 9 a (put 2 b 0xC8000001)) = 0 := fld_put_above (by decide) (by decide) f2 f8
  have h3 : BitVec.ofNat 7 (fld 15 9 (put 9 a (put 2 b 0xC8000001))) = a := ofNat_fld (fld_put_eq rfl f2)
  have h4 : BitVec.ofNat 7 (fld 8 2 (put 9 a (put 2 b 0xC8000001))) = b := ofNat_fld (fld_put_below (by decide) (by decide) f9)
  rw [decodeWord_32 h0]
  simp [decodeOp32, h1, h2, h3, h4]

theorem Sys2Proof.Laws.Encodes.twait (a : BitVec 7) :
    Sys2Proof.Laws.Encodes.Statement (.twait a) := by
  rintro w ⟨⟩
  have f0 : fld 15 9 0xC8000002 = 0 := rfl
  have f1 : fld 31 26 0xC8000002 = 50 := rfl
  have f2 : fld 1 0 0xC8000002 = 2 := rfl
  have f3 : fld 8 2 0xC8000002 = 0 := rfl
  have f4 : fld 25 16 0xC8000002 = 0 := rfl
  have h0 : fld 31 26 (put 9 a 0xC8000002) = 50 := fld_put_above (by decide) (by decide) f0 f1
  have h1 : fld 1 0 (put 9 a 0xC8000002) = 2 := fld_put_below (by decide) (by decide) f2
  have h2 : fld 8 2 (put 9 a 0xC8000002) = 0 := fld_put_below (by decide) (by decide) f3
  have h3 : fld 25 16 (put 9 a 0xC8000002) = 0 := fld_put_above (by decide) (by decide) f0 f4
  have h4 : BitVec.ofNat 7 (fld 15 9 (put 9 a 0xC8000002)) = a := ofNat_fld (fld_put_eq rfl f0)
  rw [decodeWord_32 h0]
  simp [decodeOp32, h1, h2, h3, h4]

theorem Sys2Proof.Laws.Encodes.tqry (a : BitVec 7) (b : BitVec 7) :
    Sys2Proof.Laws.Encodes.Statement (.tqry a b) := by
  rintro w ⟨⟩
  have f0 : fld 8 2 0xC8000003 = 0 := rfl
  have f1 : fld 15 9 0xC8000003 = 0 := rfl
  have f2 : fld 15 9 (put 2 b 0xC8000003) = 0 := fld_put_above (by decide) (by decide) f0 f1
  have f3 : fld 31 26 0xC8000003 = 50 := rfl
  have f4 : fld 31 26 (put 2 b 0xC8000003) = 50 := fld_put_above (by decide) (by decide) f0 f3
  have f5 : fld 1 0 0xC8000003 = 3 := rfl
  have f6 : fld 1 0 (put 2 b 0xC8000003) = 3 := fld_put_below (by decide) (by decide) f5
  have f7 : fld 25 16 0xC8000003 = 0 := rfl
  have f8 : fld 25 16 (put 2 b 0xC8000003) = 0 := fld_put_above (by decide) (by decide) f0 f7
  have f9 : fld 8 2 (put 2 b 0xC8000003) = b.toNat := fld_put_eq rfl f0
  have h0 : fld 31 26 (put 9 a (put 2 b 0xC8000003)) = 50 := fld_put_above (by decide) (by decide) f2 f4
  have h1 : fld 1 0 (put 9 a (put 2 b 0xC8000003)) = 3 := fld_put_below (by decide) (by decide) f6
  have h2 : fld 25 16 (put 9 a (put 2 b 0xC8000003)) = 0 := fld_put_above (by decide) (by decide) f2 f8
  have h3 : BitVec.ofNat 7 (fld 15 9 (put 9 a (put 2 b 0xC8000003))) = a := ofNat_fld (fld_put_eq rfl f2)
  have h4 : BitVec.ofNat 7 (fld 8 2 (put 9 a (put 2 b 0xC8000003))) = b := ofNat_fld (fld_put_below (by decide) (by decide) f9)
  rw [decodeWord_32 h0]
  simp [decodeOp32, h1, h2, h3, h4]

theorem Sys2Proof.Laws.Encodes.taskIssue (a0 : Nat) (a1 : Nat) :
    Sys2Proof.Laws.Encodes.Statement (.taskIssue a0 a1) := by
  rintro w ⟨⟩

theorem Sys2Proof.Laws.Encodes.bra (c : BitVec 4) (r : BitVec 5) (i : BitVec 17) :
    Sys2Proof.Laws.Encodes.Statement (.bra c r i) := by
  rintro w ⟨⟩
  have f0 : fld 16 0 0xCC000000 = 0 := rfl
  have f1 : fld 21 17 0xCC000000 = 0 := rfl
  have f2 : fld 21 17 (put 0 i 0xCC000000) = 0 := fld_put_above (by decide) (by decide) f0 f1
  have f3 : fld 25 22 0xCC000000 = 0 := rfl
  have f4 : fld 25 22 (put 0 i 0xCC000000) = 0 := fld_put_above (by decide) (by decide) f0 f3
  have f5 : fld 25 22 (put 17 r (put 0 i 0xCC000000)) = 0 := fld_put_above (by decide) (by decide) f2 f4
  have f6 : fld 31 26 0xCC000000 = 51 := rfl
  have f7 : fld 31 26 (put 0 i 0xCC000000) = 51 := fld_put_above (by decide) (by decide) f0 f6
  have f8 : fld 31 26 (put 17 r (put 0 i 0xCC000000)) = 51 := fld_put_above (by decide) (by decide) f2 f7
  have f9 : fld 21 17 (put 17 r (put 0 i 0xCC000000)) = r.toNat := fld_put_eq rfl f2
  have f10 : fld 16 0 (put 0 i 0xCC000000) = i.toNat := fld_put_eq rfl f0
  have f11 : fld 16 0 (put 17 r (put 0 i 0xCC000000)) = i.toNat := fld_put_below (by decide) (by decide) f10
  have h0 : fld 31 26 (put 22 c (put 17 r (put 0 i 0xCC000000))) = 51 := fld_put_above (by decide) (by decide) f5 f8
  have h1 : BitVec.ofNat 4 (fld 25 22 (put 22 c (put 17 r (put 0 i 0xCC000000)))) = c := ofNat_fld (fld_put_eq rfl f5)
  have h2 : BitVec.ofNat 5 (fld 21 17 (put 22 c (put 17 r (put 0 i 0xCC000000)))) = r := ofNat_fld (fld_put_below (by decide) (by decide) f9)
  have h3 : BitVec.ofNat 17 (fld 16 0 (put 22 c (put 17 r (put 0 i 0xCC000000)))) = i := ofNat_fld (fld_put_below (by decide) (by decide) f11)
  rw [decodeWord_33 h0]
  simp [decodeOp33, h1, h2, h3]

theorem Sys2Proof.Laws.Encodes.call (c : BitVec 4) (r : BitVec 5) (i : BitVec 17) :
    Sys2Proof.Laws.Encodes.Statement (.call c r i) := by
  rintro w ⟨⟩
  have f0 : fld 16 0 0xD0000000 = 0 := rfl
  have f1 : fld 21 17 0xD0000000 = 0 := rfl
  have f2 : fld 21 17 (put 0 i 0xD0000000) = 0 := fld_put_above (by decide) (by decide) f0 f1
  have f3 : fld 25 22 0xD0000000 = 0 := rfl
  have f4 : fld 25 22 (put 0 i 0xD0000000) = 0 := fld_put_above (by decide) (by decide) f0 f3
  have f5 : fld 25 22 (put 17 r (put 0 i 0xD0000000)) = 0 := fld_put_above (by decide) (by decide) f2 f4
  have f6 : fld 31 26 0xD0000000 = 52 := rfl
  have f7 : fld 31 26 (put 0 i 0xD0000000) = 52 := fld_put_above (by decide) (by decide) f0 f6
  have f8 : fld 31 26 (put 17 r (put 0 i 0xD0000000)) = 52 := fld_put_above (by decide) (by decide) f2 f7
  have f9 : fld 21 17 (put 17 r (put 0 i 0xD0000000)) = r.toNat := fld_put_eq rfl f2
  have f10 : fld 16 0 (put 0 i 0xD0000000) = i.toNat := fld_put_eq rfl f0
  have f11 : fld 16 0 (put 17 r (put 0 i 0xD0000000)) = i.toNat := fld_put_below (by decide) (by decide) f10
  have h0 : fld 31 26 (put 22 c (put 17 r (put 0 i 0xD0000000))) = 52 := fld_put_above (by decide) (by decide) f5 f8
  have h1 : BitVec.ofNat 4 (fld 25 22 (put 22 c (put 17 r (put 0 i 0xD0000000)))) = c := ofNat_fld (fld_put_eq rfl f5)
  have h2 : BitVec.ofNat 5 (fld 21 17 (put 22 c (put 17 r (put 0 i 0xD0000000)))) = r := ofNat_fld (fld_put_below (by decide) (by decide) f9)
  have h3 : BitVec.ofNat 17 (fld 16 0 (put 22 c (put 17 r (put 0 i 0xD0000000)))) = i := ofNat_fld (fld_put_below (by decide) (by decide) f11)
  rw [decodeWord_34 h0]
  simp [decodeOp34, h1, h2, h3]

theorem Sys2Proof.Laws.Encodes.jmp (a : BitVec 7) :
    Sys2Proof.Laws.Encodes.Statement (.jmp a) := by
  rintro w ⟨⟩
  have f0 : fld 18 12 0xD4000000 = 0 := rfl
  have f1 : fld 31 26 0xD4000000 = 53 := rfl
  have f2 : fld 1 0 0xD4000000 = 0 := rfl
  have f3 : fld 11 2 0xD4000000 = 0 := rfl
  have f4 : fld 25 19 0xD4000000 = 0 := rfl
  have h0 : fld 31 26 (put 12 a 0xD4000000) = 53 := fld_put_above (by decide) (by decide) f0 f1
  have h1 : fld 1 0 (put 12 a 0xD4000000) = 0 := fld_put_below (by decide) (by decide) f2
  have h2 : fld 11 2 (put 12 a 0xD4000000) = 0 := fld_put_below (by decide) (by decide) f3
  have h3 : fld 25 19 (put 12 a 0xD4000000) = 0 := fld_put_above (by decide) (by decide) f0 f4
  have h4 : BitVec.ofNat 7 (fld 18 12 (put 12 a 0xD4000000)) = a := ofNat_fld (fld_put_eq rfl f0)
  rw [decodeWord_35 h0]
  simp [decodeOp35, h1, h2, h3, h4]

theorem Sys2Proof.Laws.Encodes.ret :
    Sys2Proof.Laws.Encodes.Statement (.ret) := by
  rintro w ⟨⟩
  decide

theorem Sys2Proof.Laws.Encodes.retGet (d : BitVec 7) : Sys2Proof.Laws.Encodes.Statement (.retGet d) := by
  rintro w ⟨⟩
  obtain ⟨w, hw⟩ : ∃ w, w = put 19 d 0xD4000005 := ⟨_, rfl⟩
  rw [← hw]
  simp only [put] at hw
  have := d.isLt
  have h0 : fld 31 26 w = 53 := fld_eq (by omega)
  have h1 : fld 1 0 w = 1 := fld_eq (by omega)
  have h3 : ¬ fld 25 2 w = 0 := by unfold fld; omega
  have h5 : fld 18 2 w = 1 := fld_eq (by omega)
  have h6 : BitVec.ofNat 7 (fld 25 19 w) = d := ofNat_fld (fld_eq (by omega))
  rw [decodeWord_35 h0]
  simp [decodeOp35, h1, h3, h5, h6]

theorem Sys2Proof.Laws.Encodes.retSet (a : BitVec 7) : Sys2Proof.Laws.Encodes.Statement (.retSet a) := by
  rintro w ⟨⟩
  obtain ⟨w, hw⟩ : ∃ w, w = put 12 a 0xD4000009 := ⟨_, rfl⟩
  rw [← hw]
  simp only [put] at hw
  have := a.isLt
  have h0 : fld 31 26 w = 53 := fld_eq (by omega)
  have h1 : fld 1 0 w = 1 := fld_eq (by omega)
  have h2 : fld 11 2 w = 2 := fld_eq (by omega)
  have h3 : ¬ fld 25 2 w = 0 := by unfold fld; omega
  have h5 : fld 18 2 w ≠ 1 := by unfold fld; omega
  have h7 : fld 25 19 w = 0 := fld_eq (by omega)
  have h6 : BitVec.ofNat 7 (fld 18 12 w) = a := ofNat_fld (fld_eq (by omega))
  rw [decodeWord_35 h0]
  simp [decodeOp35, h1, h2, h3, h5, h6, h7]

theorem Sys2Proof.Laws.Encodes.exit :
    Sys2Proof.Laws.Encodes.Statement (.exit) := by
  rintro w ⟨⟩
  decide

theorem Sys2Proof.Laws.Encodes.yield :
    Sys2Proof.Laws.Encodes.Statement (.yield) := by
  rintro w ⟨⟩
  decide

theorem Sys2Proof.Laws.Encodes.bar :
    Sys2Proof.Laws.Encodes.Statement (.bar) := by
  rintro w ⟨⟩
  decide

theorem Sys2Proof.Laws.Encodes.barc :
    Sys2Proof.Laws.Encodes.Statement (.barc) := by
  rintro w ⟨⟩
  decide

theorem Sys2Proof.Laws.Encodes.quiesce (p : BitVec 3) :
    Sys2Proof.Laws.Encodes.Statement (.quiesce p) := by
  rintro w ⟨⟩
  have f0 : fld 4 2 0xD8000002 = 0 := rfl
  have f1 : fld 31 26 0xD8000002 = 54 := rfl
  have f2 : fld 1 0 0xD8000002 = 2 := rfl
  have f3 : fld 25 5 0xD8000002 = 0 := rfl
  have h0 : fld 31 26 (put 2 p 0xD8000002) = 54 := fld_put_above (by decide) (by decide) f0 f1
  have h1 : fld 1 0 (put 2 p 0xD8000002) = 2 := fld_put_below (by decide) (by decide) f2
  have h2 : fld 25 5 (put 2 p 0xD8000002) = 0 := fld_put_above (by decide) (by decide) f0 f3
  have h3 : BitVec.ofNat 3 (fld 4 2 (put 2 p 0xD8000002)) = p := ofNat_fld (fld_put_eq rfl f0)
  rw [decodeWord_36 h0]
  simp [decodeOp36, h1, h2, h3]

theorem Sys2Proof.Laws.Encodes.nop :
    Sys2Proof.Laws.Encodes.Statement (.nop) := by
  rintro w ⟨⟩
  decide

theorem Sys2Proof.Laws.Encodes.launch (d : BitVec 7) (a : BitVec 7) (b : BitVec 7) :
    Sys2Proof.Laws.Encodes.Statement (.launch d a b) := by
  rintro w ⟨⟩
  have f0 : fld 11 5 0xDC000000 = 0 := rfl
  have f1 : fld 18 12 0xDC000000 = 0 := rfl
  have f2 : fld 18 12 (put 5 b 0xDC000000) = 0 := fld_put_above (by decide) (by decide) f0 f1
  have f3 : fld 25 19 0xDC000000 = 0 := rfl
  have f4 : fld 25 19 (put 5 b 0xDC000000) = 0 := fld_put_above (by decide) (by decide) f0 f3
  have f5 : fld 25 19 (put 12 a (put 5 b 0xDC000000)) = 0 := fld_put_above (by decide) (by decide) f2 f4
  have f6 : fld 31 26 0xDC000000 = 55 := rfl
  have f7 : fld 31 26 (put 5 b 0xDC000000) = 55 := fld_put_above (by decide) (by decide) f0 f6
  have f8 : fld 31 26 (put 12 a (put 5 b 0xDC000000)) = 55 := fld_put_above (by decide) (by decide) f2 f7
  have f9 : fld 1 0 0xDC000000 = 0 := rfl
  have f10 : fld 1 0 (put 5 b 0xDC000000) = 0 := fld_put_below (by decide) (by decide) f9
  have f11 : fld 1 0 (put 12 a (put 5 b 0xDC000000)) = 0 := fld_put_below (by decide) (by decide) f10
  have f12 : fld 4 2 0xDC000000 = 0 := rfl
  have f13 : fld 4 2 (put 5 b 0xDC000000) = 0 := fld_put_below (by decide) (by decide) f12
  have f14 : fld 4 2 (put 12 a (put 5 b 0xDC000000)) = 0 := fld_put_below (by decide) (by decide) f13
  have f15 : fld 18 12 (put 12 a (put 5 b 0xDC000000)) = a.toNat := fld_put_eq rfl f2
  have f16 : fld 11 5 (put 5 b 0xDC000000) = b.toNat := fld_put_eq rfl f0
  have f17 : fld 11 5 (put 12 a (put 5 b 0xDC000000)) = b.toNat := fld_put_below (by decide) (by decide) f16
  have h0 : fld 31 26 (put 19 d (put 12 a (put 5 b 0xDC000000))) = 55 := fld_put_above (by decide) (by decide) f5 f8
  have h1 : fld 1 0 (put 19 d (put 12 a (put 5 b 0xDC000000))) = 0 := fld_put_below (by decide) (by decide) f11
  have h2 : fld 4 2 (put 19 d (put 12 a (put 5 b 0xDC000000))) = 0 := fld_put_below (by decide) (by decide) f14
  have h3 : BitVec.ofNat 7 (fld 25 19 (put 19 d (put 12 a (put 5 b 0xDC000000)))) = d := ofNat_fld (fld_put_eq rfl f5)
  have h4 : BitVec.ofNat 7 (fld 18 12 (put 19 d (put 12 a (put 5 b 0xDC000000)))) = a := ofNat_fld (fld_put_below (by decide) (by decide) f15)
  have h5 : BitVec.ofNat 7 (fld 11 5 (put 19 d (put 12 a (put 5 b 0xDC000000)))) = b := ofNat_fld (fld_put_below (by decide) (by decide) f17)
  rw [decodeWord_37 h0]
  simp [decodeOp37, h1, h2, h3, h4, h5]

theorem Sys2Proof.Laws.Encodes.rqpush (d : BitVec 7) (a : BitVec 1) (b : BitVec 7) :
    Sys2Proof.Laws.Encodes.Statement (.rqpush d a b) := by
  rintro w ⟨⟩
  have f0 : fld 11 5 0xDC00A001 = 0 := rfl
  have f1 : fld 12 12 0xDC00A001 = 0 := rfl
  have f2 : fld 12 12 (put 5 b 0xDC00A001) = 0 := fld_put_above (by decide) (by decide) f0 f1
  have f3 : fld 25 19 0xDC00A001 = 0 := rfl
  have f4 : fld 25 19 (put 5 b 0xDC00A001) = 0 := fld_put_above (by decide) (by decide) f0 f3
  have f5 : fld 25 19 (put 12 a (put 5 b 0xDC00A001)) = 0 := fld_put_above (by decide) (by decide) f2 f4
  have f6 : fld 31 26 0xDC00A001 = 55 := rfl
  have f7 : fld 31 26 (put 5 b 0xDC00A001) = 55 := fld_put_above (by decide) (by decide) f0 f6
  have f8 : fld 31 26 (put 12 a (put 5 b 0xDC00A001)) = 55 := fld_put_above (by decide) (by decide) f2 f7
  have f9 : fld 1 0 0xDC00A001 = 1 := rfl
  have f10 : fld 1 0 (put 5 b 0xDC00A001) = 1 := fld_put_below (by decide) (by decide) f9
  have f11 : fld 1 0 (put 12 a (put 5 b 0xDC00A001)) = 1 := fld_put_below (by decide) (by decide) f10
  have f12 : fld 4 2 0xDC00A001 = 0 := rfl
  have f13 : fld 4 2 (put 5 b 0xDC00A001) = 0 := fld_put_below (by decide) (by decide) f12
  have f14 : fld 4 2 (put 12 a (put 5 b 0xDC00A001)) = 0 := fld_put_below (by decide) (by decide) f13
  have f15 : fld 18 13 0xDC00A001 = 5 := rfl
  have f16 : fld 18 13 (put 5 b 0xDC00A001) = 5 := fld_put_above (by decide) (by decide) f0 f15
  have f17 : fld 18 13 (put 12 a (put 5 b 0xDC00A001)) = 5 := fld_put_above (by decide) (by decide) f2 f16
  have f18 : fld 12 12 (put 12 a (put 5 b 0xDC00A001)) = a.toNat := fld_put_eq rfl f2
  have f19 : fld 11 5 (put 5 b 0xDC00A001) = b.toNat := fld_put_eq rfl f0
  have f20 : fld 11 5 (put 12 a (put 5 b 0xDC00A001)) = b.toNat := fld_put_below (by decide) (by decide) f19
  have h0 : fld 31 26 (put 19 d (put 12 a (put 5 b 0xDC00A001))) = 55 := fld_put_above (by decide) (by decide) f5 f8
  have h1 : fld 1 0 (put 19 d (put 12 a (put 5 b 0xDC00A001))) = 1 := fld_put_below (by decide) (by decide) f11
  have h2 : fld 4 2 (put 19 d (put 12 a (put 5 b 0xDC00A001))) = 0 := fld_put_below (by decide) (by decide) f14
  have h3 : fld 18 13 (put 19 d (put 12 a (put 5 b 0xDC00A001))) = 5 := fld_put_below (by decide) (by decide) f17
  have h4 : BitVec.ofNat 7 (fld 25 19 (put 19 d (put 12 a (put 5 b 0xDC00A001)))) = d := ofNat_fld (fld_put_eq rfl f5)
  have h5 : BitVec.ofNat 1 (fld 12 12 (put 19 d (put 12 a (put 5 b 0xDC00A001)))) = a := ofNat_fld (fld_put_below (by decide) (by decide) f18)
  have h6 : BitVec.ofNat 7 (fld 11 5 (put 19 d (put 12 a (put 5 b 0xDC00A001)))) = b := ofNat_fld (fld_put_below (by decide) (by decide) f20)
  rw [decodeWord_37 h0]
  simp [decodeOp37, h1, h2, h3, h4, h5, h6]

theorem Sys2Proof.Laws.Encodes.rqpop (d : BitVec 7) (a : BitVec 1) (b : BitVec 4) :
    Sys2Proof.Laws.Encodes.Statement (.rqpop d a b) := by
  rintro w ⟨⟩
  have f0 : fld 8 5 0xDC00A002 = 0 := rfl
  have f1 : fld 12 12 0xDC00A002 = 0 := rfl
  have f2 : fld 12 12 (put 5 b 0xDC00A002) = 0 := fld_put_above (by decide) (by decide) f0 f1
  have f3 : fld 25 19 0xDC00A002 = 0 := rfl
  have f4 : fld 25 19 (put 5 b 0xDC00A002) = 0 := fld_put_above (by decide) (by decide) f0 f3
  have f5 : fld 25 19 (put 12 a (put 5 b 0xDC00A002)) = 0 := fld_put_above (by decide) (by decide) f2 f4
  have f6 : fld 31 26 0xDC00A002 = 55 := rfl
  have f7 : fld 31 26 (put 5 b 0xDC00A002) = 55 := fld_put_above (by decide) (by decide) f0 f6
  have f8 : fld 31 26 (put 12 a (put 5 b 0xDC00A002)) = 55 := fld_put_above (by decide) (by decide) f2 f7
  have f9 : fld 1 0 0xDC00A002 = 2 := rfl
  have f10 : fld 1 0 (put 5 b 0xDC00A002) = 2 := fld_put_below (by decide) (by decide) f9
  have f11 : fld 1 0 (put 12 a (put 5 b 0xDC00A002)) = 2 := fld_put_below (by decide) (by decide) f10
  have f12 : fld 4 2 0xDC00A002 = 0 := rfl
  have f13 : fld 4 2 (put 5 b 0xDC00A002) = 0 := fld_put_below (by decide) (by decide) f12
  have f14 : fld 4 2 (put 12 a (put 5 b 0xDC00A002)) = 0 := fld_put_below (by decide) (by decide) f13
  have f15 : fld 11 9 0xDC00A002 = 0 := rfl
  have f16 : fld 11 9 (put 5 b 0xDC00A002) = 0 := fld_put_above (by decide) (by decide) f0 f15
  have f17 : fld 11 9 (put 12 a (put 5 b 0xDC00A002)) = 0 := fld_put_below (by decide) (by decide) f16
  have f18 : fld 18 13 0xDC00A002 = 5 := rfl
  have f19 : fld 18 13 (put 5 b 0xDC00A002) = 5 := fld_put_above (by decide) (by decide) f0 f18
  have f20 : fld 18 13 (put 12 a (put 5 b 0xDC00A002)) = 5 := fld_put_above (by decide) (by decide) f2 f19
  have f21 : fld 12 12 (put 12 a (put 5 b 0xDC00A002)) = a.toNat := fld_put_eq rfl f2
  have f22 : fld 8 5 (put 5 b 0xDC00A002) = b.toNat := fld_put_eq rfl f0
  have f23 : fld 8 5 (put 12 a (put 5 b 0xDC00A002)) = b.toNat := fld_put_below (by decide) (by decide) f22
  have h0 : fld 31 26 (put 19 d (put 12 a (put 5 b 0xDC00A002))) = 55 := fld_put_above (by decide) (by decide) f5 f8
  have h1 : fld 1 0 (put 19 d (put 12 a (put 5 b 0xDC00A002))) = 2 := fld_put_below (by decide) (by decide) f11
  have h2 : fld 4 2 (put 19 d (put 12 a (put 5 b 0xDC00A002))) = 0 := fld_put_below (by decide) (by decide) f14
  have h3 : fld 11 9 (put 19 d (put 12 a (put 5 b 0xDC00A002))) = 0 := fld_put_below (by decide) (by decide) f17
  have h4 : fld 18 13 (put 19 d (put 12 a (put 5 b 0xDC00A002))) = 5 := fld_put_below (by decide) (by decide) f20
  have h5 : BitVec.ofNat 7 (fld 25 19 (put 19 d (put 12 a (put 5 b 0xDC00A002)))) = d := ofNat_fld (fld_put_eq rfl f5)
  have h6 : BitVec.ofNat 1 (fld 12 12 (put 19 d (put 12 a (put 5 b 0xDC00A002)))) = a := ofNat_fld (fld_put_below (by decide) (by decide) f21)
  have h7 : BitVec.ofNat 4 (fld 8 5 (put 19 d (put 12 a (put 5 b 0xDC00A002)))) = b := ofNat_fld (fld_put_below (by decide) (by decide) f23)
  rw [decodeWord_37 h0]
  simp [decodeOp37, h1, h2, h3, h4, h5, h6, h7]

theorem Sys2Proof.Laws.Encodes.trap (n : BitVec 7) :
    Sys2Proof.Laws.Encodes.Statement (.trap n) := by
  rintro w ⟨⟩
  have f0 : fld 11 5 0xDC000003 = 0 := rfl
  have f1 : fld 31 26 0xDC000003 = 55 := rfl
  have f2 : fld 1 0 0xDC000003 = 3 := rfl
  have f3 : fld 4 2 0xDC000003 = 0 := rfl
  have f4 : fld 25 12 0xDC000003 = 0 := rfl
  have h0 : fld 31 26 (put 5 n 0xDC000003) = 55 := fld_put_above (by decide) (by decide) f0 f1
  have h1 : fld 1 0 (put 5 n 0xDC000003) = 3 := fld_put_below (by decide) (by decide) f2
  have h2 : fld 4 2 (put 5 n 0xDC000003) = 0 := fld_put_below (by decide) (by decide) f3
  have h4 : fld 25 12 (put 5 n 0xDC000003) = 0 := fld_put_above (by decide) (by decide) f0 f4
  have h5 : BitVec.ofNat 7 (fld 11 5 (put 5 n 0xDC000003)) = n := ofNat_fld (fld_put_eq rfl f0)
  rw [decodeWord_37 h0]
  simp [decodeOp37, h1, h2, h4, h5]

theorem Sys2Proof.Laws.Encodes.pemit (d : BitVec 7) (a : BitVec 7) (b : BitVec 7) :
    Sys2Proof.Laws.Encodes.Statement (.pemit d a b) := by
  rintro w ⟨⟩
  have f0 : fld 11 5 0xE0000000 = 0 := rfl
  have f1 : fld 18 12 0xE0000000 = 0 := rfl
  have f2 : fld 18 12 (put 5 b 0xE0000000) = 0 := fld_put_above (by decide) (by decide) f0 f1
  have f3 : fld 25 19 0xE0000000 = 0 := rfl
  have f4 : fld 25 19 (put 5 b 0xE0000000) = 0 := fld_put_above (by decide) (by decide) f0 f3
  have f5 : fld 25 19 (put 12 a (put 5 b 0xE0000000)) = 0 := fld_put_above (by decide) (by decide) f2 f4
  have f6 : fld 31 26 0xE0000000 = 56 := rfl
  have f7 : fld 31 26 (put 5 b 0xE0000000) = 56 := fld_put_above (by decide) (by decide) f0 f6
  have f8 : fld 31 26 (put 12 a (put 5 b 0xE0000000)) = 56 := fld_put_above (by decide) (by decide) f2 f7
  have f9 : fld 1 0 0xE0000000 = 0 := rfl
  have f10 : fld 1 0 (put 5 b 0xE0000000) = 0 := fld_put_below (by decide) (by decide) f9
  have f11 : fld 1 0 (put 12 a (put 5 b 0xE0000000)) = 0 := fld_put_below (by decide) (by decide) f10
  have f12 : fld 4 2 0xE0000000 = 0 := rfl
  have f13 : fld 4 2 (put 5 b 0xE0000000) = 0 := fld_put_below (by decide) (by decide) f12
  have f14 : fld 4 2 (put 12 a (put 5 b 0xE0000000)) = 0 := fld_put_below (by decide) (by decide) f13
  have f15 : fld 18 12 (put 12 a (put 5 b 0xE0000000)) = a.toNat := fld_put_eq rfl f2
  have f16 : fld 11 5 (put 5 b 0xE0000000) = b.toNat := fld_put_eq rfl f0
  have f17 : fld 11 5 (put 12 a (put 5 b 0xE0000000)) = b.toNat := fld_put_below (by decide) (by decide) f16
  have h0 : fld 31 26 (put 19 d (put 12 a (put 5 b 0xE0000000))) = 56 := fld_put_above (by decide) (by decide) f5 f8
  have h1 : fld 1 0 (put 19 d (put 12 a (put 5 b 0xE0000000))) = 0 := fld_put_below (by decide) (by decide) f11
  have h2 : fld 4 2 (put 19 d (put 12 a (put 5 b 0xE0000000))) = 0 := fld_put_below (by decide) (by decide) f14
  have h3 : BitVec.ofNat 7 (fld 25 19 (put 19 d (put 12 a (put 5 b 0xE0000000)))) = d := ofNat_fld (fld_put_eq rfl f5)
  have h4 : BitVec.ofNat 7 (fld 18 12 (put 19 d (put 12 a (put 5 b 0xE0000000)))) = a := ofNat_fld (fld_put_below (by decide) (by decide) f15)
  have h5 : BitVec.ofNat 7 (fld 11 5 (put 19 d (put 12 a (put 5 b 0xE0000000)))) = b := ofNat_fld (fld_put_below (by decide) (by decide) f17)
  rw [decodeWord_38 h0]
  simp [decodeOp38, h1, h2, h3, h4, h5]

theorem Sys2Proof.Laws.Encodes.pemitEnd (a : BitVec 7) :
    Sys2Proof.Laws.Encodes.Statement (.pemitEnd a) := by
  rintro w ⟨⟩
  have f0 : fld 18 12 0xE0000004 = 0 := rfl
  have f1 : fld 31 26 0xE0000004 = 56 := rfl
  have f2 : fld 1 0 0xE0000004 = 0 := rfl
  have f3 : fld 4 2 0xE0000004 = 1 := rfl
  have f4 : fld 11 2 0xE0000004 = 1 := rfl
  have f5 : fld 25 19 0xE0000004 = 0 := rfl
  have h0 : fld 31 26 (put 12 a 0xE0000004) = 56 := fld_put_above (by decide) (by decide) f0 f1
  have h1 : fld 1 0 (put 12 a 0xE0000004) = 0 := fld_put_below (by decide) (by decide) f2
  have h2 : fld 4 2 (put 12 a 0xE0000004) = 1 := fld_put_below (by decide) (by decide) f3
  have h3 : fld 11 2 (put 12 a 0xE0000004) = 1 := fld_put_below (by decide) (by decide) f4
  have h5 : fld 25 19 (put 12 a 0xE0000004) = 0 := fld_put_above (by decide) (by decide) f0 f5
  have h6 : BitVec.ofNat 7 (fld 18 12 (put 12 a 0xE0000004)) = a := ofNat_fld (fld_put_eq rfl f0)
  rw [decodeWord_38 h0]
  simp [decodeOp38, h1, h2, h3, h5, h6]

theorem Sys2Proof.Laws.Encodes.pattr (a : BitVec 7) (j : BitVec 3) :
    Sys2Proof.Laws.Encodes.Statement (.pattr a j) := by
  rintro w ⟨⟩
  have f0 : fld 7 5 0xE0000019 = 0 := rfl
  have f1 : fld 18 12 0xE0000019 = 0 := rfl
  have f2 : fld 18 12 (put 5 j 0xE0000019) = 0 := fld_put_above (by decide) (by decide) f0 f1
  have f3 : fld 31 26 0xE0000019 = 56 := rfl
  have f4 : fld 31 26 (put 5 j 0xE0000019) = 56 := fld_put_above (by decide) (by decide) f0 f3
  have f5 : fld 1 0 0xE0000019 = 1 := rfl
  have f6 : fld 1 0 (put 5 j 0xE0000019) = 1 := fld_put_below (by decide) (by decide) f5
  have f7 : fld 4 2 0xE0000019 = 6 := rfl
  have f8 : fld 4 2 (put 5 j 0xE0000019) = 6 := fld_put_below (by decide) (by decide) f7
  have f9 : fld 11 8 0xE0000019 = 0 := rfl
  have f10 : fld 11 8 (put 5 j 0xE0000019) = 0 := fld_put_above (by decide) (by decide) f0 f9
  have f11 : fld 25 19 0xE0000019 = 0 := rfl
  have f12 : fld 25 19 (put 5 j 0xE0000019) = 0 := fld_put_above (by decide) (by decide) f0 f11
  have f13 : fld 7 5 (put 5 j 0xE0000019) = j.toNat := fld_put_eq rfl f0
  have h0 : fld 31 26 (put 12 a (put 5 j 0xE0000019)) = 56 := fld_put_above (by decide) (by decide) f2 f4
  have h1 : fld 1 0 (put 12 a (put 5 j 0xE0000019)) = 1 := fld_put_below (by decide) (by decide) f6
  have h2 : fld 4 2 (put 12 a (put 5 j 0xE0000019)) = 6 := fld_put_below (by decide) (by decide) f8
  have h3 : fld 11 8 (put 12 a (put 5 j 0xE0000019)) = 0 := fld_put_below (by decide) (by decide) f10
  have h4 : fld 25 19 (put 12 a (put 5 j 0xE0000019)) = 0 := fld_put_above (by decide) (by decide) f2 f12
  have h5 : BitVec.ofNat 7 (fld 18 12 (put 12 a (put 5 j 0xE0000019))) = a := ofNat_fld (fld_put_eq rfl f2)
  have h6 : BitVec.ofNat 3 (fld 7 5 (put 12 a (put 5 j 0xE0000019))) = j := ofNat_fld (fld_put_below (by decide) (by decide) f13)
  rw [decodeWord_38 h0]
  simp [decodeOp38, h1, h2, h3, h4, h5, h6]

theorem Sys2Proof.Laws.Encodes.pcov (d : BitVec 7) (c : BitVec 4) :
    Sys2Proof.Laws.Encodes.Statement (.pcov d c) := by
  rintro w ⟨⟩
  have f0 : fld 8 5 0xE0000002 = 0 := rfl
  have f1 : fld 25 19 0xE0000002 = 0 := rfl
  have f2 : fld 25 19 (put 5 c 0xE0000002) = 0 := fld_put_above (by decide) (by decide) f0 f1
  have f3 : fld 31 26 0xE0000002 = 56 := rfl
  have f4 : fld 31 26 (put 5 c 0xE0000002) = 56 := fld_put_above (by decide) (by decide) f0 f3
  have f5 : fld 1 0 0xE0000002 = 2 := rfl
  have f6 : fld 1 0 (put 5 c 0xE0000002) = 2 := fld_put_below (by decide) (by decide) f5
  have f7 : fld 4 2 0xE0000002 = 0 := rfl
  have f8 : fld 4 2 (put 5 c 0xE0000002) = 0 := fld_put_below (by decide) (by decide) f7
  have f9 : fld 18 9 0xE0000002 = 0 := rfl
  have f10 : fld 18 9 (put 5 c 0xE0000002) = 0 := fld_put_above (by decide) (by decide) f0 f9
  have f11 : fld 8 5 (put 5 c 0xE0000002) = c.toNat := fld_put_eq rfl f0
  have h0 : fld 31 26 (put 19 d (put 5 c 0xE0000002)) = 56 := fld_put_above (by decide) (by decide) f2 f4
  have h1 : fld 1 0 (put 19 d (put 5 c 0xE0000002)) = 2 := fld_put_below (by decide) (by decide) f6
  have h2 : fld 4 2 (put 19 d (put 5 c 0xE0000002)) = 0 := fld_put_below (by decide) (by decide) f8
  have h3 : fld 18 9 (put 19 d (put 5 c 0xE0000002)) = 0 := fld_put_below (by decide) (by decide) f10
  have h4 : BitVec.ofNat 7 (fld 25 19 (put 19 d (put 5 c 0xE0000002))) = d := ofNat_fld (fld_put_eq rfl f2)
  have h5 : BitVec.ofNat 4 (fld 8 5 (put 19 d (put 5 c 0xE0000002))) = c := ofNat_fld (fld_put_below (by decide) (by decide) f11)
  rw [decodeWord_38 h0]
  simp [decodeOp38, h1, h2, h3, h4, h5]

theorem Sys2Proof.Laws.Encodes.pexp (a : BitVec 7) :
    Sys2Proof.Laws.Encodes.Statement (.pexp a) := by
  rintro w ⟨⟩
  have f0 : fld 18 12 0xE0000003 = 0 := rfl
  have f1 : fld 31 26 0xE0000003 = 56 := rfl
  have f2 : fld 1 0 0xE0000003 = 3 := rfl
  have f3 : fld 11 2 0xE0000003 = 0 := rfl
  have f4 : fld 25 19 0xE0000003 = 0 := rfl
  have h0 : fld 31 26 (put 12 a 0xE0000003) = 56 := fld_put_above (by decide) (by decide) f0 f1
  have h1 : fld 1 0 (put 12 a 0xE0000003) = 3 := fld_put_below (by decide) (by decide) f2
  have h3 : fld 11 2 (put 12 a 0xE0000003) = 0 := fld_put_below (by decide) (by decide) f3
  have h5 : fld 25 19 (put 12 a 0xE0000003) = 0 := fld_put_above (by decide) (by decide) f0 f4
  have h6 : BitVec.ofNat 7 (fld 18 12 (put 12 a 0xE0000003)) = a := ofNat_fld (fld_put_eq rfl f0)
  rw [decodeWord_38 h0]
  simp [decodeOp38, h1, h3, h5, h6]

theorem Sys2Proof.Laws.Encodes.pkill :
    Sys2Proof.Laws.Encodes.Statement (.pkill) := by
  rintro w ⟨⟩
  decide

theorem Sys2Proof.Laws.Encodes.pdepth (a : BitVec 7) :
    Sys2Proof.Laws.Encodes.Statement (.pdepth a) := by
  rintro w ⟨⟩
  have f0 : fld 18 12 0xE4000001 = 0 := rfl
  have f1 : fld 31 26 0xE4000001 = 57 := rfl
  have f2 : fld 1 0 0xE4000001 = 1 := rfl
  have f3 : fld 11 2 0xE4000001 = 0 := rfl
  have f4 : fld 25 19 0xE4000001 = 0 := rfl
  have h0 : fld 31 26 (put 12 a 0xE4000001) = 57 := fld_put_above (by decide) (by decide) f0 f1
  have h1 : fld 1 0 (put 12 a 0xE4000001) = 1 := fld_put_below (by decide) (by decide) f2
  have h2 : fld 11 2 (put 12 a 0xE4000001) = 0 := fld_put_below (by decide) (by decide) f3
  have h3 : fld 25 19 (put 12 a 0xE4000001) = 0 := fld_put_above (by decide) (by decide) f0 f4
  have h4 : BitVec.ofNat 7 (fld 18 12 (put 12 a 0xE4000001)) = a := ofNat_fld (fld_put_eq rfl f0)
  rw [decodeWord_39 h0]
  simp [decodeOp39, h1, h2, h3, h4]

theorem Sys2Proof.Laws.Encodes.csrrd (d : BitVec 7) (b : BitVec 7) :
    Sys2Proof.Laws.Encodes.Statement (.csrrd d b) := by
  rintro w ⟨⟩
  have f0 : fld 11 5 0xE8000000 = 0 := rfl
  have f1 : fld 25 19 0xE8000000 = 0 := rfl
  have f2 : fld 25 19 (put 5 b 0xE8000000) = 0 := fld_put_above (by decide) (by decide) f0 f1
  have f3 : fld 31 26 0xE8000000 = 58 := rfl
  have f4 : fld 31 26 (put 5 b 0xE8000000) = 58 := fld_put_above (by decide) (by decide) f0 f3
  have f5 : fld 1 0 0xE8000000 = 0 := rfl
  have f6 : fld 1 0 (put 5 b 0xE8000000) = 0 := fld_put_below (by decide) (by decide) f5
  have f7 : fld 4 2 0xE8000000 = 0 := rfl
  have f8 : fld 4 2 (put 5 b 0xE8000000) = 0 := fld_put_below (by decide) (by decide) f7
  have f9 : fld 18 12 0xE8000000 = 0 := rfl
  have f10 : fld 18 12 (put 5 b 0xE8000000) = 0 := fld_put_above (by decide) (by decide) f0 f9
  have f11 : fld 11 5 (put 5 b 0xE8000000) = b.toNat := fld_put_eq rfl f0
  have h0 : fld 31 26 (put 19 d (put 5 b 0xE8000000)) = 58 := fld_put_above (by decide) (by decide) f2 f4
  have h1 : fld 1 0 (put 19 d (put 5 b 0xE8000000)) = 0 := fld_put_below (by decide) (by decide) f6
  have h2 : fld 4 2 (put 19 d (put 5 b 0xE8000000)) = 0 := fld_put_below (by decide) (by decide) f8
  have h3 : fld 18 12 (put 19 d (put 5 b 0xE8000000)) = 0 := fld_put_below (by decide) (by decide) f10
  have h4 : BitVec.ofNat 7 (fld 25 19 (put 19 d (put 5 b 0xE8000000))) = d := ofNat_fld (fld_put_eq rfl f2)
  have h5 : BitVec.ofNat 7 (fld 11 5 (put 19 d (put 5 b 0xE8000000))) = b := ofNat_fld (fld_put_below (by decide) (by decide) f11)
  rw [decodeWord_3A h0]
  simp [decodeOp3A, h1, h2, h3, h4, h5]

theorem Sys2Proof.Laws.Encodes.csrwr (a : BitVec 7) (b : BitVec 7) :
    Sys2Proof.Laws.Encodes.Statement (.csrwr a b) := by
  rintro w ⟨⟩
  have f0 : fld 11 5 0xE8000001 = 0 := rfl
  have f1 : fld 18 12 0xE8000001 = 0 := rfl
  have f2 : fld 18 12 (put 5 b 0xE8000001) = 0 := fld_put_above (by decide) (by decide) f0 f1
  have f3 : fld 31 26 0xE8000001 = 58 := rfl
  have f4 : fld 31 26 (put 5 b 0xE8000001) = 58 := fld_put_above (by decide) (by decide) f0 f3
  have f5 : fld 1 0 0xE8000001 = 1 := rfl
  have f6 : fld 1 0 (put 5 b 0xE8000001) = 1 := fld_put_below (by decide) (by decide) f5
  have f7 : fld 4 2 0xE8000001 = 0 := rfl
  have f8 : fld 4 2 (put 5 b 0xE8000001) = 0 := fld_put_below (by decide) (by decide) f7
  have f9 : fld 25 19 0xE8000001 = 0 := rfl
  have f10 : fld 25 19 (put 5 b 0xE8000001) = 0 := fld_put_above (by decide) (by decide) f0 f9
  have f11 : fld 11 5 (put 5 b 0xE8000001) = b.toNat := fld_put_eq rfl f0
  have h0 : fld 31 26 (put 12 a (put 5 b 0xE8000001)) = 58 := fld_put_above (by decide) (by decide) f2 f4
  have h1 : fld 1 0 (put 12 a (put 5 b 0xE8000001)) = 1 := fld_put_below (by decide) (by decide) f6
  have h2 : fld 4 2 (put 12 a (put 5 b 0xE8000001)) = 0 := fld_put_below (by decide) (by decide) f8
  have h3 : fld 25 19 (put 12 a (put 5 b 0xE8000001)) = 0 := fld_put_above (by decide) (by decide) f2 f10
  have h4 : BitVec.ofNat 7 (fld 18 12 (put 12 a (put 5 b 0xE8000001))) = a := ofNat_fld (fld_put_eq rfl f2)
  have h5 : BitVec.ofNat 7 (fld 11 5 (put 12 a (put 5 b 0xE8000001))) = b := ofNat_fld (fld_put_below (by decide) (by decide) f11)
  rw [decodeWord_3A h0]
  simp [decodeOp3A, h1, h2, h3, h4, h5]

theorem Sys2Proof.Laws.Encodes.csrwrSet (a : BitVec 7) (b : BitVec 7) :
    Sys2Proof.Laws.Encodes.Statement (.csrwrSet a b) := by
  rintro w ⟨⟩
  have f0 : fld 11 5 0xE8000005 = 0 := rfl
  have f1 : fld 18 12 0xE8000005 = 0 := rfl
  have f2 : fld 18 12 (put 5 b 0xE8000005) = 0 := fld_put_above (by decide) (by decide) f0 f1
  have f3 : fld 31 26 0xE8000005 = 58 := rfl
  have f4 : fld 31 26 (put 5 b 0xE8000005) = 58 := fld_put_above (by decide) (by decide) f0 f3
  have f5 : fld 1 0 0xE8000005 = 1 := rfl
  have f6 : fld 1 0 (put 5 b 0xE8000005) = 1 := fld_put_below (by decide) (by decide) f5
  have f7 : fld 4 2 0xE8000005 = 1 := rfl
  have f8 : fld 4 2 (put 5 b 0xE8000005) = 1 := fld_put_below (by decide) (by decide) f7
  have f9 : fld 25 19 0xE8000005 = 0 := rfl
  have f10 : fld 25 19 (put 5 b 0xE8000005) = 0 := fld_put_above (by decide) (by decide) f0 f9
  have f11 : fld 11 5 (put 5 b 0xE8000005) = b.toNat := fld_put_eq rfl f0
  have h0 : fld 31 26 (put 12 a (put 5 b 0xE8000005)) = 58 := fld_put_above (by decide) (by decide) f2 f4
  have h1 : fld 1 0 (put 12 a (put 5 b 0xE8000005)) = 1 := fld_put_below (by decide) (by decide) f6
  have h2 : fld 4 2 (put 12 a (put 5 b 0xE8000005)) = 1 := fld_put_below (by decide) (by decide) f8
  have h3 : fld 25 19 (put 12 a (put 5 b 0xE8000005)) = 0 := fld_put_above (by decide) (by decide) f2 f10
  have h4 : BitVec.ofNat 7 (fld 18 12 (put 12 a (put 5 b 0xE8000005))) = a := ofNat_fld (fld_put_eq rfl f2)
  have h5 : BitVec.ofNat 7 (fld 11 5 (put 12 a (put 5 b 0xE8000005))) = b := ofNat_fld (fld_put_below (by decide) (by decide) f11)
  rw [decodeWord_3A h0]
  simp [decodeOp3A, h1, h2, h3, h4, h5]

theorem Sys2Proof.Laws.Encodes.csrwrClr (a : BitVec 7) (b : BitVec 7) :
    Sys2Proof.Laws.Encodes.Statement (.csrwrClr a b) := by
  rintro w ⟨⟩
  have f0 : fld 11 5 0xE8000009 = 0 := rfl
  have f1 : fld 18 12 0xE8000009 = 0 := rfl
  have f2 : fld 18 12 (put 5 b 0xE8000009) = 0 := fld_put_above (by decide) (by decide) f0 f1
  have f3 : fld 31 26 0xE8000009 = 58 := rfl
  have f4 : fld 31 26 (put 5 b 0xE8000009) = 58 := fld_put_above (by decide) (by decide) f0 f3
  have f5 : fld 1 0 0xE8000009 = 1 := rfl
  have f6 : fld 1 0 (put 5 b 0xE8000009) = 1 := fld_put_below (by decide) (by decide) f5
  have f7 : fld 4 2 0xE8000009 = 2 := rfl
  have f8 : fld 4 2 (put 5 b 0xE8000009) = 2 := fld_put_below (by decide) (by decide) f7
  have f9 : fld 25 19 0xE8000009 = 0 := rfl
  have f10 : fld 25 19 (put 5 b 0xE8000009) = 0 := fld_put_above (by decide) (by decide) f0 f9
  have f11 : fld 11 5 (put 5 b 0xE8000009) = b.toNat := fld_put_eq rfl f0
  have h0 : fld 31 26 (put 12 a (put 5 b 0xE8000009)) = 58 := fld_put_above (by decide) (by decide) f2 f4
  have h1 : fld 1 0 (put 12 a (put 5 b 0xE8000009)) = 1 := fld_put_below (by decide) (by decide) f6
  have h2 : fld 4 2 (put 12 a (put 5 b 0xE8000009)) = 2 := fld_put_below (by decide) (by decide) f8
  have h3 : fld 25 19 (put 12 a (put 5 b 0xE8000009)) = 0 := fld_put_above (by decide) (by decide) f2 f10
  have h4 : BitVec.ofNat 7 (fld 18 12 (put 12 a (put 5 b 0xE8000009))) = a := ofNat_fld (fld_put_eq rfl f2)
  have h5 : BitVec.ofNat 7 (fld 11 5 (put 12 a (put 5 b 0xE8000009))) = b := ofNat_fld (fld_put_below (by decide) (by decide) f11)
  rw [decodeWord_3A h0]
  simp [decodeOp3A, h1, h2, h3, h4, h5]

theorem Sys2Proof.Laws.Encodes.tlbinv (a : BitVec 7) (b : BitVec 7) :
    Sys2Proof.Laws.Encodes.Statement (.tlbinv a b) := by
  rintro w ⟨⟩
  have f0 : fld 11 5 0xE8000002 = 0 := rfl
  have f1 : fld 18 12 0xE8000002 = 0 := rfl
  have f2 : fld 18 12 (put 5 b 0xE8000002) = 0 := fld_put_above (by decide) (by decide) f0 f1
  have f3 : fld 31 26 0xE8000002 = 58 := rfl
  have f4 : fld 31 26 (put 5 b 0xE8000002) = 58 := fld_put_above (by decide) (by decide) f0 f3
  have f5 : fld 1 0 0xE8000002 = 2 := rfl
  have f6 : fld 1 0 (put 5 b 0xE8000002) = 2 := fld_put_below (by decide) (by decide) f5
  have f7 : fld 4 2 0xE8000002 = 0 := rfl
  have f8 : fld 4 2 (put 5 b 0xE8000002) = 0 := fld_put_below (by decide) (by decide) f7
  have f9 : fld 25 19 0xE8000002 = 0 := rfl
  have f10 : fld 25 19 (put 5 b 0xE8000002) = 0 := fld_put_above (by decide) (by decide) f0 f9
  have f11 : fld 11 5 (put 5 b 0xE8000002) = b.toNat := fld_put_eq rfl f0
  have h0 : fld 31 26 (put 12 a (put 5 b 0xE8000002)) = 58 := fld_put_above (by decide) (by decide) f2 f4
  have h1 : fld 1 0 (put 12 a (put 5 b 0xE8000002)) = 2 := fld_put_below (by decide) (by decide) f6
  have h2 : fld 4 2 (put 12 a (put 5 b 0xE8000002)) = 0 := fld_put_below (by decide) (by decide) f8
  have h3 : fld 25 19 (put 12 a (put 5 b 0xE8000002)) = 0 := fld_put_above (by decide) (by decide) f2 f10
  have h4 : BitVec.ofNat 7 (fld 18 12 (put 12 a (put 5 b 0xE8000002))) = a := ofNat_fld (fld_put_eq rfl f2)
  have h5 : BitVec.ofNat 7 (fld 11 5 (put 12 a (put 5 b 0xE8000002))) = b := ofNat_fld (fld_put_below (by decide) (by decide) f11)
  rw [decodeWord_3A h0]
  simp [decodeOp3A, h1, h2, h3, h4, h5]

theorem Sys2Proof.Laws.Encodes.tlbinvAsn :
    Sys2Proof.Laws.Encodes.Statement (.tlbinvAsn) := by
  rintro w ⟨⟩
  decide

theorem Sys2Proof.Laws.Encodes.eret :
    Sys2Proof.Laws.Encodes.Statement (.eret) := by
  rintro w ⟨⟩
  decide

theorem Sys2Proof.Laws.Encodes.snap (d : BitVec 7) (a : BitVec 7) :
    Sys2Proof.Laws.Encodes.Statement (.snap d a) := by
  rintro w ⟨⟩
  have f0 : fld 18 12 0xEC000000 = 0 := rfl
  have f1 : fld 25 19 0xEC000000 = 0 := rfl
  have f2 : fld 25 19 (put 12 a 0xEC000000) = 0 := fld_put_above (by decide) (by decide) f0 f1
  have f3 : fld 31 26 0xEC000000 = 59 := rfl
  have f4 : fld 31 26 (put 12 a 0xEC000000) = 59 := fld_put_above (by decide) (by decide) f0 f3
  have f5 : fld 1 0 0xEC000000 = 0 := rfl
  have f6 : fld 1 0 (put 12 a 0xEC000000) = 0 := fld_put_below (by decide) (by decide) f5
  have f7 : fld 11 2 0xEC000000 = 0 := rfl
  have f8 : fld 11 2 (put 12 a 0xEC000000) = 0 := fld_put_below (by decide) (by decide) f7
  have f9 : fld 18 12 (put 12 a 0xEC000000) = a.toNat := fld_put_eq rfl f0
  have h0 : fld 31 26 (put 19 d (put 12 a 0xEC000000)) = 59 := fld_put_above (by decide) (by decide) f2 f4
  have h1 : fld 1 0 (put 19 d (put 12 a 0xEC000000)) = 0 := fld_put_below (by decide) (by decide) f6
  have h2 : fld 11 2 (put 19 d (put 12 a 0xEC000000)) = 0 := fld_put_below (by decide) (by decide) f8
  have h3 : BitVec.ofNat 7 (fld 25 19 (put 19 d (put 12 a 0xEC000000))) = d := ofNat_fld (fld_put_eq rfl f2)
  have h4 : BitVec.ofNat 7 (fld 18 12 (put 19 d (put 12 a 0xEC000000))) = a := ofNat_fld (fld_put_below (by decide) (by decide) f9)
  rw [decodeWord_3B h0]
  simp [decodeOp3B, h1, h2, h3, h4]

theorem Sys2Proof.Laws.Encodes.waitt (d : BitVec 7) (a : BitVec 7) :
    Sys2Proof.Laws.Encodes.Statement (.waitt d a) := by
  rintro w ⟨⟩
  have f0 : fld 18 12 0xEC000001 = 0 := rfl
  have f1 : fld 25 19 0xEC000001 = 0 := rfl
  have f2 : fld 25 19 (put 12 a 0xEC000001) = 0 := fld_put_above (by decide) (by decide) f0 f1
  have f3 : fld 31 26 0xEC000001 = 59 := rfl
  have f4 : fld 31 26 (put 12 a 0xEC000001) = 59 := fld_put_above (by decide) (by decide) f0 f3
  have f5 : fld 1 0 0xEC000001 = 1 := rfl
  have f6 : fld 1 0 (put 12 a 0xEC000001) = 1 := fld_put_below (by decide) (by decide) f5
  have f7 : fld 11 2 0xEC000001 = 0 := rfl
  have f8 : fld 11 2 (put 12 a 0xEC000001) = 0 := fld_put_below (by decide) (by decide) f7
  have f9 : fld 18 12 (put 12 a 0xEC000001) = a.toNat := fld_put_eq rfl f0
  have h0 : fld 31 26 (put 19 d (put 12 a 0xEC000001)) = 59 := fld_put_above (by decide) (by decide) f2 f4
  have h1 : fld 1 0 (put 19 d (put 12 a 0xEC000001)) = 1 := fld_put_below (by decide) (by decide) f6
  have h2 : fld 11 2 (put 19 d (put 12 a 0xEC000001)) = 0 := fld_put_below (by decide) (by decide) f8
  have h3 : BitVec.ofNat 7 (fld 25 19 (put 19 d (put 12 a 0xEC000001))) = d := ofNat_fld (fld_put_eq rfl f2)
  have h4 : BitVec.ofNat 7 (fld 18 12 (put 19 d (put 12 a 0xEC000001))) = a := ofNat_fld (fld_put_below (by decide) (by decide) f9)
  rw [decodeWord_3B h0]
  simp [decodeOp3B, h1, h2, h3, h4]

theorem Sys2Proof.Laws.Encodes.clauseFetch (a0 : Nat) (a1 : Nat) (a2 : Nat) :
    Sys2Proof.Laws.Encodes.Statement (.clauseFetch a0 a1 a2) := by
  rintro w ⟨⟩

theorem Sys2Proof.Laws.Encodes.clauseConditionsMet (a0 : Nat) (a1 : Nat) (a2 : Nat) :
    Sys2Proof.Laws.Encodes.Statement (.clauseConditionsMet a0 a1 a2) := by
  rintro w ⟨⟩

theorem Sys2Proof.Laws.Encodes.waitingWordResume (a0 : Nat) (a1 : Nat) (a2 : Nat) :
    Sys2Proof.Laws.Encodes.Statement (.waitingWordResume a0 a1 a2) := by
  rintro w ⟨⟩

theorem Sys2Proof.Laws.Encodes.fairnessTimerExpiry (a0 : Nat) (a1 : Nat) (a2 : Nat) :
    Sys2Proof.Laws.Encodes.Statement (.fairnessTimerExpiry a0 a1 a2) := by
  rintro w ⟨⟩

theorem Sys2Proof.Laws.Encodes.yieldTimeout (a0 : Nat) (a1 : Nat) (a2 : Nat) :
    Sys2Proof.Laws.Encodes.Statement (.yieldTimeout a0 a1 a2) := by
  rintro w ⟨⟩

theorem Sys2Proof.Laws.Encodes.wcEntryDrain (a0 : Nat) (a1 : Nat) :
    Sys2Proof.Laws.Encodes.Statement (.wcEntryDrain a0 a1) := by
  rintro w ⟨⟩

theorem Sys2Proof.Laws.Encodes.wcIdleTimeout (a0 : Nat) (a1 : Nat) :
    Sys2Proof.Laws.Encodes.Statement (.wcIdleTimeout a0 a1) := by
  rintro w ⟨⟩

theorem Sys2Proof.Laws.Encodes.storeForwardHome (a0 : Nat) :
    Sys2Proof.Laws.Encodes.Statement (.storeForwardHome a0) := by
  rintro w ⟨⟩

theorem Sys2Proof.Laws.Encodes.waitcmpPoll (a0 : Nat) (a1 : Nat) (a2 : Nat) :
    Sys2Proof.Laws.Encodes.Statement (.waitcmpPoll a0 a1 a2) := by
  rintro w ⟨⟩

theorem Sys2Proof.Laws.Encodes.waitcmpDeadline (a0 : Nat) (a1 : Nat) (a2 : Nat) :
    Sys2Proof.Laws.Encodes.Statement (.waitcmpDeadline a0 a1 a2) := by
  rintro w ⟨⟩

theorem Sys2Proof.Laws.Encodes.parkSwapTimeout (a0 : Nat) :
    Sys2Proof.Laws.Encodes.Statement (.parkSwapTimeout a0) := by
  rintro w ⟨⟩

theorem Sys2Proof.Laws.Encodes.waittWake (a0 : Nat) (a1 : Nat) (a2 : Nat) :
    Sys2Proof.Laws.Encodes.Statement (.waittWake a0 a1 a2) := by
  rintro w ⟨⟩

theorem Sys2Proof.Laws.Encodes.l2Reencode (a0 : Nat) :
    Sys2Proof.Laws.Encodes.Statement (.l2Reencode a0) := by
  rintro w ⟨⟩

theorem Sys2Proof.Laws.Encodes.clampGrant (a0 : Nat) (a1 : Nat) (a2 : Nat) :
    Sys2Proof.Laws.Encodes.Statement (.clampGrant a0 a1 a2) := by
  rintro w ⟨⟩

theorem Sys2Proof.Laws.Encodes.lineMigration (a0 : Nat) (a1 : Nat) :
    Sys2Proof.Laws.Encodes.Statement (.lineMigration a0 a1) := by
  rintro w ⟨⟩

theorem Sys2Proof.Laws.Encodes.migrationFinish (a0 : Nat) (a1 : BitVec 64) (a2 : Nat) :
    Sys2Proof.Laws.Encodes.Statement (.migrationFinish a0 a1 a2) := by
  rintro w ⟨⟩

theorem Sys2Proof.Laws.Encodes.forwardedAccess (a0 : Nat) :
    Sys2Proof.Laws.Encodes.Statement (.forwardedAccess a0) := by
  rintro w ⟨⟩

theorem Sys2Proof.Laws.Encodes.shootdown (a0 : Nat) (a1 : BitVec 64) (a2 : Nat) (a3 : Nat) :
    Sys2Proof.Laws.Encodes.Statement (.shootdown a0 a1 a2 a3) := by
  rintro w ⟨⟩

theorem Sys2Proof.Laws.Encodes.hostSnoop (a0 : Nat) (a1 : Bool) :
    Sys2Proof.Laws.Encodes.Statement (.hostSnoop a0 a1) := by
  rintro w ⟨⟩

theorem Sys2Proof.Laws.Encodes.objectDeclare (a0 : Nat) (a1 : Nat) (a2 : BitVec 64) :
    Sys2Proof.Laws.Encodes.Statement (.objectDeclare a0 a1 a2) := by
  rintro w ⟨⟩

theorem Sys2Proof.Laws.Encodes.objectSetState (a0 : Nat) (a1 : Nat) (a2 : BitVec 64) :
    Sys2Proof.Laws.Encodes.Statement (.objectSetState a0 a1 a2) := by
  rintro w ⟨⟩

theorem Sys2Proof.Laws.Encodes.objectRemove (a0 : Nat) (a1 : Nat) (a2 : BitVec 64) :
    Sys2Proof.Laws.Encodes.Statement (.objectRemove a0 a1 a2) := by
  rintro w ⟨⟩

theorem Sys2Proof.Laws.Encodes.l2DomainReset (a0 : Nat) :
    Sys2Proof.Laws.Encodes.Statement (.l2DomainReset a0) := by
  rintro w ⟨⟩

theorem Sys2Proof.Laws.Encodes.coreDomainReset (a0 : Nat) :
    Sys2Proof.Laws.Encodes.Statement (.coreDomainReset a0) := by
  rintro w ⟨⟩

theorem Sys2Proof.Laws.Encodes.copyCommandStart (a0 : Nat) :
    Sys2Proof.Laws.Encodes.Statement (.copyCommandStart a0) := by
  rintro w ⟨⟩

theorem Sys2Proof.Laws.Encodes.copyElementWrite (a0 : Nat) :
    Sys2Proof.Laws.Encodes.Statement (.copyElementWrite a0) := by
  rintro w ⟨⟩

theorem Sys2Proof.Laws.Encodes.engineShootdownResume (a0 : Nat) :
    Sys2Proof.Laws.Encodes.Statement (.engineShootdownResume a0) := by
  rintro w ⟨⟩

theorem Sys2Proof.Laws.Encodes.copyComplete (a0 : Nat) :
    Sys2Proof.Laws.Encodes.Statement (.copyComplete a0) := by
  rintro w ⟨⟩

theorem Sys2Proof.Laws.Encodes.completionQueuePush (a0 : Nat) :
    Sys2Proof.Laws.Encodes.Statement (.completionQueuePush a0) := by
  rintro w ⟨⟩

theorem Sys2Proof.Laws.Encodes.streamGatherPrefetch (a0 : Nat) (a1 : Nat) (a2 : Nat) :
    Sys2Proof.Laws.Encodes.Statement (.streamGatherPrefetch a0 a1 a2) := by
  rintro w ⟨⟩

theorem Sys2Proof.Laws.Encodes.streamScatterWrite (a0 : Nat) (a1 : Nat) (a2 : Nat) :
    Sys2Proof.Laws.Encodes.Statement (.streamScatterWrite a0 a1 a2) := by
  rintro w ⟨⟩

theorem Sys2Proof.Laws.Encodes.matrixCommandStart (a0 : Nat) :
    Sys2Proof.Laws.Encodes.Statement (.matrixCommandStart a0) := by
  rintro w ⟨⟩

theorem Sys2Proof.Laws.Encodes.mmaKBlock (a0 : Nat) :
    Sys2Proof.Laws.Encodes.Statement (.mmaKBlock a0) := by
  rintro w ⟨⟩

theorem Sys2Proof.Laws.Encodes.mmaRetire (a0 : Nat) :
    Sys2Proof.Laws.Encodes.Statement (.mmaRetire a0) := by
  rintro w ⟨⟩

theorem Sys2Proof.Laws.Encodes.matrixMerge (a0 : Nat) (a1 : Nat) :
    Sys2Proof.Laws.Encodes.Statement (.matrixMerge a0 a1) := by
  rintro w ⟨⟩

theorem Sys2Proof.Laws.Encodes.matrixCommandComplete (a0 : Nat) :
    Sys2Proof.Laws.Encodes.Statement (.matrixCommandComplete a0) := by
  rintro w ⟨⟩

theorem Sys2Proof.Laws.Encodes.matrixStateSave (a0 : Nat) :
    Sys2Proof.Laws.Encodes.Statement (.matrixStateSave a0) := by
  rintro w ⟨⟩

theorem Sys2Proof.Laws.Encodes.matrixStateRestore (a0 : Nat) (a1 : Nat) :
    Sys2Proof.Laws.Encodes.Statement (.matrixStateRestore a0 a1) := by
  rintro w ⟨⟩

theorem Sys2Proof.Laws.Encodes.barrierWatchdogExpiry (a0 : Nat) :
    Sys2Proof.Laws.Encodes.Statement (.barrierWatchdogExpiry a0) := by
  rintro w ⟨⟩

theorem Sys2Proof.Laws.Encodes.quiesceSweep (a0 : Nat) (a1 : Nat) :
    Sys2Proof.Laws.Encodes.Statement (.quiesceSweep a0 a1) := by
  rintro w ⟨⟩

theorem Sys2Proof.Laws.Encodes.kernelWatchdogExpiry (a0 : Nat) :
    Sys2Proof.Laws.Encodes.Statement (.kernelWatchdogExpiry a0) := by
  rintro w ⟨⟩

theorem Sys2Proof.Laws.Encodes.packetLaunch (a0 : Nat) :
    Sys2Proof.Laws.Encodes.Statement (.packetLaunch a0) := by
  rintro w ⟨⟩

theorem Sys2Proof.Laws.Encodes.packetWait (a0 : Nat) :
    Sys2Proof.Laws.Encodes.Statement (.packetWait a0) := by
  rintro w ⟨⟩

theorem Sys2Proof.Laws.Encodes.packetSignal (a0 : Nat) :
    Sys2Proof.Laws.Encodes.Statement (.packetSignal a0) := by
  rintro w ⟨⟩

theorem Sys2Proof.Laws.Encodes.launchAccept (a0 : Nat) :
    Sys2Proof.Laws.Encodes.Statement (.launchAccept a0) := by
  rintro w ⟨⟩

theorem Sys2Proof.Laws.Encodes.queueSlotMap (a0 : Nat) (a1 : Nat) :
    Sys2Proof.Laws.Encodes.Statement (.queueSlotMap a0 a1) := by
  rintro w ⟨⟩

theorem Sys2Proof.Laws.Encodes.slotTimeExpiry (a0 : Nat) :
    Sys2Proof.Laws.Encodes.Statement (.slotTimeExpiry a0) := by
  rintro w ⟨⟩

theorem Sys2Proof.Laws.Encodes.slotRemapBeforeStart (a0 : Nat) (a1 : Nat) :
    Sys2Proof.Laws.Encodes.Statement (.slotRemapBeforeStart a0 a1) := by
  rintro w ⟨⟩

theorem Sys2Proof.Laws.Encodes.leafScan (a0 : Nat) :
    Sys2Proof.Laws.Encodes.Statement (.leafScan a0) := by
  rintro w ⟨⟩

theorem Sys2Proof.Laws.Encodes.blockStart (a0 : Nat) (a1 : Nat) :
    Sys2Proof.Laws.Encodes.Statement (.blockStart a0 a1) := by
  rintro w ⟨⟩

theorem Sys2Proof.Laws.Encodes.priorityWaitTimeout (a0 : Nat) :
    Sys2Proof.Laws.Encodes.Statement (.priorityWaitTimeout a0) := by
  rintro w ⟨⟩

theorem Sys2Proof.Laws.Encodes.gridComplete (a0 : Nat) :
    Sys2Proof.Laws.Encodes.Statement (.gridComplete a0) := by
  rintro w ⟨⟩

theorem Sys2Proof.Laws.Encodes.rqBatchStart (a0 : Nat) (a1 : Nat) :
    Sys2Proof.Laws.Encodes.Statement (.rqBatchStart a0 a1) := by
  rintro w ⟨⟩

theorem Sys2Proof.Laws.Encodes.rqFlushExpiry (a0 : Nat) (a1 : Nat) :
    Sys2Proof.Laws.Encodes.Statement (.rqFlushExpiry a0 a1) := by
  rintro w ⟨⟩

theorem Sys2Proof.Laws.Encodes.preemptContext (a0 : Nat) :
    Sys2Proof.Laws.Encodes.Statement (.preemptContext a0) := by
  rintro w ⟨⟩

theorem Sys2Proof.Laws.Encodes.blockSwap (a0 : Nat) :
    Sys2Proof.Laws.Encodes.Statement (.blockSwap a0) := by
  rintro w ⟨⟩

theorem Sys2Proof.Laws.Encodes.blockResume (a0 : Nat) (a1 : Nat) :
    Sys2Proof.Laws.Encodes.Statement (.blockResume a0 a1) := by
  rintro w ⟨⟩

theorem Sys2Proof.Laws.Encodes.cowService (a0 : Nat) :
    Sys2Proof.Laws.Encodes.Statement (.cowService a0) := by
  rintro w ⟨⟩

theorem Sys2Proof.Laws.Encodes.cowReissue (a0 : Nat) :
    Sys2Proof.Laws.Encodes.Statement (.cowReissue a0) := by
  rintro w ⟨⟩

theorem Sys2Proof.Laws.Encodes.terminateContext (a0 : Nat) :
    Sys2Proof.Laws.Encodes.Statement (.terminateContext a0) := by
  rintro w ⟨⟩

theorem Sys2Proof.Laws.Encodes.coverageTakePrimitive (a0 : Nat) (a1 : Nat) :
    Sys2Proof.Laws.Encodes.Statement (.coverageTakePrimitive a0 a1) := by
  rintro w ⟨⟩

theorem Sys2Proof.Laws.Encodes.pixelGroupStart (a0 : Nat) (a1 : Nat) (a2 : Nat) :
    Sys2Proof.Laws.Encodes.Statement (.pixelGroupStart a0 a1 a2) := by
  rintro w ⟨⟩

theorem Sys2Proof.Laws.Encodes.tileFlush (a0 : Nat) (a1 : Nat) :
    Sys2Proof.Laws.Encodes.Statement (.tileFlush a0 a1) := by
  rintro w ⟨⟩

theorem Sys2Proof.Laws.Encodes.orderedBlendApply (a0 : Nat) (a1 : Nat) (a2 : Nat) :
    Sys2Proof.Laws.Encodes.Statement (.orderedBlendApply a0 a1 a2) := by
  rintro w ⟨⟩

theorem Sys2Proof.Laws.Encodes.frameWriteback (a0 : Nat) (a1 : Nat) :
    Sys2Proof.Laws.Encodes.Statement (.frameWriteback a0 a1) := by
  rintro w ⟨⟩

theorem Sys2Proof.Laws.Encodes.partitionCreate (a0 : Nat) (a1 : Sys2Proof.PartCfg) :
    Sys2Proof.Laws.Encodes.Statement (.partitionCreate a0 a1) := by
  rintro w ⟨⟩

theorem Sys2Proof.Laws.Encodes.partitionDestroy (a0 : Nat) :
    Sys2Proof.Laws.Encodes.Statement (.partitionDestroy a0) := by
  rintro w ⟨⟩

theorem Sys2Proof.Laws.Encodes.windowAssign (a0 : Nat) (a1 : Bool) (a2 : Sys2Proof.Window) :
    Sys2Proof.Laws.Encodes.Statement (.windowAssign a0 a1 a2) := by
  rintro w ⟨⟩

theorem Sys2Proof.Laws.Encodes.vfBind (a0 : Nat) (a1 : Nat) :
    Sys2Proof.Laws.Encodes.Statement (.vfBind a0 a1) := by
  rintro w ⟨⟩

theorem Sys2Proof.Laws.Encodes.contextCreate (a0 : Nat) (a1 : Sys2Proof.CtxCfg) :
    Sys2Proof.Laws.Encodes.Statement (.contextCreate a0 a1) := by
  rintro w ⟨⟩

theorem Sys2Proof.Laws.Encodes.queueRestart (a0 : Nat) :
    Sys2Proof.Laws.Encodes.Statement (.queueRestart a0) := by
  rintro w ⟨⟩

theorem Sys2Proof.Laws.Encodes.cowpoolAddPages (a0 : Nat) (a1 : Nat) (a2 : List Nat) :
    Sys2Proof.Laws.Encodes.Statement (.cowpoolAddPages a0 a1 a2) := by
  rintro w ⟨⟩

theorem Sys2Proof.Laws.Encodes.snapshotConfigure (a0 : Nat) (a1 : Nat) (a2 : Sys2Proof.SnapCfg) :
    Sys2Proof.Laws.Encodes.Statement (.snapshotConfigure a0 a1 a2) := by
  rintro w ⟨⟩

theorem Sys2Proof.Laws.Encodes.snapshotTimeMatch (a0 : Nat) (a1 : Nat) :
    Sys2Proof.Laws.Encodes.Statement (.snapshotTimeMatch a0 a1) := by
  rintro w ⟨⟩

theorem Sys2Proof.Laws.Encodes.snapshotReadRearm (a0 : Nat) (a1 : Nat) :
    Sys2Proof.Laws.Encodes.Statement (.snapshotReadRearm a0 a1) := by
  rintro w ⟨⟩

theorem Sys2Proof.Laws.Encodes.monitorHistogramReset (a0 : Nat) :
    Sys2Proof.Laws.Encodes.Statement (.monitorHistogramReset a0) := by
  rintro w ⟨⟩

theorem Sys2Proof.Laws.Encodes.errorCounterRead (a0 : Nat) :
    Sys2Proof.Laws.Encodes.Statement (.errorCounterRead a0) := by
  rintro w ⟨⟩

theorem Sys2Proof.Laws.Encodes.errorCounterClear (a0 : Nat) :
    Sys2Proof.Laws.Encodes.Statement (.errorCounterClear a0) := by
  rintro w ⟨⟩

theorem Sys2Proof.Laws.Encodes.attestationReport (a0 : Nat) (a1 : List (BitVec 8)) :
    Sys2Proof.Laws.Encodes.Statement (.attestationReport a0 a1) := by
  rintro w ⟨⟩

theorem Sys2Proof.Laws.Encodes.certificateChainRead :
    Sys2Proof.Laws.Encodes.Statement (.certificateChainRead) := by
  rintro w ⟨⟩

theorem Sys2Proof.Laws.Encodes.powerGood (a0 : Sys2Proof.BootCfg) :
    Sys2Proof.Laws.Encodes.Statement (.powerGood a0) := by
  rintro w ⟨⟩

theorem Sys2Proof.Laws.Encodes.powerRemove :
    Sys2Proof.Laws.Encodes.Statement (.powerRemove) := by
  rintro w ⟨⟩

theorem Sys2Proof.Laws.Encodes.softError (a0 : Sys2Proof.SoftErr) :
    Sys2Proof.Laws.Encodes.Statement (.softError a0) := by
  rintro w ⟨⟩

theorem Sys2Proof.Laws.Encodes.patrolScrub (a0 : Nat) (a1 : Nat) :
    Sys2Proof.Laws.Encodes.Statement (.patrolScrub a0 a1) := by
  rintro w ⟨⟩

theorem Sys2Proof.Laws.Encodes.l2DomainOutOfReset (a0 : Nat) :
    Sys2Proof.Laws.Encodes.Statement (.l2DomainOutOfReset a0) := by
  rintro w ⟨⟩

theorem Sys2Proof.Laws.Encodes.coreDomainOutOfReset (a0 : Nat) :
    Sys2Proof.Laws.Encodes.Statement (.coreDomainOutOfReset a0) := by
  rintro w ⟨⟩

theorem Sys2Proof.Laws.Encodes.hostRegisterWrite (a0 : Nat) (a1 : Nat) (a2 : BitVec 64) :
    Sys2Proof.Laws.Encodes.Statement (.hostRegisterWrite a0 a1 a2) := by
  rintro w ⟨⟩

theorem Sys2Proof.Laws.Encodes.hostOrPeerAccess (a0 : Sys2Proof.ExtAccess) :
    Sys2Proof.Laws.Encodes.Statement (.hostOrPeerAccess a0) := by
  rintro w ⟨⟩
end

