-- ==== Sys2Proof/Laws/Table.lean ====
section
/-!
SUPPORT. What seating lanes in the issue table and counting can change, and what the chosen entry of a group is: one lemma for
each, which a proof cites instead of unfolding it.
-/

namespace Sys2Proof.Machine

/-! ### The issue table and the counters: what they change -/

/-- Each step changes the blocks alone, so they all do. -/
theorem foldl_blocks {α : Type} (f : State → α → State) (h : ∀ t a, ∃ b, f t a = { t with blocks := b }) (l : List α) (s : State) :
    ∃ b, l.foldl f s = { s with blocks := b } := by
  induction l generalizing s with
  | nil => exact ⟨s.blocks, rfl⟩
  | cons a r ih =>
    obtain ⟨b, hb⟩ := h s a
    obtain ⟨b', hb'⟩ := ih (f s a)
    exact ⟨b', by rw [List.foldl_cons, hb', hb]⟩

theorem State.placePath_eq (s : State) (x : Nat × Nat × BitVec 32) : ∃ b, s.placePath x = { s with blocks := b } := by
  unfold State.placePath
  split
  · split
    · exact ⟨_, rfl⟩
    · exact ⟨s.blocks, rfl⟩
  · exact ⟨s.blocks, rfl⟩

theorem State.vacate_eq (s : State) (core e : Nat) : ∃ b, s.vacate core e = { s with blocks := b } :=
  foldl_blocks _ (fun _ _ => ⟨_, rfl⟩) _ _

theorem State.seatGroup_eq (s : State) (x : Nat × Nat × Nat × Group) : ∃ b, s.seatGroup x = { s with blocks := b } := by
  unfold State.seatGroup
  split
  · exact ⟨s.blocks, rfl⟩
  · rename_i m _
    split
    · cases hs : (s.spareEntries x.2.2.1).head? with
      | none => exact State.placePath_eq _ _
      | some e =>
        obtain ⟨b, hb⟩ := State.vacate_eq s x.2.2.1 e
        obtain ⟨b', hb'⟩ := State.placePath_eq (s.vacate x.2.2.1 e) (x.1, x.2.1, m)
        exact ⟨b', by rw [Option.map_some, Option.getD_some, hb', hb]⟩
    · exact State.placePath_eq _ _

/-- The issue table moves lanes between entries and changes nothing but the blocks. -/
theorem State.settle_eq (s : State) : ∃ b, s.settle = { s with blocks := b } := by
  unfold State.settle
  obtain ⟨b, hb⟩ := foldl_blocks State.placePath State.placePath_eq (s.pathsThat fun p => p.entry.isNone && p.left.isSome) s
  obtain ⟨c, hc⟩ := foldl_blocks State.seatGroup State.seatGroup_eq ({ s with blocks := b } : State).seatedGroups { s with blocks := b }
  obtain ⟨d, hd⟩ := foldl_blocks State.placePath State.placePath_eq
    (({ s with blocks := c } : State).pathsThat fun p => p.entry.isNone && p.atHeader) { s with blocks := c }
  exact ⟨d, by rw [hb]; dsimp only; rw [hc, hd]⟩

/-- Counting changes the contexts alone. -/
theorem State.bumped_eq (s : State) (ctx event amount die : Nat) : ∃ c, s.bumped ctx event amount die = { s with ctxs := c } := by
  unfold State.bumped
  split
  · exact ⟨_, rfl⟩
  · exact ⟨s.ctxs, rfl⟩

theorem State.remote_eq (s : State) (ctx die l n pte : Nat) : ∃ c, s.remote ctx die l n pte = { s with ctxs := c } := by
  unfold State.remote
  split
  · exact ⟨s.ctxs, rfl⟩
  · split
    · exact State.bumped_eq _ _ _ _ _
    · obtain ⟨c, hc⟩ := State.bumped_eq s ctx 6 1 die
      obtain ⟨c', hc'⟩ := State.bumped_eq (s.bumped ctx 6 1 die) ctx 7 n die
      exact ⟨c', by rw [hc', hc]⟩

/-! ### The chosen entry -/

/-- The first of the least elements of a list is one of them, and none lies before it. -/
theorem foldl_least {α : Type} (lt : α → α → Bool) (htrans : ∀ a b c, lt a b = true → lt b c = true → lt a c = true)
    (hneg : ∀ a b c, lt a b = false → lt b c = false → lt a c = false) (hirr : ∀ a, lt a a = false) (r : List α) :
    ∀ x : α, r.foldl (fun b y => if lt y b = true then y else b) x ∈ x :: r ∧
      ∀ z ∈ x :: r, lt z (r.foldl (fun b y => if lt y b = true then y else b) x) = false := by
  induction r with
  | nil => exact fun x => ⟨List.mem_singleton.2 rfl, fun z hz => by rw [List.mem_singleton.1 hz]; exact hirr _⟩
  | cons y r ih =>
    intro x
    rw [List.foldl_cons]
    by_cases hy : lt y x = true
    · rw [if_pos hy]
      obtain ⟨h1, h2⟩ := ih y
      refine ⟨List.mem_cons_of_mem _ h1, fun z hz => ?_⟩
      rcases List.mem_cons.1 hz with rfl | hz
      · exact Bool.eq_false_iff.2 fun h => Bool.eq_false_iff.1 (h2 y List.mem_cons_self) (htrans _ _ _ hy h)
      · exact h2 z hz
    · rw [if_neg hy]
      obtain ⟨h1, h2⟩ := ih x
      refine ⟨?_, fun z hz => ?_⟩
      · rcases List.mem_cons.1 h1 with h | h
        · rw [h]; exact List.mem_cons_self
        · exact List.mem_cons_of_mem _ (List.mem_cons_of_mem _ h)
      · rcases List.mem_cons.1 hz with rfl | hz
        · exact h2 z List.mem_cons_self
        rcases List.mem_cons.1 hz with rfl | hz
        · exact hneg _ _ _ (Bool.eq_false_iff.2 hy) (h2 x List.mem_cons_self)
        · exact h2 z (List.mem_cons_of_mem _ hz)

theorem Path.before_trans (p q r : Path) (h : p.before q = true) (h' : q.before r = true) : p.before r = true := by
  unfold Path.before at *
  cases hp : p.fair <;> cases hq : q.fair <;> cases hr : r.fair <;> simp_all
  omega

theorem Path.before_neg (p q r : Path) (h : p.before q = false) (h' : q.before r = false) : p.before r = false := by
  unfold Path.before at *
  cases hp : p.fair <;> cases hq : q.fair <;> cases hr : r.fair <;> simp_all
  omega

theorem Path.before_irrefl (p : Path) : p.before p = false := by
  unfold Path.before
  cases p.fair <;> simp

/-- The entry found to have reached the timer first is one of the list, and none of the list reached it before. -/
theorem firstReached_some {l : List (Nat × Path)} {i : Nat} (h : firstReached l = some i) :
    ∃ p, (i, p) ∈ l ∧ ∀ y ∈ l, y.2.before p = false := by
  unfold firstReached at h
  split at h
  · cases h
  · rename_i x r
    obtain ⟨h1, h2⟩ := foldl_least (fun a b : Nat × Path => a.2.before b.2) (fun a b c => Path.before_trans a.2 b.2 c.2)
      (fun a b c => Path.before_neg a.2 b.2 c.2) (fun a => Path.before_irrefl a.2) r x
    cases h
    exact ⟨_, h1, h2⟩

/-- The entry with the smallest pc is one of the list, and none of the list has a smaller one. -/
theorem smallestPc_some {l : List (Nat × Path)} {i : Nat} (h : smallestPc l = some i) :
    ∃ p, (i, p) ∈ l ∧ ∀ y ∈ l, p.pc.toNat ≤ y.2.pc.toNat := by
  unfold smallestPc at h
  split at h
  · cases h
  · rename_i x r
    obtain ⟨h1, h2⟩ := foldl_least (fun a b : Nat × Path => decide (a.2.pc.toNat < b.2.pc.toNat))
      (fun a b c h h' => by simp only [decide_eq_true_eq] at *; omega)
      (fun a b c h h' => by simp only [decide_eq_false_iff_not] at *; omega) (fun a => by simp) r x
    simp only [decide_eq_true_eq] at h1 h2
    cases h
    exact ⟨_, h1, fun y hy => Nat.le_of_not_lt (of_decide_eq_false (h2 y hy))⟩

end Sys2Proof.Machine
end

