-- ==== Sys2Proof/WellFormed.lean ====
section
/-!
DEFINITION. Which instructions are well formed, before any state is looked at: operand codes of the kind the instruction
takes (spec/02 R38), types and fields that no rule reserves (R39 to R51), and arguments of the part's steps within the part
(spec/00 R2, spec/22). An ill-formed word raises the fault of its rule when it runs.
-/

namespace Sys2Proof

/-- The code names a vector register (R38). -/
def vecCode (c : BitVec 7) : Bool := decide (c.toNat < 96)

/-- The code names a uniform register (R38). -/
def uniCode (c : BitVec 7) : Bool := decide (96 ≤ c.toNat)

/-- The first register of a pair is even (R44). -/
def evenCode (c : BitVec 7) : Bool := decide (c.toNat % 2 = 0)

/-- The first of four uniforms is a multiple of 4 (spec/10 R221). -/
def quadCode (c : BitVec 7) : Bool := decide (c.toNat % 4 = 0)

/-- A 128-bit size takes an even pair (R44). -/
def pairOk (s : BitVec 3) (d : BitVec 7) : Bool := decide (s ≠ 7) || evenCode d

/-- Sizes a store takes (R44). -/
def storeSize (s : BitVec 3) : Bool := decide (s.toNat % 2 = 0) || decide (s = 7)

/-- Types that ZIP and UNZIP take (spec/09 R199). -/
def pairType (t : BitVec 3) : Bool := decide (t ≠ 3 ∧ t ≠ 7)

/-- CVT has a floating-point side, and U needs an integer side (spec/10 R223). -/
def cvtTypes (u : BitVec 1) (s t : BitVec 3) : Bool :=
  decide (4 ≤ s.toNat ∨ 4 ≤ t.toNat) && !(decide (u = 1) && decide (4 ≤ s.toNat ∧ 4 ≤ t.toNat))

/-- Width of a type's element (R39). -/
def typeBits (t : Nat) : Nat :=
  match t with
  | 0 => 8
  | 1 => 16
  | 2 => 32
  | 3 => 64
  | 4 => 16
  | 5 => 16
  | 6 => 32
  | _ => 64

/-- PART names a part of the wider side (spec/10 R223). -/
def cvtPart (p : BitVec 2) (s t : Nat) : Bool :=
  decide (p.toNat < max (typeBits s) (typeBits t) / min (typeBits s) (typeBits t))

/-- A guard condition and its register (spec/13 R269). -/
def guardCode (c : BitVec 4) (r : BitVec 5) : Bool :=
  decide (c.toNat < 7) && (decide (c ≠ 0) || decide (r = 0)) && (decide (c.toNat < 3) || decide (r.toNat < 16))

/-- An assigned system-register number (spec/19 R318). -/
def csrNumber (b : BitVec 7) : Bool :=
  decide (b.toNat ≤ 5) || decide (8 ≤ b.toNat ∧ b.toNat ≤ 17) || decide (24 ≤ b.toNat ∧ b.toNat ≤ 47)

/-- A register that the host driver writes (spec/19 R318). -/
def privReg (r : Nat) : Bool := decide (r = 11 ∨ r = 12 ∨ r = 14 ∨ r = 15 ∨ r = 16)

/-- Well-formed instructions and steps. -/
def Instr.wellFormed (i : Instr) : Bool :=
  match i with
  | .iadd d _ _ _ => vecCode d
  | .isub d _ _ _ => vecCode d
  | .iadds d _ _ _ => vecCode d
  | .isubs d _ _ _ => vecCode d
  | .imul d _ _ _ => vecCode d
  | .imulh d _ _ _ => vecCode d
  | .imulhu d _ _ _ => vecCode d
  | .imad d _ _ _ => vecCode d
  | .imin d _ _ _ => vecCode d
  | .imax d _ _ _ => vecCode d
  | .iminu d _ _ _ => vecCode d
  | .imaxu d _ _ _ => vecCode d
  | .iabs d _ _ => vecCode d
  | .ineg d _ _ => vecCode d
  | .popc d _ _ => vecCode d
  | .clz d _ _ => vecCode d
  | .vand d _ _ _ => vecCode d
  | .vor d _ _ _ => vecCode d
  | .vxor d _ _ _ => vecCode d
  | .vandn d _ _ _ => vecCode d
  | .shl d _ _ _ => vecCode d
  | .shr d _ _ _ => vecCode d
  | .sar d _ _ _ => vecCode d
  | .rot d _ _ _ => vecCode d
  | .bfx d _ _ _ => vecCode d
  | .bfxu d _ _ _ => vecCode d
  | .bfi d _ _ _ => vecCode d
  | .brev d _ _ => vecCode d
  | .icmpSet _ _ _ _ _ => true
  | .icmpAnd _ _ _ _ _ => true
  | .icmpOr _ _ _ _ _ => true
  | .sel d _ _ _ => vecCode d
  | .mov d _ _ => vecCode d
  | .movs d _ t => vecCode d && decide (t.toNat < 3)
  | .iaddi d _ _ => vecCode d
  | .movi d t i => vecCode d && (decide (t ≠ 0) || decide (i.toNat < 256))
  | .zip d _ _ t => vecCode d && pairType t
  | .unzip d _ _ t => vecCode d && pairType t
  | .packlo d _ _ t => vecCode d && decide (t ≠ 0)
  | .packhi d _ _ t => vecCode d && decide (t ≠ 0)
  | .fadd d _ _ _ => vecCode d
  | .fsub d _ _ _ => vecCode d
  | .fmul d _ _ _ => vecCode d
  | .fma d _ _ _ => vecCode d
  | .fmin d _ _ _ => vecCode d
  | .fmax d _ _ _ => vecCode d
  | .fminn d _ _ _ => vecCode d
  | .fmaxn d _ _ _ => vecCode d
  | .fabs d _ _ => vecCode d
  | .fneg d _ _ => vecCode d
  | .fclass d _ _ => vecCode d
  | .frnd d _ _ => vecCode d
  | .fcmpSet _ _ _ _ _ => true
  | .fcmpAnd _ _ _ _ _ => true
  | .fcmpOr _ _ _ _ _ => true
  | .fdiv d _ _ _ => vecCode d
  | .fsqrt d _ _ => vecCode d
  | .fscale d _ _ _ => vecCode d
  | .flogb d _ _ => vecCode d
  | .exp2 d _ _ => vecCode d
  | .log2 d _ _ => vecCode d
  | .rcp d _ _ => vecCode d
  | .rsq d _ _ => vecCode d
  | .sin d _ _ => vecCode d
  | .cos d _ _ => vecCode d
  | .sinpi d _ _ => vecCode d
  | .cospi d _ _ => vecCode d
  | .tanh d _ _ => vecCode d
  | .erf d _ _ => vecCode d
  | .cvt d _ u p s t => vecCode d && cvtTypes u s t && cvtPart p s.toNat t.toNat
  | .cvts d _ _ p s t => vecCode d && decide (s.toNat < 4) && cvtPart p s.toNat t.toNat
  | .cvtb d _ _ => vecCode d
  | .cvtbx d _ _ => vecCode d
  | .shfl d _ _ _ => vecCode d
  | .bcast d _ b _ => vecCode d && uniCode b
  | .permb d _ _ => vecCode d
  | .qswp d _ b _ => vecCode d && decide (b.toNat < 3)
  | .ddx d _ _ _ => vecCode d
  | .ddy d _ _ _ => vecCode d
  | .elect _ _ => true
  | .vote d _ => uniCode d
  | .redi d _ _ _ => uniCode d
  | .redf d _ o _ => decide (o.toNat < 5) && uniCode d
  | .scani d _ _ _ _ => vecCode d
  | .kand _ _ _ => true
  | .kor _ _ _ => true
  | .kxor _ _ _ => true
  | .knot _ _ => true
  | .kmov _ _ => true
  | .kmovS d _ => uniCode d && quadCode d
  | .kmovK _ a => uniCode a && quadCode a
  | .kmovV d _ => vecCode d
  | .kpop d _ => uniCode d
  | .kfirst d _ => uniCode d
  | .dropk _ _ b _ => uniCode b
  | .readln d a b => uniCode b && uniCode d && vecCode a
  | .writeln d a b => uniCode b && vecCode d && uniCode a
  | .srd _ _ => true
  | .locq _ _ => true
  | .sadd d a b => uniCode d && uniCode a && uniCode b
  | .ssub d a b => uniCode d && uniCode a && uniCode b
  | .smul d a b => uniCode d && uniCode a && uniCode b
  | .smulh d a b => uniCode d && uniCode a && uniCode b
  | .sand d a b => uniCode d && uniCode a && uniCode b
  | .sor d a b => uniCode d && uniCode a && uniCode b
  | .sxor d a b => uniCode d && uniCode a && uniCode b
  | .ssel d a b => uniCode d && uniCode a && uniCode b
  | .sshl d a b => uniCode d && uniCode a && uniCode b
  | .sshr d a b => uniCode d && uniCode a && uniCode b
  | .ssar d a b => uniCode d && uniCode a && uniCode b
  | .smov d a => uniCode d && uniCode a
  | .scmp d a b _ => uniCode d && uniCode a && uniCode b
  | .saddi d a _ => uniCode d && uniCode a
  | .smovw d _ _ _ => uniCode d
  | .ld d _ s p _ => vecCode d && decide (p ≠ 3) && pairOk s d
  | .st d _ s p _ => decide (p ≠ 3) && storeSize s && pairOk s d
  | .lds d _ s _ => vecCode d && pairOk s d
  | .sts d _ s _ => storeSize s && pairOk s d
  | .ldu d a s p _ => uniCode d && uniCode a && decide (p ≠ 3) && pairOk s d
  | .stu d a s p _ => uniCode d && uniCode a && decide (p ≠ 3) && storeSize s && pairOk s d
  | .atomW d _ _ o r => decide (o.toNat < 14) && (decide (r ≠ 0) || decide (d = 0)) && (decide (r = 0) || vecCode d)
  | .atomD d _ _ o r => decide (o.toNat < 14) && (decide (r ≠ 0) || decide (d = 0)) && (decide (r = 0) || vecCode d)
  | .mcas d a => uniCode d && uniCode a
  | .waitcmp d a b _ => uniCode d && uniCode a && uniCode b && evenCode b
  | .fence _ => true
  | .cmnt _ k => decide (k.toNat < 6)
  | .qpush _ _ _ _ => true
  | .qpop _ _ => true
  | .qpeek _ _ => true
  | .qstat _ a => uniCode a
  | .cpyb _ _ a b => uniCode a && uniCode b
  | .cpyt _ _ _ a b => uniCode a && uniCode b
  | .cpyh _ _ a => uniCode a
  | .cpyc _ _ a b => uniCode a && uniCode b
  | .seal a => uniCode a
  | .waitb a => uniCode a
  | .rdwp _ a => uniCode a
  | .strm _ a => uniCode a
  | .vlk d a _ => vecCode d && uniCode a
  | .vld1 d a _ _ => vecCode d && uniCode a
  | .vld7 d a _ => uniCode a && vecCode d
  | .vld27 d a _ => uniCode a && vecCode d
  | .vst1 _ a _ _ => uniCode a
  | .vact a _ _ => uniCode a
  | .vmarch d a _ => uniCode a && vecCode d
  | .vins _ a _ => uniCode a
  | .mma _ _ _ a b => uniCode a && uniCode b
  | .mma1 _ _ _ a b => uniCode a && uniCode b
  | .mzero _ a b => uniCode a && uniCode b
  | .mout _ _ a b => uniCode a && uniCode b
  | .tdecl a => uniCode a
  | .tsig a b => uniCode a && uniCode b
  | .twait a => uniCode a
  | .tqry a b => uniCode a && uniCode b
  | .taskIssue _ _ => true
  | .bra c r _ => guardCode c r
  | .call c r _ => guardCode c r
  | .jmp _ => true
  | .ret => true
  | .retGet d => vecCode d
  | .retSet _ => true
  | .exit => true
  | .yield => true
  | .bar => true
  | .barc => true
  | .quiesce _ => true
  | .nop => true
  | .launch d a b => uniCode d && uniCode a && uniCode b
  | .rqpush d _ b => vecCode d && vecCode b
  | .rqpop d _ _ => vecCode d
  | .trap _ => true
  | .pemit d a _ => vecCode d && uniCode a
  | .pemitEnd a => uniCode a
  | .pattr a _ => vecCode a
  | .pcov d c => vecCode d && decide (c.toNat < 4 ∨ 8 ≤ c.toNat)
  | .pexp a => vecCode a
  | .pkill => true
  | .pdepth a => vecCode a
  | .csrrd _ b => csrNumber b
  | .csrwr _ b => csrNumber b
  | .csrwrSet _ b => csrNumber b
  | .csrwrClr _ b => csrNumber b
  | .tlbinv a b => uniCode a && uniCode b
  | .tlbinvAsn => true
  | .eret => true
  | .snap d a => uniCode d && uniCode a
  | .waitt d a => uniCode d && uniCode a
  | .clauseFetch _ _ _ => true
  | .clauseConditionsMet _ _ _ => true
  | .waitingWordResume _ _ _ => true
  | .fairnessTimerExpiry _ _ _ => true
  | .yieldTimeout _ _ _ => true
  | .wcEntryDrain core entry => decide (core < 512) && decide (entry < 4)
  | .wcIdleTimeout core entry => decide (core < 512) && decide (entry < 4)
  | .storeForwardHome _ => true
  | .waitcmpPoll _ _ _ => true
  | .waitcmpDeadline _ _ _ => true
  | .parkSwapTimeout _ => true
  | .waittWake _ _ _ => true
  | .l2Reencode _ => true
  | .clampGrant _ _ _ => true
  | .lineMigration _ _ => true
  | .migrationFinish _ _ _ => true
  | .forwardedAccess _ => true
  | .shootdown _ _ size _ => decide (size < 12)
  | .hostSnoop _ _ => true
  | .objectDeclare _ _ _ => true
  | .objectSetState _ _ _ => true
  | .objectRemove _ _ _ => true
  | .l2DomainReset die => decide (die < 4)
  | .coreDomainReset die => decide (die < 4)
  | .copyCommandStart _ => true
  | .copyElementWrite _ => true
  | .engineShootdownResume _ => true
  | .copyComplete _ => true
  | .completionQueuePush _ => true
  | .streamGatherPrefetch _ _ q => decide (q < 8)
  | .streamScatterWrite _ _ q => decide (q < 8)
  | .matrixCommandStart core => decide (core < 512)
  | .mmaKBlock core => decide (core < 512)
  | .mmaRetire core => decide (core < 512)
  | .matrixMerge _ elem => decide (elem < 4096)
  | .matrixCommandComplete _ => true
  | .matrixStateSave core => decide (core < 512)
  | .matrixStateRestore core _ => decide (core < 512)
  | .barrierWatchdogExpiry _ => true
  | .quiesceSweep _ phase => decide (phase < 8)
  | .kernelWatchdogExpiry _ => true
  | .packetLaunch _ => true
  | .packetWait _ => true
  | .packetSignal _ => true
  | .launchAccept _ => true
  | .queueSlotMap _ slot => decide (slot < 64)
  | .slotTimeExpiry slot => decide (slot < 64)
  | .slotRemapBeforeStart _ slot => decide (slot < 64)
  | .leafScan _ => true
  | .blockStart _ core => decide (core < 512)
  | .priorityWaitTimeout _ => true
  | .gridComplete _ => true
  | .rqBatchStart _ core => decide (core < 512)
  | .rqFlushExpiry _ core => decide (core < 512)
  | .preemptContext _ => true
  | .blockSwap _ => true
  | .blockResume _ core => decide (core < 512)
  | .cowService _ => true
  | .cowReissue _ => true
  | .terminateContext _ => true
  | .coverageTakePrimitive _ die => decide (die < 4)
  | .pixelGroupStart _ die core => decide (die < 4) && decide (core < 512)
  | .tileFlush _ die => decide (die < 4)
  | .orderedBlendApply _ die _ => decide (die < 4)
  | .frameWriteback _ die => decide (die < 4)
  | .partitionCreate part _ => decide (part < 64)
  | .partitionDestroy part => decide (part < 64)
  | .windowAssign part _ _ => decide (part < 64)
  | .vfBind vf part => decide (part < 64) && decide (vf < 192)
  | .contextCreate vf _ => decide (vf < 192)
  | .queueRestart _ => true
  | .cowpoolAddPages _ size _ => decide (size < 12)
  | .snapshotConfigure _ set cfg => decide (set < 4) && decide (cfg.sources.length ≤ 16)
  | .snapshotTimeMatch _ set => decide (set < 4)
  | .snapshotReadRearm _ set => decide (set < 4)
  | .monitorHistogramReset _ => true
  | .errorCounterRead ctr => decide (ctr < 40)
  | .errorCounterClear ctr => decide (ctr < 40)
  | .attestationReport part nonce => decide (part < 64) && decide (nonce.length = 64)
  | .certificateChainRead => true
  | .powerGood _ => true
  | .powerRemove => true
  | .softError _ => true
  | .patrolScrub stack _ => decide (stack < 8)
  | .l2DomainOutOfReset die => decide (die < 4)
  | .coreDomainOutOfReset die => decide (die < 4)
  | .hostRegisterWrite _ reg _ => privReg reg
  | .hostOrPeerAccess acc => decide (acc.pa < 2 ^ 56)

end Sys2Proof
end

