-- ==== Sys2Proof/Tests/Slice0.lean ====
section
/-!
SUPPORT. Tests of what is well formed, of the decoder on words written out from the spec's encodings, and of the meanings on
the worked examples of the spec.
-/

namespace Sys2Proof.Tests

open Sys2Proof.Machine Host

set_option maxRecDepth 100000

/-! ### Well-formed and ill-formed instructions: one refused term for each check -/

theorem test_wf_vector_register : (Instr.iadd 95 0 0 0).wellFormed = true ∧ (Instr.iadd 96 0 0 0).wellFormed = false := by decide

theorem test_wf_uniform_register : (Instr.sadd 96 96 96).wellFormed = true ∧ (Instr.sadd 96 95 96).wellFormed = false := by decide

theorem test_wf_even_pair :
    (Instr.waitcmp 96 96 98 0).wellFormed = true ∧ (Instr.waitcmp 96 96 99 0).wellFormed = false ∧
    (Instr.ld 2 0 7 0 0).wellFormed = true ∧ (Instr.ld 3 0 7 0 0).wellFormed = false := by decide

theorem test_wf_four_uniforms : (Instr.kmovS 100 0).wellFormed = true ∧ (Instr.kmovS 101 0).wellFormed = false := by decide

theorem test_wf_store_size : (Instr.st 0 0 6 0 0).wellFormed = true ∧ (Instr.st 0 0 5 0 0).wellFormed = false := by decide

theorem test_wf_policy : (Instr.ld 0 0 0 2 0).wellFormed = true ∧ (Instr.ld 0 0 0 3 0).wellFormed = false := by decide

theorem test_wf_pair_type : (Instr.zip 0 0 0 2).wellFormed = true ∧ (Instr.zip 0 0 0 3).wellFormed = false := by decide

theorem test_wf_pack_type : (Instr.packlo 0 0 0 1).wellFormed = true ∧ (Instr.packlo 0 0 0 0).wellFormed = false := by decide

theorem test_wf_movs_type : (Instr.movs 0 0 2).wellFormed = true ∧ (Instr.movs 0 0 3).wellFormed = false := by decide

theorem test_wf_movi_byte : (Instr.movi 0 0 255).wellFormed = true ∧ (Instr.movi 0 0 256).wellFormed = false := by decide

theorem test_wf_cvt_types :
    (Instr.cvt 0 0 0 0 6 2).wellFormed = true ∧ (Instr.cvt 0 0 0 0 1 2).wellFormed = false ∧
    (Instr.cvt 0 0 1 0 6 7).wellFormed = false := by decide

theorem test_wf_cvt_part : (Instr.cvt 0 0 0 1 6 7).wellFormed = true ∧ (Instr.cvt 0 0 0 2 6 7).wellFormed = false := by decide

theorem test_wf_cvts_source : (Instr.cvts 0 0 0 0 3 3).wellFormed = true ∧ (Instr.cvts 0 0 0 0 4 3).wellFormed = false := by decide

theorem test_wf_quad_swap : (Instr.qswp 0 0 2 0).wellFormed = true ∧ (Instr.qswp 0 0 3 0).wellFormed = false := by decide

theorem test_wf_reduction_code : (Instr.redf 96 0 4 0).wellFormed = true ∧ (Instr.redf 96 0 5 0).wellFormed = false := by decide

theorem test_wf_atomic_operation :
    (Instr.atomW 0 0 0 13 0).wellFormed = true ∧ (Instr.atomW 0 0 0 14 0).wellFormed = false ∧
    (Instr.atomW 1 0 0 0 0).wellFormed = false := by decide

theorem test_wf_maintenance_kind : (Instr.cmnt 0 5).wellFormed = true ∧ (Instr.cmnt 0 6).wellFormed = false := by decide

theorem test_wf_guard :
    (Instr.bra 6 15 0).wellFormed = true ∧ (Instr.bra 7 0 0).wellFormed = false ∧ (Instr.bra 0 1 0).wellFormed = false ∧
    (Instr.bra 3 16 0).wellFormed = false := by decide

theorem test_wf_pixel_read : (Instr.pcov 0 8).wellFormed = true ∧ (Instr.pcov 0 4).wellFormed = false := by decide

theorem test_wf_system_register :
    (Instr.csrrd 0 5).wellFormed = true ∧ (Instr.csrrd 0 6).wellFormed = false ∧ (Instr.csrrd 0 48).wellFormed = false := by decide

theorem test_wf_steps :
    (Instr.blockStart 0 512).wellFormed = false ∧ (Instr.wcEntryDrain 0 4).wellFormed = false ∧
    (Instr.l2DomainReset 4).wellFormed = false ∧ (Instr.queueSlotMap 0 64).wellFormed = false ∧
    (Instr.quiesceSweep 0 8).wellFormed = false ∧ (Instr.shootdown 0 0 12 0).wellFormed = false ∧
    (Instr.matrixMerge 0 4096).wellFormed = false ∧ (Instr.errorCounterRead 40).wellFormed = false ∧
    (Instr.vfBind 192 0).wellFormed = false := by decide

/-! ### Words, from the fields of spec/02 R48 to R51 -/

theorem test_decode_op00 :
    decodeWord 0b000000_0000101_1000010_0010011_0_10_00 = .ok (.iadd 5 66 19 2) ∧
    decodeWord 0b000000_0000101_1000010_0010011_0_10_01 = .ok (.isub 5 66 19 2) ∧
    decodeWord 0b000000_0000101_1000010_0010011_0_10_10 = .ok (.iadds 5 66 19 2) ∧
    decodeWord 0b000000_0000101_1000010_0010011_0_10_11 = .ok (.isubs 5 66 19 2) := by decide

theorem test_decode_op01 :
    decodeWord 0b000001_0000101_1000010_0010011_0_10_00 = .ok (.imul 5 66 19 2) ∧
    decodeWord 0b000001_0000101_1000010_0010011_0_10_01 = .ok (.imulh 5 66 19 2) ∧
    decodeWord 0b000001_0000101_1000010_0010011_0_10_10 = .ok (.imulhu 5 66 19 2) ∧
    decodeWord 0b000001_0000101_1000010_0010011_0_10_11 = .ok (.imad 5 66 19 2) := by decide

theorem test_decode_op02 :
    decodeWord 0b000010_0000101_1000010_0010011_0_10_00 = .ok (.imin 5 66 19 2) ∧
    decodeWord 0b000010_0000101_1000010_0010011_0_10_01 = .ok (.imax 5 66 19 2) ∧
    decodeWord 0b000010_0000101_1000010_0010011_0_10_10 = .ok (.iminu 5 66 19 2) ∧
    decodeWord 0b000010_0000101_1000010_0010011_0_10_11 = .ok (.imaxu 5 66 19 2) := by decide

theorem test_decode_op03 :
    decodeWord 0b000011_0000101_1000010_00000000_10_00 = .ok (.iabs 5 66 2) ∧
    decodeWord 0b000011_0000101_1000010_00000000_10_01 = .ok (.ineg 5 66 2) ∧
    decodeWord 0b000011_0000101_1000010_00000000_10_10 = .ok (.popc 5 66 2) ∧
    decodeWord 0b000011_0000101_1000010_00000000_10_11 = .ok (.clz 5 66 2) := by decide

theorem test_decode_op04 :
    decodeWord 0b000100_0000101_1000010_0010011_101_00 = .ok (.vand 5 66 19 5) ∧
    decodeWord 0b000100_0000101_1000010_0010011_101_01 = .ok (.vor 5 66 19 5) ∧
    decodeWord 0b000100_0000101_1000010_0010011_101_10 = .ok (.vxor 5 66 19 5) ∧
    decodeWord 0b000100_0000101_1000010_0010011_101_11 = .ok (.vandn 5 66 19 5) := by decide

theorem test_decode_op05 :
    decodeWord 0b000101_0000101_1000010_0010011_0_10_00 = .ok (.shl 5 66 19 2) ∧
    decodeWord 0b000101_0000101_1000010_0010011_0_10_01 = .ok (.shr 5 66 19 2) ∧
    decodeWord 0b000101_0000101_1000010_0010011_0_10_10 = .ok (.sar 5 66 19 2) ∧
    decodeWord 0b000101_0000101_1000010_0010011_0_10_11 = .ok (.rot 5 66 19 2) := by decide

theorem test_decode_op06 :
    decodeWord 0b000110_0000101_1000010_0010011_0_10_00 = .ok (.bfx 5 66 19 2) ∧
    decodeWord 0b000110_0000101_1000010_0010011_0_10_01 = .ok (.bfxu 5 66 19 2) ∧
    decodeWord 0b000110_0000101_1000010_0010011_0_10_10 = .ok (.bfi 5 66 19 2) ∧
    decodeWord 0b000110_0000101_1000010_00000000_10_11 = .ok (.brev 5 66 2) := by decide

theorem test_decode_op07 :
    decodeWord 0b000111_1011_101_0000101_1000010_0_10_00 = .ok (.icmpSet 11 5 5 66 2) ∧
    decodeWord 0b000111_1011_101_0000101_1000010_0_10_01 = .ok (.icmpAnd 11 5 5 66 2) ∧
    decodeWord 0b000111_1011_101_0000101_1000010_0_10_10 = .ok (.icmpOr 11 5 5 66 2) := by decide

theorem test_decode_op08 :
    decodeWord 0b001000_0000101_1000010_0010011_101_00 = .ok (.sel 5 66 19 5) ∧
    decodeWord 0b001000_0000101_1000010_0000000_101_01 = .ok (.mov 5 66 5) ∧
    decodeWord 0b001000_0000101_1000010_00000000_10_10 = .ok (.movs 5 66 2) := by decide

theorem test_decode_op09 :
    decodeWord 0b001001_0000101_1000010_001111000110 = .ok (.iaddi 5 66 966) := by decide

theorem test_decode_op0A :
    decodeWord 0b001010_0000101_101_0101001111000110 = .ok (.movi 5 5 21446) := by decide

theorem test_decode_op0B :
    decodeWord 0b001011_0000101_1000010_0010011_101_00 = .ok (.zip 5 66 19 5) ∧
    decodeWord 0b001011_0000101_1000010_0010011_101_01 = .ok (.unzip 5 66 19 5) ∧
    decodeWord 0b001011_0000101_1000010_0010011_0_10_10 = .ok (.packlo 5 66 19 2) ∧
    decodeWord 0b001011_0000101_1000010_0010011_0_10_11 = .ok (.packhi 5 66 19 2) := by decide

theorem test_decode_op0C :
    decodeWord 0b001100_0000101_1000010_0010011_1_10_00 = .ok (.fadd 5 66 19 2) ∧
    decodeWord 0b001100_0000101_1000010_0010011_1_10_01 = .ok (.fsub 5 66 19 2) ∧
    decodeWord 0b001100_0000101_1000010_0010011_1_10_10 = .ok (.fmul 5 66 19 2) ∧
    decodeWord 0b001100_0000101_1000010_0010011_1_10_11 = .ok (.fma 5 66 19 2) := by decide

theorem test_decode_op0D :
    decodeWord 0b001101_0000101_1000010_0010011_1_10_00 = .ok (.fmin 5 66 19 2) ∧
    decodeWord 0b001101_0000101_1000010_0010011_1_10_01 = .ok (.fmax 5 66 19 2) ∧
    decodeWord 0b001101_0000101_1000010_0010011_1_10_10 = .ok (.fminn 5 66 19 2) ∧
    decodeWord 0b001101_0000101_1000010_0010011_1_10_11 = .ok (.fmaxn 5 66 19 2) := by decide

theorem test_decode_op0E :
    decodeWord 0b001110_0000101_1000010_00000001_10_00 = .ok (.fabs 5 66 2) ∧
    decodeWord 0b001110_0000101_1000010_00000001_10_01 = .ok (.fneg 5 66 2) ∧
    decodeWord 0b001110_0000101_1000010_00000001_10_10 = .ok (.fclass 5 66 2) ∧
    decodeWord 0b001110_0000101_1000010_00000001_10_11 = .ok (.frnd 5 66 2) := by decide

theorem test_decode_op0F :
    decodeWord 0b001111_1011_101_0000101_1000010_1_10_00 = .ok (.fcmpSet 11 5 5 66 2) ∧
    decodeWord 0b001111_1011_101_0000101_1000010_1_10_01 = .ok (.fcmpAnd 11 5 5 66 2) ∧
    decodeWord 0b001111_1011_101_0000101_1000010_1_10_10 = .ok (.fcmpOr 11 5 5 66 2) := by decide

theorem test_decode_op10 :
    decodeWord 0b010000_0000101_1000010_0010011_1_10_00 = .ok (.fdiv 5 66 19 2) ∧
    decodeWord 0b010000_0000101_1000010_00000001_10_01 = .ok (.fsqrt 5 66 2) ∧
    decodeWord 0b010000_0000101_1000010_0010011_1_10_10 = .ok (.fscale 5 66 19 2) ∧
    decodeWord 0b010000_0000101_1000010_00000001_10_11 = .ok (.flogb 5 66 2) := by decide

theorem test_decode_op11 :
    decodeWord 0b010001_0000101_1000010_00000001_10_00 = .ok (.exp2 5 66 2) ∧
    decodeWord 0b010001_0000101_1000010_00000001_10_01 = .ok (.log2 5 66 2) ∧
    decodeWord 0b010001_0000101_1000010_00000001_10_10 = .ok (.rcp 5 66 2) ∧
    decodeWord 0b010001_0000101_1000010_00000001_10_11 = .ok (.rsq 5 66 2) := by decide

theorem test_decode_op12 :
    decodeWord 0b010010_0000101_1000010_00000001_10_00 = .ok (.sin 5 66 2) ∧
    decodeWord 0b010010_0000101_1000010_00000001_10_01 = .ok (.cos 5 66 2) ∧
    decodeWord 0b010010_0000101_1000010_00000001_10_10 = .ok (.sinpi 5 66 2) ∧
    decodeWord 0b010010_0000101_1000010_00000001_10_11 = .ok (.cospi 5 66 2) := by decide

theorem test_decode_op13 :
    decodeWord 0b010011_0000101_1000010_00000001_10_00 = .ok (.tanh 5 66 2) ∧
    decodeWord 0b010011_0000101_1000010_00000001_10_01 = .ok (.erf 5 66 2) := by decide

theorem test_decode_op14 :
    decodeWord 0b010100_0000101_1000010_0_1_10_101_101_00 = .ok (.cvt 5 66 1 2 5 5) ∧
    decodeWord 0b010100_0000101_1000010_0_1_10_101_0_10_01 = .ok (.cvts 5 66 1 2 5 2) ∧
    decodeWord 0b010100_0000101_1000010_0000_101_11010 = .ok (.cvtb 5 66 5) ∧
    decodeWord 0b010100_0000101_1000010_0000_101_11011 = .ok (.cvtbx 5 66 5) := by decide

theorem test_decode_op15 :
    decodeWord 0b010101_0000101_1000010_0010011_101_00 = .ok (.shfl 5 66 19 5) ∧
    decodeWord 0b010101_0000101_1000010_0010011_101_01 = .ok (.bcast 5 66 19 5) ∧
    decodeWord 0b010101_0000101_1000010_0010011_00010 = .ok (.permb 5 66 19) := by decide

theorem test_decode_op16 :
    decodeWord 0b010110_0000101_1000010_00000_10_101_00 = .ok (.qswp 5 66 2 5) ∧
    decodeWord 0b010110_0000101_1000010_000000_1_1_10_01 = .ok (.ddx 5 66 1 2) ∧
    decodeWord 0b010110_0000101_1000010_000000_1_1_10_10 = .ok (.ddy 5 66 1 2) ∧
    decodeWord 0b010110000_1011_000_1011_000000000011 = .ok (.elect 11 11) := by decide

theorem test_decode_op17 :
    decodeWord 0b010111_0000101_000_1011_000000000000 = .ok (.vote 5 11) ∧
    decodeWord 0b010111_0000101_1000010_0000_101_0_10_01 = .ok (.redi 5 66 5 2) ∧
    decodeWord 0b010111_0000101_1000010_0000_101_1_10_10 = .ok (.redf 5 66 5 2) ∧
    decodeWord 0b010111_0000101_1000010_000_1_101_0_10_11 = .ok (.scani 5 66 1 5 2) := by decide

theorem test_decode_op18 :
    decodeWord 0b011000000_1011_000_1011_000_1011_00000 = .ok (.kand 11 11 11) ∧
    decodeWord 0b011000000_1011_000_1011_000_1011_00001 = .ok (.kor 11 11 11) ∧
    decodeWord 0b011000000_1011_000_1011_000_1011_00010 = .ok (.kxor 11 11 11) ∧
    decodeWord 0b011000000_1011_000_1011_000000000011 = .ok (.knot 11 11) := by decide

theorem test_decode_op19 :
    decodeWord 0b011001000_1011_000_1011_000000000000 = .ok (.kmov 11 11) ∧
    decodeWord 0b011001_0000101_000_1011_000000000100 = .ok (.kmovS 5 11) ∧
    decodeWord 0b011001000_1011_0000101_000000001000 = .ok (.kmovK 11 5) ∧
    decodeWord 0b011001_0000101_000_1011_000000001100 = .ok (.kmovV 5 11) ∧
    decodeWord 0b011001_0000101_000_1011_000000000001 = .ok (.kpop 5 11) ∧
    decodeWord 0b011001_0000101_000_1011_000000000010 = .ok (.kfirst 5 11) ∧
    decodeWord 0b011001000_1011_0000101_1000010_101_11 = .ok (.dropk 11 5 66 5) := by decide

theorem test_decode_op1A :
    decodeWord 0b011010_0000101_1000010_0010011_00000 = .ok (.readln 5 66 19) ∧
    decodeWord 0b011010_0000101_1000010_0010011_00001 = .ok (.writeln 5 66 19) ∧
    decodeWord 0b011010_0000101_1000010_000000000010 = .ok (.srd 5 66) ∧
    decodeWord 0b011010_0000101_1000010_000000000011 = .ok (.locq 5 66) := by decide

theorem test_decode_op1B :
    decodeWord 0b011011_0000101_1000010_0010011_00000 = .ok (.sadd 5 66 19) ∧
    decodeWord 0b011011_0000101_1000010_0010011_00001 = .ok (.ssub 5 66 19) ∧
    decodeWord 0b011011_0000101_1000010_0010011_00010 = .ok (.smul 5 66 19) ∧
    decodeWord 0b011011_0000101_1000010_0010011_00011 = .ok (.smulh 5 66 19) := by decide

theorem test_decode_op1C :
    decodeWord 0b011100_0000101_1000010_0010011_00000 = .ok (.sand 5 66 19) ∧
    decodeWord 0b011100_0000101_1000010_0010011_00001 = .ok (.sor 5 66 19) ∧
    decodeWord 0b011100_0000101_1000010_0010011_00010 = .ok (.sxor 5 66 19) ∧
    decodeWord 0b011100_0000101_1000010_0010011_00011 = .ok (.ssel 5 66 19) := by decide

theorem test_decode_op1D :
    decodeWord 0b011101_0000101_1000010_0010011_00000 = .ok (.sshl 5 66 19) ∧
    decodeWord 0b011101_0000101_1000010_0010011_00001 = .ok (.sshr 5 66 19) ∧
    decodeWord 0b011101_0000101_1000010_0010011_00010 = .ok (.ssar 5 66 19) ∧
    decodeWord 0b011101_0000101_1000010_000000000011 = .ok (.smov 5 66) := by decide

theorem test_decode_op1E :
    decodeWord 0b011110_0000101_1000010_0010011_101_00 = .ok (.scmp 5 66 19 5) := by decide

theorem test_decode_op1F :
    decodeWord 0b011111_0000101_1000010_001111000110 = .ok (.saddi 5 66 966) := by decide

theorem test_decode_op20 :
    decodeWord 0b100000_0000101_1_10_0101001111000110 = .ok (.smovw 5 1 2 21446) := by decide

theorem test_decode_op21 :
    decodeWord 0b100001_0000101_1000010_101_10_0010011 = .ok (.ld 5 66 5 2 19) := by decide

theorem test_decode_op22 :
    decodeWord 0b100010_0000101_1000010_101_10_0010011 = .ok (.st 5 66 5 2 19) := by decide

theorem test_decode_op23 :
    decodeWord 0b100011_0000101_1000010_101_00_0010011 = .ok (.lds 5 66 5 19) := by decide

theorem test_decode_op24 :
    decodeWord 0b100100_0000101_1000010_101_00_0010011 = .ok (.sts 5 66 5 19) := by decide

theorem test_decode_op25 :
    decodeWord 0b100101_0000101_1000010_101_10_0010011 = .ok (.ldu 5 66 5 2 19) := by decide

theorem test_decode_op26 :
    decodeWord 0b100110_0000101_1000010_101_10_0010011 = .ok (.stu 5 66 5 2 19) := by decide

theorem test_decode_op27 :
    decodeWord 0b100111_0000101_1000010_0010011_1011_1 = .ok (.atomW 5 66 19 11 1) := by decide

theorem test_decode_op28 :
    decodeWord 0b101000_0000101_1000010_0010011_1011_1 = .ok (.atomD 5 66 19 11 1) := by decide

theorem test_decode_op29 :
    decodeWord 0b101001_0000101_1000010_000000000000 = .ok (.mcas 5 66) ∧
    decodeWord 0b101001_0000101_1000010_0010011_101_01 = .ok (.waitcmp 5 66 19 5) ∧
    decodeWord 0b10100100000000000000000000000_1_10 = .ok (.fence 1) ∧
    decodeWord 0b1010010000000_0000101_0000000_101_11 = .ok (.cmnt 5 5) := by decide

theorem test_decode_op2B :
    decodeWord 0b101011_1011_101_000_0000101_1000010_00 = .ok (.qpush 11 5 5 66) ∧
    decodeWord 0b101011_1011_000000_0000101_000000001 = .ok (.qpop 11 5) ∧
    decodeWord 0b101011_1011_000000_0000101_000000010 = .ok (.qpeek 11 5) ∧
    decodeWord 0b101011_1011_000000_0000101_000000011 = .ok (.qstat 11 5) := by decide

theorem test_decode_op2C :
    decodeWord 0b101100_1011_000_101_0000101_1000010_00 = .ok (.cpyb 11 5 5 66) ∧
    decodeWord 0b101100_1011_101_101_0000101_1000010_01 = .ok (.cpyt 11 5 5 5 66) ∧
    decodeWord 0b101100_1011_000_101_0000101_000000010 = .ok (.cpyh 11 5 5) ∧
    decodeWord 0b101100_1011_000_101_0000101_1000010_11 = .ok (.cpyc 11 5 5 66) := by decide

theorem test_decode_op2D :
    decodeWord 0b1011010000000000_0000101_000000000 = .ok (.seal 5) ∧
    decodeWord 0b1011010000000000_0000101_000000001 = .ok (.waitb 5) ∧
    decodeWord 0b10110100_10_000000_0000101_000000010 = .ok (.rdwp 2 5) ∧
    decodeWord 0b1011010_101_000000_0000101_000000011 = .ok (.strm 5 5) := by decide

theorem test_decode_op2E :
    decodeWord 0b101110_0000101_1000010_0010011_00000 = .ok (.vlk 5 66 19) ∧
    decodeWord 0b101110_0000101_1000010_0010011_1_10_01 = .ok (.vld1 5 66 19 2) ∧
    decodeWord 0b101110_0000101_1000010_0010011_11010 = .ok (.vld7 5 66 19) ∧
    decodeWord 0b101110_0000101_1000010_0010011_11011 = .ok (.vld27 5 66 19) := by decide

theorem test_decode_op2F :
    decodeWord 0b101111_0000101_1000010_0010011_1_10_00 = .ok (.vst1 5 66 19 2) ∧
    decodeWord 0b1011110000000_0000101_1000010_00_1_01 = .ok (.vact 5 66 1) ∧
    decodeWord 0b101111_0000101_1000010_0010011_11010 = .ok (.vmarch 5 66 19) ∧
    decodeWord 0b101111_0000101_1000010_0010011_00011 = .ok (.vins 5 66 19) := by decide

theorem test_decode_op31 :
    decodeWord 0b110001_1011_101_101_0000101_1000010_00 = .ok (.mma 11 5 5 5 66) ∧
    decodeWord 0b110001_1011_101_101_0000101_1000010_01 = .ok (.mma1 11 5 5 5 66) ∧
    decodeWord 0b110001_1011_000000_0000101_1000010_10 = .ok (.mzero 11 5 66) ∧
    decodeWord 0b110001_1011_101_000_0000101_1000010_11 = .ok (.mout 11 5 5 66) := by decide

theorem test_decode_op32 :
    decodeWord 0b1100100000000000_0000101_000000000 = .ok (.tdecl 5) ∧
    decodeWord 0b1100100000000000_0000101_1000010_01 = .ok (.tsig 5 66) ∧
    decodeWord 0b1100100000000000_0000101_000000010 = .ok (.twait 5) ∧
    decodeWord 0b1100100000000000_0000101_1000010_11 = .ok (.tqry 5 66) := by decide

theorem test_decode_op33 :
    decodeWord 0b110011_1011_01101_00101001111000110 = .ok (.bra 11 13 21446) := by decide

theorem test_decode_op34 :
    decodeWord 0b110100_1011_01101_00101001111000110 = .ok (.call 11 13 21446) := by decide

theorem test_decode_op35 :
    decodeWord 0b1101010000000_0000101_000000000000 = .ok (.jmp 5) ∧
    decodeWord 0b11010100000000000000000000000001 = .ok (.ret) ∧
    decodeWord 0b110101_0000101_0000000000000000101 = .ok (.retGet 5) ∧
    decodeWord 0b1101010000000_0000101_000000001001 = .ok (.retSet 5) ∧
    decodeWord 0b11010100000000000000000000000010 = .ok (.exit) ∧
    decodeWord 0b11010100000000000000000000000011 = .ok (.yield) := by decide

theorem test_decode_op36 :
    decodeWord 0b11011000000000000000000000000000 = .ok (.bar) ∧
    decodeWord 0b11011000000000000000000000000001 = .ok (.barc) ∧
    decodeWord 0b110110000000000000000000000_101_10 = .ok (.quiesce 5) ∧
    decodeWord 0b11011000000000000000000000000011 = .ok (.nop) := by decide

theorem test_decode_op37 :
    decodeWord 0b110111_0000101_1000010_0010011_00000 = .ok (.launch 5 66 19) ∧
    decodeWord 0b110111_0000101_000101_1_1000010_00001 = .ok (.rqpush 5 1 66) ∧
    decodeWord 0b110111_0000101_000101_1_000_1011_00010 = .ok (.rqpop 5 1 11) ∧
    decodeWord 0b11011100000000000000_0000101_00011 = .ok (.trap 5) := by decide

theorem test_decode_op38 :
    decodeWord 0b111000_0000101_1000010_0010011_00000 = .ok (.pemit 5 66 19) ∧
    decodeWord 0b1110000000000_0000101_000000000100 = .ok (.pemitEnd 5) ∧
    decodeWord 0b1110000000000_0000101_0000_101_11001 = .ok (.pattr 5 5) ∧
    decodeWord 0b111000_0000101_0000000000_1011_00010 = .ok (.pcov 5 11) ∧
    decodeWord 0b1110000000000_0000101_000000000011 = .ok (.pexp 5) := by decide

theorem test_decode_op39 :
    decodeWord 0b11100100000000000000000000000000 = .ok (.pkill) ∧
    decodeWord 0b1110010000000_0000101_000000000001 = .ok (.pdepth 5) := by decide

theorem test_decode_op3A :
    decodeWord 0b111010_0000101_0000000_1000010_00000 = .ok (.csrrd 5 66) ∧
    decodeWord 0b1110100000000_0000101_1000010_00001 = .ok (.csrwr 5 66) ∧
    decodeWord 0b1110100000000_0000101_1000010_00101 = .ok (.csrwrSet 5 66) ∧
    decodeWord 0b1110100000000_0000101_1000010_01001 = .ok (.csrwrClr 5 66) ∧
    decodeWord 0b1110100000000_0000101_1000010_00010 = .ok (.tlbinv 5 66) ∧
    decodeWord 0b11101000000000000000000000000110 = .ok (.tlbinvAsn) ∧
    decodeWord 0b11101000000000000000000000000011 = .ok (.eret) := by decide

theorem test_decode_op3B :
    decodeWord 0b111011_0000101_1000010_000000000000 = .ok (.snap 5 66) ∧
    decodeWord 0b111011_0000101_1000010_000000000001 = .ok (.waitt 5 66) := by decide
/-- Words that the spec writes out with their operands (spec/02, 04, 05, 06, 09, 13, 14, 19, 21). -/
theorem test_words_of_the_spec :
    decodeWord 0x84464802 = .ok (.ld 8 100 4 0 2) ∧ decodeWord 0x8460367E = .ok (.ld 12 3 3 0 0x7E) ∧
    decodeWord 0x88506C00 = .ok (.st 10 6 6 0 0) ∧ decodeWord 0x1CD08CCA = .ok (.icmpOr 3 2 8 102 2) ∧
    decodeWord 0x9CA08CB7 = .ok (.atomW 20 8 101 11 1) ∧ decodeWord 0x9C008CB6 = .ok (.atomW 0 8 101 11 0) ∧
    decodeWord 0xA7564CC1 = .ok (.waitcmp 106 100 102 0) ∧ decodeWord 0xA4000006 = .ok (.fence 1) ∧
    decodeWord 0xA406300B = .ok (.cmnt 99 2) ∧ decodeWord 0xA7664000 = .ok (.mcas 108 100) := by decide

theorem test_words_of_the_engines :
    decodeWord 0xB302C994 = .ok (.cpyb 12 2 100 101) ∧ decodeWord 0xB218C999 = .ok (.cpyt 8 3 0 100 102) ∧
    decodeWord 0xB400CE00 = .ok (.seal 103) ∧ decodeWord 0xB440D202 = .ok (.rdwp 1 105) ∧
    decodeWord 0xB480C803 = .ok (.strm 2 100) ∧ decodeWord 0xAE100814 = .ok (.qpush 8 2 4 5) ∧
    decodeWord 0xC800CD9D = .ok (.tsig 102 103) ∧ decodeWord 0xC800D39B = .ok (.tqry 105 102) := by decide

theorem test_words_of_control :
    decodeWord 0xD1840005 = .ok (.call 6 2 5) ∧ decodeWord 0xCC55FFEF = .ok (.bra 1 10 0x1FFEF) ∧
    decodeWord 0xD4000002 = .ok .exit ∧ decodeWord 0xD4000001 = .ok .ret ∧ decodeWord 0xD800000A = .ok (.quiesce 2) ∧
    decodeWord 0xDF464CA0 = .ok (.launch 104 100 101) ∧ decodeWord 0xDC30A101 = .ok (.rqpush 6 0 8) ∧
    decodeWord 0xDC40B062 = .ok (.rqpop 8 1 3) ∧ decodeWord 0xEF4E6001 = .ok (.waitt 105 102) ∧
    decodeWord 0xDC0000A3 = .ok (.trap 5) := by decide

theorem test_words_of_the_system :
    decodeWord 0xEB480000 = .ok (.csrrd 105 0) ∧ decodeWord 0xE8180040 = .ok (.csrrd 3 2) ∧
    decodeWord 0xE8064001 = .ok (.csrwr 100 0) ∧ decodeWord 0xE8064005 = .ok (.csrwrSet 100 0) ∧
    decodeWord 0xE8064CA2 = .ok (.tlbinv 100 101) ∧ decodeWord 0xE8000006 = .ok .tlbinvAsn ∧
    decodeWord 0xE0263040 = .ok (.pemit 4 99 2) ∧ decodeWord 0xE0063004 = .ok (.pemitEnd 99) ∧
    decodeWord 0xE0009059 = .ok (.pattr 9 2) ∧ decodeWord 0xE0280102 = .ok (.pcov 5 8) ∧
    decodeWord 0xE4006001 = .ok (.pdepth 6) := by decide

/-- R51, R41: words that the spec calls illegal. -/
theorem test_illegal_words :
    (decodeWord 0xA8000000).toOption = none ∧ (decodeWord 0x20000003).toOption = none ∧
    (decodeWord 0x1C00000B).toOption = none := by decide

/-! ### Meanings, on the worked examples of the spec -/

/-- The state in which a word would be fetched, lane 0 alone active, with a prefix word and some registers of lane 0. -/
def oneLane (p : Option Code) (r : List (Nat × Word)) : State :=
  { (State.reset.withFetchWord 32 0).modGrp 0 0 fun g => { (r.foldl (fun g x => g.setVreg x.1 ((g.vreg x.1).set 0 x.2)) g) with
      paths := g.paths.map fun q => { q with lanes := 1 } } with cur := ⟨0, 0, 0, 0, p⟩ }

/-- Lane 0 of a vector register after a step. -/
def lane0 (o : Outcome State Fault Refusal) (d : Nat) : Option Word :=
  match o with
  | .next t => (t.grpAt 0 0).map fun g => laneOf (g.vreg d) 0
  | _ => none

/-- v3 after an instruction on v1, v2 and v7, under a prefix word. -/
def run (i : Instr) (p : Option Code) (a b c : Word) : Option Word := lane0 (exec i (oneLane p [(1, a), (2, b), (7, c)])) 3

/-- spec/09, worked integer results. -/
theorem test_integer_sums :
    run (.iadd 3 1 2 0) none 0x64 0x64 0 = some 0xC8 ∧ run (.iadds 3 1 2 0) none 0x64 0x64 0 = some 0x7F ∧
    run (.isubs 3 1 2 0) none 0x9C 0x64 0 = some 0x80 ∧ run (.iabs 3 1 0) none 0x80 0 0 = some 0x80 := by decide

theorem test_integer_products :
    run (.imulh 3 1 2 1) none 0x4000 0x0004 0 = some 1 ∧ run (.imulh 3 1 2 1) none 0xFFFF 0xFFFF 0 = some 0 ∧
    run (.imulhu 3 1 2 1) none 0xFFFF 0xFFFF 0 = some 0xFFFE := by decide

theorem test_shifts :
    run (.clz 3 1 2) none 0x100 0 0 = some 0x0000002000000017 ∧ run (.rot 3 1 2 0) none 0x81 1 0 = some 3 ∧
    run (.shr 3 1 2 0) none 0x80 9 0 = some 0 ∧ run (.sar 3 1 2 0) none 0x80 9 0 = some 0xFF := by decide

theorem test_bit_fields :
    (run (.bfx 3 1 2 2) (some 0xF0143850) 0xF80 7 5).map (·.setWidth 32) = some 0xFFFFFFFF#32 ∧
    (run (.bfxu 3 1 2 2) (some 0xF0143850) 0xF80 7 5).map (·.setWidth 32) = some 0x1F#32 ∧
    (run (.bfi 3 1 2 2) (some 0xF0143850) 0xFFFFFFFF 0 0x88).map (·.setWidth 32) = some 0xFFFFF0FF#32 := by decide

theorem test_packs :
    run (.packlo 3 1 2 2) none 0x1111222233334444 0x5555666677778888 0 = some 0x6666888822224444 ∧
    run (.packhi 3 1 2 2) none 0x1111222233334444 0x5555666677778888 0 = some 0x5555777711113333 ∧
    run (.movi 3 6 0x3FC0) none 0 0 0 = some 0x3FC000003FC00000 := by decide

/-- spec/09, worked floating-point results. -/
theorem test_division :
    fp32.div 0 0x3F800000 0x40400000 = (0x3EAAAAAB, fInexact) ∧ (fp32.div 1 0x3F800000 0x40400000).1 = 0x3EAAAAAA ∧
    (fp32.div 3 0x3F800000 0x40400000).1 = 0x3EAAAAAB ∧ fp32.div 0 0x3F800000 0x80000000 = (0xFF800000, fDivZero) := by decide

theorem test_square_root :
    fp32.sqrt 0 0x40000000 = (0x3FB504F3, fInexact) ∧ (fp32.sqrt 1 0x40000000).1 = 0x3FB504F3 ∧
    (fp32.sqrt 3 0x40000000).1 = 0x3FB504F4 ∧ fp32.sqrt 0 0xBF800000 = (0x7FC00000, fInvalid) := by decide

theorem test_rounding_to_integer :
    (fp32.integral 0 0xC0200000).1 = 0xC0000000 ∧ (fp32.integral 3 0xC0200000).1 = 0xC0000000 ∧
    fp32.integral 4 0xC0200000 = (0xC0400000, 0) ∧ fp32.integral 2 0xC0200000 = (0xC0400000, 0) := by decide

theorem test_float_rest :
    fp32.pick false false 0x7FC00001 0x40000000 = (0x7FC00000, 0) ∧ fp32.pick false true 0x7FC00001 0x40000000 = (0x40000000, 0) ∧
    fp32.pick false false 0x80000000 0 = (0x80000000, 0) ∧ fp32.classify 0x80000000 = 8 ∧ fp32.classify 0x7F800001 = 0x100 ∧
    fp32.logb 1 = (0xC3150000, 0) ∧ fp32.scale 0 0x3FC00000 (-130) = (0x000C0000, 0) := by decide

/-- spec/09: under the prefix word of `fdiv.f v8, v9, v10 | rtz`, 1.0 / 3.0 is rounded toward zero. -/
theorem test_rounding_mode :
    run (.fdiv 3 1 2 2) (some 0xF007F850) 0x3F8000003F800000 0x4040000040400000 0 = some 0x3EAAAAAA3EAAAAAA := by decide

/-- spec/08, the worked BFP-4 encoding. -/
theorem test_block_format :
    bfpEncode ([0x40400000, 0xC0200000, 0x3F400000, 0x4079999A].map fp32.read ++ List.replicate 60 (.fin false 0 0)) 4 0 true =
      ([6, -5, 2, 7] ++ List.replicate 60 0, 0x81, fInexact) := by decide

/-- spec/08, the order of three merges. -/
theorem test_merge_order :
    (fp32.add 0 (fp32.add 0 0x4B800000 0x3F800000).1 0x3F800000).1 = 0x4B800000 ∧
    (fp32.add 0 (fp32.add 0 0x3F800000 0x3F800000).1 0x4B800000).1 = 0x4B800001 := by decide

/-- spec/10, the worked reduction: the tree of 64 positions. -/
theorem test_reduction_tree :
    (treeSum fp32 0 6 ([0x3F800000, 0x3F800000, 0x4B800000] ++ List.replicate 61 0x80000000)).1 = 0x4B800001 ∧
    (treeSum fp32 0 6 ([0x4B800000, 0x3F800000, 0x3F800000] ++ List.replicate 61 0x80000000)).1 = 0x4B800000 ∧
    (treeSum fp32 0 6 (List.replicate 64 0x80000000)).1 = 0x80000000 := by decide

/-- spec/10, the worked draw. -/
theorem test_mix : mix 0 = 0 ∧ mix 1 = 0x5FBE51FA := by decide

/-- spec/11, the worked product. -/
theorem test_matrix_product : windowRound [(16384, -9)] = (0x42000000, 0) := by decide

/-- spec/03, the worked translation: indices, and where the line lives. -/
theorem test_translation_indices :
    tableIdx 4 0x1234567880 = 0 ∧ tableIdx 3 0x1234567880 = 0 ∧ tableIdx 2 0x1234567880 = 18 ∧
    tableIdx 1 0x1234567880 = 209 := by decide

theorem test_home_of_a_line :
    State.reset.storageDie 0x460F567880 = 2 ∧ State.reset.stackOf 0x460F567880 = 5 ∧ sliceOf 0x460F567880 = 43 ∧
    locqWord State.reset (some (0x460F567880, 0x60000460F00028CD)) = 0x80000000006005AB := by decide

/-- spec/04: AINCW wraps at its bound; 32 lanes of it. -/
theorem test_increment_wraps :
    atomicNew 11 32 0xFFFFFFFE 0xFFFFFFFF 0 0 = some 0xFFFFFFFF ∧ atomicNew 11 32 0xFFFFFFFF 0xFFFFFFFF 0 0 = some 0 ∧
    (List.range 32).foldl (fun x _ => (atomicNew 11 32 x 9 0 0).getD x) 5 = 7 := by decide

/-- spec/22: samples of 1, 3, 150 and 90,000 ns. -/
theorem test_histogram :
    [1, 3, 150, 90000].foldl Hist.sample Hist.empty = ⟨some 1, some 90000, [1, 1, 0, 0, 0, 0, 0, 1, 0, 0, 0, 0, 0, 0, 0, 1]⟩ := by
  decide

/-! ### A word placed where the next step fetches it -/

/-- The number of the grid's block, the pc after a step, whether the group's first path went on. -/
def pcAfter (w : Nat) : Option Word :=
  match step (State.reset.withFetchWord 32 w) with
  | .next t => (t.pathAt 0 0 0).map (·.pc)
  | _ => none

/-- `iadd.i64 v6, v6, s4` runs, and a word that is no instruction does not move the path. -/
theorem test_step : pcAfter 0x00306C8C = some 8 ∧ pcAfter 0xA8000000 = some 4 := by decide

end Sys2Proof.Tests
end

