-- ==== Sys2Proof/Tests/WitnessesA.lean ====
section
/-!
SUPPORT. Witnesses, first part: small states, and for each statement about vector, memory and control instructions concrete
states and operands that meet the hypotheses of its clauses together.
-/

namespace Sys2Proof.Tests

open Sys2Proof.Machine Sys2Proof.Safety Host

set_option maxRecDepth 100000
set_option Elab.async false

/-! ### Small states -/

/-- A leaf that permits every access, accessed and dirty, of the page of 1 MiB at physical address 0. -/
def openPte : Nat := 0x40000000000000DD

/-- A core whose TLB holds that page at virtual address 0. -/
def tlbCore : Machine.Core := { Machine.Core.empty with tlb := [⟨0, 0, 0, 0x100000, openPte, 0⟩] }

/-- A die out of reset whose TLB holds it too. -/
def tlbDie : Die := { Die.empty with l2Reset := false, coreReset := false, enable := 3, tlb := [⟨0, 0, 0, 0x100000, openPte, 0⟩] }

/-- One block of one group on core 0, changed by `f`, its word at 4 under a prefix word or none, with memory as given, and a
translation of page 0. -/
def demoG (m : List Cell) (w : Option Code) (f : Group → Group) : State :=
  { atWord ((State.reset.loaded.modPath 0 0 0 fun p => { p with pc := 4, cl := some (oneWordClause 0 0) }).modGrp 0 0 f)
      0 0 0 0 w with
    mem := m, cores := [(0, tlbCore)], dies := (List.range 4).map fun d => (d, tlbDie) }

def demo : State := demoG [] none id

/-- What a word is issued by, looked up. -/
def sceneOf (s : State) (p : Pfx) : Scene where
  blk := (s.blkAt s.cur.blk).getD default
  grp := (s.grpAt s.cur.blk s.cur.grp).getD default
  path := (s.pathAt s.cur.blk s.cur.grp s.cur.path).getD default
  grid := ((s.blkAt s.cur.blk).bind fun b => s.grids[b.grid]?).getD default
  ctx := ((s.blkAt s.cur.blk).bind fun b => s.ctxAt b.ctx).getD default
  core := ((s.blkAt s.cur.blk).bind (·.core)).getD 0
  pfx := p

def demoE : Scene := sceneOf demo Pfx.neutral

theorem demo_issues (m : List Cell) (u : PfxUse) : Issues (demoG m none id) u (sceneOf (demoG m none id) Pfx.neutral) :=
  ⟨rfl, rfl, rfl, rfl, rfl, rfl, rfl⟩

/-- A scene of the launch above: every register of the encoding, and no poison. -/
structure Plain (e : Scene) : Prop where
  vregs : e.grid.lrec.vregs = 96
  uregs : e.grid.lrec.uregs = 32
  poison : e.grp.poison = []

theorem Plain.clear {e : Scene} (h : Plain e) (c : Nat) (m : BitVec 32) : e.clear c m := by
  intro q hq; rw [h.poison] at hq; cases hq

theorem Plain.vec {e : Scene} (h : Plain e) (d : BitVec 7) (hd : d.toNat < 96) : e.hasVec d := ⟨hd, by rw [h.vregs]; exact hd⟩

theorem Plain.uni {e : Scene} (h : Plain e) (d : BitVec 7) (hd : 96 ≤ d.toNat) : e.hasUni d :=
  ⟨hd, by rw [h.uregs]; omega⟩

theorem Plain.any {e : Scene} (h : Plain e) (d : BitVec 7) : e.hasVec d ∨ e.hasUni d := by
  by_cases hd : d.toNat < 96
  · exact .inl (h.vec d hd)
  · exact .inr (h.uni d (by omega))

theorem Plain.reads {e : Scene} (h : Plain e) (d : BitVec 7) : e.reads d := ⟨h.any d, h.clear _ _⟩

theorem Plain.readsAll {e : Scene} (h : Plain e) (d : BitVec 7) : e.readsAll d := ⟨h.any d, h.clear _ _⟩

theorem Plain.readsUni {e : Scene} (h : Plain e) (d : BitVec 7) (hd : 96 ≤ d.toNat) : e.readsUni d := ⟨h.uni d hd, h.clear _ _⟩

theorem Plain.mask {e : Scene} (h : Plain e) (k : Nat) : e.readsMask k := h.clear _ _

theorem demo_plain (m : List Cell) (w : Option Code) (p : Pfx) : Plain (sceneOf (demoG m w id) p) := ⟨rfl, rfl, rfl⟩

theorem demo_quiet (m : List Cell) (w : Option Code) (p : Pfx) : Quiet (demoG m w id) (sceneOf (demoG m w id) p) :=
  ⟨rfl, rfl, rfl, rfl, rfl, rfl, rfl⟩

theorem demo_cold (m : List Cell) (w : Option Code) (p : Pfx) (f : Group → Group) :
    Cold (demoG m w f) (sceneOf (demoG m w f) p) := by
  refine ⟨rfl, ?_⟩
  have h : (sceneOf (demoG m w f) p).core = 0 := rfl
  rw [h]
  rfl

theorem demo_reaches (m : List Cell) (w : Option Code) (p : Pfx) (f : Group → Group) (va : Word) (acc : Acc) (h : va.toNat < 0x100000) (ha : acc ≠ .fetch) :
    Reaches (demoG m w f) (sceneOf (demoG m w f) p) va acc ⟨va.toNat, openPte, 0, 0, 0x100000⟩ := by
  have hh : (⟨0, 0, 0, 0x100000, openPte, 0⟩ : TlbEntry).hits (sceneOf (demoG m w f) p).ctx va.toNat = true := by
    show (decide (0 = 0 ∧ 0 = 0) && decide (0 ≤ va.toNat ∧ va.toNat < 0 + 0x100000)) = true
    simp [h]
  refine ⟨?_, ?_, ?_, ?_, fun _ => ?_, fun _ => rfl, rfl, ?_, ?_⟩
  · have : va.toNat / 2 ^ 56 = 0 := by omega
    simp only [Nat.reducePow] at this
    simp [canonical, fld, this]
  · show List.find? _ [(⟨0, 0, 0, 0x100000, openPte, 0⟩ : TlbEntry)] = _
    rw [List.find?_cons_of_pos]
    · rfl
    · rw [hh]; cases acc <;> rfl
  · show permits openPte acc = none
    revert ha
    cases acc <;> decide
  · have h0 : va.toNat / 2 ^ 54 = 0 := by omega
    have h1 : va.toNat / 2 ^ 39 = 0 := by omega
    have h2 : va.toNat / 2 ^ 30 = 0 := by omega
    simp only [Nat.reducePow] at h0 h1 h2
    show Part.owns ⟨true, [1, 0, 0, 0], BitVec.allOnes 128, [], [0]⟩ va.toNat = true
    simp [Part.owns, regionOf, fld, h0, h1, h2]
  · show fld 14 14 openPte = 0
    decide
  · show va.toNat = fld 59 16 openPte * 4096 + (va.toNat - 0)
    have : fld 59 16 openPte = 0 := by decide
    omega
  · have h0 : (128 * (va.toNat / 128)) / 2 ^ 54 = 0 := by omega
    have h1 : (128 * (va.toNat / 128)) / 2 ^ 37 = 0 := by omega
    have h2 : (128 * (va.toNat / 128)) / 2 ^ 30 = 0 := by omega
    simp only [Nat.reducePow] at h0 h1 h2
    have h3 : (demoG m w f).lineDie (va.toNat / 128) = 0 := by
      unfold State.lineDie State.storageDie
      have : (demoG m w f).spread = 0 := rfl
      simp [regionOf, fld, h0, h1, h2, this]
    have h4 : ((demoG m w f).dieAt 0).l2Reset = false := rfl
    simp [State.homeGone, h3, h4, regionOf, fld, h0]

theorem vreg_zero (r : Nat) : ∀ l, laneOf ((List.replicate 96 zeros32)[r]?.getD (List.replicate 32 0)) l = 0 := by
  intro l
  have : laneOf (List.replicate 32 (0 : Word)) l = 0 := by
    unfold laneOf
    rw [List.getElem?_replicate]
    split <;> rfl
  by_cases h : r < 96
  · simp only [List.getElem?_replicate, h, if_true, Option.getD_some]; exact this
  · simp only [List.getElem?_replicate, h, if_false, Option.getD_none]; exact this

/-- Every vector register holds zeros. -/
theorem demo_vector (m : List Cell) (w : Option Code) (p : Pfx) (a : BitVec 7) (h : a.toNat < 96) (l : Nat) :
    laneOf ((sceneOf (demoG m w id) p).operand a) l = 0 := by
  simp only [Scene.operand, isVec, h, decide_true, if_true]
  exact vreg_zero a.toNat l

/-- The demo under a prefix word. -/
def demoP (w : Code) : State := demoG [] (some w) id

/-- Its scene. -/
def sceneP (w : Code) : Scene := sceneOf (demoP w) (Pfx.ofCode w.toNat)

theorem demoP_plain (w : Code) : Plain (sceneP w) := demo_plain _ _ _

/-- `| c=v7` (spec/09): OP4 alone is not neutral. -/
def pfxC : Code := 0xF0143850

/-- `| sc=pkg ord=rel`, `| sc=pkg ord=acq` (spec/04). -/
def pfxRel : Code := 0xF017F858
def pfxAcq : Code := 0xF017F854

theorem demo_plainE : Plain demoE := demo_plain [] none Pfx.neutral

/-- No trap is enabled in a context whose FPCR is 0, whatever the flags. -/
theorem no_trap {e : Scene} (h : e.ctx.fpcr = 0) (fl : Nat) : ¬ traps e fl := by
  have : trapEnables 0#64 = 0 := by decide
  simp [traps, h, this]

theorem demo_no_trap (m : List Cell) (w : Option Code) (p : Pfx) (fl : Nat) : ¬ traps (sceneOf (demoG m w id) p) fl := no_trap rfl fl

/-- `| sc=remote ord=acq c=s0`: the core site that s0 names, which is 0. -/
def pfxRemote : Code := 0xF0170074

theorem scoped_plain {s : State} {e : Scene} (h : e.pfx.scope ≠ 7) (h' : e.pfx.op4 = 0x7F) : Scoped s e := by
  unfold Scoped
  rw [if_neg h]
  exact h'

theorem demo_scoped (m : List Cell) : Scoped (demoG m none id) (sceneOf (demoG m none id) Pfx.neutral) :=
  scoped_plain (show (5 : Nat) ≠ 7 by decide) rfl

theorem witness_Scoped :
    Issues (demoP pfxRemote) { mask := true, zm := true, op4 := true, mem := true } (sceneP pfxRemote) ∧
    Issues (demoP pfxRemote) { op4 := true, mem := true } (sceneP pfxRemote) ∧ (sceneP pfxRemote).pfx.ord < 2 ∧
    Scoped (demoP pfxRemote) (sceneP pfxRemote) := by
  refine ⟨⟨rfl, rfl, rfl, rfl, rfl, rfl, rfl⟩, ⟨rfl, rfl, rfl, rfl, rfl, rfl, rfl⟩, by decide, ?_⟩
  unfold Scoped
  rw [if_pos (by decide)]
  exact ⟨by decide, by decide, (demoP_plain _).readsUni _ (by decide), by decide, by decide⟩

/-! ### Vector instructions -/

theorem witness_VectorEffect : 0 < 16 ∧ 16 * 4 = 64 ∧ 31 < 32 ∧
    (∀ j, j < 4 → ((fun _ j => (2 ^ 16 - 1 - j, 0) : Nat → Nat → Nat × Nat) 31 j).1 < 2 ^ 16) ∧
    (0x80000000#32).getLsbD 31 = true ∧ (0#32).getLsbD 31 = false :=
  ⟨by decide, by decide, by decide, fun j _ => by simp only; omega, by decide, by decide⟩

theorem witness_IntegerVector :
    selOk demoE.pfx.sel (64 / tyWidth (3 : BitVec 2).toNat) = true ∧ demoE.hasVec 95 ∧ demoE.reads 0 ∧ demoE.reads 127 ∧
    demoE.readsMask demoE.pfx.mask ∧ Issues demo { mask := true, zm := true, sel := true } demoE ∧
    Issues demo { mask := true, zm := true } demoE :=
  ⟨by decide, demo_plainE.vec _ (by decide), demo_plainE.reads _, demo_plainE.reads _, demo_plainE.mask _, demo_issues _ _,
    demo_issues _ _⟩

theorem witness_IntegerVector_counts : 128 < 2 ^ 8 ∧ leadingZeros 8 1 < 8 := by decide

theorem witness_ShiftsAndBitFields_fields : 8 ∈ [8, 16, 32, 64] ∧ 128 < 2 ^ 8 ∧ 7 < 8 ∧ (9 : Nat) ≠ 0 := by decide

theorem witness_ShiftsAndBitFields :
    (sceneP pfxC).pfx.op4 ≠ 0x7F ∧ selOk (sceneP pfxC).pfx.sel (64 / tyWidth 0) = true ∧ (sceneP pfxC).hasVec 95 ∧
    (sceneP pfxC).reads 0 ∧ (sceneP pfxC).reads 1 ∧ (sceneP pfxC).reads (sceneP pfxC).op4 ∧
    (sceneP pfxC).readsMask (sceneP pfxC).pfx.mask ∧
    Issues (demoP pfxC) { mask := true, zm := true, op4 := true, sel := true } (sceneP pfxC) :=
  ⟨by decide, by decide, (demoP_plain _).vec _ (by decide), (demoP_plain _).reads _, (demoP_plain _).reads _,
    (demoP_plain _).reads _, (demoP_plain _).mask _, ⟨rfl, rfl, rfl, rfl, rfl, rfl, rfl⟩⟩

theorem witness_ImmediatesAndPacking :
    Issues demo { mask := true, zm := true } demoE ∧ demoE.hasVec 95 ∧ demoE.reads 0 ∧ demoE.reads 127 ∧
    demoE.readsMask demoE.pfx.mask ∧ ((0 : BitVec 3).toNat ≠ 0 ∨ (255 : BitVec 16).toNat < 256) ∧
    ((6 : BitVec 3).toNat ≠ 3 ∧ (6 : BitVec 3).toNat ≠ 7) ∧ (1 : BitVec 2).toNat ≠ 0 ∧ 2 * 8 = tyWidth (1 : BitVec 2).toNat :=
  ⟨demo_issues _ _, demo_plainE.vec _ (by decide), demo_plainE.reads _, demo_plainE.reads _, demo_plainE.mask _, by decide,
    by decide, by decide, by decide⟩

/-- The prefix word of the state names a fourth operand, which these instructions do not take. -/
theorem witness_ImmediatesAndPacking_illegal :
    (0 : BitVec 3).toNat = 0 ∧ 256 ≤ (256 : BitVec 16).toNat ∧ ((7 : BitVec 3).toNat = 3 ∨ (7 : BitVec 3).toNat = 7) ∧
    (0 : BitVec 2).toNat = 0 ∧ (demoP pfxC).cur.pfx = some pfxC ∧
    (Pfx.ofCode pfxC.toNat).fits { mask := true, zm := true } = false :=
  ⟨by decide, by decide, by decide, by decide, rfl, by decide⟩

theorem witness_IntegerCompare :
    Issues demo { mask := true, zm := true, sel := true } demoE ∧ selOk demoE.pfx.sel (64 / tyWidth 0) = true ∧
    demoE.reads 0 ∧ demoE.reads 96 ∧ demoE.readsMask demoE.pfx.mask ∧ demoE.readsMask (15 : BitVec 4).toNat :=
  ⟨demo_issues _ _, by decide, demo_plainE.reads _, demo_plainE.reads _, demo_plainE.mask _, demo_plainE.mask _⟩

theorem witness_FloatVector :
    Issues demo { mask := true, zm := true, rm := true, sel := true } demoE ∧ demoE.hasVec 3 ∧ demoE.reads 1 ∧ demoE.reads 2 ∧
    demoE.readsMask demoE.pfx.mask ∧ ¬ traps demoE (vecList demoE 3 32 2 fun l j =>
      fp32.div demoE.mode (demoE.sub 1 32 l j) (demoE.subSel 2 32 l j)).2 :=
  ⟨demo_issues _ _, demo_plainE.vec _ (by decide), demo_plainE.reads _, demo_plainE.reads _, demo_plainE.mask _, no_trap rfl _⟩

theorem witness_FloatVector_unary :
    Issues demo { mask := true, zm := true, rm := true } demoE ∧ ¬ traps demoE (vecList demoE 3 32 2 fun l j =>
      fp32.sqrt demoE.mode (demoE.sub 1 32 l j)).2 ∧ ¬ traps demoE 31 :=
  ⟨demo_issues _ _, demo_no_trap _ _ _ _, demo_no_trap _ _ _ _⟩

theorem witness_FloatVector_fma :
    Issues (demoP pfxC) { mask := true, zm := true, rm := true, op4 := true, sel := true } (sceneP pfxC) ∧
    (sceneP pfxC).pfx.op4 ≠ 0x7F ∧ ¬ traps (sceneP pfxC) 31 :=
  ⟨⟨rfl, rfl, rfl, rfl, rfl, rfl, rfl⟩, by decide, no_trap rfl _⟩

/-- The demo with the invalid trap enabled (FPCR bit 16) and a signalling NaN in lane 0 of v1. -/
def demoTrap : State :=
  (demo.modCtx 0 fun c => { c with fpcr := 0x10000 }).modGrp 0 0 fun g => g.setVreg 1 ((g.vreg 1).set 0 0x7F800001)

def trapE : Scene := sceneOf demoTrap Pfx.neutral

theorem trapE_plain : Plain trapE := ⟨rfl, rfl, rfl⟩

theorem witness_FloatCompareAndTrap :
    Issues demoTrap { mask := true, zm := true, rm := true, sel := true } trapE ∧
    traps trapE (vecList trapE 3 32 2 fun l j => fp32.add trapE.mode (trapE.sub 1 32 l j) (trapE.subSel 2 32 l j)).2 ∧
    Issues demo { mask := true, zm := true, sel := true } demoE ∧ ¬ traps demoE (if snanAt demoE 1 2 6 then fInvalid else 0) ∧
    Issues demoTrap { mask := true, zm := true, sel := true } trapE ∧ traps trapE (if snanAt trapE 1 2 6 then fInvalid else 0) :=
  ⟨⟨rfl, rfl, rfl, rfl, rfl, rfl, rfl⟩, by unfold traps; decide, demo_issues _ _, demo_no_trap _ _ _ _,
    ⟨rfl, rfl, rfl, rfl, rfl, rfl, rfl⟩, by unfold traps; decide⟩

/-- The square root, and a derivative, of the signalling NaN; its conversion; the sum of the lanes. -/
theorem witness_FloatCompareAndTrap_unary :
    Issues demoTrap { mask := true, zm := true, rm := true } trapE ∧
    traps trapE (vecList trapE 3 32 2 fun l j => fp32.sqrt trapE.mode (trapE.sub 1 32 l j)).2 ∧
    traps trapE (vecList trapE 3 32 2 fun l j => fp32.sub trapE.mode (elem 32 j (laneOf (trapE.cross 1) (l / 4 * 4 + 1)))
      (elem 32 j (laneOf (trapE.cross 1) (l / 4 * 4)))).2 ∧ trapE.readsAll 1 ∧
    traps trapE (partList trapE 3 1 0 6 7 (convElem 7 6 false trapE.mode)).2 ∧
    traps trapE (treeSum fp32 trapE.mode 6 (laneIds.flatMap fun ln => (List.range 2).map fun j =>
      if trapE.path.lanes.getLsbD ln && trapE.mask.getLsbD (ln * 8 + j) then trapE.sub 1 32 ln j else redfIdentity fp32 0)).2 ∧
    trapE.hasUni 101 ∧ trapE.hasVec 3 ∧ trapE.reads 1 :=
  ⟨⟨rfl, rfl, rfl, rfl, rfl, rfl, rfl⟩, by unfold traps; decide, by unfold traps; decide +kernel, trapE_plain.readsAll _,
    by unfold traps; decide +kernel, by unfold traps; decide +kernel, trapE_plain.uni _ (by decide), trapE_plain.vec _ (by decide),
    trapE_plain.reads _⟩

/-- FMA of it, under a prefix word. -/
def demoTrapC : State := { demoTrap with cur := { demoTrap.cur with pfx := some pfxC } }

theorem witness_FloatCompareAndTrap_fma :
    let e := sceneOf demoTrapC (Pfx.ofCode pfxC.toNat)
    Issues demoTrapC { mask := true, zm := true, rm := true, op4 := true, sel := true } e ∧ e.pfx.op4 ≠ 0x7F ∧
    traps e (vecList e 3 32 2 fun l j => fp32.fma e.mode (e.sub 1 32 l j) (e.subSel 2 32 l j) (e.sub e.op4 32 l j)).2 :=
  ⟨⟨rfl, rfl, rfl, rfl, rfl, rfl, rfl⟩, by decide, by unfold traps; decide +kernel⟩

/-- The trap is fatal where no handler is set; it is delivered to a handler at 0x100, or is the fault of a TVEC of 2. -/
def demoTrapTo (t : Word) : State :=
  (demoG [(0x100, 0x01), (0x101, 0x3F), (0x103, 0xF4)] none id).modCtx 0 fun c => { c with fpcr := 0x10000, tvec := t }

theorem witness_FloatCompareAndTrap_taken :
    Issues demoTrap {} trapE ∧ (∀ c ∈ demoTrap.clamps, demoTrap.ownClamp c = false) ∧ (trapFlt 1 1).cls = 12 ∧ (trapFlt 1 1).unit = 0 ∧
    trapE.ctx.tvec = 0 ∧ trapE.ctx.fault = none ∧
    (let e := sceneOf (demoTrapTo 0x100) Pfx.neutral
     Issues (demoTrapTo 0x100) {} e ∧ e.ctx.tvec ≠ 0 ∧ e.grp.handler &&& e.path.lanes = 0 ∧
     (match checkTarget e.ctx.tvec (flagged (demoTrapTo 0x100) e (trapFlt 1 1).detail.toNat) with
      | .ok _ => true
      | .error _ => false) = true) ∧
    (let e := sceneOf (demoTrapTo 2) Pfx.neutral
     ∃ x, checkTarget e.ctx.tvec (flagged (demoTrapTo 2) e (trapFlt 1 1).detail.toNat) = .error (.fault x)) :=
  ⟨⟨rfl, rfl, rfl, rfl, rfl, rfl, rfl⟩, fun c h => (List.not_mem_nil h).elim, rfl, rfl, rfl, rfl,
    ⟨⟨rfl, rfl, rfl, rfl, rfl, rfl, rfl⟩, by decide, by decide, by decide +kernel⟩, ⟨_, rfl⟩⟩

/-- The least subnormal, and the negative zero. -/
theorem witness_RoundExact : 1 < 2 ^ (fmtOf 6).width ∧ (fmtOf 6).read 1 = .fin false 1 (-149) ∧
    (∃ q, (fmtOf 6).read 0x80000000 = .fin true 0 q) := ⟨by decide, by decide, _, rfl⟩

theorem witness_SpecialFunctions :
    Issues demo { mask := true, zm := true, rm := true } demoE ∧
    ¬ traps demoE (vecList demoE 3 32 2 fun l j => fp32.exp2 6 (demoE.sub 1 32 l j)).2 :=
  ⟨demo_issues _ _, demo_no_trap _ _ _ _⟩

/-! ### Conversions, lanes, masks and uniform registers -/

theorem witness_Conversions :
    Issues demo { mask := true, zm := true, rm := true } demoE ∧ (4 ≤ (6 : BitVec 3).toNat ∨ 4 ≤ (7 : BitVec 3).toNat) ∧
    ((0 : BitVec 1) = 1 → (6 : BitVec 3).toNat < 4 ∨ (7 : BitVec 3).toNat < 4) ∧
    (1 : BitVec 2).toNat < max (tyCount 7) (tyCount 6) / min (tyCount 7) (tyCount 6) ∧
    ¬ traps demoE (partList demoE 3 1 1 6 7 (convElem 7 6 false demoE.mode)).2 ∧
    (3 : BitVec 3).toNat < 4 ∧ (3 : BitVec 2).toNat < max (tyCount 1) (tyCount 3) / min (tyCount 1) (tyCount 3) :=
  ⟨demo_issues _ _, by decide, by decide, by decide, demo_no_trap _ _ _ _, by decide, by decide⟩

theorem witness_Conversions_elements : (0 : Nat) < 4 ∧ (3 : Nat) < 4 ∧ 2 ^ 63 < 2 ^ tyWidth 3 ∧ (0 : Nat) < 8 := by decide

/-- The demo with a format slot that gives A 8 bits, B 4 bits, BFP-8 outputs. -/
def demoSlot (w : Code) : State := demo.modGrid 0 fun g => { g with lrec := { g.lrec with slots := [w] } }

def slotE (w : Code) : Scene := sceneOf (demoSlot w) Pfx.neutral

theorem slotE_plain (w : Code) : Plain (slotE w) := ⟨rfl, rfl, rfl⟩

theorem witness_Conversions_blocks :
    Issues (demoSlot 0x8404) { mask := true, zm := true, rm := true } (slotE 0x8404) ∧ isControl (slotE 0x8404).core = false ∧
    slotClean (slotOf (slotE 0x8404).grid.lrec 0) = true ∧ 2 ≤ slotOut 0x8404 ∧ slotOut 0x8404 ≤ 8 ∧ 2 ≤ slotA 0x8404 ∧
    slotA 0x8404 ≤ 8 ∧ (slotE 0x8404).reads 0 ∧ (slotE 0x8404).readsAll 0 ∧ ¬ traps (slotE 0x8404) 31 :=
  ⟨⟨rfl, rfl, rfl, rfl, rfl, rfl, rfl⟩, by decide, by decide, by decide, by decide, by decide, by decide,
    (slotE_plain _).reads _, (slotE_plain _).readsAll _, no_trap rfl _⟩

/-- A NaN is no element of a block: invalid, and its trap is enabled. -/
theorem witness_FloatCompareAndTrap_blocks :
    let s := (demoTrap.modGrid 0 fun g => { g with lrec := { g.lrec with slots := [0x8404] } })
    let e := sceneOf s Pfx.neutral
    Issues s { mask := true, zm := true, rm := true } e ∧ slotOf e.grid.lrec 0 = 0x8404 ∧
    traps e (bfpEncode ((List.range 64).map fun i =>
      if e.path.lanes.getLsbD (i / 2) && e.mask.getLsbD (i / 2 * 8 + i % 2) then fp32.read (e.sub 1 32 (i / 2) (i % 2))
      else .fin false 0 0) (slotOut 0x8404) (slotRnd 0x8404) (slotSat 0x8404)).2.2 :=
  ⟨⟨rfl, rfl, rfl, rfl, rfl, rfl, rfl⟩, by decide, by unfold traps; decide +kernel⟩

theorem witness_CrossLane :
    demoE.readsAll 0 ∧ demoE.hasVec 95 ∧ demoE.hasUni 127 ∧ Issues demo { mask := true, zm := true, sel := true } demoE ∧
    selOk demoE.pfx.sel 8 = true ∧ selOk demoE.pfx.sel 1 = true ∧ demoE.pfx.sel = 0 ∧ (2 : BitVec 2).toNat < 3 ∧
    Issues demo { mask := true, zm := true, rm := true } demoE ∧ demoE.readsMask 15 ∧
    ¬ traps demoE (vecList demoE 3 32 2 fun l j => fp32.sub demoE.mode (elem 32 j (laneOf (demoE.cross 1) (l / 4 * 4 + 1)))
      (elem 32 j (laneOf (demoE.cross 1) (l / 4 * 4)))).2 :=
  ⟨demo_plainE.readsAll _, demo_plainE.vec _ (by decide), demo_plainE.uni _ (by decide), demo_issues _ _, by decide, by decide,
    by decide, by decide, demo_issues _ _, demo_plainE.mask _, demo_no_trap _ _ _ _⟩

theorem witness_Reductions :
    demoE.reads 1 ∧ demoE.hasUni 101 ∧ demoE.hasVec 3 ∧ (4 : BitVec 3).toNat < 5 ∧
    Issues demo { mask := true, zm := true } demoE ∧ Issues demo { mask := true, zm := true, rm := true } demoE ∧
    ¬ traps demoE (treeSum fp32 demoE.mode 6 (List.replicate 64 (redfIdentity fp32 0))).2 :=
  ⟨demo_plainE.reads _, demo_plainE.uni _ (by decide), demo_plainE.vec _ (by decide), by decide, demo_issues _ _, demo_issues _ _,
    demo_no_trap _ _ _ _⟩

theorem witness_Masks :
    Issues demo {} demoE ∧ Issues demo { mask := true } demoE ∧ demoE.readsMask 15 ∧ demoE.hasUni 124 ∧
    (124 : BitVec 7).toNat % 4 = 0 ∧ (124 : BitVec 7).toNat - 96 + 3 < demoE.grid.lrec.uregs ∧
    (∀ i < 4, demoE.clear ((124 : BitVec 7).toNat + i) 0#32) ∧ demoE.hasVec 0 ∧ demoE.reads 1 ∧ demoE.readsUni 100 :=
  ⟨demo_issues _ _, demo_issues _ _, demo_plainE.mask _, demo_plainE.uni _ (by decide), by decide, by decide,
    fun _ _ => demo_plainE.clear _ _, demo_plainE.vec _ (by decide), demo_plainE.reads _, demo_plainE.readsUni _ (by decide)⟩

theorem witness_Masks_illegal :
    demoE.hasUni 125 ∧ ((125 : BitVec 7).toNat % 4 ≠ 0 ∨ demoE.grid.lrec.uregs ≤ (125 : BitVec 7).toNat - 96 + 3) :=
  ⟨demo_plainE.uni _ (by decide), by decide⟩

theorem witness_UniformInstructions :
    Issues demo {} demoE ∧ demoE.hasUni 127 ∧ demoE.readsUni 96 ∧ demoE.hasVec 95 ∧ demoE.clear 95 1#32 ∧
    (17 : BitVec 7).toNat < 18 ∧ perLane (10 : BitVec 7).toNat = false ∧ demoE.clear 127 0#32 :=
  ⟨demo_issues _ _, demo_plainE.uni _ (by decide), demo_plainE.readsUni _ (by decide), demo_plainE.vec _ (by decide),
    demo_plainE.clear _ _, by decide, by decide, demo_plainE.clear _ _⟩

/-! ### Loads, stores, atomics and fences -/

theorem memOk_nil (w : Option Code) (f : Group → Group) : MemOk (demoG [] w f) := (rfl : Memory.wf [] = true)

/-- An address register of zeros, at an offset of 0, is address 0, which every access reaches. -/
theorem demo_lanes (m : List Cell) (w : Option Code) (p : Pfx) (a : BitVec 7) (ha : a.toNat < 96) (acc : Acc) (h : acc ≠ .fetch)
    (n : Nat) (hn : n = 4 ∨ n = 8 ∨ n = 16) (l : Nat) :
    (effAddr (laneOf ((sceneOf (demoG m w id) p).operand a) l) 0 n).toNat % n = 0 ∧
      Reaches (demoG m w id) (sceneOf (demoG m w id) p) (effAddr (laneOf ((sceneOf (demoG m w id) p).operand a) l) 0 n) acc
        ⟨0, openPte, 0, 0, 0x100000⟩ := by
  rw [demo_vector m w p a ha l]
  have : effAddr 0 0 n = 0 := by rcases hn with rfl | rfl | rfl <;> decide
  rw [this]
  exact ⟨by rcases hn with rfl | rfl | rfl <;> decide, demo_reaches m w p id 0 acc (by decide) h⟩

/-- A load of 16 bytes into the last even pair, in all lanes. -/
theorem witness_Loads :
    MemOk demo ∧ Quiet demo demoE ∧ Cold demo demoE ∧ (0 : BitVec 2) ≠ 3 ∧ 16 = sizeBytes (7 : BitVec 3).toNat ∧
    demoE.pfx.ord < 2 ∧ Scoped demo demoE ∧
    Issues demo { mask := true, zm := true, op4 := true, mem := true } demoE ∧ demoE.hasVec 94 ∧
    (94 : BitVec 7).toNat % 2 = 0 ∧ demoE.hasVec (94 + 1) ∧ demoE.reads 1 ∧ demoE.readsMask demoE.pfx.mask ∧
    (∀ l, demoE.accesses true l = true → (effAddr (laneOf (demoE.operand 1) l) 0 16).toNat % 16 = 0 ∧
      Reaches demo demoE (effAddr (laneOf (demoE.operand 1) l) 0 16) .load ⟨0, openPte, 0, 0, 0x100000⟩) :=
  ⟨memOk_nil _ _, demo_quiet _ _ _, demo_cold _ _ _ _, by decide, by decide, by decide, demo_scoped _, demo_issues _ _,
    demo_plainE.vec _ (by decide), by decide, demo_plainE.vec _ (by decide), demo_plainE.reads _, demo_plainE.mask _,
    fun l _ => demo_lanes _ _ _ _ (by decide) _ (by decide) _ (by decide) l⟩

theorem witness_Loads_uniform :
    Issues demo { op4 := true, mem := true } demoE ∧ demoE.hasUni 127 ∧ demoE.readsUni 96 ∧
    (effAddr (demoE.uni 96) 0 8).toNat % 8 = 0 ∧
    Reaches demo demoE (effAddr (demoE.uni 96) 0 8) .load ⟨0, openPte, 0, 0, 0x100000⟩ :=
  ⟨demo_issues _ _, demo_plainE.uni _ (by decide), demo_plainE.readsUni _ (by decide), by decide,
    demo_reaches [] none Pfx.neutral id 0 .load (by decide) (by decide)⟩

theorem witness_Stores :
    MemOk demo ∧ Quiet demo demoE ∧ ((6 : BitVec 3).toNat % 2 = 0 ∨ (6 : BitVec 3) = 7) ∧ demoE.pfx.ord = 0 ∧
    demoE.pfx.scope ≠ 7 ∧ demoE.pfx.op4 = 0x7F ∧ demoE.reads 2 ∧
    Issues demo { mask := true, op4 := true, mem := true } demoE ∧ demoE.reads 1 ∧ demoE.readsMask demoE.pfx.mask ∧
    (∀ l, demoE.accesses false l = true → (effAddr (laneOf (demoE.operand 1) l) 0 8).toNat % 8 = 0 ∧
      Reaches demo demoE (effAddr (laneOf (demoE.operand 1) l) 0 8) .store ⟨0, openPte, 0, 0, 0x100000⟩) ∧
    Issues demo { op4 := true, mem := true } demoE ∧ demoE.hasUni 100 ∧ demoE.readsUni 96 ∧
    demoE.path.lanes &&& ~~~ demoE.grp.helper ≠ 0 ∧ (effAddr (demoE.uni 96) 0 8).toNat % 8 = 0 ∧
    Reaches demo demoE (effAddr (demoE.uni 96) 0 8) .store ⟨0, openPte, 0, 0, 0x100000⟩ :=
  ⟨memOk_nil _ _, demo_quiet _ _ _, by decide, by decide, by decide, by decide, demo_plainE.reads _, demo_issues _ _,
    demo_plainE.reads _, demo_plainE.mask _, fun l _ => demo_lanes _ _ _ _ (by decide) _ (by decide) _ (by decide) l,
    demo_issues _ _, demo_plainE.uni _ (by decide), demo_plainE.readsUni _ (by decide), by decide, by decide,
    demo_reaches [] none Pfx.neutral id 0 .store (by decide) (by decide)⟩

/-- The demo with 16 bytes of scratchpad: an access of 16 bytes at 0 just fits. -/
def demoScratch : State := demo.modBlk 0 fun b => { b with scratchSize := 16 }

def scratchE : Scene := sceneOf demoScratch Pfx.neutral

theorem scratchE_plain : Plain scratchE := ⟨rfl, rfl, rfl⟩

theorem scratchE_zero (l : Nat) : (effAddr (laneOf (scratchE.operand 1) l) 0 16).toNat = 0 := by
  have : laneOf (scratchE.operand 1) l = 0 := demo_vector [] none Pfx.neutral 1 (by decide) l
  rw [this]
  decide

theorem witness_ScratchpadAndAlignment :
    Issues demoScratch { mask := true, zm := true, mem := true } scratchE ∧ (scratchE.pfx.scope < 3 ∨ scratchE.pfx.scope = 5) ∧
    scratchE.reads 1 ∧ scratchE.readsMask scratchE.pfx.mask ∧ scratchE.pfx.ord = 0 ∧ scratchE.hasVec 2 ∧ scratchE.hasVec (2 + 1) ∧
    (∀ l, scratchE.accesses true l = true → (effAddr (laneOf (scratchE.operand 1) l) 0 16).toNat % 16 = 0 ∧
      (effAddr (laneOf (scratchE.operand 1) l) 0 16).toNat + 16 ≤ scratchE.blk.scratchSize) ∧ scratchE.blk.scratchPoison = [] ∧
    Issues demoScratch { mask := true, mem := true } scratchE ∧ scratchE.reads 2 ∧ scratchE.reads (2 + 1) :=
  ⟨⟨rfl, rfl, rfl, rfl, rfl, rfl, rfl⟩, by decide, scratchE_plain.reads _, scratchE_plain.mask _, by decide,
    scratchE_plain.vec _ (by decide), scratchE_plain.vec _ (by decide), fun l _ => by rw [scratchE_zero]; decide, rfl,
    ⟨rfl, rfl, rfl, rfl, rfl, rfl, rfl⟩, scratchE_plain.reads _, scratchE_plain.reads _⟩

/-- Lane 0 of v1 holds 1: no multiple of 4. -/
def demoOdd : State := demoG [] none fun g => g.setVreg 1 ((g.vreg 1).set 0 1)

theorem witness_ScratchpadAndAlignment_misaligned :
    Issues demoOdd { mask := true, zm := true, op4 := true, mem := true } (sceneOf demoOdd Pfx.neutral) ∧
    (sceneOf demoOdd Pfx.neutral).accesses true 0 = true ∧
    (∀ i < 0, (sceneOf demoOdd Pfx.neutral).accesses true i = false) ∧
    (effAddr (laneOf ((sceneOf demoOdd Pfx.neutral).operand 1) 0) 0 4).toNat % 4 ≠ 0 :=
  ⟨⟨rfl, rfl, rfl, rfl, rfl, rfl, rfl⟩, by decide, fun i h => absurd h (Nat.not_lt_zero i), by decide⟩

theorem witness_Atomics_values : ((32 : Nat) = 32 ∨ (32 : Nat) = 64) ∧ 2 ^ 32 - 1 < 2 ^ 32 ∧ 0 < 2 ^ 32 ∧
    atomicNew 2 32 0 1 0 0 = some 0 ∧ atomicNew 3 32 0 1 0 0 = some 1 := by decide

theorem witness_Atomics :
    Issues demo { mask := true, zm := decide ((1 : BitVec 1) = 1), op4 := true, mem := true } demoE ∧ MemOk demo ∧
    Quiet demo demoE ∧ (13 : BitVec 4).toNat < 14 ∧ demoE.hasVec 3 ∧ demoE.reads 1 ∧ demoE.reads 2 ∧ demoE.reads (2 + 1) ∧
    demoE.readsMask demoE.pfx.mask ∧ demoE.pfx.ord < 4 ∧ Scoped demo demoE ∧
    (∀ l, demoE.accesses false l = true → (laneOf (demoE.operand 1) l).toNat % 8 = 0 ∧
      Reaches demo demoE (laneOf (demoE.operand 1) l) .atomic ⟨0, openPte, 0, 0, 0x100000⟩) :=
  ⟨demo_issues _ _, memOk_nil _ _, demo_quiet _ _ _, by decide, demo_plainE.vec _ (by decide), demo_plainE.reads _,
    demo_plainE.reads _, demo_plainE.reads _, demo_plainE.mask _, by decide, demo_scoped _, fun l _ => by
      have : laneOf (demoE.operand 1) l = 0 := demo_vector [] none Pfx.neutral 1 (by decide) l
      rw [this]
      exact ⟨by decide, demo_reaches [] none Pfx.neutral id 0 .atomic (by decide) (by decide)⟩⟩

/-- ACAS needs a fourth operand. -/
theorem witness_Atomics_cas :
    Issues (demoP pfxC) { mask := true, zm := decide ((1 : BitVec 1) = 1), op4 := true, mem := true } (sceneP pfxC) ∧
    (sceneP pfxC).pfx.op4 ≠ 0x7F ∧ (sceneP pfxC).reads (sceneP pfxC).op4 ∧ (sceneP pfxC).pfx.scope ≠ 7 ∧
    (∀ l, (sceneP pfxC).accesses false l = true → (laneOf ((sceneP pfxC).operand 1) l).toNat % 4 = 0 ∧
      Reaches (demoP pfxC) (sceneP pfxC) (laneOf ((sceneP pfxC).operand 1) l) .atomic ⟨0, openPte, 0, 0, 0x100000⟩) :=
  ⟨⟨rfl, rfl, rfl, rfl, rfl, rfl, rfl⟩, by decide, (demoP_plain _).reads _, by decide, fun l _ => by
    have : laneOf ((sceneP pfxC).operand 1) l = 0 := demo_vector [] (some pfxC) _ 1 (by decide) l
    rw [this]
    exact ⟨by decide, demo_reaches [] (some pfxC) _ id 0 .atomic (by decide) (by decide)⟩⟩

theorem engines_done (w : Option Code) (f : Group → Group) (e : Scene) : EnginesDone (demoG [] w f) e :=
  ⟨fun _ h => (List.not_mem_nil h).elim, fun _ h => (List.not_mem_nil h).elim, fun _ h => (List.not_mem_nil h).elim,
    fun _ h => (List.not_mem_nil h).elim⟩

theorem witness_FenceAndMaintenance :
    Issues (demoP pfxRel) { op4 := true, mem := true } (sceneP pfxRel) ∧ Quiet (demoP pfxRel) (sceneP pfxRel) ∧
    Scoped (demoP pfxRel) (sceneP pfxRel) ∧ 1 ≤ (sceneP pfxRel).pfx.ord ∧
    (sceneP pfxRel).pfx.ord ≤ 3 ∧ EnginesDone (demoP pfxRel) (sceneP pfxRel) :=
  ⟨⟨rfl, rfl, rfl, rfl, rfl, rfl, rfl⟩, demo_quiet _ _ _, scoped_plain (by decide) (by decide), by decide, by decide,
    engines_done _ _ _⟩

theorem witness_FenceAndMaintenance_lines :
    Issues demo {} demoE ∧ MemOk demo ∧ Quiet demo demoE ∧ Cold demo demoE ∧ (5 : BitVec 3).toNat < 6 ∧ demoE.reads 1 ∧
    (∀ l : Nat, Reaches demo demoE (BitVec.ofNat 64 ((laneOf (demoE.operand 1) l).toNat / 128 * 128)) .store
      ⟨0, openPte, 0, 0, 0x100000⟩) :=
  ⟨demo_issues _ _, memOk_nil _ _, demo_quiet _ _ _, demo_cold _ _ _ _, by decide, demo_plainE.reads _, fun l => by
    have : laneOf (demoE.operand 1) l = 0 := demo_vector [] none Pfx.neutral 1 (by decide) l
    rw [this]
    exact demo_reaches [] none Pfx.neutral id 0 .store (by decide) (by decide)⟩


/-- What a meaning answers, when it answers. -/
def answer {α : Type} (m : M α) (s : State) : Option (α × State) :=
  match m s with
  | .ok x => some x
  | .error _ => none

theorem answer_ok {α : Type} {m : M α} {s : State} {x : α × State} (h : answer m s = some x) : m s = .ok x := by
  unfold answer at h
  split at h
  · next y hy => cases h; exact hy
  · cases h

/-- A meaning answers, when a test of what it answers says so. -/
theorem answers {α : Type} {m : M α} {s : State} (P : α × State → Prop) [DecidablePred P]
    (h : ((answer m s).map fun x => decide (P x)).getD false = true) : ∃ x, m s = .ok x ∧ P x := by
  rcases hx : answer m s with _ | x
  · rw [hx] at h; cases h
  · rw [hx] at h; exact ⟨x, answer_ok hx, of_decide_eq_true h⟩

/-- The demo with a store of the group in the write-combining buffer of its core. -/
def demoDirty : State := demo.modCore 0 fun c => { c with wc := [⟨0, 7, 1, openPte, [(0, 0)], 0, 0⟩] }

theorem witness_ReleaseDrains :
    (∃ w ∈ (demoDirty.coreAt 0).wc, (0, 0) ∈ w.groups) ∧ ∃ x, releaseFor 0 0 0 5 demoDirty = .ok x ∧ x.2.fwd = [] :=
  ⟨⟨⟨0, 7, 1, openPte, [(0, 0)], 0, 0⟩, List.mem_singleton.2 rfl, List.mem_singleton.2 rfl⟩, answers (fun x => _) (by decide +kernel)⟩

/-! ### Compare-and-swap, waits and control -/

/-- What a reading that is made moves no field of, as a test. -/
abbrev same (s u : State) : Prop :=
  u.blocks = s.blocks ∧ u.cur = s.cur ∧ u.grids = s.grids ∧ u.parts = s.parts ∧ u.ctxs.map sansPmc = s.ctxs.map sansPmc ∧
    u.cmds = s.cmds ∧ u.mats = s.mats ∧ u.clamps = s.clamps ∧ u.queues = s.queues ∧ u.frames = s.frames

theorem learns_ok {α : Type} {m : M α} {s : State} {x : α × State} (h : m s = .ok x) (h' : same s x.2) :
    Learns m s x.1 x.2 :=
  ⟨h, h'.1, h'.2.1, h'.2.2.1, h'.2.2.2.1, h'.2.2.2.2.1, h'.2.2.2.2.2.1, h'.2.2.2.2.2.2.1, h'.2.2.2.2.2.2.2.1,
    h'.2.2.2.2.2.2.2.2.1, h'.2.2.2.2.2.2.2.2.2⟩

/-- A reading learns, when a test of what it answers and of the fields says so. -/
theorem learns {α : Type} {m : M α} {s : State} (P : α × State → Prop) [DecidablePred P]
    (h : ((answer m s).map fun x => decide (P x ∧ same s x.2)).getD false = true) : ∃ x, Learns m s x.1 x.2 ∧ P x := by
  rcases hx : answer m s with _ | x
  · rw [hx] at h; cases h
  · rw [hx] at h
    have h' := of_decide_eq_true h
    exact ⟨x, learns_ok (answer_ok hx) h'.2, h'.1⟩

/-- One entry of 8 bytes at 0x100, expected 0, new 7. -/
def casMem : List Cell := [(0, 1), (1, 1), (9, 1), (24, 7)]

/-- The same with WBO, and a 5 where 0 is expected. -/
def casMiss : List Cell := [(0, 1), (1, 1), (2, 1), (9, 1), (24, 7), (256, 5)]

/-- What the statement asks of a plan of one entry with `n` places for observed values. -/
abbrev Planned (m : List Cell) (n : Nat) (x : (List McasEntry × List Tr) × State) : Prop :=
  x.2.blocks = (demoG m none id).blocks ∧ x.2.cur = (demoG m none id).cur ∧
  x.2.grids = (demoG m none id).grids ∧ x.2.ctxs.length = (demoG m none id).ctxs.length ∧
  (x.2.clamps = [] ∧ x.2.migrs = [] ∧ x.2.poison = [] ∧ x.2.monitors = [] ∧ x.2.fwd = [] ∧ (x.2.coreAt 0).wc = []) ∧
  Memory.wf x.2.mem = true ∧ (x.2.l2.map (·.line)).Nodup ∧ x.1.1.length = 1 ∧
  (∀ en ∈ x.1.1, x.2.homeGone (en.tr.pa / 128) = none ∧ (en.bytes = 4 ∨ en.bytes = 8) ∧ en.tr.pa % en.bytes = 0 ∧
    en.new < 256 ^ en.bytes) ∧
  x.1.1.Pairwise (fun x y => x.tr.pa + x.bytes ≤ y.tr.pa ∨ y.tr.pa + y.bytes ≤ x.tr.pa) ∧ x.1.2.length = n ∧
  (∀ tr ∈ x.1.2, x.2.homeGone (tr.pa / 128) = none ∧ tr.pa % 8 = 0) ∧ x.1.2.Pairwise (fun x y => x.pa ≠ y.pa)

theorem witness_MultiCompareSwap :
    Issues (demoG casMem none id) {} (sceneOf (demoG casMem none id) Pfx.neutral) ∧
    (sceneOf (demoG casMem none id) Pfx.neutral).works ∧ (sceneOf (demoG casMem none id) Pfx.neutral).path.wait = none ∧
    Quiet (demoG casMem none id) (sceneOf (demoG casMem none id) Pfx.neutral) ∧
    ∃ x, mcasPlan ((sceneOf (demoG casMem none id) Pfx.neutral).uni 96) (demoG casMem none id) = .ok x ∧ Planned casMem 0 x ∧
      (∀ y ∈ x.1.1.zip (x.1.1.map fun en => getBytes x.2.mem en.tr.pa en.bytes), y.1.expected = y.2) :=
  ⟨demo_issues _ _, by unfold Scene.works; decide, rfl, demo_quiet _ _ _, answers (fun x => _) (by decide +kernel)⟩

theorem witness_MultiCompareSwap_observed :
    ∃ x, mcasPlan ((sceneOf (demoG casMiss none id) Pfx.neutral).uni 96) (demoG casMiss none id) = .ok x ∧
      Planned casMiss 1 x ∧
      (∃ y ∈ x.1.1.zip (x.1.1.map fun en => getBytes x.2.mem en.tr.pa en.bytes), y.1.expected ≠ y.2) :=
  answers (fun x => _) (by decide +kernel)

/-- All lanes are helpers. -/
theorem witness_MultiCompareSwap_helpers :
    (sceneOf (demoG [] none fun g => { g with helper := BitVec.allOnes 32 }) Pfx.neutral).path.lanes &&&
      ~~~ (sceneOf (demoG [] none fun g => { g with helper := BitVec.allOnes 32 }) Pfx.neutral).grp.helper = 0 := by decide

end Sys2Proof.Tests
end

