-- ==== Sys2Proof/Tests/WitnessesB.lean ====
section
/-!
SUPPORT. Witnesses, second part: waits, copies, queues, trees, the matrix engine, tasks, launches and rendering.
-/

namespace Sys2Proof.Tests

open Sys2Proof.Machine Sys2Proof.Safety Host

set_option maxRecDepth 100000
set_option Elab.async false

/-- s1 holds 5; the path's wait is `x`. -/
def demo5 (x : Option Wait) : State :=
  demoG [] none fun g => { g.setSreg 1 5 with paths := g.paths.map fun q => { q with wait := x } }

def scene5 (x : Option Wait) : Scene := sceneOf (demo5 x) Pfx.neutral

theorem issues5 (x : Option Wait) (u : PfxUse) : Issues (demo5 x) u (scene5 x) := ⟨rfl, rfl, rfl, rfl, rfl, rfl, rfl⟩

theorem plain5 (x : Option Wait) : Plain (scene5 x) := ⟨rfl, rfl, rfl⟩

theorem quiet5 (x : Option Wait) : Quiet (demo5 x) (scene5 x) := ⟨rfl, rfl, rfl, rfl, rfl, rfl, rfl⟩

/-- The condition holds (0 = 0). -/
theorem witness_Waits_met :
    Issues demo { op4 := true, mem := true } demoE ∧ demoE.readsUni 97 ∧ demoE.readsUni 96 ∧ (126 : BitVec 7).toNat % 2 = 0 ∧
    demoE.readsUni 126 ∧ demoE.readsUni (126 + 1) ∧ demoE.pfx.ord < 2 ∧ Scoped demo demoE ∧
    MemOk demo ∧ Quiet demo demoE ∧ (demoE.uni 96).toNat % 8 = 0 ∧
    Reaches demo demoE (demoE.uni 96) .load ⟨0, openPte, 0, 0, 0x100000⟩ ∧ demoE.path.wait = none ∧
    cmpHolds 0 (demoE.uni 126) (demoE.uni (126 + 1)) (BitVec.ofNat 64 (getBytes demo.mem 0 8)) = true :=
  ⟨demo_issues _ _, demo_plainE.readsUni _ (by decide), demo_plainE.readsUni _ (by decide), by decide,
    demo_plainE.readsUni _ (by decide), demo_plainE.readsUni _ (by decide), by decide, demo_scoped _, memOk_nil _ _,
    demo_quiet _ _ _, by decide, demo_reaches [] none Pfx.neutral id 0 .load (by decide) (by decide), rfl, by decide⟩

/-- A wait that has been met; and one that is not met and has a timeout. -/
theorem witness_Waits_parked :
    Issues (demo5 (some (.cmp ⟨none, 0, 0, 0, 0, 0, 0, false, some 7, 0⟩))) { op4 := true, mem := true }
      (scene5 (some (.cmp ⟨none, 0, 0, 0, 0, 0, 0, false, some 7, 0⟩))) ∧
    Scoped (demo5 none) (scene5 none) ∧
    (scene5 (some (.cmp ⟨none, 0, 0, 0, 0, 0, 0, false, some 7, 0⟩))).path.wait =
      some (.cmp ⟨none, 0, 0, 0, 0, 0, 0, false, some 7, 0⟩) ∧
    Issues (demo5 none) { op4 := true, mem := true } (scene5 none) ∧ Quiet (demo5 none) (scene5 none) ∧
    Reaches (demo5 none) (scene5 none) ((scene5 none).uni 96) .load ⟨0, openPte, 0, 0, 0x100000⟩ ∧ (scene5 none).path.wait = none ∧
    (demo5 none).effCl 0 openPte < 3 ∧ (scene5 none).uni 97 ≠ 0 ∧
    cmpHolds 2 ((scene5 none).uni 98) ((scene5 none).uni (98 + 1)) (BitVec.ofNat 64 (getBytes (demo5 none).mem 0 8)) = false :=
  ⟨issues5 _ _, scoped_plain (show (5 : Nat) ≠ 7 by decide) rfl, rfl, issues5 _ _, quiet5 _,
    demo_reaches [] none Pfx.neutral _ 0 .load (by decide) (by decide), rfl, by decide,
    by decide, by decide⟩

/-- The slice's monitor table is full. -/
def demoFullTable : State :=
  { demo5 none with monitors := List.replicate Config.monitorEntries ⟨0, 0, 0, 0, 0, 0, 0⟩ }

theorem witness_Waits_polling :
    Issues demoFullTable { op4 := true, mem := true } (scene5 none) ∧ Scoped demoFullTable (scene5 none) ∧ MemOk demoFullTable ∧
    (demoFullTable.clamps = [] ∧ demoFullTable.migrs = [] ∧ demoFullTable.poison = [] ∧ demoFullTable.fwd = []) ∧
    (demoFullTable.coreAt 0).wc = [] ∧ (scene5 none).grp.owed = none ∧ demoFullTable.monitorFree (0 / 128) = false ∧
    (demoFullTable.slices (0 / 128) openPte (lineOf demoFullTable.mem (0 / 128)) false).isSome = true ∧
    Reaches demoFullTable (scene5 none) ((scene5 none).uni 96) .load ⟨0, openPte, 0, 0, 0x100000⟩ ∧
    cmpHolds 2 ((scene5 none).uni 98) ((scene5 none).uni (98 + 1)) (BitVec.ofNat 64 (getBytes demoFullTable.mem 0 8)) = false :=
  ⟨⟨rfl, rfl, rfl, rfl, rfl, rfl, rfl⟩, scoped_plain (show (5 : Nat) ≠ 7 by decide) rfl, (rfl : Memory.wf [] = true),
    ⟨rfl, rfl, rfl, rfl⟩, rfl, rfl, by decide +kernel, by decide +kernel,
    ⟨by decide, by decide, by decide, by decide, by decide, by decide, by decide, by decide, by decide⟩, by decide⟩

theorem witness_Waits_time :
    Issues (demo5 none) {} (scene5 none) ∧ (scene5 none).hasUni 100 ∧ (scene5 none).readsUni 96 ∧ (scene5 none).readsUni 97 ∧
    ((scene5 none).uni 96).toNat ≤ (demo5 none).time.toNat ∧ (demo5 none).time.toNat < ((scene5 none).uni 97).toNat ∧
    (scene5 (some (.time 0))).path.wait = some (.time 0) :=
  ⟨issues5 _ _, (plain5 _).uni _ (by decide), (plain5 _).readsUni _ (by decide), (plain5 _).readsUni _ (by decide), by decide,
    by decide, rfl⟩

/-- A clause of one word at address 0. -/
def codeMem : List Cell := [(0, 0x01), (1, 0x3F), (3, 0xF4)]

def demoCode : State := demoG codeMem none id

def codeE : Scene := sceneOf demoCode Pfx.neutral

/-- Every lane goes to address 0, which is 4 before the word. -/
theorem witness_BranchesAndJumps :
    Issues demoCode {} codeE ∧ codeE.guardReads 0 0 ∧ demoCode.cur.wordPc codeE.path + 4 * (0x1FFFF : BitVec 17).signExtend 64 = 0 ∧
    (lanesOf codeE.path.lanes).any (codeE.guard 0 0) = true ∧
    distinct ((lanesOf codeE.path.lanes).map (laneOf (codeE.operand 1))) = [0] ∧
    distinct ((lanesOf codeE.path.lanes).map (laneOf codeE.grp.lr)) = [0] ∧
    (∃ u, Fetches demoCode [0] u) ∧ codeE.reads 1 ∧ codeE.hasVec 95 := by
  refine ⟨demo_issues _ _, ⟨fun h => by omega, fun h => by omega⟩, by decide, by decide, by decide, by decide, ?_,
    (demo_plain _ _ _).reads _, (demo_plain _ _ _).vec _ (by decide)⟩
  obtain ⟨x, hx, h⟩ := answers (m := each [0] checkTarget) (s := demoCode)
    (fun x => x.2.blocks = demoCode.blocks ∧ x.2.cur = demoCode.cur ∧ x.2.mem = demoCode.mem) (by decide +kernel)
  exact ⟨x.2, hx, h⟩

/-- No lane goes: k15 is clear in the last guard. -/
theorem witness_BranchesAndJumps_guards :
    (6 : BitVec 4).toNat < 7 ∧ (15 : BitVec 5).toNat < 16 ∧ demoE.guardReads 6 15 ∧
    (lanesOf demoE.path.lanes).any (demoE.guard 6 15) = false ∧ Fetches demo [] demo :=
  ⟨by decide, by decide, ⟨fun h => by omega, fun _ => demo_plainE.mask _⟩, by decide, rfl, rfl, rfl, rfl⟩

/-- The group's one path, and two paths that share no lane. -/
theorem witness_LanesMove : Issues demo {} demoE ∧ demoE.path.lanes.getLsbD 31 = true ∧
    demoE.grp.paths.Pairwise (fun p q => p.lanes &&& q.lanes = 0) ∧
    [{ demoE.path with lanes := 1 }, { demoE.path with lanes := 2, pc := 8 }].Pairwise (fun p q : Machine.Path => p.lanes &&& q.lanes = 0) ∧
    demo.grpAt 0 0 = some demoE.grp :=
  ⟨demo_issues _ _, by decide, by decide, by decide, rfl⟩

theorem witness_ExitAndBarriers :
    Issues demo {} demoE ∧ Quiet demo demoE ∧ EnginesDone demo demoE ∧ (demoE.grid.total ≠ none ∨ demoE.grid.lrec.cluster ≤ 1) ∧
    demoE.path.waitsFor Wait.isBar = false ∧ demoE.path.waitsFor Wait.isBarc = false ∧
    demoE.grid.lrec.phases.getLsbD (7 : BitVec 3).toNat = true ∧ demoE.path.waitsFor (Wait.isQuiesce 7) = false :=
  ⟨demo_issues _ _, demo_quiet _ _ _, engines_done _ _ _, .inr (by decide), by decide, by decide, by decide, by decide⟩

/-- A path that waits at a cluster barrier; one that waits in a phase; a launch that permits no phase. -/
theorem witness_ExitAndBarriers_waiting :
    Issues (demo5 (some .barc)) {} (scene5 (some .barc)) ∧ Quiet (demo5 (some .barc)) (scene5 (some .barc)) ∧
    (scene5 (some .barc)).path.waitsFor Wait.isBarc = true ∧ (scene5 (some .barc)).grid.lrec.cluster ≤ 1 ∧
    Issues (demo5 (some (.quiesce 7))) {} (scene5 (some (.quiesce 7))) ∧
    EnginesDone (demo5 (some (.quiesce 7))) (scene5 (some (.quiesce 7))) ∧
    (scene5 (some (.quiesce 7))).path.waitsFor (Wait.isQuiesce 7) = true ∧
    (launchRec []).phases.getLsbD (7 : BitVec 3).toNat = false :=
  ⟨issues5 _ _, quiet5 _, by decide, by decide, issues5 _ _, engines_done _ _ _, by decide, by decide⟩

/-- Its one group waits at the barrier: the last arrival. -/
theorem witness_ExitAndBarriers_last :
    Issues (demo5 (some .bar)) {} (scene5 (some .bar)) ∧ Quiet (demo5 (some .bar)) (scene5 (some .bar)) ∧
    (scene5 (some .bar)).path.waitsFor Wait.isBar = true ∧ ∃ b, (demo5 (some .bar)).blkAt 0 = some b ∧ b.groups ≠ [] ∧
      (demo5 (some .bar)).barOver 0 b.grid 0 b.barInst = false ∧ (b.arrivals b.barArr Wait.isBar).length = b.groups.length :=
  ⟨issues5 _ _, quiet5 _, by decide, _, rfl, List.cons_ne_nil _ _, by decide, by decide⟩

/-- Its one group waits at the cluster's barrier, in the one block of its cluster. -/
theorem witness_ExitAndBarriers_cluster :
    let s := demo5 (some .barc)
    ∃ b g, s.blkAt 0 = some b ∧ s.grid? b.grid = some g ∧ s.clusterBlocks b.grid b.cluster = [0] ∧ b.groups ≠ [] ∧
      (b.arrivals b.barcArr Wait.isBarc).length = b.groups.length ∧ clusterStarted g b.cluster 1 s = .ok (true, s) ∧
      s.barOver 1 b.grid b.cluster b.barcInst = false ∧ ∃ t, settleBarc 0 s = .ok ((), t) :=
  ⟨_, _, rfl, rfl, by decide, List.cons_ne_nil _ _, by decide, rfl, by decide,
    (answers (m := settleBarc 0) (s := demo5 (some .barc)) (fun _ => True) (by decide +kernel)).elim fun x h => ⟨x.2, h.1⟩⟩

/-! ### Copy commands and queues -/

/-- A descriptor at 0 that copies 4 bytes from 0x100 to 0x200. -/
def descMem : List Cell := [(1, 1), (9, 2), (16, 4)]

def demoDesc : State := demoG descMem none id

def descE : Scene := sceneOf demoDesc Pfx.neutral

theorem descMem_ok : MemOk demoDesc := (by decide : Memory.wf descMem = true)

theorem witness_CopyWords :
    Issues demoDesc {} descE ∧ descE.readsUni 96 ∧ copyFieldsOk .cpyb 15 0 = true ∧ descE.works ∧
    (isFeed .cpyb 15 = true → isControl descE.core = false ∧ (0 : Word).toNat < 4) ∧ (descE.uni 96).toNat < 8 ∧
    ∃ x : List Nat × State, Learns (readRecord (descE.uni 96) 8 64) demoDesc x.1 x.2 ∧
      (descOk .cpyb 15 x.1 = true ∧ x.2.engineRoom (.chan 0 0) = true) :=
  ⟨demo_issues _ _, (demo_plain _ _ _).readsUni _ (by decide), by decide, by unfold Scene.works; decide, fun h => absurd h (by decide),
    by decide, learns (fun x => _) (by decide +kernel)⟩

/-- Descriptors of the other words: a tile into q8 and a tile of memory, a halo, a compaction. -/
theorem witness_CopyWords_kinds :
    descOk .cpyt 8 [0x100, 0, 0x400020, 0x300, 0x340, 0, 0, 0] = true ∧ descOk .cpyt 0 [0x100, 0x200, 0x10001, 0x300, 0, 0, 0, 0] = true ∧
    descOk .cpyh 0 [0x100, 0x200, 0x10001000001, 0x300, 0, 0, 0, 0] = true ∧
    descOk .cpyc 0 [0x100, 0x200, 0x1000001, 0x300, 0, 0, 0, 0] = true ∧ copyFieldsOk .cpyt 8 7 = true ∧
    (demoP pfxC).cur.pfx = some pfxC ∧ demoDesc.cur.pfx = none ∧ copyFieldsOk .cpyb 1 0 = false ∧
    copyFieldsOk .cpyc 0 1 = false := by decide

/-- The queue of channel 0 is full. -/
def copyCmd : Cmd := cmdOf .cpyb 0 0 0 0 [0x100, 0x200, 4, 0, 0, 0, 0, 0] 0 0 0 0 (BitVec.allOnes 32) (.chan 0 0) none none

theorem witness_CopyWords_full :
    ({ demoDesc with cmds := List.replicate 65 copyCmd } : State).engineRoom (.chan 0 0) = false := by decide

theorem witness_Batches :
    Issues demo {} demoE ∧ demoE.hasUni 100 ∧ demoE.grp.batch.length = 32 ∧ demoE.readsUni 96 ∧
    demo.allDone (demoE.grp.batchesTo demoE.path.lanes fun _ => (demoE.uni 96).toNat).flatten = true :=
  ⟨demo_issues _ _, demo_plainE.uni _ (by decide), rfl, demo_plainE.readsUni _ (by decide), by decide⟩

/-- Batch 1 of lane 0 holds a copy that is not complete. -/
def demoOpen : State := { demoG [] none fun g => { g with sealed_ := [(0, 0, [0])] } with cmds := [copyCmd] }

theorem witness_Batches_open :
    Issues demoOpen {} (sceneOf demoOpen Pfx.neutral) ∧
    demoOpen.allDone ((sceneOf demoOpen Pfx.neutral).grp.batchesTo (sceneOf demoOpen Pfx.neutral).path.lanes
      fun _ => ((sceneOf demoOpen Pfx.neutral).uni 96).toNat).flatten = false :=
  ⟨⟨rfl, rfl, rfl, rfl, rfl, rfl, rfl⟩, by decide⟩

/-- One copy command, changed by `f`. -/
def demoCopy (f : Cmd → Cmd) : State := { demo with cmds := [f copyCmd] }

theorem witness_CopySteps_start :
    (demoCopy id).cmd? 0 = some copyCmd ∧ copyCmd.status = .queued ∧ copyCmd.kind = .cpyb ∧
    (demoCopy id).ahead 0 copyCmd.eng < copyCmd.eng.servers ∧ (demoCopy id).serving copyCmd.eng < copyCmd.eng.servers ∧
    (demoCopy id).blkSaved copyCmd.blk = false ∧ copyCmd.start.toNat ≤ (demoCopy id).time.toNat ∧
    (demoCopy id).preempting copyCmd.ctx = false ∧ (demoCopy id).shootPending copyCmd.ctx = false ∧
    ∃ x, startWork 0 ((atRest (demoCopy id)).modCmd 0 fun c => { c with status := .running }) = .ok x ∧ x.2.mem = [] :=
  ⟨rfl, rfl, rfl, by decide, by decide, by decide, by decide, rfl, rfl, answers (fun x => _) (by decide +kernel)⟩

/-- A command that stopped starts again. -/
theorem witness_CopySteps_stopped :
    (demoCopy fun c => { c with status := .stopped, kind := .cpyc }).cmd? 0 =
      some { copyCmd with status := .stopped, kind := .cpyc } ∧
    (demoCopy fun c => { c with status := .stopped, kind := .cpyc }).ahead 0 copyCmd.eng < copyCmd.eng.servers ∧
    (demoCopy fun c => { c with status := .stopped, kind := .cpyc }).serving copyCmd.eng < copyCmd.eng.servers :=
  ⟨rfl, by decide, by decide⟩

/-- Its elements. -/
theorem witness_CopySteps_elements :
    ({ copyCmd with status := .running } : Cmd).counting = false ∧ copyCmd.pos < copyCmd.units ∧ copyCmd.pos < copyCmd.total ∧
    (demoCopy fun c => { c with status := .running }).copyMayRun { copyCmd with status := .running } = true ∧
    ∃ x, elementStep 0 (atRest (demoCopy fun c => { c with status := .running })) = .ok x ∧ x.2.time = 0 :=
  ⟨by decide, by decide, by decide, by decide, answers (fun x => _) (by decide +kernel)⟩

/-- One whose mirror store of its first granule had to wait; it can be made. -/
def owedCmd : Cmd := { copyCmd with status := .running, pos := 2, wp := 4096, flag := 0x300, wpmo := 1 }

theorem witness_CopySteps_owed :
    (demoCopy fun _ => owedCmd).cmd? 0 = some owedCmd ∧ owedCmd.counting = false ∧ owedCmd.mirrorOwed = true ∧
    (demoCopy fun _ => owedCmd).copyMayRun owedCmd = true ∧
    ∃ x, mirrorStore 0 (owedCmd.wp - owedCmd.wp % owedCmd.gran) (atRest (demoCopy fun _ => owedCmd)) = .ok x ∧ x.2.time = 0 :=
  ⟨rfl, by decide, by decide, by decide, answers (fun x => _) (by decide +kernel)⟩

/-- A command at its end, with a flag to write; and one that pushes its completion word. -/
def endCmd : Cmd := { copyCmd with status := .running, pos := 4, wp := 4, fen := true, flag := 0x300 }
def pushCmd : Cmd := { copyCmd with status := .pushing, q := 15 }

/-- One whose flag lies outside every page, and whose mirror, 64 bytes below it, is not up to date. -/
def lostCmd : Cmd := { endCmd with flag := 0x100000, wpmo := -8 }

theorem witness_CopySteps_flag :
    (demoCopy fun _ => lostCmd).cmd? 0 = some lostCmd ∧ lostCmd.status = .running ∧ lostCmd.counting = false ∧
    lostCmd.units ≤ lostCmd.pos ∧ (demoCopy fun _ => lostCmd).blkSaved lostCmd.blk = false ∧ lostCmd.wpmo ≠ 0 ∧
    lostCmd.mirrored < lostCmd.wp ∧
    ∃ x : Unit × State, mirrorStore 0 lostCmd.wp (atRest (demoCopy fun _ => lostCmd)) = .ok x ∧
      (match storeFlag 0 x.2 with
        | .error (.fault f) => f.cls ≠ 3
        | _ => False) :=
  ⟨rfl, rfl, by decide, by decide, by decide, by decide, by decide, answers (fun x => (match storeFlag 0 x.2 with
        | .error (.fault f) => decide (f.cls ≠ 3)
        | _ => false) = true) (by decide +kernel) |>.imp fun x h => ⟨h.1, by
          have := h.2
          split at this <;> simp_all⟩⟩

theorem witness_CopySteps_ends :
    (demoCopy fun c => { c with paused := true }).cmd? 0 = some { copyCmd with paused := true } ∧
    (demoCopy fun c => { c with paused := true }).cows = [] ∧
    endCmd.counting = false ∧ endCmd.units ≤ endCmd.pos ∧ endCmd.wpmo = 0 ∧ (demoCopy fun _ => endCmd).shootPending 0 = false ∧
    (∃ x : Unit × State, writeVa (engAg endCmd.eng.die endCmd.ctx) endCmd.flag 4 endCmd.fval .engWrite
      (atRest (demoCopy fun _ => endCmd)) = .ok x ∧ x.2.time = 0) ∧
    (∃ g, (demoCopy fun _ => pushCmd).grpAt pushCmd.blk pushCmd.grp = some g ∧ g.cqRoom pushCmd.q = true) :=
  ⟨rfl, rfl, by decide, by decide, by decide, rfl, answers (fun x => _) (by decide +kernel), _, rfl, by decide⟩

/-- Every peer's number. -/
@[irreducible] def allPeers : List Nat := List.range 16384

theorem mem_allPeers {n : Nat} (h : n < 16384) : n ∈ allPeers := by
  unfold allPeers
  exact List.mem_range.2 h

/-- Every peer answers. -/
def demoAll : State := { demo with peers := allPeers }

theorem allPeers_homes (s : State) (h0 : s.spread = 0) (h1 : ∀ d < 4, (s.dieAt d).l2Reset = false) (h2 : s.peers = allPeers)
    (l : Nat) : s.homeGone l = none := by
  have h3 : s.lineDie l < 4 := by
    unfold State.lineDie State.storageDie
    have hz : ∀ i, (0 : BitVec 128).getLsbD i = false := fun i => BitVec.getLsbD_zero
    rw [h0, hz]
    split
    · exact Nat.mod_lt _ (by decide)
    · exact Nat.mod_lt _ (by decide)
  have h5 : s.peers.contains (fld 53 40 (128 * l)) = true := by
    rw [h2, List.contains_iff_mem]
    exact mem_allPeers (Nat.mod_lt _ (by decide))
  unfold State.homeGone
  rw [h1 _ h3, h5]
  simp

theorem demoAll_homes (l : Nat) : demoAll.homeGone l = none := allPeers_homes _ rfl (by decide) rfl l

/-- A CPYB inside the pages it has entered. -/
def runCmd : Cmd :=
  { copyCmd with status := .running, srcPg := some ⟨0, openPte, 0, 0, 0x100000⟩, dstPg := some ⟨0, openPte, 0, 0, 0x100000⟩ }

def demoRun : State := { demoAll with cmds := [runCmd] }

theorem witness_CopyBytes :
    demoRun.cmd? 0 = some runCmd ∧ runCmd.kind = .cpyb ∧ runCmd.status = .running ∧ runCmd.paused = false ∧
    runCmd.pos < runCmd.total ∧ runCmd.wpmo = 0 ∧ MemOk demoRun ∧
    demoRun.clamps = [] ∧ demoRun.migrs = [] ∧ demoRun.poison = [] ∧ demoRun.monitors = [] ∧ demoRun.copyMayRun runCmd = true ∧
    runCmd.esz = 1 ∧ runCmd.src.toNat % runCmd.esz = 0 ∧ runCmd.dst.toNat % runCmd.esz = 0 ∧ runCmd.rest = none ∧
    runCmd.srcPg = some ⟨0, openPte, 0, 0, 0x100000⟩ ∧ runCmd.dstPg = some ⟨0, openPte, 0, 0, 0x100000⟩ ∧
    demoRun.owns 0 0x200 = true ∧ 1 + runCmd.runFrom 1 7 8 = 4 ∧ (runCmd.place 0).1.toNat + 4 * runCmd.esz ≤ 0 + 0x100000 ∧
    (runCmd.place 0).2.toNat < 0 + 0x100000 ∧ (∀ j < 4, demoRun.owns 0 (0x100 + j * runCmd.esz) = true) ∧
    (∀ l, demoRun.homeGone l = none) :=
  ⟨rfl, rfl, rfl, rfl, by decide, by decide, (rfl : Memory.wf [] = true), rfl, rfl, rfl, rfl, by decide, by decide, by decide,
    by decide, rfl, rfl, rfl, by decide, by decide, by decide, by decide, by decide,
    fun l => allPeers_homes _ rfl (by decide) rfl l⟩

/-- Elements of 16 bytes: the second 8 of the first one are still to write. -/
def wideCmd : Cmd :=
  { runCmd with esz := 16, shape := 16, rest := some (8, 7, ⟨0, openPte, 0, 0, 0x100000⟩) }

def demoWide : State := { demoAll with cmds := [wideCmd] }

theorem witness_CopyBytes_wide :
    demoWide.cmd? 0 = some wideCmd ∧ wideCmd.status = .running ∧ wideCmd.pos < wideCmd.total ∧ wideCmd.wpmo = 0 ∧ MemOk demoWide ∧
    demoWide.copyMayRun wideCmd = true ∧ wideCmd.src.toNat % wideCmd.esz = 0 ∧ wideCmd.dst.toNat % wideCmd.esz = 0 ∧
    wideCmd.esz = 16 ∧ wideCmd.rest = some (8, 7, ⟨0, openPte, 0, 0, 0x100000⟩) ∧ 7 < 2 ^ 64 ∧
    (wideCmd.place 0).2.toNat + 8 < 0 + 0x100000 ∧ (∀ l, demoWide.homeGone l = none) :=
  ⟨rfl, rfl, by decide, by decide, (rfl : Memory.wf [] = true), by decide, by decide, by decide, by decide, rfl,
    by decide, by decide, fun l => allPeers_homes _ rfl (by decide) rfl l⟩

/-- The state that a meaning leaves; the one before, when it answers nothing. -/
def stateOf {α : Type} (m : M α) (s : State) : State := ((answer m s).map (·.2)).getD s

/-- A reading learns a value, when a test of the value and of the fields says so. -/
theorem learnsTo {α : Type} [DecidableEq α] {m : M α} {s : State} {a : α}
    (h : decide ((answer m s).map (·.1) = some a ∧ same s (stateOf m s)) = true) : Learns m s a (stateOf m s) := by
  have h := of_decide_eq_true h
  unfold stateOf at *
  rcases hx : answer m s with _ | x
  · rw [hx] at h; cases h.1
  · rw [hx] at h
    cases h.1
    exact learns_ok (answer_ok hx) h.2

/-- A meaning answers a value and leaves a state. -/
theorem leaves {α : Type} [DecidableEq α] {m : M α} {s : State} {a : α} (h : decide ((answer m s).map (·.1) = some a) = true) :
    m s = .ok (a, stateOf m s) := by
  have h := of_decide_eq_true h
  unfold stateOf
  rcases hx : answer m s with _ | x
  · rw [hx] at h; cases h
  · rw [hx] at h
    cases h
    exact answer_ok hx

/-- A stream of 32 indexes; q7 is bound to it, as `f` changes it. -/
def someStream : Stream := streamOf [0x100, 0x200, 32] false 0

def demoStream (f : Stream → Stream) : State := demoG [] none fun g => { g with streams := g.streams.set 7 (some (f someStream)) }

def streamE (f : Stream → Stream) : Scene := sceneOf (demoStream f) Pfx.neutral

theorem streamE_issues (f : Stream → Stream) : Issues (demoStream f) {} (streamE f) := ⟨rfl, rfl, rfl, rfl, rfl, rfl, rfl⟩

theorem streamE_plain (f : Stream → Stream) : Plain (streamE f) := ⟨rfl, rfl, rfl⟩

/-- A full buffer; a stream past its end; a fibre past its end; a push. -/
theorem witness_QueueWords_streams :
    Issues (demoStream fun x => { x with buf := [.vals (List.replicate 32 9)] }) {}
      (streamE fun x => { x with buf := [.vals (List.replicate 32 9)] }) ∧ (7 : BitVec 4).toNat < 8 ∧
    (streamE fun x => { x with buf := [.vals (List.replicate 32 9)] }).grp.streams[7]? =
      some (some { someStream with buf := [.vals (List.replicate 32 9)] }) ∧
    (streamE fun x => { x with pops := 1 }).grp.streams[7]? = some (some { someStream with pops := 1 }) ∧
    someStream.mode = 0 ∧ someStream.entries ≤ 1 ∧
    (streamE fun x => { x with mode := 1, ended := true }).grp.streams[7]? = some (some { someStream with mode := 1, ended := true }) ∧
    (streamE id).hasVec 95 ∧ (streamE id).hasUni 127 ∧ (streamE id).clear 95 (BitVec.allOnes 32) ∧ someStream.dir ≠ some false ∧
    (demoStream id).pendingPushes (demoStream id).cur.blk (demoStream id).cur.grp 7 < 4 :=
  ⟨streamE_issues _, by decide, rfl, rfl, rfl, by decide, rfl, (streamE_plain _).vec _ (by decide),
    (streamE_plain _).uni _ (by decide), (streamE_plain _).clear _ _, by decide, by decide⟩

/-- A scatter push that is not performed. -/
def pushed : Cmd := scatterCmd someStream 0 7 (List.replicate 32 9) 0 0 0 0 0 (BitVec.allOnes 32)

theorem witness_QueueWords_pushes :
    4 ≤ ({ demoStream id with cmds := List.replicate 4 pushed } : State).pendingPushes 0 0 7 := by decide

def demoCq (l : List Word) : State := demoG [] none fun g => { g with cqs := g.cqs.set 3 l }

theorem witness_QueueWords_completion :
    Issues (demoCq [7]) {} (sceneOf (demoCq [7]) Pfx.neutral) ∧ (sceneOf (demoCq [7]) Pfx.neutral).grp.cqs[15 - 12]? = some [7] ∧
    demoE.grp.cqs[15 - 12]? = some [] ∧ 12 ≤ (15 : BitVec 4).toNat ∧
    ∃ x : Word × State, Learns (portStat (10 - 10)) demo x.1 x.2 ∧ x.1 = x.1 :=
  ⟨⟨rfl, rfl, rfl, rfl, rfl, rfl, rfl⟩, rfl, rfl, by decide, learns (fun x => _) (by decide +kernel)⟩

theorem witness_QueueWords_feeds :
    Issues (demoSlot 0x8404) {} (slotE 0x8404) ∧ isControl (slotE 0x8404).core = false ∧ (slotE 0x8404).works ∧
    slotClean (slotOf (slotE 0x8404).grid.lrec 0) = true ∧ 2 ≤ slotA 0x8404 ∧ slotA 0x8404 ≤ 8 ∧
    ((demoSlot 0x8404).coreAt 0).mat.part8 = none ∧ ((demoSlot 0x8404).coreAt 0).mat.used 8 < Config.fifoEntries ∧
    ((demoSlot 0x8404).coreAt 0).mat.used 9 < Config.fifoEntries :=
  ⟨⟨rfl, rfl, rfl, rfl, rfl, rfl, rfl⟩, by decide, by unfold Scene.works; decide, by decide, by decide, by decide, rfl, by decide,
    by decide⟩

/-- A stream record at 0: 32 indexes; a fibre record. -/
theorem witness_Streams_bind :
    Issues (demoG [(1, 1), (9, 2), (16, 32)] none id) {} (sceneOf (demoG [(1, 1), (9, 2), (16, 32)] none id) Pfx.neutral) ∧
    (∃ x : List Nat × State, Learns (readRecord ((sceneOf (demoG [(1, 1), (9, 2), (16, 32)] none id) Pfx.neutral).uni 96) 4 32)
      (demoG [(1, 1), (9, 2), (16, 32)] none id) x.1 x.2 ∧ streamOk x.1 = true) ∧
    streamOk [0x100, 0, 0x100000000, 0] = true ∧ (6 : BitVec 3).toNat % 2 = 0 :=
  ⟨demo_issues _ _, learns (fun x => _) (by decide +kernel), by decide, by decide⟩

theorem witness_Streams_prefetch :
    (∃ b g, (demoStream id).blkAt 0 = some b ∧ (demoStream id).grpAt 0 0 = some g ∧ b.core = some 0 ∧
      g.streams[7]? = some (some someStream)) ∧ someStream.wants = true ∧ (demoStream id).shootPending 0 = false ∧
    (demoStream id).preempting 0 = false ∧
    (∃ x : Stream × State, gatherStep (engAg (dieOf 0) 0) someStream (atRest (demoStream id)) = .ok x ∧ x.1.part ≠ []) :=
  ⟨⟨_, _, rfl, rfl, rfl, rfl⟩, by decide, by decide, by decide, answers (fun x => _) (by decide +kernel)⟩

/-- The stream's indexes lie outside every page: the fault takes the entry's place. -/
theorem witness_Streams_fault :
    (match gatherStep (engAg (dieOf 0) 0) { someStream with index := 0x1000000000000000 } (atRest (demoStream id)) with
      | .error (.fault _) => true
      | _ => false) = true := by decide +kernel

theorem witness_Streams_scatter :
    (({ demoStream id with cmds := [pushed] } : State).cmds.findIdx? fun c =>
      decide (c.kind = .scatter ∧ c.blk = 0 ∧ c.grp = 0 ∧ c.q = 7) && !c.isDone) = some 0 ∧ pushed.paused = false ∧ ({ demoStream id with cmds := [pushed] } : State).blkSaved pushed.blk = false ∧
    ({ demoStream id with cmds := [pushed] } : State).preempting pushed.ctx = false ∧
    ∃ x : Unit × State, scatterStep 0 (atRest { demoStream id with cmds := [pushed] }) = .ok x ∧ x.2.time = 0 :=
  ⟨by decide, by decide, by decide, by decide, answers (fun x => _) (by decide +kernel)⟩

/-! ### The voxel tree -/

/-- A tree record at 0 (root at 0x1000, an upper node at 0x20000, a lower one at 0x28000, a leaf at 0x30000, background 2.0)
with the leaf of the origin. -/
def treeMem : List Cell :=
  [(1, 0x10), (10, 2), (17, 0x80), (18, 2), (24, 1), (28, 1), (59, 0x40), (82, 3), (88, 1), (0x20000 + 128, 1), (0x28000 + 128, 1)]

/-- Lane 0 alone is active. -/
def lane0Only (g : Group) : Group := { g with paths := g.paths.map fun q => { q with lanes := 1 } }

def demoTree : State := demoG treeMem none lane0Only

def treeE : Scene := sceneOf demoTree Pfx.neutral

theorem treeE_plain : Plain treeE := ⟨rfl, rfl, rfl⟩

/-- The record, as 32 dwords. -/
def treeRec : List Nat :=
  [0x1000, 0x20000, 0x28000, 2 ^ 32 + 1, 0, 0, 0, 0x40000000, 0, 0, 0x30000, 1] ++ List.replicate 20 0

/-- The state after the record has been read. -/
def treeU : State := stateOf (walkerUnit (readTree 0)) demoTree

theorem witness_TreeLookups :
    Issues demoTree { mask := true, zm := true } treeE ∧ treeE.hasVec 95 ∧ treeE.readsUni 96 ∧ treeE.reads 1 ∧
    treeE.readsMask treeE.pfx.mask ∧ Learns (walkerUnit (readTree (treeE.uni 96))) demoTree treeRec treeU ∧
    [0] = laneIds.filter (treeE.accesses true) ∧ treeTy treeRec = 4 + (2 : BitVec 2).toNat ∧
    (82 : BitVec 7).toNat + 14 ≤ treeE.grid.lrec.vregs ∧ treeE.hasVec 1 ∧ (1 : BitVec 7).toNat + 4 ≤ treeE.grid.lrec.vregs ∧
    (∀ i < 4, treeE.clear ((1 : BitVec 7).toNat + i) treeE.path.lanes) :=
  ⟨⟨rfl, rfl, rfl, rfl, rfl, rfl, rfl⟩, treeE_plain.vec _ (by decide), treeE_plain.readsUni _ (by decide), treeE_plain.reads _,
    treeE_plain.mask _, learnsTo (by decide +kernel), by decide, by decide, by decide, treeE_plain.vec _ (by decide), by decide,
    fun _ _ => treeE_plain.clear _ _⟩

/-- VLK: the leaf is found. -/
theorem witness_TreeLookups_leaf : ∃ v,
    Learns (walkerUnit (collect [0] fun l => atLane l (do
      let f ← findLeafAt (treeE.uni 96) treeRec (some (laneOf (treeE.operand 1) l).toNat)
      pure (l, f)))) treeU ([0].map fun l => (l, (fun _ => some 0x30000 : Nat → Option Word) l)) v :=
  ⟨_, learnsTo (by decide +kernel)⟩

/-- VLD1: the place of the value and what it holds. -/
def leafPlace : Tr := ⟨0x30080, openPte, 0, 0, 0x100000⟩

def treeV : State := stateOf (walkerUnit (collect [0] fun l => atLane l (do
  let x ← placeOf (treeE.uni 96) treeRec (some (laneOf (treeE.operand 1) l).toNat) .walkRead
  pure (l, x)))) treeU

theorem witness_TreeLookups_value : ∃ w,
    Learns (walkerUnit (collect [0] fun l => atLane l (do
      let x ← placeOf (treeE.uni 96) treeRec (some (laneOf (treeE.operand 1) l).toNat) .walkRead
      pure (l, x)))) treeU ([0].map fun l => (l, (fun _ => some leafPlace : Nat → Option Tr) l)) treeV ∧
    Learns (walkerUnit (collect ([0].map fun l => (l, (fun _ => some leafPlace : Nat → Option Tr) l)) fun x => atLane x.1 (do
      let y ← voxelValue treeRec x.2
      pure (x.1, BitVec.ofNat 64 y)))) treeV ([0].map fun l => (l, BitVec.ofNat 64 ((fun _ => 0 : Nat → Nat) l))) w :=
  ⟨_, learnsTo (by decide +kernel), learnsTo (by decide +kernel)⟩

/-- VLD7 and VLD27 at the coordinate NULL, whose neighbours are all absent. -/
def demoNull : State := demoG treeMem none fun g => lane0Only (g.setVreg 1 ((g.vreg 1).set 0 0x8000000000000000))

def nullE : Scene := sceneOf demoNull Pfx.neutral

theorem witness_TreeLookups_neighbours :
    Issues demoNull { mask := true, zm := true } nullE ∧
    Learns (walkerUnit (readTree (nullE.uni 96))) demoNull treeRec (stateOf (walkerUnit (readTree 0)) demoNull) ∧ ∃ v w,
    Learns (walkerUnit (neighbours (nullE.uni 96) treeRec (nullE.operand 1) [0] offsets7))
      (stateOf (walkerUnit (readTree 0)) demoNull)
      ([0].map fun l => (l, (fun _ => List.replicate 7 true : Nat → List Bool) l,
        (fun _ => List.replicate 7 0x40000000 : Nat → List Nat) l)) v ∧
    Learns (walkerUnit (neighbours (nullE.uni 96) treeRec (nullE.operand 1) [0] offsets27))
      (stateOf (walkerUnit (readTree 0)) demoNull)
      ([0].map fun l => (l, (fun _ => List.replicate 27 true : Nat → List Bool) l,
        (fun _ => List.replicate 27 0x40000000 : Nat → List Nat) l)) w :=
  ⟨⟨rfl, rfl, rfl, rfl, rfl, rfl, rfl⟩, learnsTo (by decide +kernel), _, _, learnsTo (by decide +kernel),
    learnsTo (by decide +kernel)⟩

/-- VMARCH: a ray of zeros misses. -/
theorem witness_TreeLookups_march : ∃ v,
    Learns (walkerUnit (collect [0] fun l => atLane l (do
      let src := fun i j : Nat => elem 32 j (laneOf (treeE.grp.vreg ((1 : BitVec 7).toNat + i)) l)
      let x ← marchRay (treeE.uni 96) treeRec ⟨[src 0 0, src 0 1, src 1 0], [src 1 1, src 2 0, src 2 1], src 3 0, src 3 1⟩
      pure (l, x)))) treeU ([0].map fun l => (l, (fun _ => ⟨1, 0x7F800000, 0x8000000000000000, 0x40000000⟩ : Nat → March) l)) v :=
  ⟨_, learnsTo (by decide +kernel)⟩

/-- spec/07, the worked march: only voxel (5, 2, 0) of the leaf is active, with 2.0; the ray hits it at 4.5, or misses. -/
def marchState : State := demoG (treeMem ++ [(0x30002, 0x20), (0x300D7, 0x40)]) none lane0Only

theorem test_march_hit :
    (answer (marchRay 0 treeRec ⟨[0x3F000000, 0x40200000, 0x3F000000], [0x3F800000, 0, 0], 0, 0x42C80000⟩) marchState).map (·.1) =
      some ⟨0, 0x40900000, 0x400005, 0x40000000⟩ := by decide +kernel

theorem test_march_miss :
    (answer (marchRay 0 treeRec ⟨[0x3F000000, 0x40200000, 0x3F000000], [0x3F800000, 0, 0], 0, 0x40800000⟩) marchState).map
      (fun x => (x.1.t, x.1.value)) = some (0x7F800000, 0x40000000) := by decide +kernel

/-- VST1: the place written. -/
def storeV : State := stateOf (walkerUnit (collect [0] fun l => atLane l (do
  let x ← if treeE.grp.helper.getLsbD l then pure none
    else placeOf (treeE.uni 96) treeRec (some (laneOf (treeE.operand 1) l).toNat) .walkWrite
  pure (l, x)))) treeU

theorem witness_TreeWrites_store :
    Issues demoTree { mask := true } treeE ∧ treeE.reads 2 ∧ treeTy treeRec = 4 + (2 : BitVec 2).toNat ∧
    Learns (walkerUnit (collect [0] fun l => atLane l (do
      let x ← if treeE.grp.helper.getLsbD l then pure none
        else placeOf (treeE.uni 96) treeRec (some (laneOf (treeE.operand 1) l).toNat) .walkWrite
      pure (l, x)))) treeU ([0].map fun l => (l, (fun _ => some leafPlace : Nat → Option Tr) l)) storeV ∧
    Quiet storeV treeE ∧ MemOk storeV ∧ (∀ (l : Nat) (tr : Tr), (fun _ => some leafPlace : Nat → Option Tr) l = some tr →
      storeV.homeGone (tr.pa / 128) = none ∧ tr.pa % valBytes treeRec = 0) :=
  ⟨⟨rfl, rfl, rfl, rfl, rfl, rfl, rfl⟩, treeE_plain.reads _, by decide, learnsTo (by decide +kernel),
    ⟨by decide +kernel, by decide +kernel, by decide +kernel, by decide +kernel, by decide +kernel, by decide +kernel, rfl⟩,
    by unfold MemOk; decide +kernel, fun _ _ h => by cases h; exact ⟨by decide +kernel, by decide⟩⟩

/-- VACT: the word of active bits. -/
def bitsPlace : Tr := ⟨0x30000, openPte, 0, 0, 0x100000⟩

def actV : State := stateOf (walkerUnit (collect [0] fun l => atLane l (do
  let f ← if treeE.grp.helper.getLsbD l then pure none
    else findLeafAt (treeE.uni 96) treeRec (some (laneOf (treeE.operand 1) l).toNat)
  match f with
  | none => pure (l, none)
  | some leaf => do
    let tr ← checkedAccess treeE.ag (addI leaf (8 * (voxelNo (laneOf (treeE.operand 1) l).toNat / 64) : Nat)) 8 .walkAtomic
    pure (l, some tr)))) treeU

theorem witness_TreeWrites_active :
    Learns (walkerUnit (collect [0] fun l => atLane l (do
      let f ← if treeE.grp.helper.getLsbD l then pure none
        else findLeafAt (treeE.uni 96) treeRec (some (laneOf (treeE.operand 1) l).toNat)
      match f with
      | none => pure (l, none)
      | some leaf => do
        let tr ← checkedAccess treeE.ag (addI leaf (8 * (voxelNo (laneOf (treeE.operand 1) l).toNat / 64) : Nat)) 8 .walkAtomic
        pure (l, some tr)))) treeU ([0].map fun l => (l, (fun _ => some bitsPlace : Nat → Option Tr) l)) actV ∧
    Quiet actV treeE ∧ MemOk actV ∧ (∀ (l : Nat) (tr : Tr), (fun _ => some bitsPlace : Nat → Option Tr) l = some tr →
      actV.homeGone (tr.pa / 128) = none ∧ tr.pa % 8 = 0) :=
  ⟨learnsTo (by decide +kernel),
    ⟨by decide +kernel, by decide +kernel, by decide +kernel, by decide +kernel, by decide +kernel, by decide +kernel, rfl⟩,
    by unfold MemOk; decide +kernel, fun _ _ h => by cases h; exact ⟨by decide +kernel, by decide⟩⟩

/-- VINS: its lane's leaf exists; and every lane has been done. -/
theorem witness_TreeWrites_insert :
    Issues demoTree {} treeE ∧ treeE.hasVec 94 ∧ (94 : BitVec 7).toNat + 2 ≤ treeE.grid.lrec.vregs ∧
    [0].filter (fun l => !treeE.grp.helper.getLsbD l && !isNull (laneOf (treeE.operand 1) l).toNat) = [0] ∧
    ((∀ y, treeE.path.wait ≠ some (.vins y)) ∧ Learns (walkerUnit (readTree (treeE.uni 96))) demoTree treeRec treeU) ∧
    [0][(⟨treeRec, 0, .look, none, []⟩ : VinsSt).lane]? = some 0 ∧
    (∃ x : VinsSt × State, vinsStep (treeE.uni 96) treeRec (leafOrigin (laneOf (treeE.operand 1) 0).toNat) 0
      ⟨treeRec, 0, .look, none, []⟩ treeU = .ok x ∧ x.2.cur = demoTree.cur) ∧
    [0][(⟨treeRec, 1, .look, none, [(0, 0x30000, 0)]⟩ : VinsSt).lane]? = none :=
  ⟨⟨rfl, rfl, rfl, rfl, rfl, rfl, rfl⟩, treeE_plain.vec _ (by decide), by decide, by decide,
    ⟨(fun _ h => by cases (show (none : Option Wait) = _ from h)), learnsTo (by decide +kernel)⟩, rfl,
    answers (fun x => _) (by decide +kernel), rfl⟩

/-! ### The matrix engine and tasks -/

/-- Cores 0 and 1 are the partition's, pages hold accumulators, slot 0 is the worked slot of spec/11, and s1 holds a control
word. -/
def demoMat (ctl : Word) : State :=
  { (demoG [] none fun g => g.setSreg 1 ctl).modGrid 0 fun g => { g with lrec := { g.lrec with slots := [0x948] } } with
    parts := [(0, ⟨true, [3, 0, 0, 0], BitVec.allOnes 128, [], [0]⟩)]
    dies := (List.range 4).map fun d => (d, { tlbDie with tlb := [⟨0, 0, 0, 0x100000, openPte + 0x8000, 0⟩] }) }

def matE (ctl : Word) : Scene := sceneOf (demoMat ctl) Pfx.neutral

theorem matE_issues (ctl : Word) : Issues (demoMat ctl) {} (matE ctl) := ⟨rfl, rfl, rfl, rfl, rfl, rfl, rfl⟩

theorem matE_plain (ctl : Word) : Plain (matE ctl) := ⟨rfl, rfl, rfl⟩

theorem witness_MatrixWords :
    Issues (demoMat 0x01000040) {} (matE 0x01000040) ∧ (matE 0x01000040).matrixCore (demoMat 0x01000040) .mma ∧
    (matE 0x01000040).readsUni 96 ∧ (matE 0x01000040).readsUni 97 ∧ (matE 0x01000040).works ∧ isCq (15 : BitVec 4).toNat = true ∧
    matSlotOk .mma (slotOf (matE 0x01000040).grid.lrec 0) = true ∧
    ctlOk .mma (slotOf (matE 0x01000040).grid.lrec 0) ((matE 0x01000040).uni 97) = true ∧ ((matE 0x01000040).uni 96).toNat % 256 = 0 ∧
    (∃ x : Unit × State, Learns (matPages (engAg (dieOf (matE 0x01000040).core) (matE 0x01000040).blk.ctx) .mma
      (slotOf (matE 0x01000040).grid.lrec 0) ((matE 0x01000040).uni 96) ((matE 0x01000040).uni 97) 0 0) (demoMat 0x01000040) x.1 x.2 ∧
      x.2.matRoom 0 = true) :=
  ⟨matE_issues _, ⟨by decide, fun _ => by decide⟩, (matE_plain _).readsUni _ (by decide), (matE_plain _).readsUni _ (by decide),
    by unfold Scene.works; decide, by decide, by decide, by decide, by decide, learns (fun x => _) (by decide +kernel)⟩

/-- The other words: MZERO; MMA1, with HALF; MOUT, with DSTRIDE. -/
theorem witness_MatrixWords_kinds :
    ctlOk .mzero 0x948 0x01000000 = true ∧ ctlOk .mma1 0x948 0x01008040 = true ∧ ctlOk .mout 0x948 0x0000800001000000 = true ∧
    matSlotOk .mout 0x948 = true ∧ (96 + 28 - 96) % 4 = 0 ∧ (matE 0).readsUni 124 ∧ (matE 0).readsUni (124 + 1) ∧
    (matE 0).readsUni (124 + 2) ∧ 0 % outElem (slotOut 0x948) = 0 :=
  ⟨by decide, by decide, by decide, by decide, by decide, (matE_plain _).readsUni _ (by decide),
    (matE_plain _).readsUni _ (by decide), (matE_plain _).readsUni _ (by decide), by decide⟩

theorem witness_MatrixWords_full :
    ((demoMat 0).modCore 0 fun k => { k with mat := { k.mat with queue := List.replicate 4 0 } }).matRoom 0 = false ∧
    ¬ (sceneOf (demoG [] none fun g => { g with helper := BitVec.allOnes 32 }) Pfx.neutral).works :=
  ⟨by decide, by unfold Scene.works; decide⟩

def matCmd (kind : MatKind) (f : MatCmd → MatCmd) : MatCmd :=
  f (matCmdOf kind 0 0x948 7 0 0x01000040 0 0 0 0 0 0 (BitVec.allOnes 32) 0 none 0)

/-- One matrix command, and what cores 0 and 1 hold. -/
def demoMats (c : MatCmd) (f g : MatState → MatState) : State :=
  { demoMat 0 with mats := [c], cores := [(0, { tlbCore with mat := f tlbCore.mat }), (1, { tlbCore with mat := g tlbCore.mat })] }

theorem witness_MatrixSteps_start (kind : MatKind) :
    (demoMats (matCmd kind id) (fun k => { k with queue := [0] }) id).mat? 0 = some (matCmd kind id) ∧
    ((demoMats (matCmd kind id) (fun k => { k with queue := [0] }) id).coreAt 0).mat.queue.head? = some 0 ∧
    (demoMats (matCmd kind id) (fun k => { k with queue := [0] }) id).preempting (matCmd kind id).ctx = false ∧
    ((demoMats (matCmd kind id) (fun k => { k with queue := [0] }) id).coreAt 0).mat.array = none ∧
    ((demoMats (matCmd kind id) (fun k => { k with queue := [0] }) id).coreAt (partner 0)).mat.array = none ∧
    (demoMats (matCmd kind id) (fun k => { k with queue := [0] }) id).claimed 0 = false ∧
    (demoMats (matCmd kind id) (fun k => { k with queue := [0] }) id).earlierDone 0 0 = true :=
  ⟨rfl, rfl, rfl, rfl, rfl, by cases kind <;> decide, by cases kind <;> decide⟩

def sliceA : Slice := ⟨8, 0, List.replicate 32 (List.replicate 64 0x40), List.replicate 32 0x80, false, 0⟩
def sliceB : Slice := ⟨4, 0, List.replicate 64 (List.replicate 32 0x44), List.replicate 64 0x7F, false, 0⟩

/-- An MMA that consumes: its slices wait, and fit; a slice of another window does not. -/
theorem witness_MatrixSteps_consume :
    let c := matCmd .mma fun c => { c with status := .consuming }
    let s := demoMats c (fun k => { k with q8 := [sliceA], q9 := [sliceB], array := some 0 })
      (fun k => { k with q8 := [sliceA], array := some 0 })
    s.mat? 0 = some c ∧ (s.coreAt 0).mat.array = some 0 ∧ c.core = 0 ∧ c.kblocks.length < ctlK c.ctl / 64 ∧
    s.preempting c.ctx = false ∧ (s.coreAt 0).mat.q8.head? = some sliceA ∧ (s.coreAt 0).mat.q9.head? = some sliceB ∧
    (s.coreAt (partner 0)).mat.q8.head? = some sliceA ∧ sliceA.fits (widthOf (slotA c.slot)) (slotScale c.slot) = true ∧
    sliceB.fits (widthOf (slotB c.slot)) (slotScale c.slot) = true ∧ sliceA.poisoned = false ∧ sliceB.poisoned = false ∧
    ({ sliceA with window := 1 } : Slice).fits (widthOf (slotA c.slot)) (slotScale c.slot) = false :=
  ⟨rfl, rfl, rfl, by decide, rfl, rfl, rfl, rfl, by decide, by decide, rfl, rfl, by decide⟩

/-- It has consumed all of K; then it merges its first element; MZERO writes one; a command that is complete. -/
theorem witness_MatrixSteps_merge :
    (matCmd .mma fun c => { c with status := .consuming, kblocks := [(sliceA, some sliceA, sliceB)] }).kblocks.length =
      ctlK (matCmd .mma id).ctl / 64 ∧
    (let c := matCmd .mma fun c => { c with status := .merging, partials := List.replicate 4096 0x42000000#32 }
     let s := demoMats c id id
     0 < c.pieces ∧ 0 ∉ c.merged ∧ s.elemBusy 0 c 0 = false ∧ s.shootPending c.ctx = false ∧ s.cows = [] ∧
     ∃ x : Nat × State, matPiece c 0 (atRest s) = .ok x ∧ getBytes x.2.mem 0 4 = 0x42000000) :=
  ⟨by decide, by decide, by decide, by decide, by decide, rfl, answers (fun x => _) (by decide +kernel)⟩

/-- The accumulators of the second command lie outside every page. -/
theorem witness_MatrixSteps_fault :
    let c := matCmd .mma fun c => { c with
      status := .merging, partials := List.replicate 4096 0x42000000#32, cAddr := 0x1000000000000000 }
    (demoMats c id id).elemBusy 0 c 0 = false ∧ (match matPiece c 0 (atRest (demoMats c id id)) with
      | .error (.fault f) => decide (f.cls ≠ 3)
      | _ => false) = true := ⟨by decide, by decide +kernel⟩

theorem witness_MatrixSteps_end :
    (matCmd .mzero fun c => { c with status := .pushing }).status = .pushing ∧ isCq (matCmd .mzero id).q = false ∧
    isCq 15 = true ∧ (∃ g, demo.grpAt 0 0 = some g ∧ g.cqRoom 15 = true) ∧
    (let s := (demoMat 0).modCore 4 fun k => { k with mat := { k.mat with q8 := [sliceA], ctx := some 0 } }
     (s.coreAt 4).mat.ctx = some 0 ∧ (s.coreAt 4).mat.clear = false ∧
     (∀ j ∈ (s.coreAt 4).mat.array, ∀ x, s.mat? j = some x → x.stops = true) ∧ s.residentOn 4 0 = false) ∧
    (let s : State := { demoMat 0 with savedMat := [(0, 4, { tlbCore.mat with q8 := [sliceA] })] }
     (s.coreAt 4).mat.clear = true ∧ s.pairHeld 4 0 = false ∧
     (s.savedMat.find? fun x => decide (x.1 = 0 ∧ x.2.1 = 4)).isSome = true) :=
  ⟨rfl, by decide, by decide, ⟨_, rfl, by decide⟩, ⟨rfl, by decide, fun _ h => (by cases h), by decide⟩, by decide, by decide, by decide⟩

/-- Two products 63 places apart: the window just holds both. -/
theorem witness_ExactSum :
    topTerm [(3, 60), (1, -3)] = some 60 ∧ (∀ t ∈ ([(3, 60), (1, -3)] : List (Int × Int)), t.1 ≠ 0 → (-3 : Int) ≤ t.2) ∧
    (60 : Int) - 63 ≤ -3 := by decide

/-- A task record at 0: CPYB into q12 of the descriptor at 0x40, which copies 4 bytes; tag 0 counts it. -/
def taskMem : List Cell := [(3, 0xB3), (16, 0x40), (0x41, 1), (0x49, 2), (0x50, 4)]

def demoTask : State := demoG taskMem none id

def taskE : Scene := sceneOf demoTask Pfx.neutral

def taskRec : List Nat := [0xB3000000, 0, 0x40, 0, 0, 0, 0, 0]

def someTask : Task := taskOf 0 taskRec 0 (BitVec.allOnes 32)

theorem witness_Tasks_declare :
    Issues demoTask {} taskE ∧ taskE.readsUni 96 ∧ taskE.works ∧
    Learns (readRecord (taskE.uni 96) 8 64) demoTask taskRec (stateOf (readRecord 0 8 64) demoTask) ∧ taskRecOk taskRec = true ∧
    taskOp someTask.word.toNat = some (.copy .cpyb 12 0 0) ∧
    (match taskChecks (.copy .cpyb 12 0 0) someTask (stateOf (readRecord 0 8 64) demoTask) with
      | .ok (_, u) => decide (u = stateOf (readRecord 0 8 64) demoTask)
      | .error _ => false) = true ∧
    taskE.blk.waitingTasks < Config.waitingTasks ∧
    Config.waitingTasks ≤ ({ taskE.blk with tasks := List.replicate 64 someTask } : Block).waitingTasks :=
  ⟨demo_issues _ _, (demo_plain _ _ _).readsUni _ (by decide), by unfold Scene.works; decide, learnsTo (by decide +kernel),
    by decide, by decide, by decide +kernel, by decide, by decide⟩

theorem witness_Tasks_counts :
    Issues demo {} demoE ∧ demoE.readsUni 96 ∧ demoE.works ∧ (demoE.uni 96).toNat < 64 ∧ Quiet demo demoE ∧
    (0 : Int) = (demoE.blk.count (demoE.uni 96).toNat : Int) + (demoE.uni 96).toInt ∧ EnginesDone demo demoE ∧
    demoE.blk.count (demoE.uni 96).toNat = 0 ∧ ({ demoE.blk with counts := [1] } : Block).count (demoE.uni 96).toNat ≠ 0 ∧
    demoE.hasUni 127 :=
  ⟨demo_issues _ _, demo_plainE.readsUni _ (by decide), by unfold Scene.works; decide, by decide, demo_quiet _ _ _, by decide,
    engines_done _ _ _, by decide, by decide, demo_plainE.uni _ (by decide)⟩

/-- The task is ready; its descriptor's checks pass; those of a descriptor at 0x80, which is zero, do not. -/
def readyTask (a : Word) : Task := { someTask with ready := some 0, av := [a, 0, 0] }

def demoReady (a : Word) : State := demoTask.modBlk 0 fun b => { b with tasks := [readyTask a] }

theorem witness_Tasks_issue :
    (∃ b, (demoReady 0x40).blkAt 0 = some b ∧ b.core = some 0 ∧ b.tasks[0]? = some (readyTask 0x40) ∧ b.ended = false ∧
      (demoReady 0x40).taskBefore 0 0 (readyTask 0x40) = false) ∧ (demoReady 0x40).preempting 0 = false ∧
    (∃ x : Unit × State, issueTask (.copy .cpyb 12 0 0) 0 (readyTask 0x40)
      { demoReady 0x40 with cur := ⟨0, 0, 2 ^ 32, (readyTask 0x40).word, none⟩ } = .ok x ∧ x.2.cmds.length = 1) ∧
    (match issueTask (.copy .cpyb 12 0 0) 0 (readyTask 0x80) { demoReady 0x80 with cur := ⟨0, 0, 2 ^ 32, (readyTask 0x80).word, none⟩ } with
      | .error (.fault f) => decide (f.cls ≠ 3) && (answer (failTask (.copy .cpyb 12 0 0) 0 0 (readyTask 0x80) f)
          { demoReady 0x80 with cur := ⟨0, 0, 2 ^ 32, (readyTask 0x80).word, none⟩ }).isSome
      | _ => false) = true :=
  ⟨⟨_, rfl, rfl, rfl, rfl, by decide⟩, rfl, answers (fun x => _) (by decide +kernel), by decide +kernel⟩

/-! ### Launches, record queues and rendering -/

/-- After a reading, a meaning answers and moves neither the blocks nor the issue in progress. -/
def goesOn {α : Type} (m : M α) (s : State) : Bool :=
  ((answer m s).map fun y => decide (y.2.blocks = s.blocks ∧ y.2.cur = s.cur)).getD false

/-- A launch record at 0: one block of one group, 96 vector and 32 uniform registers. -/
def launchMem : List Cell := [(8, 1), (12, 1), (16, 1), (20, 1), (21, 1), (22, 96), (23, 32)]

/-- The record, and a user queue at 0x400 (its ring of 16 packets at 0x800), whose address s1 holds. -/
def demoLaunch : State :=
  { demoG (launchMem ++ [(0x401, 8), (0x408, 16)]) none (fun g => g.setSreg 1 0x400) with queues := [UQueue.fresh 0 0x400] }

def launchE : Scene := sceneOf demoLaunch Pfx.neutral

theorem launchE_plain : Plain launchE := ⟨rfl, rfl, rfl⟩

theorem witness_LaunchAndRecords_launch :
    Issues demoLaunch {} launchE ∧ Quiet demoLaunch launchE ∧ launchE.works ∧ launchE.hasUni 98 ∧ launchE.readsUni 96 ∧
    launchE.readsUni 97 ∧ (∃ y ∈ demoLaunch.queues, y.va = launchE.uni 97 ∧ y.ctx = launchE.blk.ctx) ∧
    ∃ x : (Option LaunchRec × Nat) × State, Learns (checkLaunch launchE.ag (launchE.uni 96) false) demoLaunch x.1 x.2 ∧
      (x.1.2 = 0 ∧ goesOn (writePacket (launchE.uni 96) (launchE.uni 97)) x.2 = true) :=
  ⟨⟨rfl, rfl, rfl, rfl, rfl, rfl, rfl⟩, ⟨rfl, rfl, rfl, rfl, rfl, rfl, rfl⟩, by unfold Scene.works; decide,
    launchE_plain.uni _ (by decide), launchE_plain.readsUni _ (by decide), launchE_plain.readsUni _ (by decide),
    ⟨_, List.mem_singleton.2 rfl, rfl, rfl⟩, learns (fun x => _) (by decide +kernel)⟩

/-- The queue as read, which has room; the places of its next packet and of its write pointer answer. -/
def launchU : State := stateOf (checkLaunch launchE.ag (launchE.uni 96) false) demoLaunch
def launchV : State := stateOf (collect (List.range 8) fun i => coreReadHome (launchE.uni 97 + BitVec.ofNat 64 (8 * i))) launchU

theorem witness_LaunchAndRecords_packet :
    Learns (collect (List.range 8) fun i => coreReadHome (launchE.uni 97 + BitVec.ofNat 64 (8 * i))) launchU
      [0x800, 16, 0, 0, 0, 0, 0, 0] launchV ∧ same demoLaunch launchU ∧
    (uqWrite [0x800, 16, 0, 0, 0, 0, 0, 0] + 2 ^ 64 - uqRead [0x800, 16, 0, 0, 0, 0, 0, 0]) % 2 ^ 64 <
      uqSize [0x800, 16, 0, 0, 0, 0, 0, 0] ∧ (0x800 : Word).toNat % 64 = 0 ∧ (launchE.uni 97).toNat % 64 = 0 ∧
    (launchV.clamps = [] ∧ launchV.migrs = [] ∧ launchV.poison = [] ∧ launchV.monitors = [] ∧ launchV.fwd = []) ∧
    Memory.wf launchV.mem = true ∧
    (∀ i < 8, Reaches launchV launchE (0x800 + BitVec.ofNat 64 (8 * i)) .store ⟨0x800 + 8 * i, openPte, 0, 0, 0x100000⟩) ∧
    Reaches launchV launchE (launchE.uni 97 + 16) .atomic ⟨0x410, openPte, 0, 0, 0x100000⟩ := by
  have h : ∀ i < 8, canonical (0x800 + BitVec.ofNat 64 (8 * i) : Word) = true ∧
      ((launchV.coreAt launchE.core).tlb.find? fun q => q.hits launchE.ctx (0x800 + BitVec.ofNat 64 (8 * i) : Word).toNat
        && !(Acc.store.writes && fld 3 3 q.pte = 1 && fld 7 7 q.pte = 0)) = some ⟨0, 0, 0, 0x100000, openPte, 0⟩ ∧
      launchV.owns 0 (0x800 + 8 * i) = true ∧ launchV.cowHeld 0 (0x800 + BitVec.ofNat 64 (8 * i)) = false ∧
      0x800 + 8 * i = fld 59 16 openPte * 4096 + ((0x800 + BitVec.ofNat 64 (8 * i) : Word).toNat - 0) ∧
      launchV.homeGone ((0x800 + 8 * i) / 128) = none := by decide +kernel
  refine ⟨learnsTo (by decide +kernel), by decide +kernel, by decide, by decide, by decide, by decide +kernel, by decide +kernel,
    fun i hi => ⟨(h i hi).1, (h i hi).2.1, (show permits openPte .store = none by decide), (h i hi).2.2.1,
      fun _ => (show fld 14 14 openPte = 0 by decide), fun _ => (h i hi).2.2.2.1, rfl,
      (h i hi).2.2.2.2.1, (h i hi).2.2.2.2.2⟩,
    ⟨by decide, by decide +kernel, by decide, by decide +kernel, by decide, fun _ => by decide +kernel, by decide, by decide, by decide +kernel⟩⟩

/-- A queue whose 16 packets are all unread. -/
def demoFull : State :=
  { demoG (launchMem ++ [(0x401, 8), (0x408, 16), (0x410, 16)]) none (fun g => g.setSreg 1 0x400) with
    queues := [UQueue.fresh 0 0x400] }

def fullE : Scene := sceneOf demoFull Pfx.neutral

def fullU : State := stateOf (checkLaunch fullE.ag (fullE.uni 96) false) demoFull

theorem witness_LaunchAndRecords_full :
    ∃ x : List Nat × State, Learns (collect (List.range 8) fun i => coreReadHome (fullE.uni 97 + BitVec.ofNat 64 (8 * i)))
      fullU x.1 x.2 ∧ (uqSize x.1 ≤ (uqWrite x.1 + 2 ^ 64 - uqRead x.1) % 2 ^ 64 ∧ same demoFull fullU) :=
  learns (fun x => _) (by decide +kernel)

/-- A record of zeros names no registers. -/
theorem witness_LaunchAndRecords_refused :
    ∃ x : (Option LaunchRec × Nat) × State, Learns (checkLaunch demoE.ag (demoE.uni 96) false) demo x.1 x.2 ∧ x.1.2 = 2 :=
  learns (fun x => _) (by decide +kernel)

/-- A record queue at 0x400, bound to port 0: 32 records of one dword at 0x800, `n` pushed; lane 0 is active. -/
def demoRq (n : List Cell) : State :=
  (demoG ([(0x401, 8), (0x408, 32)] ++ n) none lane0Only).modGrid 0 fun g => { g with lrec := { g.lrec with rq0 := 0x400 } }

def rqE (n : List Cell) : Scene := sceneOf (demoRq n) Pfx.neutral

theorem rqE_plain (n : List Cell) : Plain (rqE n) := ⟨rfl, rfl, rfl⟩

/-- The descriptor as read, and the state after. -/
def rqDesc (n : List Cell) : List Nat := ((answer (readQueue 0x400) (demoRq n)).map (·.1)).getD []
def rqU (n : List Cell) : State := stateOf (readQueue 0x400) (demoRq n)

theorem witness_LaunchAndRecords_queue :
    Issues (demoRq []) {} (rqE []) ∧ Quiet (demoRq []) (rqE []) ∧ (rqE []).works ∧ (rqE []).hasVec 95 ∧ (rqE []).hasVec 1 ∧
    (rqE []).grid.lrec.rq0 = 0x400 ∧ Learns (readQueue 0x400) (demoRq []) (rqDesc []) (rqU []) ∧
    (95 : BitVec 7).toNat + rqWords (rqDesc []) ≤ (rqE []).grid.lrec.vregs ∧ rqConsumer (rqDesc []) = 0 ∧
    rqPushed (rqDesc []) ≤ rqTaken (rqDesc []) ∧ rqClosed (rqDesc []) = false ∧
    Learns (readQueue 0x400) (demoRq [(0x418, 32)]) (rqDesc [(0x418, 32)]) (rqU [(0x418, 32)]) ∧
    rqCap (rqDesc [(0x418, 32)]) - (rqPushed (rqDesc [(0x418, 32)]) -
      (demoRq [(0x418, 32)]).freedMark 0 0x400 (rqTaken (rqDesc [(0x418, 32)]))) < 1 :=
  ⟨⟨rfl, rfl, rfl, rfl, rfl, rfl, rfl⟩, ⟨rfl, rfl, rfl, rfl, rfl, rfl, rfl⟩, by unfold Scene.works; decide,
    (rqE_plain _).vec _ (by decide), (rqE_plain _).vec _ (by decide), rfl, learnsTo (by decide +kernel), by decide +kernel,
    by decide +kernel, by decide +kernel, by decide +kernel, learnsTo (by decide +kernel), by decide +kernel⟩

/-- What Quiet asks of a state, at this core. -/
abbrev CalmAt (s : State) (core : Nat) : Prop :=
  s.clamps = [] ∧ s.migrs = [] ∧ s.poison = [] ∧ s.monitors = [] ∧ s.fwd = [] ∧ (s.coreAt core).wc = []

/-- RQPUSH of lane 0's record. -/
def pushV : State := stateOf (checkedAccess (rqE []).ag (0x400 + 24) 8 .atomic) (rqU [])

theorem witness_LaunchAndRecords_push :
    [0] = lanesOf ((rqE []).path.lanes &&& ~~~ (rqE []).grp.helper) ∧
    [0].length + ((rqU []).fellows 0 0 (rqE []).path).foldl (fun n x => n + (rqU []).pushers x.1 x.2.1 x.2.2.2.lanes) 0 ≤
      rqCap (rqDesc []) - (rqPushed (rqDesc []) - (rqU []).freedMark 0 0x400 (rqTaken (rqDesc []))) ∧
    (∀ i < rqWords (rqDesc []), (rqE []).clear (1 + i) (rqE []).path.lanes) ∧
    Learns (checkedAccess (rqE []).ag (0x400 + 24) 8 .atomic) (rqU []) ⟨0x418, openPte, 0, 0, 0x100000⟩ pushV ∧
    ∃ x : List (Nat × Nat × Tr) × State, Learns (collect ((List.range [0].length).zip [0]) fun (x : Nat × Nat) => do
      let tr ← atLane x.2 (checkedAccess (rqE []).ag (rqAddr (rqDesc []) (rqPushed (rqDesc []) + x.1)) 8 .store)
      pure (x.1, x.2, tr)) pushV x.1 x.2 ∧ (CalmAt x.2 0 ∧ Memory.wf x.2.mem = true ∧ x.2.homeGone (0x418 / 128) = none ∧
        ∀ y ∈ x.1, y.2.2.pa % (8 * rqWords (rqDesc [])) = 0 ∧ x.2.homeGone (y.2.2.pa / 128) = none) :=
  ⟨by decide, by decide +kernel, fun _ _ => (rqE_plain _).clear _ _, learnsTo (by decide +kernel),
    learns (fun x => _) (by decide +kernel)⟩

/-- RQPOP of the one record pushed. -/
def popV : State := stateOf (checkedAccess (rqE [(0x418, 1)]).ag (0x400 + 32) 8 .atomic) (acquired (rqU [(0x418, 1)]) 0 5)

theorem witness_LaunchAndRecords_pop :
    rqTaken (rqDesc [(0x418, 1)]) < rqPushed (rqDesc [(0x418, 1)]) ∧
    [0] = (lanesOf ((rqE [(0x418, 1)]).path.lanes &&& ~~~ (rqE [(0x418, 1)]).grp.helper)).take
      (rqPushed (rqDesc [(0x418, 1)]) - rqTaken (rqDesc [(0x418, 1)])) ∧
    Learns (checkedAccess (rqE [(0x418, 1)]).ag (0x400 + 32) 8 .atomic) (acquired (rqU [(0x418, 1)]) 0 5)
      ⟨0x420, openPte, 0, 0, 0x100000⟩ popV ∧
    ∃ x : List (Nat × List Nat) × State, Learns (collect ((List.range [0].length).zip [0]) fun (x : Nat × Nat) => do
      let tr ← atLane x.2 (checkedAccess (rqE [(0x418, 1)]).ag (rqAddr (rqDesc [(0x418, 1)]) (rqTaken (rqDesc [(0x418, 1)]) + x.1)) 8
        .load)
      let ws ← collect (List.range (rqWords (rqDesc [(0x418, 1)]))) fun i =>
        atLane x.2 (loadHome (rqE [(0x418, 1)]).ag { tr with pa := tr.pa + 8 * i } 8)
      pure (x.2, ws)) popV x.1 x.2 ∧ (CalmAt x.2 0 ∧ Memory.wf x.2.mem = true ∧ x.2.homeGone (0x420 / 128) = none) :=
  ⟨by decide +kernel, by decide +kernel, learnsTo (by decide +kernel), learns (fun x => _) (by decide +kernel)⟩

/-- A block that a coverage unit started. -/
def demoPixel : State :=
  demo.modBlk 0 fun b => { b with pixel := some ⟨0, 0, 0, 0, ⟨0, 0, [], []⟩, List.replicate 32 (0, 0), List.replicate 32 1⟩ }

def pixelE : Scene := sceneOf demoPixel Pfx.neutral

theorem pixelE_plain : Plain pixelE := ⟨rfl, rfl, rfl⟩

/-- No flag at the pixel's place in the tile; the flags of a signalling NaN, enabled to trap. -/
theorem witness_PixelWords_flags :
    ¬ traps pixelE ((lanesOf pixelE.path.lanes).foldl (fun fl l => Nat.lor fl ((pixelE.blk.pixel.getD default).flags 0 l)) 0) ∧
    (let s := (demoTrap.modBlk 0 fun b => { b with pixel := some ⟨0, 0, 0, 0, ⟨0, 0, [0x7F800001, 0x7F800001, 0x7F800001, 0x7F800001,
        0x7F800001, 0x7F800001, 0x7F800001, 0x7F800001, 0x7F800001], List.replicate 8 (0x7F800001, 0x7F800001, 0x7F800001)⟩,
        List.replicate 32 (0, 0), List.replicate 32 1⟩ })
     let e := sceneOf s Pfx.neutral
     ∃ x, e.blk.pixel = some x ∧ ∃ c ∈ [8, 9, 10, 11, 12, 13, 14, 15],
       traps e ((lanesOf e.path.lanes).foldl (fun fl l => Nat.lor fl (x.flags c l)) 0)) := by
  refine ⟨no_trap rfl _, _, rfl, 8, by decide, ?_⟩
  unfold traps
  decide +kernel

theorem witness_PixelWords :
    Issues demoPixel {} pixelE ∧ pixelE.hasVec 94 ∧ (94 : BitVec 7).toNat + 2 ≤ pixelE.grid.lrec.vregs ∧
    pixelE.clear 94 pixelE.path.lanes ∧ isControl pixelE.core = false ∧ pixelE.blk.pixel.isSome = true ∧
    (8 ≤ (15 : BitVec 4).toNat) ∧ Issues demoPixel { mask := true } pixelE ∧ pixelE.readsMask pixelE.pfx.mask ∧ pixelE.reads 1 ∧
    (∀ l f, pixelE.accesses false l = true → pixelE.grp.frags[l]? = some f → f.colour = none) := by
  refine ⟨⟨rfl, rfl, rfl, rfl, rfl, rfl, rfl⟩, pixelE_plain.vec _ (by decide), by decide, pixelE_plain.clear _ _, by decide, by decide,
    by decide, ⟨rfl, rfl, rfl, rfl, rfl, rfl, rfl⟩, pixelE_plain.mask _, pixelE_plain.reads _, fun l f _ h => ?_⟩
  have h' : ∀ x ∈ pixelE.grp.frags, x.colour = none := by decide
  exact h' f (List.mem_of_getElem? h)

/-- A render target at 0: 32 × 32 pixels of one sample, one producer, bins of 64 entries at 0x10000, the pixel kernel's record
at 0x100. -/
def targetMem : List Cell :=
  [(1, 0x20), (9, 0x40), (16, 32), (18, 32), (20, 1), (26, 1), (28, 64), (34, 1), (41, 0x80), (49, 1),
    (0x114, 1), (0x115, 1), (0x116, 96), (0x117, 32), (0x119, 3)]

/-- The target's descriptor; lane 0 alone is active, and its v10 holds the sequence number 2^20. -/
def demoEmit : State :=
  demoG targetMem none fun g => lane0Only (g.setVreg 10 ((g.vreg 10).set 0 0x100000))

def emitE : Scene := sceneOf demoEmit Pfx.neutral

theorem emitE_plain : Plain emitE := ⟨rfl, rfl, rfl⟩

def emitTarget : Target := targetOf [0x2000, 0x4000, 0x0000000100200020, 0x0000004000010000, 0x10000, 0x8000, 0x100, 0]

def emitU : State := stateOf (openTarget 0) demoEmit
def emitV : State := stateOf (coreReadHome (emitTarget.markAt 0)) emitU

theorem witness_Emission_open :
    Issues demoEmit {} emitE ∧ emitE.readsUni 96 ∧ (0 : Nat) = emitE.blk.x ∧ emitE.works ∧
    openTarget (emitE.uni 96) demoEmit = .ok ((0, emitTarget), emitU) ∧ emitU.blocks = demoEmit.blocks ∧
    emitU.cur = demoEmit.cur ∧ 0 < emitTarget.nprod ∧ Learns (coreReadHome (emitTarget.markAt 0)) emitU 0 emitV ∧
    (0 : Nat) ≠ 2 ^ 64 - 1 ∧ Quiet emitV emitE ∧ goesOn (putHomeWord (emitTarget.markAt 0) (2 ^ 64 - 1)) emitV = true :=
  ⟨⟨rfl, rfl, rfl, rfl, rfl, rfl, rfl⟩, emitE_plain.readsUni _ (by decide), rfl, by unfold Scene.works; decide,
    leaves (by decide +kernel), by decide +kernel, by decide +kernel, by decide, learnsTo (by decide +kernel), by decide,
    ⟨by decide +kernel, by decide +kernel, by decide +kernel, by decide +kernel, by decide +kernel, by decide +kernel, rfl⟩,
    by decide +kernel⟩

/-- Lane 0's primitive, all of whose vertices stand at (0, 0). -/
theorem witness_Emission_primitive :
    emitE.hasVec 0 ∧ (0 : BitVec 7).toNat + 5 ≤ emitE.grid.lrec.vregs ∧ emitE.reads 10 ∧
    (∀ i < 5, emitE.clear (0 + i) emitE.path.lanes) ∧ [0] = lanesOf (emitE.path.lanes &&& ~~~ emitE.grp.helper) ∧
    seqOk 0 ([0].map fun l => (laneOf (emitE.operand 10) l).toNat) = true ∧
    ∃ x : Unit × State, Learns (each (emitTarget.owners (emitV.shaderDies emitE.blk.ctx)) fun o =>
      if ([0].filter fun l => (emitTarget.boxOwners (emitV.shaderDies emitE.blk.ctx) (lanePos emitE.grp 0 l)).contains o).length ≠ 0
      then do
        let wc ← coreReadHome (emitTarget.binAt o 0)
        let rc ← coreReadHome (addI (emitTarget.binAt o 0) 8)
        if emitTarget.bincap < wc - rc + ([0].filter fun l =>
          (emitTarget.boxOwners (emitV.shaderDies emitE.blk.ctx) (lanePos emitE.grp 0 l)).contains o).length then wait else pure ()
      else pure ()) emitV x.1 x.2 ∧ (
      (x.2.clamps = [] ∧ x.2.migrs = [] ∧ x.2.poison = [] ∧ x.2.monitors = [] ∧ x.2.fwd = [] ∧ (x.2.coreAt emitE.core).wc = []) ∧
      goesOn (do
        each [0] fun l => each (emitTarget.boxOwners (emitV.shaderDies emitE.blk.ctx) (lanePos emitE.grp 0 l)) fun o =>
          putEntry emitTarget 0 o (laneOf (emitE.operand 10) l).toNat (lanePos emitE.grp 0 l) ((emitE.grp.attrs[l]?).getD zeroAttrs)
        putHomeWord (emitTarget.markAt 0) (laneOf (emitE.operand 10) 0).toNat : M Unit) x.2 = true) :=
  ⟨emitE_plain.vec _ (by decide), by decide, emitE_plain.reads _, fun _ _ => emitE_plain.clear _ _, by decide, by decide,
    learns (fun x => _) (by decide +kernel)⟩

theorem witness_RenderSteps_edge :
    let a : Int × Int := (0, 0)
    let b : Int × Int := (256, 0)
    0 < (b.1 - a.1) * ((256 : Int) - a.2) - (b.2 - a.2) * (0 - a.1) ∧ 0 < (a.1 - b.1) * ((-256 : Int) - b.2) - (a.2 - b.2) * (0 - b.1) := by
  decide

/-- A frame of the target, whose cover `f` changes; memory as given. -/
def demoFrame (m : List Cell) (f : Cover → Cover) : State :=
  let s := demoG (targetMem ++ m) none id
  { s with
    cores := [(0, { tlbCore with leafGrid := some 1 })]
    grids := s.grids ++ [pixelGrid 0 0x100 { launchRec [] with block := 1, cluster := 1, vregs := 96, uregs := 32, mode := 3 }]
    frames := [⟨0, 0, emitTarget, 1, [f (Cover.fresh 0)], false⟩] }

/-- The mark of the producer stands at all ones: it has ended. -/
def endedMark : List Cell := (List.range 8).map fun i => (0x10000 + i, 0xFF)

def oneFrame (f : Cover → Cover) : Frame := ⟨0, 0, emitTarget, 1, [f (Cover.fresh 0)], false⟩

/-- One primitive, of no area, stands in the bin. -/
theorem witness_RenderSteps_take :
    let s := demoFrame (endedMark ++ [(0x10200, 1), (0x10242, 0x10)]) id
    let f := oneFrame id
    s.frame? 0 = some f ∧ f.coverOf 0 = some (Cover.fresh 0) ∧ f.closed = false ∧ s.ctxRuns f.ctx = true ∧
    leastHead [(0x100000, 0, 0)] = some (0x100000, 0, 0) ∧ (∀ m ∈ [2 ^ 64 - 1], 0x100000 ≤ m) ∧
    Learns (binHeads f 0) (atRest s) [(0x100000, 0, 0)] (stateOf (binHeads f 0) (atRest s)) ∧
    Learns (readMarks f 0) (stateOf (binHeads f 0) (atRest s)) [2 ^ 64 - 1]
      (stateOf (readMarks f 0) (stateOf (binHeads f 0) (atRest s))) ∧
    ∃ x : Prim × State, Learns (readPrim f 0 0 0) (stateOf (readMarks f 0) (stateOf (binHeads f 0) (atRest s))) x.1 x.2 ∧
      goesOn (f.write 0 (addI (f.target.binAt 0 0) 8) 8 1) x.2 = true := by
  refine ⟨rfl, rfl, rfl, rfl, by decide, by decide, learnsTo (by decide +kernel), learnsTo (by decide +kernel),
    learns (fun x => _) (by decide +kernel)⟩

/-- A resident tile, and work of one quad on it. -/
def someTile : Tile := ⟨0, 0, [], [], 1⟩
def someWork : TileWork := ⟨⟨0x100000, 0, [], []⟩, 0, 0, [(0, 0, [1, 1, 1, 1])], [], []⟩

theorem witness_RenderSteps_start :
    let g := fun c : Cover => { c with tiles := [someTile], work := [someWork] }
    let s := demoFrame [] g
    (s.frame? 0 = some (oneFrame g) ∧ (oneFrame g).coverOf 0 = some (g (Cover.fresh 0))) ∧
    (s.grid? (oneFrame g).grid).isSome = true ∧
    (g (Cover.fresh 0)).work.findIdx? (fun w => !w.quads.isEmpty) = some 0 ∧ (g (Cover.fresh 0)).work[0]? = some someWork ∧
    dieOf 0 = 0 ∧ (∃ k, s.grid? (oneFrame g).grid = some k ∧ (atRest s).askD (mayStart (oneFrame g).grid k 1 0) false = true) ∧
    ∃ x : Unit × State, ensureTile 0 0 (oneFrame g) someWork.tx someWork.ty (atRest s) = .ok x ∧ x.2.blocks = s.blocks :=
  ⟨⟨rfl, rfl⟩, rfl, by decide, rfl, rfl, ⟨_, rfl, by decide +kernel⟩, answers (fun x => _) (by decide +kernel)⟩

/-- Every buffer holds an idle tile, and the work needs another. -/
theorem witness_RenderSteps_flush :
    let g := fun c : Cover =>
      { c with tiles := (List.range Config.residentTiles).map (fun i => (⟨i + 1, 0, [], [], 20 - i⟩ : Tile)), work := [someWork] }
    Config.residentTiles ≤ ((demoFrame [] g).tilesOn 0).length ∧
    (∃ w ∈ (g (Cover.fresh 0)).work, w.quads ≠ [] ∧ (g (Cover.fresh 0)).resident w.tx w.ty = false) ∧
    (demoFrame [] g).tileVictim 0 = some (0, ⟨16, 0, [], [], 5⟩) ∧ (demoFrame [] g).frame? 0 = some (oneFrame g) ∧
    ∃ x : Unit × State, spillTile (oneFrame g) 0 ⟨16, 0, [], [], 5⟩ (atRest (demoFrame [] g)) = .ok x ∧ x.2.time = 0 :=
  ⟨by decide, ⟨someWork, List.mem_singleton.2 rfl, by decide, by decide⟩, by decide, rfl, answers (fun x => _) (by decide +kernel)⟩

/-- Work whose groups have all ended; then a frame with nothing left. -/
theorem witness_RenderSteps_blend :
    let w : TileWork := { someWork with quads := [] }
    let g := fun c : Cover => { c with tiles := [someTile], work := [w] }
    (g (Cover.fresh 0)).work.findIdx? (fun w => decide (w.ty * (emitTarget.width / 32) + w.tx = 0)) = some 0 ∧
    (g (Cover.fresh 0)).work[0]? = some w ∧ w.quads = [] ∧ w.running = [] ∧ (g (Cover.fresh 0)).resident w.tx w.ty = true ∧
    (∀ x ∈ (g (Cover.fresh 0)).work.eraseIdx 0, x.prim.seq = w.prim.seq → x.prim.producer ≠ w.prim.producer) ∧
    (let two := fun c : Cover => { c with tiles := [someTile], work := [w, w] }
     ∃ x ∈ (two (Cover.fresh 0)).work.eraseIdx 0, x.prim.seq = w.prim.seq ∧ x.prim.producer = w.prim.producer) :=
  ⟨by decide, rfl, rfl, rfl, by decide, by decide, ⟨_, List.mem_singleton.2 rfl, rfl, rfl⟩⟩

theorem witness_RenderSteps_writeback :
    let g := fun c : Cover => { c with tiles := [someTile], touched := [(0, 0)] }
    let s := demoFrame endedMark g
    let f := oneFrame g
    (g (Cover.fresh 0)).work = [] ∧ (g (Cover.fresh 0)).written = false ∧
    Learns (binHeads f 0) (atRest s) [] (stateOf (binHeads f 0) (atRest s)) ∧
    Learns (readMarks f 0) (stateOf (binHeads f 0) (atRest s)) [2 ^ 64 - 1]
      (stateOf (readMarks f 0) (stateOf (binHeads f 0) (atRest s))) ∧
    ∃ x : Unit × State, each (g (Cover.fresh 0)).touched (fun (b : Nat × Nat) => do
        let t ← match (g (Cover.fresh 0)).tiles.find? (fun t => t.is b.1 b.2) with
          | some t => pure t
          | none => loadTile f 0 (g (Cover.fresh 0)) b.1 b.2
        writeTile f 0 t) (stateOf (readMarks f 0) (stateOf (binHeads f 0) (atRest s))) = .ok x ∧ x.2.time = 0 := by
  refine ⟨rfl, rfl, learnsTo (by decide +kernel), learnsTo (by decide +kernel), answers (fun x => _) (by decide +kernel)⟩

end Sys2Proof.Tests
end

