-- ==== Sys2Proof/Tests/WitnessesC.lean ====
section
/-!
SUPPORT. Witnesses, third part: faults, system registers, and the steps that no word encodes.
-/

namespace Sys2Proof.Tests

open Sys2Proof.Machine Sys2Proof.Safety Host

set_option maxRecDepth 100000
set_option Elab.async false

/-! ### Faults, traps and system registers -/

/-- The fault is captured in a context that holds none; one whose context holds one is counted. -/
theorem witness_FaultsAndTraps :
    Issues demo {} demoE ∧ (∀ c ∈ demo.clamps, demo.ownClamp c = false) ∧
    ¬ ((illegal 1).cls = 3 ∧ (illegal 1).cause = 0) ∧ (illegal 1).cls ≠ 12 ∧ (illegal 1).cls ≠ 13 ∧
    ((illegal 1).unit = 0 ∨ 4 < (illegal 1).unit) ∧ demoE.ctx.fault = none ∧ demoE.works ∧ demoE.ctx.tvec = 0 ∧
    ¬ (sceneOf (demoG [] none fun g => { g with helper := BitVec.allOnes 32 }) Pfx.neutral).works ∧
    demoE.path.lanes &&& ~~~ demoE.grp.handler ≠ 0 :=
  ⟨demo_issues _ _, fun c h => (List.not_mem_nil h).elim, by decide, by decide, by decide, by decide, rfl, by unfold Scene.works; decide,
    rfl, by unfold Scene.works; decide, by decide⟩

def demoFaulted : State := demo.modCtx 0 fun c => { c with fault := some (faultRec (illegal 1) demo) }

theorem witness_FaultsAndTraps_counted :
    Issues demoFaulted {} (sceneOf demoFaulted Pfx.neutral) ∧ (sceneOf demoFaulted Pfx.neutral).ctx.fault ≠ none :=
  ⟨⟨rfl, rfl, rfl, rfl, rfl, rfl, rfl⟩, by decide⟩

/-- A handler at 0x100. -/
def demoTvec : State := (demoG [(0x100, 0x01), (0x101, 0x3F), (0x103, 0xF4)] none id).modCtx 0 fun c => { c with tvec := 0x100 }

def tvecE : Scene := sceneOf demoTvec Pfx.neutral

theorem witness_FaultsAndTraps_handler :
    Issues demoTvec {} tvecE ∧ tvecE.works ∧ tvecE.ctx.tvec ≠ 0 ∧ tvecE.grp.handler &&& tvecE.path.lanes = 0 ∧
    ∃ x : Unit × State, checkTarget tvecE.ctx.tvec demoTvec = .ok x ∧ x.2.time = 0 :=
  ⟨⟨rfl, rfl, rfl, rfl, rfl, rfl, rfl⟩, by unfold Scene.works; decide, by decide, by decide, answers (fun x => _) (by decide +kernel)⟩

/-- Every lane in handler mode, to go to address 0. -/
def demoHandler : State := demoG codeMem none fun g => { g with handler := BitVec.allOnes 32 }

def handlerE : Scene := sceneOf demoHandler Pfx.neutral

theorem demo_issues_handler : Issues demoHandler {} handlerE := ⟨rfl, rfl, rfl, rfl, rfl, rfl, rfl⟩

theorem witness_FaultsAndTraps_eret :
    Issues demoHandler {} handlerE ∧ handlerE.path.lanes &&& ~~~ handlerE.grp.handler = 0 ∧
    [((0 : Word), (none : Option Clause))] = places ((lanesOf handlerE.path.lanes).map handlerE.grp.eretTo) ∧
    ∃ u, Fetches demoHandler (distinct (([((0 : Word), (none : Option Clause))].filter fun x => x.2.isNone).map (·.1))) u := by
  refine ⟨demo_issues_handler, by decide, by decide, ?_⟩
  obtain ⟨x, hx, h⟩ := answers (m := each (distinct (([((0 : Word), (none : Option Clause))].filter fun x => x.2.isNone).map (·.1)))
    checkTarget) (s := demoHandler) (fun x => x.2.blocks = demoHandler.blocks ∧ x.2.cur = demoHandler.cur ∧ x.2.mem = demoHandler.mem)
    (by decide +kernel)
  exact ⟨x.2, hx, h⟩

/-- FPCR (0), TVEC (1), EPC (2), CAUSE (3), CTL (11), and the last register of each range. -/
theorem witness_SystemRegisters :
    Issues demo {} demoE ∧ (∀ n ∈ [0, 1, 2, 3, 5, 8, 11, 17, 24, 31, 47], csrAssigned n = true) ∧ csrPerThread 2 = true ∧
    csrPerThread 47 = false ∧ demoE.hasVec 95 ∧ demoE.reads 95 ∧ demoE.hasUni 127 ∧ demoE.readsUni 127 ∧
    csrPrivileged 11 = true ∧ csrReadOnly 31 = true ∧ (csrPrivileged 0 = false ∧ csrReadOnly 0 = false) ∧
    csrWritable 0 (0x1000 : Word).toNat = true ∧ csrWritable 0 (8 : Word).toNat = false ∧ csrWritable 0 (demoE.uni 96).toNat = true :=
  ⟨demo_issues _ _, by decide, by decide, by decide, demo_plainE.vec _ (by decide), demo_plainE.reads _,
    demo_plainE.uni _ (by decide), demo_plainE.readsUni _ (by decide), by decide, by decide, by decide, by decide, by decide, by decide⟩

/-- A number that no register has; lanes outside handler mode. -/
theorem witness_SystemRegisters_illegal : csrAssigned 6 = false ∧ csrAssigned 127 = false ∧ csrAssigned 2 = true ∧
    demoE.path.lanes &&& ~~~ demoE.grp.handler ≠ 0 := by decide

/-- The lanes are in handler mode: EPC can be written. -/
theorem witness_SystemRegisters_epc : Issues demoHandler {} handlerE ∧ handlerE.path.lanes &&& ~~~ handlerE.grp.handler = 0 :=
  ⟨demo_issues_handler, by decide⟩

/-- CTL is `c`, and s1 names one page of 4 KiB. -/
def demoCtl (c : Word) : State := (demoG [] none fun g => g.setSreg 1 0x10000).modCtx 0 fun x => { x with ctl := c }

def ctlE (c : Word) : Scene := sceneOf (demoCtl c) Pfx.neutral

theorem ctlE_issues (c : Word) : Issues (demoCtl c) {} (ctlE c) := ⟨rfl, rfl, rfl, rfl, rfl, rfl, rfl⟩

theorem ctlE_plain (c : Word) : Plain (ctlE c) := ⟨rfl, rfl, rfl⟩

theorem witness_ShootdownsAndSnapshots_tlbinv :
    Issues (demoCtl 0) {} (ctlE 0) ∧ (ctlE 0).ctx.ctl.getLsbD 0 = false ∧ (ctlE 0).ctx.ctl.getLsbD 1 = false ∧
    Issues (demoCtl 3) {} (ctlE 3) ∧ (ctlE 3).readsUni 96 ∧ (ctlE 3).readsUni 97 ∧
    tlbinvOk ((ctlE 3).uni 96).toNat ((ctlE 3).uni 97).toNat = true ∧ (ctlE 3).ctx.ctl.getLsbD 0 = true ∧
    (demoCtl 3).shootBlocked ⟨0, 0, 0, 0x1000⟩ = false ∧
    (∃ x : Unit × State, settleStores (demoCtl 3) = .ok x ∧ x.2.time = 0) ∧
    (∃ x : Unit × State, settleStores (atRest (demoCtl 3)) = .ok x ∧ x.2.time = 0) :=
  ⟨ctlE_issues _, by decide, by decide, ctlE_issues _, (ctlE_plain _).readsUni _ (by decide), (ctlE_plain _).readsUni _ (by decide),
    by decide, by decide, by decide, answers (fun x => _) (by decide +kernel), answers (fun x => _) (by decide +kernel)⟩

/-- A clamp that is held by an MCAS of the context. -/
theorem witness_ShootdownsAndSnapshots_blocked :
    ({ demoCtl 3 with clamps := [⟨0, 0, 0, 1, true⟩] } : State).shootBlocked ⟨0, 0, 0, 2 ^ 64⟩ = true ∧
    (demoCtl 3).ctxAt 0 = some (ctlE 3).ctx ∧ (11 : Nat) < 12 ∧ 1 ≤ 1 ∧ (0 : Word).toNat % pageBytes 11 = 0 := by
  refine ⟨by decide, rfl, by decide, by decide, by decide⟩

/-- An armed set of one source. -/
def demoSnap (f : SnapSet → SnapSet) : State :=
  (demoCtl 2).modCtx 0 fun c => { c with snaps := c.snaps.set 0 (f ⟨some ⟨[.pmc 0], some 0⟩, true, none, 0⟩) }

theorem witness_ShootdownsAndSnapshots_snap :
    Issues (demoSnap id) {} (sceneOf (demoSnap id) Pfx.neutral) ∧ (sceneOf (demoSnap id) Pfx.neutral).ctx.ctl.getLsbD 1 = true ∧
    (sceneOf (demoSnap id) Pfx.neutral).hasUni 100 ∧ (sceneOf (demoSnap id) Pfx.neutral).readsUni 97 ∧
    (∃ x : Option Nat × State, fireTrigger 0 0 (BitVec.ofNat 16 ((sceneOf (demoSnap id) Pfx.neutral).uni 97).toNat) [0, 1, 2, 3]
      (demoSnap id) = .ok x ∧ (x.2.blocks = (demoSnap id).blocks ∧ x.2.cur = (demoSnap id).cur)) ∧
    (demoSnap id).snapAt 0 0 = some ⟨some ⟨[.pmc 0], some 0⟩, true, none, 0⟩ ∧ (demoSnap id).up = true ∧
    (∃ x : Option Nat × State, fireTrigger 0 1 0 [0] (atRest (demoSnap id)) = .ok x ∧ (x.2.snapAt 0 0).isSome = true) :=
  ⟨⟨rfl, rfl, rfl, rfl, rfl, rfl, rfl⟩, by decide, Plain.uni (e := sceneOf (demoSnap id) Pfx.neutral) ⟨rfl, rfl, rfl⟩ _ (by decide),
    Plain.readsUni (e := sceneOf (demoSnap id) Pfx.neutral) ⟨rfl, rfl, rfl⟩ _ (by decide), answers (fun x => _) (by decide +kernel),
    rfl, by decide, answers (fun x => _) (by decide +kernel)⟩

theorem witness_ShootdownsAndSnapshots_latched :
    (demoSnap fun x => { x with armed := false, latched := some ⟨0, 0, 0, 0, [0]⟩ }).snapAt 0 0 =
      some ⟨some ⟨[.pmc 0], some 0⟩, false, some ⟨0, 0, 0, 0, [0]⟩, 0⟩ ∧ (0 : Word).toNat ≤ demo.time.toNat := ⟨rfl, by decide⟩

/-! ### Steps that no word encodes -/

/-- The path is changed by `f`; it stands at a clause of one word, `w`. -/
def demoPath (m : List Cell) (w : Code) (f : Path → Path) : State :=
  demoG m none fun g => { g with paths := g.paths.map fun p => f { p with cl := some (oneWordClause 0 w) } }

def pathOf (w : Code) (f : Path → Path) : Path := ((demoPath [] w f).pathAt 0 0 0).getD default

theorem demoPath_found (m : List Cell) (w : Code) (f : Path → Path) :
    ∃ b g, (demoPath m w f).blkAt 0 = some b ∧ b.groups[0]? = some g ∧ g.paths[0]? = some (pathOf w f) ∧ b.core = some 0 ∧
      b.ended = false ∧ b.ctx = 0 := ⟨_, _, rfl, rfl, rfl, rfl, rfl, rfl⟩

/-- Two groups whose lanes 0 to 3, and 4 to 7, stand at a word in entry 0 of their core's table. -/
def demoPairAt (m : List Cell) (w : Code) (f : Path → Path) : State :=
  (demoPath m w fun p => f { p with lanes := 0xF, entry := some 0 }).modBlk 0 fun b => { b with
    groups := b.groups ++ b.groups.map fun g => { g with paths := g.paths.map fun p => { p with lanes := 0xF0 } } }

/-- Another group stands at the header with it, in entry 0. -/
theorem witness_IssueSteps_fetch :
    let s := demoPairAt codeMem 0 fun p => { p with cl := none, pc := 0 }
    s.mayIssue 0 0 0 = true ∧ s.ctxRuns 0 = true ∧ (s.pathAt 0 0 0).bind (·.wait) = none ∧ (s.pathAt 0 0 0).bind (·.cl) = none ∧
    ((s.grpAt 0 0).getD default).deadHelpers = 0 ∧ (s.pathAt 0 0 0).bind (·.entry) = some 0 ∧
    ∃ x : Clause × State, Learns (fetchClause ⟨some 0, dieOf 0, 0⟩ 0) (s.atHeader 0 0 0) x.1 x.2 ∧ (x.1.words.length = 1 ∧
      (x.2.othersOn 0 0 fun q => q.atHeader && q.cl.isNone && decide (q.entry = some 0 ∧ q.pc = 0)).length = 1) :=
  ⟨by decide, by decide, rfl, rfl, by decide, rfl, learns (fun x => _) (by decide +kernel)⟩

theorem witness_IssueSteps_conditions :
    let c : Clause := { oneWordClause 0 0 with ready := false }
    let s := demoPairAt [] 0 fun p => { p with cl := some c, pc := 0 }
    s.mayIssue 0 0 0 = true ∧ s.ctxRuns 0 = true ∧ (s.pathAt 0 0 0).bind (·.wait) = none ∧ s.chosen 0 0 = some 0 ∧
    s.oldest 0 0 ((s.pathAt 0 0 0).getD default) = true ∧ (s.pathAt 0 0 0).bind (·.cl) = some c ∧ c.ready = false ∧
    ∃ x : Unit × State, clauseConditions c.hdr.toNat (s.atHeader 0 0 0) = .ok x ∧ (x.2.blocks = s.blocks ∧ x.2.cur = ⟨0, 0, 0, 0, none⟩ ∧
      (let t := (x.2.modCtx 0 fun c => c.bump 1 1 (dieOf 0)).modCtx 0 fun c => c.bump 2 1 (dieOf 0)
       (t.othersOn 0 0 fun q => decide (q.headKey = some (0, 0))).length = 1 ∧
       (answer (each (t.othersOn 0 0 fun q => decide (q.headKey = some (0, 0))) beginFellow)
         (t.modGrp 0 0 fun g => g.beginClause 0)).map (·.1) = some ())) :=
  ⟨by decide, by decide, rfl, by decide +kernel, by decide +kernel, rfl, rfl, answers (fun x => _) (by decide +kernel)⟩

/-- Of two entries of a group, that of the larger pc is chosen while the other yields; one alone is chosen though it yields. -/
theorem witness_IssueSteps_choice :
    let two := fun (g : Group) => { g with paths := [{ (pathOf 0 id) with lanes := 0xF, pc := 4, entry := some 0, yieldAt := some 0 },
      { (pathOf 0 id) with lanes := 0xF0, pc := 8, entry := some 1 }] }
    (demoG [] none two).chosen 0 0 = some 1 ∧
    (demoPath [] 0 fun p => { p with entry := some 0, yieldAt := some 0 }).chosen 0 0 = some 0 ∧
    (pathOf 0 fun p => { p with entry := some 0, yieldAt := some 0 }).yields 0 0 = true := by
  decide +kernel

/-- The word of an instruction. -/
def wordOf (i : Instr) : Code := BitVec.ofNat 32 ((encode i).getD 0)

def demoPair (w : Code) : State := demoPairAt [] w id

theorem witness_IssueSteps_set :
    let p := pathOf (wordOf (.iadd 1 2 3 3)) fun p => { p with lanes := 0xF, entry := some 0 }
    let s := { demoPair (wordOf (.iadd 1 2 3 3)) with moves := [.issue 0 0 0] }
    s.pathAt 0 0 0 = some p ∧ (({ s with moves := [] } : State).fellows 0 0 p).map (fun x => (x.1, x.2.1)) = [(0, 1)] ∧
    p.setKey = some (0, 0, 4) ∧ (∃ u, s.issuing 0 0 0 = some u) ∧
    ({ s with moves := [] } : State).othersOn 0 0 (fun q => decide (q.setKey = p.setKey)) ≠ [] := by
  refine ⟨by decide +kernel, by decide +kernel, by decide +kernel, ⟨_, rfl⟩, by decide +kernel⟩

/-- BAR waits; an entry has waited 2048 words; one has yielded 64 cycles ago. -/
theorem witness_IssueSteps_resume :
    let s := demoPath [] (wordOf .bar) fun p => { p with wait := some .bar }
    s.mayIssue 0 0 0 = true ∧ (pathOf (wordOf .bar) fun p => { p with wait := some .bar }).words = some (wordOf .bar, none) ∧
    (pathOf (wordOf .bar) fun p => { p with wait := some .bar }).resumes = true ∧ s.ctxRuns 0 = true ∧
    s.fellows 0 0 (pathOf (wordOf .bar) fun p => { p with wait := some .bar }) = [] ∧
    decodeWord (wordOf .bar).toNat = .ok .bar ∧ (pathOf (wordOf .bar) fun p => { p with wait := some .bar }).waitsFor Wait.isBar = true ∧
    Issues (atWord s 0 0 0 (wordOf .bar) none) {} (sceneOf (atWord s 0 0 0 (wordOf .bar) none) Pfx.neutral) ∧
    Quiet (atWord s 0 0 0 (wordOf .bar) none) (sceneOf (atWord s 0 0 0 (wordOf .bar) none) Pfx.neutral) :=
  ⟨by decide, by decide, by decide, by decide, by decide +kernel, by decide, by decide, ⟨rfl, rfl, rfl, rfl, rfl, rfl, rfl⟩,
    ⟨rfl, rfl, rfl, rfl, rfl, rfl, rfl⟩⟩

theorem witness_IssueSteps_timers :
    (let s := demoPath [] 0 fun p => { p with ctr := 2048, entry := some 0 }
     s.mayIssue 0 0 0 = true ∧ (∃ y, (0, y) ∈ s.choices 0 0) ∧
     s.fairLimit 0 ≤ 2048 ∧ (pathOf 0 fun p => { p with ctr := 2048, entry := some 0 }).fair = none ∧
     ∀ y ∈ s.choices 0 0, s.fairLimit 0 ≤ y.2.ctr) ∧
    (let s := { demoPath [] 0 fun p => { p with yieldAt := some 0 } with time := 40 }
     s.mayIssue 0 0 0 = true ∧ (pathOf 0 fun p => { p with yieldAt := some 0 }).yieldAt = some 0 ∧
     64 ≤ cyclesIn 0 (s.time - 0).toNat) := by
  refine ⟨⟨by decide, ⟨pathOf 0 fun p => { p with ctr := 2048, entry := some 0 }, by decide⟩, by decide, rfl, by decide⟩, by decide, rfl,
    by decide⟩

/-! A wait that polls; its deadline. -/

def polled : CmpWait := ⟨some 5, 7, 0, 0, 0, 0, 0, true, none, 0⟩

def cmpWord : Code := wordOf (.waitcmp 100 96 98 0)

def demoPoll : State := { demoPath [] cmpWord fun p => { p with wait := some (.cmp polled) } with time := 2000 }

theorem witness_WaitSteps_poll :
    (pathOf cmpWord fun p => { p with wait := some (.cmp polled) }).words = some (cmpWord, none) ∧
    (pathOf cmpWord fun p => { p with wait := some (.cmp polled) }).wait = some (.cmp polled) ∧
    (pathOf cmpWord fun p => { p with wait := some (.cmp polled) }).stopped = false ∧ polled.got = none ∧ polled.polling = true ∧
    polled.since.toNat + 2000 ≤ demoPoll.time.toNat ∧
    ∃ x : Nat × State, Learns (loadHome ⟨some 0, dieOf 0, 0⟩ ⟨polled.pa, polled.cl * 256, 0, 0, 0⟩ 8)
      (atWord demoPoll 0 0 0 cmpWord none) x.1 x.2 ∧ x.1 = 0 :=
  ⟨by decide, rfl, rfl, rfl, rfl, by decide, learns (fun x => _) (by decide +kernel)⟩

theorem witness_WaitSteps_deadline :
    polled.deadline = some 5 ∧ 5 ≤ demoPoll.time.toNat ∧ polled.polling = true ∧
    (∃ m ∈ ({ demoPoll with monitors := [⟨0, 0, 0, 0, 0, 0, BitVec.allOnes 32⟩] } : State).monitors,
      m.blk = 0 ∧ m.grp = 0 ∧ m.lanes = (pathOf cmpWord fun p => { p with wait := some (.cmp polled) }).lanes) ∧ decodeWord cmpWord.toNat = .ok (.waitcmp 100 96 98 0) ∧
    Issues (atWord demoPoll 0 0 0 cmpWord none) { op4 := true, mem := true } (sceneOf (atWord demoPoll 0 0 0 cmpWord none) Pfx.neutral) ∧
    (sceneOf (atWord demoPoll 0 0 0 cmpWord none) Pfx.neutral).hasUni 100 ∧
    (sceneOf (atWord demoPoll 0 0 0 cmpWord none) Pfx.neutral).pfx.ord < 2 ∧
    Scoped (atWord demoPoll 0 0 0 cmpWord none) (sceneOf (atWord demoPoll 0 0 0 cmpWord none) Pfx.neutral) :=
  ⟨rfl, by decide, rfl, ⟨_, List.mem_singleton.2 rfl, rfl, rfl, rfl⟩, by decide, ⟨rfl, rfl, rfl, rfl, rfl, rfl, rfl⟩,
    Plain.uni (e := sceneOf (atWord demoPoll 0 0 0 cmpWord none) Pfx.neutral) ⟨rfl, rfl, rfl⟩ _ (by decide), by decide,
    scoped_plain (show (5 : Nat) ≠ 7 by decide) rfl⟩

theorem witness_WaitSteps_swap :
    let s : State := { demoPath [] cmpWord fun p => { p with wait := some (.cmp polled) } with time := 4000 }
    ∃ b, s.blkAt 0 = some b ∧ b.core = some 0 ∧ b.ended = false ∧ b.swapOk = false ∧
      ∃ h ∈ b.groups, ∃ y ∈ h.paths, y.parked = true ∧ y.since.toNat + 4000 ≤ s.time.toNat :=
  ⟨_, rfl, rfl, rfl, rfl, _, List.mem_singleton.2 rfl, _, List.mem_singleton.2 rfl, rfl, by decide⟩

def timeWord : Code := wordOf (.waitt 100 96)

theorem witness_WaitSteps_wake :
    let s := demoPath [] timeWord fun p => { p with wait := some (.time 0) }
    (pathOf timeWord fun p => { p with wait := some (.time 0) }).wait = some (.time 0) ∧ 0 ≤ s.time.toNat ∧
    (pathOf timeWord fun p => { p with wait := some (.time 0) }).words = some (timeWord, none) ∧
    decodeWord timeWord.toNat = .ok (.waitt 100 96) ∧
    Issues (atWord s 0 0 0 timeWord none) {} (sceneOf (atWord s 0 0 0 timeWord none) Pfx.neutral) ∧
    (sceneOf (atWord s 0 0 0 timeWord none) Pfx.neutral).hasUni 100 :=
  ⟨rfl, by decide, by decide, by decide, ⟨rfl, rfl, rfl, rfl, rfl, rfl, rfl⟩, ⟨by decide, by decide⟩⟩

/-- The word compared and swapped stands in line 2. -/
def casWord : Code := wordOf (.mcas 100 96)

def demoCas : State := demoPath casMem casWord id

def casS : State := atWord demoCas 0 0 0 casWord none
def casV : State := stateOf (mcasStart 0) casS

theorem witness_WaitSteps_grant :
    (pathOf casWord id).wait = none ∧ (pathOf casWord id).words = some (casWord, none) ∧
    decodeWord casWord.toNat = .ok (.mcas 100 96) ∧ Issues casS {} (sceneOf casS Pfx.neutral) ∧ (sceneOf casS Pfx.neutral).works ∧
    (sceneOf casS Pfx.neutral).readsUni 96 ∧ (pathOf casWord id).lanes = BitVec.allOnes 32 ∧
    demoCas.turn 0 0 (pathOf casWord id) = true ∧
    ∃ x : McasSt × State, mcasStart ((sceneOf casS Pfx.neutral).uni 96) casS = .ok x ∧
      (x.2.blocks = demoCas.blocks ∧ x.2.cur = ⟨0, 0, 0, casWord, none⟩ ∧ x.1.obs = none ∧
       (mcasLines x.1.entries).find? (fun l => !x.2.hasClamp l) = some 2 ∧
       (∀ c ∈ x.2.clamps, c.line = 2 → x.2.ownClamp c = false) ∧
       (let y := x.2.modPath 0 0 0 fun p => { p with wait := some (.mcas x.1) }
        answer (grantable 2) y = some (.granted, y) ∧
        ({ (y.modDie (dieOf 0) fun k => k.dropReplica 2).toDevice 2 with
          clamps := y.clamps ++ [⟨2, 0, 0, BitVec.allOnes 32, true⟩] } : State).clampsEnd = true ∧
        ({ y with clamps := y.clamps ++ [⟨2, 0, 0, BitVec.allOnes 32, false⟩] } : State).clampsEnd = true)) :=
  ⟨rfl, by decide, by decide, ⟨rfl, rfl, rfl, rfl, rfl, rfl, rfl⟩, by unfold Scene.works; decide,
    Plain.readsUni (e := sceneOf casS Pfx.neutral) ⟨rfl, rfl, rfl⟩ _ (by decide), by decide, by decide,
    answers (fun x => _) (by decide +kernel)⟩

/-- The line is another's; it moves; it is free. -/
theorem witness_WaitSteps_answers :
    (let x : State := { casV with clamps := [⟨2, 1, 0, 1, true⟩] }
     x.clampFree 2 = false ∧ x.homeGone 2 = none ∧ answer (grantable 2) x = some (.waits, x)) ∧
    (let x : State := { casV with migrs := [⟨2, 8, false⟩] }
     x.clampFree 2 = true ∧ x.bufferFree 2 = true ∧ x.homeGone 2 = none ∧ x.migrating 2 = true ∧
       answer (grantable 2) x = some (.moving, x)) ∧
    (casV.clampFree 2 = true ∧ casV.bufferFree 2 = true ∧ casV.homeGone 2 = none ∧ casV.migrating 2 = false ∧
       casV.poisonIn (128 * 2) 128 = none) := by decide +kernel

/-! ### The leaf scan of a tree whose root table is empty of leaves -/

/-- A tree record at 0: its root table at 0x1000 holds zeros, which name upper node 0, at 0x20000, which names nothing. -/
def scanMem : List Cell := [(1, 0x10), (10, 2), (17, 0x80), (18, 2), (24, 1), (28, 1)]

/-- The leaf of a page of CL 2, which no slice takes. -/
def scanPte : Nat := 0x40000000000002DD

def demoScan (m : List Cell) : State :=
  ({ demoG m none id with
    dies := (List.range 4).map fun d => (d, { tlbDie with tlb := [⟨0, 0, 0, 0x100000, scanPte, 0⟩] }) } : State).modGrid 0
      fun g => { g with scanned := false, lrec := { g.lrec with mode := 1 } }

/-- The record as read. -/
def scanRec : List Nat := [0x1000, 0x20000, 0x28000, 2 ^ 32 + 1] ++ List.replicate 28 0

/-- A read of the scan inside page 0 answers the bytes there and moves nothing. -/
theorem scan_reads (m : List Cell) (va : Word) (n : Nat) (h : va.toNat < 0x100000) :
    scanRead 0 va n (atRest (demoScan m)) = .ok (getBytes m va.toNat n, atRest (demoScan m)) := by
  have hc : canonical va = true := by
    have : va.toNat / 2 ^ 56 = 0 := by omega
    simp only [Nat.reducePow] at this
    simp [canonical, fld, this]
  have hleaf : findLeaf (schedAg 0) va .walkRead (atRest (demoScan m)) = .ok (⟨0, 0, 0, 0x100000, scanPte, 0⟩, atRest (demoScan m)) := by
    have hh : (⟨0, 0, 0, 0x100000, scanPte, 0⟩ : TlbEntry).hits demoE.ctx va.toNat = true := by
      show (decide (0 = 0 ∧ 0 = 0) && decide (0 ≤ va.toNat ∧ va.toNat < 0 + 0x100000)) = true
      simp [h]
    have h1 : (atRest (demoScan m)).ctxAt 0 = some demoE.ctx := rfl
    have h2 : ((atRest (demoScan m)).dieAt 0).tlb = [⟨0, 0, 0, 0x100000, scanPte, 0⟩] := rfl
    unfold findLeaf
    simp only [M.bind_apply, M.get_apply, M.after_ok, schedAg, engAg, h1, h2, Option.bind_none]
    rw [List.find?_cons_of_pos (by rw [hh]; rfl)]
    rfl
  have hperm : permits scanPte .walkRead = none := by decide
  have hown : (atRest (demoScan m)).owns 0 (fld 59 16 scanPte * 4096 + (va.toNat - 0)) = true := by
    have h0 : va.toNat / 2 ^ 54 = 0 := by omega
    have h1 : va.toNat / 2 ^ 39 = 0 := by omega
    have h2 : va.toNat / 2 ^ 30 = 0 := by omega
    have h3 : fld 59 16 scanPte * 4096 + (va.toNat - 0) = va.toNat := by
      have : fld 59 16 scanPte = 0 := by decide
      omega
    simp only [Nat.reducePow] at h0 h1 h2
    rw [h3]
    show Part.owns ⟨true, [1, 0, 0, 0], BitVec.allOnes 128, [], [0]⟩ va.toNat = true
    simp [Part.owns, regionOf, fld, h0, h1, h2]
  have hpa : fld 59 16 scanPte * 4096 + (va.toNat - 0) = va.toNat := by
    have : fld 59 16 scanPte = 0 := by decide
    omega
  have htr : translate (schedAg 0) va .walkRead (atRest (demoScan m)) =
      .ok (⟨va.toNat, scanPte, 0, 0, 0x100000⟩, atRest (demoScan m)) := by
    unfold Machine.translate atAddr onFlt
    simp only [hc, Bool.not_true, Bool.false_eq_true, if_false, M.bind_apply, hleaf, M.after_ok, hperm, M.get_apply]
    rw [show (schedAg 0).ctx = 0 from rfl, hown]
    simp only [Bool.not_true, Bool.false_eq_true, if_false, hpa]
    rfl
  have hdie : (atRest (demoScan m)).lineDie (va.toNat / 128) = 0 := by
    have h0 : (128 * (va.toNat / 128)) / 2 ^ 54 = 0 := by omega
    have h1 : (128 * (va.toNat / 128)) / 2 ^ 37 = 0 := by omega
    have h2 : (128 * (va.toNat / 128)) / 2 ^ 30 = 0 := by omega
    simp only [Nat.reducePow] at h0 h1 h2
    unfold State.lineDie State.storageDie
    have : (atRest (demoScan m)).spread = 0 := rfl
    simp [regionOf, fld, h0, h1, h2, this]
  have hres : (atRest (demoScan m)).resolve (va.toNat / 128) = va.toNat / 128 := rfl
  have hhome : (atRest (demoScan m)).homeGone (va.toNat / 128) = none := by
    have h4 : ((atRest (demoScan m)).dieAt 0).l2Reset = false := rfl
    have h0 : (128 * (va.toNat / 128)) / 2 ^ 54 = 0 := by omega
    simp only [Nat.reducePow] at h0
    simp [State.homeGone, hdie, h4, regionOf, fld, h0]
  have hat : atHome (va.toNat / 128) false (atRest (demoScan m)) = .ok (va.toNat / 128, atRest (demoScan m)) := by
    unfold atHome
    simp only [M.bind_apply, M.get_apply, M.after_ok, hres, hhome]
    rfl
  have hslot : (atRest (demoScan m)).slices (va.toNat / 128) scanPte (lineOf (atRest (demoScan m)).mem (va.toNat / 128)) false =
      some (atRest (demoScan m)) := by
    have hcl : ¬ (atRest (demoScan m)).effCl (128 * (va.toNat / 128)) scanPte < 2 := by
      unfold State.effCl
      split
      · decide
      · decide
    dsimp only [State.slices]
    have h2 : (atRest (demoScan m)).l2 = [] := rfl
    rw [h2, List.find?_nil]
    simp only [if_neg hcl]
  have hall : allocate (va.toNat / 128) scanPte (atRest (demoScan m)) = .ok ((), atRest (demoScan m)) := by
    unfold allocate
    simp only [M.bind_apply, M.get_apply, M.after_ok, hslot]
    rfl
  unfold scanRead readVa engineRead atAddr onFlt
  simp only [M.bind_apply, htr, M.after_ok, hat, M.get_apply]
  have hp : (atRest (demoScan m)).poisonIn (128 * (va.toNat / 128) + va.toNat % 128) n = none := by
    unfold State.poisonIn
    rfl
  have hs : 128 * (va.toNat / 128) + va.toNat % 128 = va.toNat := Nat.div_add_mod va.toNat 128
  rw [hs] at hp ⊢
  have hmod : (modify fun s : State => s.remote (schedAg 0).ctx (schedAg 0).die (va.toNat / 128) n scanPte : M Unit)
      (atRest (demoScan m)) = .ok ((), atRest (demoScan m)) := by
    show Except.ok ((), (atRest (demoScan m)).remote (schedAg 0).ctx (schedAg 0).die (va.toNat / 128) n scanPte) = _
    unfold State.remote
    rw [if_pos (show _ = (schedAg 0).die from hdie)]
  simp only [hp, M.bind_apply, hall, M.after_ok, hmod]
  rfl

theorem scan_zero (a n : Nat) (h : 0x1000 ≤ a) : getBytes scanMem a n = 0 := by
  induction n generalizing a with
  | zero => rfl
  | succ k ih =>
    have hb : getByte scanMem a = unlisted := by
      have h1 : ∀ c : Nat, c < 0x1000 → ¬ c = a := fun c hc => by omega
      simp only [scanMem, getByte]
      rw [if_neg (h1 1 (by decide)), if_neg (h1 10 (by decide)), if_neg (h1 17 (by decide)), if_neg (h1 18 (by decide)),
        if_neg (h1 24 (by decide)), if_neg (h1 28 (by decide))]
    rw [getBytes, hb, ih (a + 1) (by omega)]
    rfl

theorem scan_upper : (answer (scanUpper 0 scanRec 0) (atRest (demoScan scanMem))) = some ([], atRest (demoScan scanMem)) := by
  decide +kernel

/-- Each of the 4096 slots leads to the node that names nothing. -/
theorem scan_slot (slot : Nat) (h : slot < 4096) :
    scanRoot 0 scanRec slot (atRest (demoScan scanMem)) = .ok ([], atRest (demoScan scanMem)) := by
  have he : (addI (treeRoot scanRec) (16 * slot : Nat)).toNat = 0x1000 + 16 * slot := by
    have : treeRoot scanRec = BitVec.ofNat 64 0x1000 := by decide
    rw [this, addI]
    simp only [BitVec.toNat_add, BitVec.ofInt_natCast, BitVec.toNat_ofNat]
    omega
  have he8 : (addI (treeRoot scanRec) (16 * slot : Nat) + BitVec.ofNat 64 8).toNat = 0x1000 + 16 * slot + 8 := by
    simp only [BitVec.toNat_add, he, BitVec.toNat_ofNat]
    omega
  unfold scanRoot
  generalize hx : addI (treeRoot scanRec) (16 * slot : Nat) = x at he he8
  rw [M.bind_ok (scan_reads scanMem x 8 (by omega)), scan_zero _ 8 (by omega), if_neg (by decide),
    M.bind_ok (scan_reads scanMem (x + 8) 4 (show (x + BitVec.ofNat 64 8).toNat < _ by omega)),
    scan_zero (x + 8).toNat 4 (show 0x1000 ≤ (x + BitVec.ofNat 64 8).toNat by omega), if_neg (by decide)]
  exact answer_ok scan_upper

theorem collect_empty (l : List Nat) (h : ∀ x ∈ l, x < 4096) :
    ∃ r : List (List (Word × Word)), collect l (scanRoot 0 scanRec) (atRest (demoScan scanMem)) = .ok (r, atRest (demoScan scanMem)) ∧
      r.flatten = [] := by
  induction l with
  | nil => exact ⟨[], rfl, rfl⟩
  | cons x l ih =>
    obtain ⟨r, hr, hf⟩ := ih fun y hy => h y (List.mem_cons_of_mem _ hy)
    refine ⟨[] :: r, ?_, by simpa using hf⟩
    unfold collect
    simp only [M.bind_apply, scan_slot x (h x (List.mem_cons_self ..)), M.after_ok, hr, M.pure_apply]

theorem scan_rec : (answer (collect (List.range 32) fun i => scanRead 0 (addI 0 (8 * i : Nat)) 8) (atRest (demoScan scanMem))) =
    some (scanRec, atRest (demoScan scanMem)) := by
  decide +kernel

/-- The scan of that tree finds no leaf. -/
theorem scan_all : scanTree 0 0 (atRest (demoScan scanMem)) = .ok ([], atRest (demoScan scanMem)) := by
  have hk : treeOk scanRec = true := by decide
  have h0 : decide ((0 : Word).toNat % 256 = 0) = true := by decide
  unfold scanTree
  have hl : ∀ x ∈ List.range 4096, x < 4096 := fun x hx => List.mem_range.1 hx
  generalize List.range 4096 = l at hl
  obtain ⟨r, hr, hf⟩ := collect_empty l hl
  have hm := answer_ok scan_rec
  generalize List.range 32 = k at hm
  generalize atRest (demoScan scanMem) = s at hr hm
  rw [M.bind_ok (by rw [h0]; exact M.check_true _ _), M.bind_ok hm, M.bind_ok (by rw [hk]; exact M.check_true _ _), M.bind_ok hr,
    M.pure_apply, hf]

/-! ### Steps of memory -/

/-- A store of the group, in the buffer of core 0, where everything answers. -/
def demoWc : State := { demoAll with cores := [(0, { tlbCore with wc := [⟨0, 7, 1, openPte, [(0, 0)], 0, 0⟩] })], time := 200 }

theorem demoWc_still : Still demoWc := ⟨rfl, rfl, rfl, rfl, rfl, fun l => allPeers_homes _ rfl (by decide) rfl l⟩

theorem witness_MemorySteps_drain :
    MemOk demo ∧ (({ demoDirty with time := 200 } : State).coreAt 0).wc[0]? = some ⟨0, 7, 1, openPte, [(0, 0)], 0, 0⟩ ∧
    256 ≤ cyclesIn 0 ((200 : Word) - 0).toNat ∧
    (∃ x : Unit × State, drainEntry 0 ⟨0, 7, 1, openPte, [(0, 0)], 0, 0⟩ (atRest { demoDirty with time := 200 }) = .ok x ∧ x.2.time = 200) ∧
    (demoWc.coreAt 0).wc[0]? = some ⟨0, 7, 1, openPte, [(0, 0)], 0, 0⟩ ∧
    Still demoWc ∧ demoWc.lineDie 0 = dieOf 0 :=
  ⟨memOk_nil _ _, rfl, by decide, answers (fun x => _) (by decide +kernel), rfl, demoWc_still, by decide⟩

/-- A store on its way to line 0, which has not moved, or which has been forwarded to line 8. -/
def someFwd : Fwd := ⟨0, 7, 1, openPte, [(0, 0)], 128, 0⟩

theorem witness_MemorySteps_forward :
    (let s : State := { demo with fwd := [someFwd] }
     s.fwd[0]? = some someFwd ∧ s.firstOfLine 0 someFwd = true ∧ 0 = s.resolve someFwd.line ∧ s.clamps = [] ∧ s.homeGone 0 = none ∧
     s.moving someFwd.line = false ∧ answer (roomFor 0 someFwd.data someFwd.mask someFwd.pte) s = some ((), s)) ∧
    (let s : State := { demo with fwd := [someFwd], migrs := [⟨0, 8, true⟩] }
     s.fwd[0]? = some someFwd ∧ s.firstOfLine 0 someFwd = true ∧ 8 = s.resolve someFwd.line ∧ s.clamps = [] ∧ s.homeGone 8 = none ∧
     s.moving someFwd.line = false ∧ answer (roomFor 8 someFwd.data someFwd.mask someFwd.pte) s = some ((), s)) := by
  decide +kernel

/-- Two lines of one set of one die's slices, whatever function the sets are (log 20). -/
theorem two_lines : ∃ a b : Nat, a ≠ b ∧ a < 73729 ∧ b < 73729 ∧ sameSet a b = true := by
  have hs : ∀ n : Nat, n % 48 < 48 := fun n => Nat.mod_lt _ (by decide)
  obtain ⟨a, b, hab, h⟩ := Fintype.exists_ne_map_eq_of_card_lt
    (fun i : Fin 73729 => ((⟨sliceOf (128 * i.1), hs _⟩, ⟨Config.l2Set i.1 % Config.l2Sets, Nat.mod_lt _ (by decide)⟩) :
      Fin 48 × Fin 1536)) (by simp)
  refine ⟨a.1, b.1, fun e => hab (Fin.ext e), a.2, b.2, ?_⟩
  have h1 := congrArg (fun x => x.1.1) h
  have h2 := congrArg (fun x => x.2.1) h
  dsimp only at h1 h2
  unfold sameSet
  rw [h1, h2]
  simp

/-- Line `a` fills its set and is clamped; a store to line `b` is on its way. -/
def fullSet (a : Nat) (l : List Fwd) : State :=
  { demo with l2 := List.replicate 17 ⟨a, false, .whole, false, 0, 0⟩, clamps := [⟨a, 1, 0, 1, true⟩], fwd := l }

theorem full_region (a : Nat) (h : a < 73729) : regionOf (128 * a) = 0 ∧ fld 38 37 (128 * a) = 0 := by
  unfold regionOf fld
  rw [Nat.div_eq_of_lt (by omega), Nat.div_eq_of_lt (by omega)]
  exact ⟨rfl, rfl⟩

theorem full_die (s : State) (a : Nat) (h : a < 73729) (hs : s.spread = 0) : s.lineDie a = 0 := by
  unfold State.lineDie State.storageDie
  rw [if_pos (full_region a h).1, hs, if_neg (by simp)]
  exact (full_region a h).2

theorem full_room {a b : Nat} (s : State) (l : List Fwd) (hs : s = fullSet a l) (hab : a ≠ b) (ha : a < 73729) (hb : b < 73729)
    (hset : sameSet a b = true) (now : Nat) :
    s.slices b openPte now true = none := by
  have hl2 : s.l2 = List.replicate 17 ⟨a, false, .whole, false, 0, 0⟩ := by rw [hs]; rfl
  have hsp : s.spread = 0 := by rw [hs]; rfl
  have hcl : s.clamps = [⟨a, 1, 0, 1, true⟩] := by rw [hs]; rfl
  have hrep : (s.dieAt 0).replicas = [] := by rw [hs]; rfl
  have hda := full_die s a ha hsp
  have hdb := full_die s b hb hsp
  unfold State.slices
  have hfind : s.l2.find? (fun h => decide (h.line = b)) = none := by
    rw [hl2, List.find?_eq_none]
    intro x hx
    rw [List.eq_of_mem_replicate hx]
    simpa using hab
  have hcl2 : s.effCl (128 * b) openPte < 2 := by
    unfold State.effCl
    rw [if_neg (by rw [(full_region b hb).1]; simp)]
    decide
  have hpin : s.pinned ⟨false, a, 2, 0, 0⟩ = true := by
    unfold State.pinned
    rw [hcl]
    simp
  have htags : s.tagsIn 0 b = List.replicate 17 ⟨false, a, 2, 0, 0⟩ := by
    unfold State.tagsIn
    rw [hl2, hrep]
    have : List.filter (fun h => decide (s.lineDie h.line = 0) && sameSet h.line b)
        (List.replicate 17 (⟨a, false, .whole, false, 0, 0⟩ : HomeLine)) = List.replicate 17 ⟨a, false, .whole, false, 0, 0⟩ := by
      rw [List.filter_eq_self]
      intro x hx
      rw [List.eq_of_mem_replicate hx]
      simp [hda, hset]
    rw [this]
    rfl
  have hroom : ∀ h : HomeLine, h.line = b → s.roomAt 0 h.tag = none := by
    intro h hline
    unfold State.roomAt
    rw [if_neg (by rw [hl2, hrep]; exact (show ¬ (17 + 0 < 16) by decide))]
    have ht : h.tag.line = b := hline
    have hr : h.tag.rep = false := rfl
    rw [ht, htags, hr]
    have : List.filter (fun x : Tag => x.rep != false || x.line != b) (List.replicate 17 ⟨false, a, 2, 0, 0⟩) =
        List.replicate 17 ⟨false, a, 2, 0, 0⟩ := by
      rw [List.filter_eq_self]
      intro x hx
      rw [List.eq_of_mem_replicate hx]
      simpa using hab
    rw [this]
    unfold State.makeRoom
    have hfit : setFits (h.tag :: List.replicate 17 (⟨false, a, 2, 0, 0⟩ : Tag)) = false := by
      unfold setFits
      have : ¬ (List.foldl (fun n (t : Tag) => n + t.halves) 0 (h.tag :: List.replicate 17 ⟨false, a, 2, 0, 0⟩) ≤
          2 * Config.l2Slots) := by
        show ¬ (0 + h.tag.halves + 2 + 2 + 2 + 2 + 2 + 2 + 2 + 2 + 2 + 2 + 2 + 2 + 2 + 2 + 2 + 2 + 2 ≤ 32)
        omega
      rw [decide_eq_false this]
      exact Bool.and_false _
    dsimp only
    rw [hfit]
    have hv : s.victim (List.replicate 17 ⟨false, a, 2, 0, 0⟩) = none := by
      unfold State.victim
      have : List.filter (fun t => !s.pinned t) (List.replicate 17 (⟨false, a, 2, 0, 0⟩ : Tag)) = [] := by
        rw [List.filter_eq_nil_iff]
        intro x hx
        rw [List.eq_of_mem_replicate hx, hpin]
        simp
      rw [this]
    rw [hv]
    rfl
  rw [hfind]
  show (if _ then s.enter (HomeLine.written now openPte (newLine b openPte now)) else some s) = none
  rw [if_pos hcl2]
  unfold State.enter
  rw [show (HomeLine.written now openPte (newLine b openPte now)).line = b from rfl, hdb, hroom _ rfl]
  rfl

/-- The write of a store, and with it the grant of a clamp on its line, waits for room. -/
theorem witness_MemorySteps_room : ∃ (s : State) (f : Fwd), s.fwd[0]? = some f ∧ s.firstOfLine 0 f = true ∧ f.line = s.resolve f.line ∧
    s.homeGone f.line = none ∧ s.moving f.line = false ∧ roomFor f.line f.data f.mask f.pte s = .error .hold ∧
    flushFwd (fun g => decide (g.die = dieOf 0) && decide (g.line = f.line)) s = .error .hold ∧
    grantable f.line s = .ok (.granted, s) := by
  obtain ⟨a, b, hab, ha, hb, hset⟩ := two_lines
  have hroom : ∀ l : List Fwd, roomFor b 7 1 openPte (fullSet a l) = .error .hold := by
    intro l
    unfold roomFor
    simp only [M.bind_apply, M.get_apply, M.after_ok]
    rw [full_room _ l rfl hab ha hb hset]
    rfl
  have hg : ∀ l : List Fwd, (fullSet a l).homeGone b = none := by
    intro l
    unfold State.homeGone
    rw [if_neg (by rw [(full_region b hb).1]; simp)]
    rw [full_die _ b hb rfl]
    rfl
  have hp : performStore ⟨b, 7, 1, openPte, [(0, 0)], 0, 0⟩ (fullSet a []) = .error .hold := by
    have hh : atHome b true (fullSet a []) = .ok (b, fullSet a []) := by
      unfold atHome
      simp only [M.bind_apply, M.get_apply, M.after_ok]
      rw [show (fullSet a []).resolve b = b from rfl, hg]
      have hc : (fullSet a []).clamped b = false := by
        unfold State.clamped
        rw [List.any_eq_false]
        intro x hx
        rw [List.mem_singleton.1 hx]
        simp [hab]
      simp only [hc]
      rfl
    have hx : (fullSet a []).crossed ⟨b, 7, 1, openPte, [(0, 0)], 0, 0⟩ b = fullSet a [] := by
      show (fullSet a []).remote 0 (dieOf 0) b _ _ = _
      unfold State.remote
      rw [if_pos (show _ = dieOf 0 from full_die _ b hb rfl)]
    unfold performStore
    simp only [M.bind_apply, M.get_apply, M.after_ok]
    rw [show (fullSet a []).resolve b = b from rfl, hg]
    dsimp only
    rw [M.bind_ok hh, M.bind_ok (show (modify fun s : State => s.crossed ⟨b, 7, 1, openPte, [(0, 0)], 0, 0⟩ b : M Unit) (fullSet a []) =
      .ok ((), fullSet a []) from congrArg (fun t => Except.ok ((), t)) hx)]
    unfold writeStores
    rw [M.bind_apply, hroom]
    rfl
  refine ⟨fullSet a [⟨b, 7, 1, openPte, [(0, 0)], 0, 0⟩], ⟨b, 7, 1, openPte, [(0, 0)], 0, 0⟩, rfl, by rfl, rfl, hg _, rfl, hroom _, ?_, ?_⟩
  · unfold flushFwd
    simp only [M.bind_apply, M.get_apply, M.after_ok]
    have : dueOf (fun g : Fwd => decide (g.die = dieOf 0) && decide (g.line = b)) [⟨b, 7, 1, openPte, [(0, 0)], 0, 0⟩] =
        ([⟨b, 7, 1, openPte, [(0, 0)], 0, 0⟩], []) := by
      unfold dueOf
      simp [Fwd.die, dueOf]
    rw [show (fullSet a [⟨b, 7, 1, openPte, [(0, 0)], 0, 0⟩]).fwd = [⟨b, 7, 1, openPte, [(0, 0)], 0, 0⟩] from rfl, this]
    show each [_] performStore (fullSet a []) = _
    unfold each
    rw [M.bind_apply, hp]
    rfl
  · have hc : (fullSet a [⟨b, 7, 1, openPte, [(0, 0)], 0, 0⟩]).clampFree b = true := by
      unfold State.clampFree
      show (!(List.takeWhile _ (List.filter _ [(⟨a, 1, 0, 1, true⟩ : Clamp)])).any _) = true
      rw [List.filter_cons_of_neg (by simpa using hab)]
      rfl
    have hbf : (fullSet a [⟨b, 7, 1, openPte, [(0, 0)], 0, 0⟩]).bufferFree b = true := by
      unfold State.bufferFree
      rw [decide_eq_true]
      exact Nat.lt_of_le_of_lt (List.length_filter_le _ _) (show 1 < 16 by decide)
    unfold grantable
    simp only [M.bind_apply, M.get_apply, M.after_ok]
    rw [hg, hc, hbf]
    rfl

/-- A line held whole that could be held as a zero line; a snoop of line 0. -/
theorem witness_MemorySteps_home :
    (let s : State := { demo with l2 := [⟨0, true, .whole, false, 0, 0⟩] }
     s.l2.find? (fun h => decide (h.line = 0)) = some ⟨0, true, .whole, false, 0, 0⟩ ∧ Enc.whole ≠ encode65 (lineOf s.mem 0) ∧
     (s.dieAt (s.lineDie 0)).l2Reset = false) ∧
    setFits (({ demo with l2 := [⟨0, true, .zero, false, 0, 0⟩] } : State).tagsIn 0 0) = true ∧
    (localLine 0 = true ∨ (demo.objOf 0).isSome = true) ∧ (∀ c ∈ demo.clamps, c.granted = true → demo.snooped 0 c.line = false) ∧
    (demo.dieAt (demo.lineDie 0)).l2Reset = false := by
  refine ⟨by decide +kernel, ?_, .inl (by decide), fun c h => (List.not_mem_nil h).elim, by decide⟩
  have : ∀ b : Bool, setFits ((([⟨0, true, .zero, false, 0, 0⟩] : List HomeLine).filter fun _ => b).map HomeLine.tag ++ []) = true := by
    decide
  exact this (decide (demo.lineDie 0 = 0) && sameSet 0 0)

theorem witness_MigrationAndResets_lines :
    localLine 0 = true ∧ localLine 8 = true ∧ (0 : Nat) ≠ 8 ∧ (demo.dieAt (demo.lineDie 0)).l2Reset = false ∧
    (demo.dieAt (demo.lineDie 8)).l2Reset = false ∧ demo.migrs.find? (fun m => decide (m.old = 0)) = none ∧
    (∀ c ∈ demo.clamps, c.line = 0 → c.granted = false) ∧ (∀ m ∈ demo.migrs, m.old ≠ 8 ∧ m.new ≠ 8 ∧ m.new ≠ 0) ∧
    ({ demo with migrs := [⟨0, 8, false⟩] } : State).migrs.find? (fun m => decide (m.old = 0)) = some ⟨0, 8, false⟩ ∧ MemOk demo ∧
    ((atRest { demo with migrs := [⟨0, 8, false⟩] }).rehome 0 8).isSome = true ∧ demo.up = true :=
  ⟨by decide, by decide, by decide, by decide, by decide, rfl, fun c h => (List.not_mem_nil h).elim,
    fun c h => (List.not_mem_nil h).elim, by decide, memOk_nil _ _, by decide, by decide⟩

/-- Tables at 0, 0x2000, 0x4000, 0x6000 and 0x8000 map page 0xA000 at virtual address 0. -/
def tables : List Cell :=
  [(0, 3), (2, 2), (0x2000, 3), (0x2002, 4), (0x4000, 3), (0x4002, 6), (0x6000, 3), (0x6002, 8), (0x8000, 0xDD), (0x8002, 0xA)]

/-- Every line of that page has been forwarded to the page at 0xC000. -/
def demoMoved : State :=
  { demoG tables none id with migrs := (List.range 32).map fun i => ⟨0xA000 / 128 + i, 0xC000 / 128 + i, true⟩ }

theorem witness_MigrationAndResets_finish :
    demoMoved.ctxAt 0 = some demoE.ctx ∧ canonical 0 = true ∧
    (∃ x : (Nat × Nat × Nat × List (Nat × Nat)) × State,
      walkFrom 0 .load 4 (fld 55 12 demoE.ctx.tbr.toNat * 4096) [] (atRest demoMoved) = .ok x ∧
      (x.1.1 = 0x8000 ∧ x.1.2.1 = 0xA00DD ∧
       (answer (do
         settleStores
         each [(0x8000, 0xA00DD, 0)] (fun x => do
           let e ← homeDword x.1
           putDword x.1 (framedPte e (fld 59 16 e * 4096 - 0xA000 + 0xC000)))
         modify fun s => { s with objs := s.objs.map (CohObj.follow 0xA000 0xC000 4096) }
         finishShoot ⟨0, 0, 0, 4096⟩ true) x.2).map (·.1) = some true)) ∧
    pageBytes (fld 63 60 0xA00DD) = 4096 ∧ fld 59 16 0xA00DD * 4096 = 0xA000 ∧ 0xC000 % 4096 = 0 :=
  ⟨rfl, by decide, answers (fun x => _) (by decide +kernel), by decide, by decide, by decide⟩

theorem witness_MigrationAndResets_lists :
    (∀ i < 4096 / 128, (⟨0xA000 / 128 + i, 0xC000 / 128 + i, true⟩ : Migr) ∈ demoMoved.migrs) ∧
    demoMoved.ctxs.filter (fun k => !k.terminated) = [demoE.ctx] ∧
    demoE.ctx.shootOf (0x8000, 0xA00DD, 0) = ⟨0, 0, 0, 4096⟩ := by decide +kernel

theorem getBytes_unlisted {m : List Cell} (n : Nat) : ∀ a, (∀ x ∈ m, x.1 < a ∨ a + n ≤ x.1) → getBytes m a n = 0 := by
  have hb : ∀ (m : List Cell) (a : Nat), (∀ x ∈ m, x.1 ≠ a) → getByte m a = unlisted := by
    intro m a
    induction m with
    | nil => exact fun _ => rfl
    | cons c r ih =>
      intro h
      rw [getByte, if_neg (h c (List.mem_cons_self ..)), ih fun x hx => h x (List.mem_cons_of_mem _ hx)]
  induction n with
  | zero => exact fun _ _ => rfl
  | succ k ih =>
    intro a h
    rw [getBytes, hb m a fun x hx => by have := h x hx; omega, ih (a + 1) fun x hx => by have := h x hx; omega]
    rfl

/-- A table whose first entry alone is not zero. -/
theorem leavesIn_first {s : State} {level table va : Nat} (h : ∀ i, 1 ≤ i → i < 1024 → s.pteAt (table + 8 * i) = 0) :
    s.leavesIn level table va = if fld 0 0 (s.pteAt table) = 0 then []
      else if fld 1 1 (s.pteAt table) = 1 then
        match level with
        | 0 => []
        | k + 1 => if pointerMalformed (k + 1) (s.pteAt table) then []
          else s.leavesIn k (fld 59 16 (s.pteAt table) * 4096) va
      else if leafMalformed level (s.pteAt table) then [] else [(table, s.pteAt table, va)] := by
  have hr : ∀ n, ∃ l, List.range (n + 1) = 0 :: l ∧ ∀ i ∈ l, 1 ≤ i ∧ i < n + 1 := fun n =>
    ⟨_, List.range_succ_eq_map, fun i hi => by
      obtain ⟨j, hj, rfl⟩ := List.mem_map.1 hi
      have := List.mem_range.1 hj
      omega⟩
  obtain ⟨l, hl, hi⟩ : ∃ l, tableSlots level = 0 :: l ∧ ∀ i ∈ l, 1 ≤ i ∧ i < 1024 := by
    unfold tableSlots
    split
    · obtain ⟨l, hl, h⟩ := hr 31
      exact ⟨l, hl, fun i hi => ⟨(h i hi).1, by have := (h i hi).2; omega⟩⟩
    · exact hr 1023
  rw [State.leavesIn, hl]
  have h0 : fld 0 0 0 = 0 := by decide
  simp only [List.map_cons, List.flatten_cons, Nat.mul_zero, Nat.zero_mul, Nat.add_zero]
  refine Eq.trans (congrArg _ (List.flatten_eq_nil_iff.2 fun x hx => ?_)) (List.append_nil _)
  obtain ⟨i, hi', rfl⟩ := List.mem_map.1 hx
  simp only [h i (hi i hi').1 (hi i hi').2, h0, if_true]

/-- The tables themselves have not moved. -/
theorem tables_stay (a : Nat) (h : a < 0xA000) : demoMoved.pteAt a = getBytes tables a 8 := by
  have hr : ∀ l < 320, demoMoved.resolve l = l := by decide +kernel
  unfold State.pteAt
  rw [hr (a / 128) (by omega), Nat.div_add_mod]
  rfl

theorem tables_first (table : Nat) (ht : table ∈ [0, 0x2000, 0x4000, 0x6000, 0x8000]) :
    ∀ i, 1 ≤ i → i < 1024 → demoMoved.pteAt (table + 8 * i) = 0 := by
  intro i h1 h2
  have hb : ∀ t ∈ [0, 0x2000, 0x4000, 0x6000, 0x8000], t + 0x2000 ≤ 0xA000 := by decide
  have := hb table ht
  rw [tables_stay _ (by omega)]
  refine getBytes_unlisted 8 _ fun x hx => ?_
  simp only [tables, List.mem_cons, List.not_mem_nil, or_false] at hx ht
  rcases ht with rfl | rfl | rfl | rfl | rfl <;>
    rcases hx with rfl | rfl | rfl | rfl | rfl | rfl | rfl | rfl | rfl | rfl <;> (simp only; omega)

theorem tables_leaves : demoMoved.leavesIn 4 0 0 = [(0x8000, 0xA00DD, 0)] := by
  rw [leavesIn_first (tables_first _ (by decide)), tables_stay _ (by decide)]
  show demoMoved.leavesIn 3 0x2000 0 = _
  rw [leavesIn_first (tables_first _ (by decide)), tables_stay _ (by decide)]
  show demoMoved.leavesIn 2 0x4000 0 = _
  rw [leavesIn_first (tables_first _ (by decide)), tables_stay _ (by decide)]
  show demoMoved.leavesIn 1 0x6000 0 = _
  rw [leavesIn_first (tables_first _ (by decide)), tables_stay _ (by decide)]
  show demoMoved.leavesIn 0 0x8000 0 = _
  rw [leavesIn_first (tables_first _ (by decide)), tables_stay _ (by decide)]
  decide

theorem witness_MigrationAndResets_mappings :
    demoMoved.mappings demoE.ctx 0xA000 4096 = ([(0x8000, 0xA00DD, 0)], []) := by
  have : demoMoved.leavesIn 4 (fld 55 12 demoE.ctx.tbr.toNat * 4096) 0 = [(0x8000, 0xA00DD, 0)] := tables_leaves
  unfold State.mappings
  rw [this]
  decide

theorem witness_MigrationAndResets_shoot : demoMoved.shootBlocked ⟨0, 0, 0, 4096⟩ = false := by decide +kernel

theorem witness_MigrationAndResets_domains :
    (demo.dieAt 0).coreReset = false ∧ demo.works 0 = true ∧
    ((demo.modDie 0 fun d => { d with coreReset := true, l2Reset := true }).dieAt 0).coreReset = true ∧
    ((demo.modDie 0 fun d => { d with coreReset := true, l2Reset := true }).dieAt 0).l2Reset = true ∧
    (demo.modDie 0 fun d => { d with coreReset := true, l2Reset := true }).works 0 = true ∧ (demo.dieAt 3).l2Reset = false ∧
    (∀ c ∈ demo.clamps, c.granted = true → demo.lineDie c.line ≠ 3) :=
  ⟨rfl, by decide, by decide, by decide, by decide, by decide, fun c h => (List.not_mem_nil h).elim⟩

/-! ### The scheduler -/

/-- A mapped queue at 0x400, whose ring of 16 packets stands at 0x800; WRITE is 1, and the packet is given. -/
def someQueue : UQueue := { UQueue.fresh 0 0x400 with slot := some 0 }

def demoPkt (p : List Cell) (f : UQueue → UQueue) : State :=
  { demoG (launchMem ++ [(0x401, 8), (0x408, 16), (0x410, 1)] ++ p) none id with queues := [f someQueue], slots := [(0, ⟨some 0, 100000⟩)] }

/-- The descriptor and the packet as read. -/
def pktDesc : List Nat := [0x800, 16, 1, 0, 0, 0, 0, 0]
def pktV (p : List Cell) (f : UQueue → UQueue) : State := stateOf (headOf (f someQueue)) (atRest (demoPkt p f))

/-- The value of a reading that a test confirms. -/
theorem atPacket {p : List Cell} {f : UQueue → UQueue} {q : List Nat}
    (h : decide ((answer (headOf (f someQueue)) (atRest (demoPkt p f))).map (·.1) = some (.packet pktDesc q)) = true)
    (hs : (f someQueue).slot.isSome = true) (hg : (f someQueue).stopped = false)
    (hr : (demoPkt p f).ctxRuns (f someQueue).ctx = true) :
    AtPacket (demoPkt p f) 0 (f someQueue) pktDesc q (pktV p f) := ⟨rfl, hs, hg, hr, leaves h⟩

theorem witness_SchedulerSteps_wait :
    AtPacket (demoPkt [(0x800, 2), (0x809, 3)] id) 0 someQueue pktDesc [2, 0x300, 0, 0, 0, 0, 0, 0] (pktV [(0x800, 2), (0x809, 3)] id) ∧
    pktType [2, 0x300, 0, 0, 0, 0, 0, 0] = 2 ∧ pktBarrier [2, 0x300, 0, 0, 0, 0, 0, 0] = false ∧
    (pktAddr [2, 0x300, 0, 0, 0, 0, 0, 0]).toNat % 8 = 0 ∧
    ∃ x : Nat × State, readHome (schedAg 0) 0x300 (pktV [(0x800, 2), (0x809, 3)] id) = .ok x ∧
      (0 ≤ x.1 ∧ (answer (schedStore 0 (0x400 + 24) 1) x.2).map (·.1) = some true) :=
  ⟨atPacket (f := id) (by decide +kernel) rfl rfl (by decide), by decide, by decide, by decide, answers (fun x => _) (by decide +kernel)⟩

theorem witness_SchedulerSteps_signal :
    AtPacket (demoPkt [(0x800, 3), (0x809, 3), (0x810, 5)] id) 0 someQueue pktDesc [3, 0x300, 5, 0, 0, 0, 0, 0]
      (pktV [(0x800, 3), (0x809, 3), (0x810, 5)] id) ∧ pktType [3, 0x300, 5, 0, 0, 0, 0, 0] = 3 ∧
    ∃ x : Bool × State, schedStore 0 0x300 5 (pktV [(0x800, 3), (0x809, 3), (0x810, 5)] id) = .ok x ∧
      (x.1 = true ∧ (answer (schedStore 0 (0x400 + 24) 1) x.2).map (·.1) = some true) :=
  ⟨atPacket (f := id) (by decide +kernel) rfl rfl (by decide), by decide, answers (fun x => _) (by decide +kernel)⟩

/-- The record at 0 passes; the zeros at 0x1000 are refused, with cause 2. -/
theorem witness_SchedulerSteps_launch :
    AtPacket (demoPkt [(0x800, 1)] id) 0 someQueue pktDesc [1, 0, 0, 0, 0, 0, 0, 0] (pktV [(0x800, 1)] id) ∧
    pktType [1, 0, 0, 0, 0, 0, 0, 0] = 1 ∧ someQueue.pending = none ∧
    (∃ x : (Option LaunchRec × Nat) × State, checkLaunch (schedAg 0) 0 false (pktV [(0x800, 1)] id) = .ok x ∧
      (x.1.1.isSome = true ∧ x.1.2 = 0)) ∧
    AtPacket (demoPkt [(0x800, 1), (0x809, 0x10)] id) 0 someQueue pktDesc [1, 0x1000, 0, 0, 0, 0, 0, 0]
      (pktV [(0x800, 1), (0x809, 0x10)] id) ∧
    ∃ x : (Option LaunchRec × Nat) × State, checkLaunch (schedAg 0) 0x1000 false (pktV [(0x800, 1), (0x809, 0x10)] id) = .ok x ∧
      (x.1.1.isSome = true ∧ x.1.2 = 2 ∧ (answer (refuse 0 (x.1.1.getD default) 2) x.2).map (·.1) = some () ∧
        (answer (do
          refuse 0 (x.1.1.getD default) 2
          schedStore 0 (0x400 + 24) 1) x.2).map (·.1) = some true) :=
  ⟨atPacket (f := id) (by decide +kernel) rfl rfl (by decide), by decide, rfl, answers (fun x => _) (by decide +kernel),
    atPacket (f := id) (by decide +kernel) rfl rfl (by decide), answers (fun x => _) (by decide +kernel)⟩

/-- A launch that waits for its START, 0; its BARRIER is met. -/
def pend (u : UQueue) : UQueue := { u with pending := some (0, { launchRec [] with gx := 1, gy := 1, gz := 1, block := 1, cluster := 1 }) }

theorem witness_SchedulerSteps_accept :
    AtPacket (demoPkt [(0x800, 1), (0x801, 1)] pend) 0 (pend someQueue) pktDesc [0x101, 0, 0, 0, 0, 0, 0, 0]
      (pktV [(0x800, 1), (0x801, 1)] pend) ∧ pktBarrier [0x101, 0, 0, 0, 0, 0, 0, 0] = true ∧
    (pktV [(0x800, 1), (0x801, 1)] pend).barrierMet (pend someQueue) = true ∧ (pend someQueue).pending.isSome = true ∧
    (0 : Word).toNat ≤ (pktV [(0x800, 1), (0x801, 1)] pend).time.toNat ∧
    ((answer (schedStore 0 (0x400 + 24) 1) (({ pktV [(0x800, 1), (0x801, 1)] pend with
        grids := (pktV [(0x800, 1), (0x801, 1)] pend).grids ++ [gridOf 0 0 { launchRec [] with gx := 1, gy := 1, gz := 1, block := 1, cluster := 1 } 0] } : State).modQueue 0 fun u =>
        { u with pending := none, grids := u.grids ++ [1] })).map (·.1) = some true) :=
  ⟨atPacket (f := pend) (by decide +kernel) rfl rfl (by decide), by decide, by decide +kernel, by decide, by decide +kernel,
    by decide +kernel⟩

/-- A packet of type 7 breaks the layout. -/
theorem witness_SchedulerSteps_bad :
    (answer (headOf someQueue) (atRest (demoPkt [(0x800, 7)] id))).map (·.1) = some (.bad pktDesc) ∧
    (answer (do
      let _ ← headOf someQueue
      stopQueue 0 someQueue pktDesc) (atRest (demoPkt [(0x800, 7)] id))).map (·.1) = some () ∧
    (demoPkt [(0x800, 7)] id).ctxRuns 0 = true := by decide +kernel

/-- A second queue, at 0x600, waits; its class is 1 when `c`, and the first's is 0. -/
def demoTwo (c : List Cell) (l : SMap Slot) (f : UQueue → UQueue) : State :=
  { demoPkt ([(0x601, 8), (0x608, 16)] ++ c ++ [(0x610, 1)]) id with queues := [someQueue, f (UQueue.fresh 0 0x600)], slots := l }

theorem witness_SchedulerSteps_map :
    (demoTwo [] [] id).queue? 1 = some (UQueue.fresh 0 0x600) ∧ (0 : Nat) < 64 ∧
    firstWaiter ((atRest (demoTwo [] [] id)).askD (waiters 0) []) 1 = true ∧ ((demoTwo [] [] id).slotAt 0).q = none ∧
    firstWaiter ((atRest (demoTwo [] [] pend)).askD (waiters 0) []) 1 = true ∧
    firstWaiter ((atRest (demoTwo [(0x60C, 1)] [(0, ⟨some 0, 0⟩)] id)).askD (waiters 0) []) 1 = true ∧
    ((demoTwo [(0x60C, 1)] [(0, ⟨some 0, 0⟩)] id).slotAt 0).q = some 0 ∧
    (atRest (demoTwo [(0x60C, 1)] [(0, ⟨some 0, 0⟩)] id)).askD (displaces ((demoTwo [(0x60C, 1)] [(0, ⟨some 0, 0⟩)] id).share
      (UQueue.fresh 0 0x600)) ((atRest (demoTwo [(0x60C, 1)] [(0, ⟨some 0, 0⟩)] id)).askD (classOf (UQueue.fresh 0 0x600)) 0) 0)
        false = true := by decide +kernel

theorem witness_SchedulerSteps_expiry :
    let s := demoTwo [] [(0, ⟨some 0, 100000⟩)] id
    (s.slotAt 0).q = some 0 ∧ s.queue? 0 = some someQueue ∧ 100000 ≤ (s.slotAt 0).ns ∧
    ((((atRest s).askD (waiters 0) []).filter (fun x => decide (x.2.1 = (atRest s).askD (classOf someQueue) 0))).find? fun x =>
      (((atRest s).askD (waiters 0) []).filter (fun x => decide (x.2.1 = (atRest s).askD (classOf someQueue) 0))).all fun y =>
        decide (x.2.2 ≤ y.2.2)).map (·.1) = some 1 := by decide +kernel

/-- The one block has ended; the grid's signal is 0, or a word at 0x300. -/
def demoEnd (sig : Word) : State := demo.modGrid 0 fun g => { g with ended := 1, lrec := { g.lrec with signal := sig } }

theorem witness_SchedulerSteps_complete (sig : Word) :
    ∃ g, (demoEnd sig).grid? 0 = some g ∧ g.done = false ∧ g.lrec.signal = sig ∧ (demoEnd sig).ctxLives g.ctx = true ∧
      gridEnded g (atRest (demoEnd sig)) = .ok (true, atRest (demoEnd sig)) := ⟨_, rfl, rfl, rfl, rfl, rfl⟩

theorem witness_SchedulerSteps_signalled :
    (0x300 : Word) ≠ 0 ∧ (answer (releaseGrid 0) (atRest (demoEnd 0))).map (·.1) = some () ∧ (answer (do
      releaseGrid 0
      storeDwords 0 0x300 [0]) (atRest (demoEnd 0x300))).map (·.1) = some true := by decide +kernel

theorem witness_BlockSteps_scan :
    (∃ g, (demoScan scanMem).grid? 0 = some g ∧ g.done = false ∧ g.lrec.mode = 1 ∧ g.scanned = false ∧
      (demoScan scanMem).ctxRuns g.ctx = true ∧
      scanTree g.ctx g.lrec.source (atRest (demoScan scanMem)) = .ok ([], atRest (demoScan scanMem))) ∧
    ∃ f, scanTree 0 1 (atRest (demoScan [])) = .error (.fault f) :=
  ⟨⟨_, rfl, rfl, rfl, rfl, rfl, scan_all⟩, ⟨_, rfl⟩⟩

/-- A second grid, changed by `f`, of class 1. -/
def nextGrid : Grid :=
  gridOf 0 0 { launchRec [] with gx := 1, gy := 1, gz := 1, block := 1, cluster := 1, vregs := 96, uregs := 32, prio := 1 } 0

def demoGrids (m : List Cell) (f : Grid → Grid) : State :=
  let s := demoG m none id
  { s with grids := s.grids ++ [f nextGrid] }

theorem witness_BlockSteps_start :
    let s := demoGrids [] id
    s.grid? 1 = some nextGrid ∧ nextGrid.done = false ∧ s.ctxRuns nextGrid.ctx = true ∧ nextGrid.total = some 1 ∧ nextGrid.next < 1 ∧
    (atRest s).askD (mayStart 1 nextGrid nextGrid.lrec.block 0) false = true ∧
    ∃ x : Unit × State, prefetchParams nextGrid 0 (begun (atRest s) 1 0 (Block.fresh 1 nextGrid nextGrid.next 0
      (List.replicate nextGrid.lrec.block (Group.fresh nextGrid.lrec (fullLanes 0) 0 0 0 noRecords)))) = .ok x ∧ x.2.time = 0 :=
  ⟨rfl, rfl, by decide, by decide, by decide, by decide +kernel, answers (fun x => _) (by decide +kernel)⟩

/-- Its source is a closed queue at 0x400 with one record, whose consumer it is; batches of 1. -/
def rqGrid (g : Grid) : Grid := { g with lrec := { g.lrec with mode := 2, gx := 0, gy := 0, gz := 0, source := 0x400 } }

def batchMem : List Cell := [(0x401, 8), (0x408, 32), (0x40E, 1), (0x418, 1), (0x428, 1)]

def batchDesc : List Nat := [0x800, 0x1000000000020, 0, 1, 0, 1, 0, 0, 0, 0, 0, 0, 0, 0, 0, 0]

theorem witness_BlockSteps_batch :
    let s := demoGrids batchMem rqGrid
    let g := rqGrid nextGrid
    s.grid? 1 = some g ∧ g.done = false ∧ s.ctxRuns g.ctx = true ∧ g.lrec.mode = 2 ∧ rqOk batchDesc = true ∧
    1 = batchSize batchDesc (false && g.flushed batchDesc s.time) ∧
    ∃ x : List Nat × State, readDwords (schedAg g.ctx) g.lrec.source 16 (atRest s) = .ok x ∧ (x.1 = batchDesc ∧
      x.2.askD (mayStart 1 g ((1 + 31) / 32) 0) false = true ∧
      ((answer (batchOrder g batchDesc ((List.range 1).map fun i => rqTaken batchDesc + i)) x.2).bind fun y => match y.1 with
        | .ok nums => (answer (writeVa (schedAg g.ctx) (g.lrec.source + 32) 8 (rqTaken batchDesc + 1) .engWrite) y.2).bind fun z =>
          (answer (prefetchParams g 0) (begun z.2 1 0 { Block.fresh 1 g g.next 0 (batchGroups g.lrec batchDesc nums) with
            held := some (g.lrec.source, nums) })).map (·.1)
        | .error _ => none) = some ()) := by
  refine ⟨rfl, rfl, rfl, rfl, by decide, by decide, answers (fun x => _) (by decide +kernel)⟩

/-- A record pushed at 0 that has waited FLUSH. -/
theorem witness_BlockSteps_flush :
    batchSize [0x800, 32, 0, 1, 0, 32, 10] (true && ({ rqGrid nextGrid with seen := [(1, 0)] } : Grid).flushed [0x800, 32, 0, 1, 0, 32, 10] 10) = 1 := by
  decide

/-- A block whose stores can be placed can be saved. -/
theorem saveBlock_ok {swap : Bool} {i : Nat} {s : State} (h : (answer (drainBlock i) s).isSome = true) :
    ∃ u, each [i] (saveBlock swap) s = .ok ((), u) := by
  obtain ⟨x, hx⟩ := Option.isSome_iff_exists.1 h
  have hd : drainBlock i s = .ok ((), x.2) := answer_ok hx
  unfold each saveBlock
  rw [M.bind_apply, M.bind_apply, hd]
  exact ⟨_, rfl⟩

/-- The grid has waited since 0; core 0's block, of class 0, stands at a boundary. -/
def demoWaits : State :=
  { (demoGrids [] fun g => { g with waitSince := some 0 }).modGrp 0 0 fun g =>
      { g with paths := g.paths.map fun p => { p with cl := none } } with time := 100000 }

theorem witness_BlockSteps_priority :
    demoWaits.grid? 1 = some { nextGrid with waitSince := some 0 } ∧ 100000 ≤ (demoWaits.time - 0).toNat ∧
    overdueOf 1 { nextGrid with waitSince := some 0 } (atRest demoWaits) = .ok ([.next], atRest demoWaits) ∧
    [0] = demoWaits.withClusters ((atRest demoWaits).askD (victims 1 { nextGrid with waitSince := some 0 } .next) []) ∧
    (∀ i ∈ [0], demoWaits.unitsStop i = true) ∧ ∃ u, each [0] (saveBlock false) (atRest demoWaits) = .ok ((), u) := by
  refine ⟨rfl, by decide, answer_ok (by decide +kernel), by decide +kernel, by decide +kernel, saveBlock_ok (by decide +kernel)⟩

/-- A saved block, and the next pixel group of die 0's owner, have waited since 0. -/
theorem witness_BlockSteps_overdue :
    (let s : State := { demoWaits.modBlk 0 fun b => { b with core := none, waitSince := some 0 } with time := 100000 }
     answer (overdueOf 0 demoE.grid) s = some ([.saved 0], s)) ∧
    (let s : State := { demoFrame [] (fun c => { c with work := [someWork], waitSince := some 0 }) with time := 100000 }
     answer (overdueOf 1 ((s.grid? 1).getD default)) s = some ([.pixels 0], s)) := by
  decide +kernel

/-! ### Ends, pre-emption and pages -/

/-- A barrier's watch has reached its limit and raises; it reaches it in this tick; its instance is over. -/
theorem witness_EndsAndWatchdogs_barrier :
    let w : BarWatch := { kind := 0, grid := 0, key := 0, inst := 0, limit := 1, ns := 1000, hit := some 0, waits := [(0, 0, 1)] }
    (({ demo with bars := [w] } : State).bars[0]? = some w ∧ w.expired ({ demo with bars := [w], time := 1 } : State).time = true ∧
      w.raised = false) ∧
    (({ w with ns := 999, hit := none } : BarWatch).hit = none ∧ w.limit ≠ 0 ∧ 1000 * w.limit ≤ 999 + 1) ∧
    ∃ b, ({ demo with bars := [w], time := 1 } : State).blkAt 0 = some b ∧
      ({ demo with bars := [w], time := 1 } : State).barOver 0 b.grid 0 b.barInst = true :=
  ⟨⟨rfl, by decide, rfl⟩, ⟨rfl, by decide, by decide⟩, _, rfl, by decide⟩

/-- A group with a lane inside a VINS, or with a granted clamp, is not stopped; another is. -/
theorem witness_EndsAndWatchdogs_held :
    (demoG [] none fun g => { g with paths := g.paths.map fun p => { p with wait := some (.vins default) } }).groupMayStop 0 0 = false ∧
    ({ demo with clamps := [⟨2, 0, 0, 1, true⟩] } : State).groupMayStop 0 0 = false ∧ demo.groupMayStop 0 0 = true := by
  decide +kernel

/-- The grid's time has reached KWD; its group stands at a boundary. -/
def demoKwd : State :=
  (demoG [] none fun g => { g with paths := g.paths.map fun p => { p with cl := none } }).modGrid 0 fun g => { g with ns := 10000000000 }

theorem witness_EndsAndWatchdogs_kernel :
    (∃ g, demoKwd.grid? 0 = some g ∧ demoKwd.ctxAt g.ctx = some demoE.ctx ∧ 1000 * demoE.ctx.kwd.toNat ≤ g.ns) ∧ demoE.ctx.kwd ≠ 0 ∧
    [(0, 0, 0)] = ((demoKwd.liveGroups 0).filter fun x => demoKwd.groupStops x.2.1 x.2.2).foldl (fun acc x => insertGroup x acc) [] :=
  ⟨⟨_, rfl, rfl, by decide⟩, by decide, by decide +kernel⟩

/-- Every thread has issued one QUIESCE on phase 0 and waits there; `x` is the sweep that was kept. -/
def demoQ (x : Option (Nat × Nat)) : State :=
  ((demoG [] none fun g => { g with
      qcount := g.qcount.set 0 (List.replicate 32 1)
      paths := g.paths.map fun p => { p with wait := some (.quiesce 0) } }).modGrid 0 fun g => { g with qSweep := g.qSweep.set 0 x })

theorem witness_EndsAndWatchdogs_quiesce (x : Option (Nat × Nat)) :
    ∃ g, (demoQ x).grid? 0 = some g ∧ 0 < g.qSweep.length ∧ (g.qSweep[0]?).getD none = x ∧ (0, 0) = (((demoQ x).sweep g.ctx 0).1.toNat,
      ((demoQ x).sweep g.ctx 0).2.toNat) ∧ quiesceReady 0 g 0 (atRest (demoQ x)) = .ok (true, atRest (demoQ x)) ∧
    (atRest (demoQ x)).barOver 2 0 0 (g.inst 0) = false ∧
    (∃ j ∈ (demoQ x).gridBlocks 0, ∃ b, (demoQ x).blkAt j = some b ∧ ∃ k ∈ b.groups, k.waiting (Wait.isQuiesce 0) ≠ 0) := by
  refine ⟨_, rfl, (show 0 < 8 by decide), rfl, rfl, rfl, rfl, 0, ?_, _, rfl, _, List.mem_singleton.2 rfl, ?_⟩
  · show 0 ∈ [0]
    decide
  · show BitVec.allOnes 32 ≠ 0
    decide

/-- The second sweep may agree or differ; when it agrees the check ends. -/
theorem witness_EndsAndWatchdogs_sweeps :
    ((1, 1) : Nat × Nat) ≠ (0, 0) ∧ (answer (endQuiesce 0 (((demoQ (some (0, 0))).grid? 0).getD default) 0)
      ((atRest (demoQ (some (0, 0)))).modGrid 0 fun g => { g with qSweep := g.qSweep.set 0 none })).map (·.1) = some () := by
  decide +kernel

/-- A captured fault; every path is stopped. -/
def demoFatal : State :=
  (demoG [] none fun g => { g with paths := g.paths.map fun p => { p with stopped := true } }).modCtx 0
    fun c => { c with fault := some (faultRec (illegal 1) demo) }

theorem witness_EndsAndWatchdogs_terminate :
    (∃ c, demoFatal.ctxAt 0 = some c ∧ c.fault = some (faultRec (illegal 1) demo) ∧ c.terminated = false) ∧
    (∀ i ∈ demoFatal.resident 0, demoFatal.blockStops i = true) ∧
    (answer (drainContext 0) (atRest demoFatal)).map (·.1) = some () ∧
    (answer (do
      drainContext 0
      modify fun u => u.stopUnits 0
      each ((demoFatal.openGrids 0).map Grid.recordQueues).flatten (closeQueue 0)
      modify fun v => v.removeObjects 0
      let _ ← fireTrigger 0 2 0 [0, 1, 2, 3]
      writeRecord 0 demoE.ctx (faultRec (illegal 1) demo)
      each (demoFatal.openGrids 0) (fun g => if g.lrec.signal = 0 then pure () else do
        let _ ← storeDwords 0 g.lrec.signal [0xC000000000000000 + 4]
        pure ())) (atRest demoFatal)).map (·.1) = some () := by
  refine ⟨⟨_, rfl, rfl, rfl⟩, by decide +kernel, by decide +kernel, by decide +kernel⟩

/-- The block stands at a boundary. -/
def demoStop : State := demoG [] none fun g => { g with paths := g.paths.map fun p => { p with cl := none } }

theorem witness_PreemptAndCow_preempt :
    demoStop.ctxRuns 0 = true ∧ demoStop.resident 0 ≠ [] ∧ (∀ i ∈ demoStop.resident 0, demoStop.unitsStop i = true) ∧
    (∀ c ∈ demoStop.cmds, c.ctx = 0 → c.stops = true) ∧ (∀ c ∈ demoStop.mats, c.ctx = 0 → c.stops = true) ∧
    demoStop.resident 0 = [0] ∧ ∃ u, each [0] (saveBlock false) (atRest demoStop) = .ok ((), u) :=
  ⟨by decide, by decide, by decide, fun c h => (List.not_mem_nil h).elim, fun c h => (List.not_mem_nil h).elim, by decide,
    saveBlock_ok (by decide +kernel)⟩

theorem witness_PreemptAndCow_swap :
    (let s : State := { (demoPath [] cmpWord fun p => { p with wait := some (.cmp polled) }).modBlk 0 fun b => { b with swapOk := true } with
        time := 4000 }
     (s.blkAt 0).map (·.swapOk) = some true ∧ (s.blkAt 0).map (·.parkedLong s.time) = some true ∧
     (s.blkAt 0).map (·.core) = some (some 0) ∧ s.unitsStop 0 = true ∧ s.ctxRuns 0 = true ∧
     ∃ u, each [0] (saveBlock true) (atRest s) = .ok ((), u)) ∧
    (let s := demoStop.modBlk 0 fun b => { b with core := none, swapOk := true }
     (s.blkAt 0).map (·.core) = some none ∧ ((s.blkAt 0).map fun b => b.woken s.time) = some true ∧ s.boundTo 0 0 = true ∧
     s.canHold 0 0 1 demoE.grid.lrec = true ∧ demoE.ctx.fault = none ∧ demoE.ctx.terminated = false ∧
     ∃ b, s.blkAt 0 = some b ∧ ∃ x : Unit × State, takeMatrix b 0 (atRest s) = .ok x ∧ (x.2.boundTo 0 0 = true ∧
       x.2.canHold 0 0 1 demoE.grid.lrec = true ∧ x.2.resumesByCluster b demoE.grid 0 = true ∧
       x.2.resumesInPair b demoE.grid 0 = true ∧ x.2.askD (keptFrom 0 (some 0) demoE.grid.lrec.prio 0) true = false)) := by
  refine ⟨⟨by decide +kernel, by decide +kernel, by decide +kernel, by decide +kernel, by decide +kernel,
    saveBlock_ok (by decide +kernel)⟩, by decide +kernel, by decide +kernel, by decide +kernel, by decide +kernel, rfl, rfl, _, rfl,
    answers (fun x => _) (by decide +kernel)⟩

/-- The entry at 0x8000 of page 0x1000 is copy-on-write; the pool at 0x100 holds the page at 0x3000, or none. -/
def cowMem (p : List Cell) : List Cell := p ++ [(0x8000, 0xD5), (0x8001, 0x40), (0x8002, 1)]

def someSvc : CowSvc :=
  ⟨0, 0, 0, 0, 1, { accFlt 3 0 .store 0 0x140D5 with leafAt := 0x8000 }, false, false, none, none, none⟩

def demoCow (p : List Cell) (f : CowSvc → CowSvc) : State :=
  { (demoG (cowMem p) none id).modCtx 0 fun c => { c with cowpool := 0x100 } with cows := [f someSvc] }

theorem witness_PreemptAndCow_service :
    let s := demoCow [(0x101, 0x30), (0x108, 1)] id
    s.cows[0]? = some someSvc ∧ someSvc.closed = false ∧ someSvc.served = false ∧ s.cowBusy 0 someSvc = false ∧
    (answer (servePage someSvc) (atRest s)).map (·.1) = some true ∧
    ∃ x : Nat × State, homeDword someSvc.at_ (atRest s) = .ok x ∧ (x.1 = 0x140D5 ∧ fld 14 14 x.1 = 1 ∧
      ((answer (takePage 0 (fld 63 60 x.1)) x.2).bind fun y => if y.1 = some 0x3000 then
          (answer (do
            copyAtHome (fld 59 16 x.1 * 4096) 0x3000 (pageBytes (fld 63 60 x.1))
            rewriteRun someSvc.at_ (fld 63 60 x.1) 0x3000) y.2).map fun z => decide (z.2.cows = s.cows)
        else none) = some true) := by
  refine ⟨rfl, rfl, rfl, by decide, by decide +kernel, answers (fun x => _) (by decide +kernel)⟩

theorem witness_PreemptAndCow_empty :
    ((answer (homeDword someSvc.at_) (atRest (demoCow [] id))).bind fun x => (answer (takePage 0 (fld 63 60 x.1)) x.2).map fun y =>
      decide (fld 14 14 x.1 = 1 ∧ y.1 = none ∧ 0 < y.2.cows.length)) = some true ∧
    ((answer (servePage someSvc) (atRest (demoCow [] id))).bind fun x => (answer (cowFatal 0 someSvc (someSvc.dead none)) x.2).map
      fun y => (x.1, y.1)) = some (false, ()) := by decide +kernel

/-- The pool lies outside every page that answers: the service's own fault. -/
theorem witness_PreemptAndCow_broken :
    (match servePage someSvc { atRest (demoCow [] id) with dies := [] } with
      | .error (.fault f) => (answer (cowFatal 0 someSvc (someSvc.dead (some f))) (atRest (demoCow [] id))).isSome
      | _ => false) = true := by decide +kernel

theorem witness_PreemptAndCow_reissue :
    let w : CowSvc := { someSvc with served := true }
    let s := demoCow [] fun w => { w with served := true }
    let t : State := { s with shoots := [s.cowShoot w] }
    s.cows[0]? = some w ∧ w.closed = false ∧ w.served = true ∧ s.shoots.contains (s.cowShoot w) = false ∧
    t.cows[0]? = some w ∧ t.shoots.contains (t.cowShoot w) = true ∧
    ∃ x : Bool × State, finishShoot (t.cowShoot w) true (atRest t) = .ok x ∧ x.1 = true :=
  ⟨rfl, rfl, rfl, by decide, rfl, by decide, answers (fun x => _) (by decide +kernel)⟩

theorem witness_PreemptAndCow_pool :
    let s := demoCow [] id
    (s.ctxAt 0).map (·.cowpool) = some 0x100 ∧ (11 : Nat) < 12 ∧ s.poolOk 0 0x100 = true ∧ (∀ p ∈ [0x3000, 0x5000], p % 8 = 0 ∧ p < 2 ^ 56) ∧
    (answer (each [0x3000, 0x5000] fun p => do
      let head ← homeDword (0x100 + 16 * 11)
      let count ← homeDword (0x100 + 16 * 11 + 8)
      putDword p head
      putDword (0x100 + 16 * 11) p
      putDword (0x100 + 16 * 11 + 8) ((count + 1) % 2 ^ 64)) (atRest s)).map (·.1) = some () := by
  refine ⟨rfl, by decide, by decide, by decide, by decide +kernel⟩

theorem witness_PreemptAndCow_copy :
    (0xF0000000000140D5 : Nat) < 2 ^ 64 ∧ (0xFFFFFFFFFFF000 : Nat) < 2 ^ 56 ∧ MemOk demoAll ∧ Still demoAll ∧ 0x1000 % 128 = 0 ∧
    4096 % 128 = 0 ∧ (0x1000 + 4096 ≤ 0x2000 ∨ 0x2000 + 4096 ≤ 0x1000) :=
  ⟨by decide, by decide, (rfl : Memory.wf [] = true), ⟨rfl, rfl, rfl, rfl, rfl, fun l => allPeers_homes _ rfl (by decide) rfl l⟩, by decide,
    by decide, by decide⟩

/-! ### The host -/

theorem witness_HostCommands_partitions :
    demo.up = true ∧ (63 : Nat) < 64 ∧ (demo.partAt 63).live = false ∧ (∀ i ∈ [63], i < 64) ∧
    (∀ w ∈ ([⟨none, 0, 2 ^ 54⟩, ⟨some 16383, 0, 2 ^ 40⟩] : List Window), winOk w = true) ∧
    (∀ x ∈ demo.parts, x.2.ownsNone ((List.range 4).map fun d => (([2, 0, 0, 0] : List (BitVec 120))[d]?).getD 0 &&& demo.offered d) 0 [63]
      = true) ∧ (demo.partAt 0).live = true ∧ demo.mapsWindow 0 ⟨some 16383, 0, 2 ^ 40⟩ = false ∧
    (191 : Nat) < 192 ∧ demo.vfs.find? 191 = none := by
  refine ⟨by decide, by decide, by decide, by decide, by decide, ?_, by decide, by decide +kernel, by decide, by decide⟩
  decide +kernel

/-- The grid is done: nothing of the context is unfinished. -/
def demoDone : State := demo.modGrid 0 fun g => { g with done := true }

theorem witness_HostCommands_destroy :
    demoDone.up = true ∧ (demoDone.partAt 0).live = true ∧
    [0] = (List.range demoDone.ctxs.length).filter (fun c => match demoDone.ctxAt c with
      | some k => decide (k.part = 0) && !k.terminated
      | none => false) ∧ (∀ c ∈ [0], demoDone.idle c = true) ∧
    ∃ x : Unit × State, settleStores (atRest demoDone) = .ok x ∧ x.2.time = 0 :=
  ⟨by decide, by decide, by decide, by decide, answers (fun x => _) (by decide +kernel)⟩

theorem witness_HostCommands_window :
    let w : Window := ⟨some 16383, 0, 2 ^ 40⟩
    let s : State := { demo with parts := demo.parts.put 0 { demo.partAt 0 with windows := [w] } }
    s.up = true ∧ (s.partAt 0).live = true ∧ winOk w = true ∧ s.mapsWindow 0 w = false ∧ w ∈ (s.partAt 0).windows := by decide +kernel

theorem witness_HostCommands_context :
    let s : State := { demo with vfs := [(0, 0)] }
    s.up = true ∧ s.vfs.find? 0 = some 0 ∧ (s.partAt 0).live = true ∧ freeAsn (s.asns 0) = some 1 ∧
    (s.partAt 0).poolInside (0 : Word).toNat = true ∧ (s.partAt 0).poolInside (0x40000000000000 : Word).toNat = false := by
  refine ⟨by decide, by decide, by decide, by decide, by decide, by decide⟩

theorem witness_HostCommands_registers :
    (demo.ctxAt 0).isSome = true ∧ csrPrivileged 16 = true ∧
    (let s : State := { demo with queues := [{ someQueue with stopped := true, slot := none }] }
     s.queue? 0 = some { someQueue with stopped := true, slot := none } ∧ s.ctxLives 0 = true) := by
  refine ⟨by decide, by decide, rfl, by decide⟩

/-- A shape record at 0x40: one row of 128 bytes at 0x1000; its operation is given. -/
def demoShape (op : List Cell) : State := demoG ([(0x41, 0x10), (0x48, 1)] ++ op ++ [(0x50, 128)]) none id

theorem witness_HostCommands_objects :
    (∀ op ∈ ([[], [(0x4C, 1)], [(0x4C, 2)], [(0x4C, 255)]] : List (List Cell)), (demoShape op).ctxLives 0 = true ∧
      ((answer (readDwords (schedAg 0) 0x40 8) (atRest (demoShape op))).bind fun x =>
        (answer (doObject 0 0x40 x.1) x.2).map fun _ => (shapeOp x.1)) = some ((op.head?.map fun c => c.2.toNat).getD 0)) ∧
    (0x40 : Word).toNat % 64 = 0 ∧ 2 < 255 := by
  refine ⟨?_, by decide, by decide⟩
  decide +kernel

theorem demoAll_still : Still demoAll := ⟨rfl, rfl, rfl, rfl, rfl, demoAll_homes⟩

theorem witness_HostCommands_accesses :
    demoAll.up = true ∧ (2 ^ 39 - 128 : Nat) < 2 ^ 39 ∧ (2 ^ 39 - 128 : Nat) % 128 = 0 ∧ Still demoAll ∧ (13 : Nat) < 14 ∧
    extNew 0 32 0 1 0 = some 1 :=
  ⟨rfl, by decide, by decide, demoAll_still, by decide, by decide⟩

/-- Bring-up data: 96 sites on each die; the image, if there is one, names another key than the vendor's; the link trains or not. -/
def bootWith (ok link : Bool) : BootCfg :=
  ⟨if ok then [] else [⟨0, 1, [], 0⟩], link, 0xF, 0xF, 0xF, List.replicate 4 (BitVec.ofNat 108 (2 ^ 96 - 1)), true, [], 0⟩

set_option exponentiation.threshold 600 in
theorem witness_PowerAndObservation_boot :
    State.reset.power = 0 ∧ (∀ d < 4, 96 ≤ siteCount (((bootWith true true).bitmaps[d]?).getD 0)) ∧
    (∃ i ∈ (bootWith false true).images, imageAccepted State.reset i = false) ∧
    (∀ i ∈ (bootWith true false).images, imageAccepted State.reset i = true) ∧ (bootWith true false).linkTrained = false ∧
    (∀ i ∈ (bootWith true true).images, imageAccepted State.reset i = true) ∧ (bootWith true true).linkTrained = true ∧ MemOk demo := by
  refine ⟨rfl, by decide +kernel, ⟨_, List.mem_singleton.2 rfl, by decide⟩, fun i h => (List.not_mem_nil h).elim, rfl,
    fun i h => (List.not_mem_nil h).elim, rfl, memOk_nil _ _⟩

theorem witness_PowerAndObservation_reads :
    demo.up = true ∧ (39 : Nat) < 40 ∧ (demo.partAt 0).live = true ∧ (List.replicate 64 (0 : Byte)).length = 64 ∧ (7 : Nat) < 8 ∧
    demo.works (7 / 2) = true ∧ 3 ≤ ({ demo with linkUp := true } : State).power ∧ ({ demo with linkUp := true } : State).linkUp = true := by
  refine ⟨by decide, by decide, by decide, by decide, by decide, by decide, by decide, rfl⟩

theorem witness_PowerAndObservation_errors :
    (0x7FFFFFFFFF : Nat) < 2 ^ 39 ∧ (∀ h ∈ demo.l2, h.line ≠ 0x7FFFFFFFFF / 128) ∧
    (∀ d : Bool, ({ demo with l2 := [⟨0, false, .whole, d, 0, 0⟩] } : State).l2.find? (fun h => decide (h.line = 0 / 128)) =
      some ⟨0, false, .whole, d, 0, 0⟩) ∧ (∃ k, demo.blkAt 0 = some k ∧ k.core = some 0) :=
  ⟨by decide, fun h hh => (List.not_mem_nil hh).elim, fun d => by cases d <;> decide, _, rfl, rfl⟩

/-- A line in a core's L1, and one in a die's replicas; a slice in a core's matrix state; the page pool of the context at 0x100. -/
theorem witness_PowerAndObservation_copies :
    (∃ s : State, ∃ r ∈ (s.coreAt 0).l1, r.line = 5) ∧ (∃ s : State, ∃ r ∈ (s.dieAt 0).replicas, r.line = 5) ∧
    (∃ s : State, 0 < (s.coreAt 0).mat.q8.length ∧ 0 < (s.coreAt 0).mat.q9.length) ∧
    (let s := demoAll.modCtx 0 fun c => { c with cowpool := 0x100 }
     (s.ctxAt 0).map (·.cowpool.toNat) = some 0x100 ∧ s.poolOk 0 0x100 = true ∧ Still s) :=
  ⟨⟨demo.modCore 0 fun c => { c with l1 := [⟨5, 0, 0⟩] }, _, List.mem_singleton.2 rfl, rfl⟩,
    ⟨demo.modDie 0 fun d => { d with replicas := [⟨5, 0, 0, 0, 0, 0⟩] }, _, List.mem_singleton.2 rfl, rfl⟩,
    ⟨demo.modCore 0 fun c => { c with mat := { c.mat with q8 := [default], q9 := [default] } }, by decide, by decide⟩, by decide, by decide,
    ⟨rfl, rfl, rfl, rfl, rfl, fun l => allPeers_homes _ rfl (by decide) rfl l⟩⟩

/-! ### Translation and the machine -/

theorem witness_Translation_hit :
    Issues demo {} demoE ∧ Reaches demo demoE 0xFFFFF .load ⟨0xFFFFF, openPte, 0, 0, 0x100000⟩ ∧
    canonical 0x0100000000000000 = false ∧ canonical 0xFF00000000000000 = true :=
  ⟨demo_issues _ _, demo_reaches [] none Pfx.neutral id 0xFFFFF .load (by decide) (by decide), by decide, by decide⟩

/-- A leaf that permits nothing. -/
def demoShut : State := { demo with cores := [(0, { Machine.Core.empty with tlb := [⟨0, 0, 0, 0x100000, 0x40000000000000C1, 0⟩] })] }

theorem witness_Translation_refused :
    ∃ x : TlbEntry × State, findLeaf ⟨some 0, 0, 0⟩ 0 .load demoShut = .ok x ∧ permits x.1.pte .load = some 1 :=
  answers (fun x => _) (by decide +kernel)

/-- A zero entry; a pointer in a table of level 0; a pointer to the next table; a leaf in a table of level 4; a leaf. -/
theorem witness_Translation_walk :
    answer (readPte (0 + 8 * tableIdx 4 (0 : Word).toNat)) demo = some (0, demo) ∧ fld 0 0 0 = 0 ∧
    answer (readPte (0 + 8 * tableIdx 4 (0 : Word).toNat)) (demoG tables none id) = some (0x20003, demoG tables none id) ∧
    fld 1 0 0x20003 = 3 ∧ pointerMalformed 0 0x20003 = true ∧ pointerMalformed 4 0x20003 = false ∧ 4 = 3 + 1 ∧
    answer (readPte (0x8000 + 8 * tableIdx 0 (0 : Word).toNat)) (demoG tables none id) = some (0xA00DD, demoG tables none id) ∧
    fld 1 0 0xA00DD = 1 ∧ fld 63 60 0xA00DD % 5 = 0 ∧ leafMalformed 4 0xA00DD = true ∧ leafMalformed 0 0xA00DD = false := by
  refine ⟨by decide +kernel, by decide, by decide +kernel, by decide, by decide, by decide, by decide, by decide +kernel, by decide,
    by decide, by decide, by decide⟩

/-- A run of four entries for a page of 16 KiB at 0xC000, which agree, or of which the second names the page at 0x10000. -/
def runMem (x : Byte) : List Cell :=
  [(0x8000, 0xDD), (0x8002, 0xC), (0x8007, 0x10), (0x8008, 0xDD), (0x800A, x), (0x800F, 0x10), (0x8010, 0xDD), (0x8012, 0xC),
    (0x8017, 0x10), (0x8018, 0xDD), (0x801A, 0xC), (0x801F, 0x10)]

theorem witness_Translation_run :
    (let s := demoG (runMem 0xC) none id
     answer (readPte (0x8000 + 8 * tableIdx 0 (0 : Word).toNat)) s = some (0x10000000000C00DD, s) ∧
     fld 1 0 0x10000000000C00DD = 1 ∧ 4 = 4 ^ (fld 63 60 0x10000000000C00DD % 5) ∧ 0x8000 = 0x8000 - 8 * (0x8000 / 8 % 4) ∧
     sameRun 0x10000000000C00DD ((List.range 4).map fun i => s.pteAt (0x8000 + 8 * i)) = true ∧
     leafMalformed 0 0x10000000000C00DD = false ∧ leafMalformed 1 0x10000000000C00DD = true) ∧
    (let s := demoG (runMem 0x10) none id
     let t : State := { s with freeCtr := s.freeCtr + 1 }
     sameRun 0x10000000000C00DD ((List.range 4).map fun i => s.pteAt (0x8000 + 8 * i)) = false ∧
     ∀ i < 4, answer (readPte (0x8000 + 8 * i)) t = some (if i = 1 then 0x10000000001000DD else 0x10000000000C00DD, t)) := by
  decide +kernel

theorem witness_Translation_locq :
    demoE.readsUni 96 ∧ demoE.hasVec 95 ∧ demoE.hasUni 127 ∧ demoE.reads 1 ∧
    Learns (locate demoE.ag (demoE.uni 96)) demo (some (0, openPte)) (stateOf (locate demoE.ag (demoE.uni 96)) demo) ∧
    ∀ l ∈ lanesOf demoE.path.lanes, locate demoE.ag (laneOf (demoE.operand 1) l) demo = .ok (some (0, openPte), demo) := by
  refine ⟨demo_plainE.readsUni _ (by decide), demo_plainE.vec _ (by decide), demo_plainE.uni _ (by decide), demo_plainE.reads _,
    learnsTo (by decide +kernel), fun l _ => ?_⟩
  have : laneOf (demoE.operand 1) l = 0 := demo_vector [] none Pfx.neutral 1 (by decide) l
  rw [this]
  rfl

theorem witness_MemoryKept : MemOk ({ demo with moves := [.tick 1] } : State) ∧ SlicesOk ({ demo with moves := [.tick 1] } : State) ∧ ∃ t, step { demo with moves := [.tick 1] } = .next t :=
  ⟨(rfl : Memory.wf [] = true), List.nodup_nil, _, rfl⟩

theorem witness_EncodeDecode : encode (.iadd 95 0 127 3) = some (wordOf (.iadd 95 0 127 3)).toNat ∧
    (wordOf (.iadd 95 0 127 3)).toNat < 2 ^ 32 ∧ decodeWord (wordOf (.iadd 95 0 127 3)).toNat = .ok (.iadd 95 0 127 3) := by decide

/-- The path stands at IADD; at a word of no instruction; at a prefix word before a prefix word. -/
def demoIssue (ws : List Code) : State :=
  { demoG [] none (fun g => { g with paths := g.paths.map fun p => { p with cl := some ⟨0, (oneWordClause 0 0).hdr, ws, true⟩ } }) with
    moves := [.issue 0 0 0] }

theorem witness_StepRuns_issue :
    (∃ u, ({ demoIssue [wordOf (.iadd 1 2 3 3)] with moves := [] } : State).issuing 0 0 0 = some u ∧
      isPrefixWord u.cur.word.toNat = false ∧ decodeWord u.cur.word.toNat = .ok (.iadd 1 2 3 3)) ∧
    (∃ u x, ({ demoIssue [0xFFFFFFFF] with moves := [] } : State).issuing 0 0 0 = some u ∧ isPrefixWord u.cur.word.toNat = false ∧
      decodeWord u.cur.word.toNat = .error x) ∧
    (∃ u, ({ demoIssue [pfxC, pfxC] with moves := [] } : State).issuing 0 0 0 = some u ∧ isPrefixWord u.cur.word.toNat = true) :=
  ⟨⟨_, rfl, by decide, by decide⟩, ⟨_, _, rfl, by decide, rfl⟩, ⟨_, rfl, by decide⟩⟩

/-- Two groups of one issue set stand at an MCAS: the lower one's turn comes first. -/
theorem witness_StepRuns_turn :
    let s := demoPairAt [] (wordOf (.mcas 100 96)) id
    let p := fun grp => ((s.pathAt 0 grp 0).getD default)
    s.turn 0 0 (p 0) = true ∧ s.turn 0 1 (p 1) = false ∧ (s.issuing 0 0 0).isSome = true ∧ (s.issuing 0 1 0).isSome = true ∧
    (p 0).setKey.isSome = true ∧ (s.fellows 0 0 (p 0)).length = 1 := by
  decide +kernel

theorem witness_StepRuns_words :
    let c : Clause := ⟨0, (oneWordClause 0 0).hdr, [pfxC, wordOf (.iadd 1 2 3 3)], true⟩
    c.ready = true ∧ c.words[0]? = some pfxC ∧ c.words[0 + 1]? = some (wordOf (.iadd 1 2 3 3)) ∧ c.header.toNat + 4 * (1 + 1) < 2 ^ 64 ∧
    (4 : Word).toNat = c.header.toNat + 4 * (0 + 1) ∧ isPrefixWord pfxC.toNat = true ∧
    c.words[1]? = some (wordOf (.iadd 1 2 3 3)) ∧ isPrefixWord (wordOf (.iadd 1 2 3 3)).toNat = false ∧
    ({ demo with moves := [.event .powerRemove] } : State).moves = .event .powerRemove :: [] ∧ encode .powerRemove = none ∧
    ({ demo with moves := [.tick 20] } : State).moves = .tick 20 :: [] :=
  ⟨rfl, rfl, rfl, by decide, by decide, by decide, rfl, by decide, rfl, rfl, rfl⟩

end Sys2Proof.Tests
end

/-!
PROOF. The atomics (spec/04 R87 to R94), on what an access at home moves and leaves: memory in its canonical form, what the caches,
counters and slices may move while the word is still being issued, and what each part of an access answers with nothing buffered.
-/

namespace Sys2Proof.Machine

open Host Safety

/-! ### Sparse maps, and the cores and dies held in them -/

theorem SMap.find?_put {α : Type} (m : SMap α) (k i : Nat) (a : α) :
    SMap.find? (SMap.put m k a) i = if i = k then some a else SMap.find? m i := by
  induction m with
  | nil => simp only [SMap.put, SMap.find?, eq_comm]
  | cons c r ih =>
    obtain ⟨j, b⟩ := c
    by_cases hj : j = k
    · subst hj
      by_cases hi : j = i
      · simp [SMap.put, SMap.find?, hi]
      · simp [SMap.put, SMap.find?, hi, Ne.symm hi]
    · by_cases hi : j = i
      · subst hi; simp [SMap.put, SMap.find?, hj]
      · simp [SMap.put, SMap.find?, hj, hi, ih]

theorem SMap.getD_put {α : Type} (m : SMap α) (k i : Nat) (a d : α) :
    SMap.getD (SMap.put m k a) i d = if i = k then a else SMap.getD m i d := by
  unfold SMap.getD
  rw [SMap.find?_put]
  split <;> rfl

theorem State.coreAt_modCore (s : State) (c d : Nat) (f : Core → Core) :
    (s.modCore c f).coreAt d = if d = c then f (s.coreAt c) else s.coreAt d := SMap.getD_put ..

theorem State.dieAt_modDie (s : State) (d i : Nat) (f : Die → Die) :
    (s.modDie d f).dieAt i = if i = d then f (s.dieAt d) else s.dieAt i := SMap.getD_put ..

/-! ### What the caches, counters and slices may move while nothing else does -/

/-- The home of a line answers as before when peers, spread and reset domains stand, and each line is in an object as before. -/
theorem State.homeGone_congr {s t : State} (hp : t.peers = s.peers) (hs : t.spread = s.spread)
    (hd : ∀ d, (t.dieAt d).l2Reset = (s.dieAt d).l2Reset) (ho : ∀ l, (t.objOf l).isSome = (s.objOf l).isSome) (l : Nat) :
    t.homeGone l = s.homeGone l := by
  have hl : t.lineDie l = s.lineDie l := by simp only [State.lineDie, State.storageDie, hs]
  have ha : t.atSlice l = s.atSlice l := by simp only [State.atSlice, ho]
  unfold State.homeGone
  rw [hp, hl, hd, ha]

/-- From `s` to `t` only memory, caches, slices, coherence states and performance counters may have moved: what a word that
accesses memory needs of the state still holds. -/
structure Keeps (s t : State) : Prop where
  cur : t.cur = s.cur
  blocks : t.blocks = s.blocks
  grids : t.grids = s.grids
  parts : t.parts = s.parts
  time : t.time = s.time
  cmds : t.cmds = s.cmds
  mats : t.mats = s.mats
  queues : t.queues = s.queues
  clamps : t.clamps = s.clamps
  migrs : t.migrs = s.migrs
  poison : t.poison = s.poison
  monitors : t.monitors = s.monitors
  fwd : t.fwd = s.fwd
  ctxs : t.ctxs.map sansPmc = s.ctxs.map sansPmc
  wc : ∀ c, (t.coreAt c).wc = (s.coreAt c).wc
  homes : ∀ l, t.homeGone l = s.homeGone l

namespace Keeps

theorem refl (s : State) : Keeps s s where
  cur := rfl
  blocks := rfl
  grids := rfl
  parts := rfl
  time := rfl
  cmds := rfl
  mats := rfl
  queues := rfl
  clamps := rfl
  migrs := rfl
  poison := rfl
  monitors := rfl
  fwd := rfl
  ctxs := rfl
  wc _ := rfl
  homes _ := rfl

theorem trans {s t u : State} (h : Keeps s t) (k : Keeps t u) : Keeps s u where
  cur := k.cur.trans h.cur
  blocks := k.blocks.trans h.blocks
  grids := k.grids.trans h.grids
  parts := k.parts.trans h.parts
  time := k.time.trans h.time
  cmds := k.cmds.trans h.cmds
  mats := k.mats.trans h.mats
  queues := k.queues.trans h.queues
  clamps := k.clamps.trans h.clamps
  migrs := k.migrs.trans h.migrs
  poison := k.poison.trans h.poison
  monitors := k.monitors.trans h.monitors
  fwd := k.fwd.trans h.fwd
  ctxs := k.ctxs.trans h.ctxs
  wc c := (k.wc c).trans (h.wc c)
  homes l := (k.homes l).trans (h.homes l)

theorem foldl {α : Type} {f : State → α → State} (hf : ∀ s a, Keeps s (f s a)) (l : List α) (s : State) :
    Keeps s (l.foldl f s) := by
  induction l generalizing s with
  | nil => exact refl s
  | cons a r ih => exact (hf s a).trans (ih _)

/-- A core that changes outside its write-combining buffer. -/
theorem modCore (s : State) (c : Nat) {f : Core → Core} (hf : ∀ k, (f k).wc = k.wc) : Keeps s (s.modCore c f) :=
  { refl s with
    wc := fun d => by
      rw [State.coreAt_modCore]
      split
      · next h => rw [hf, h]
      · rfl }

/-- A die that stays in or out of reset. -/
theorem modDie (s : State) (d : Nat) {f : Die → Die} (hf : ∀ k, (f k).l2Reset = k.l2Reset) : Keeps s (s.modDie d f) :=
  { refl s with
    homes := State.homeGone_congr rfl rfl (fun i => by
      rw [State.dieAt_modDie]
      split
      · next h => rw [hf, h]
      · rfl) (fun _ => rfl) }

theorem setL2 (s : State) (l : List HomeLine) : Keeps s { s with l2 := l } := { refl s with }

/-! #### Performance counters -/

/-- A change of one context's performance counters is none of anything else. -/
theorem map_modify_sansPmc (l : List Ctx) (i : Nat) {f : Ctx → Ctx} (hf : ∀ c, sansPmc (f c) = sansPmc c) :
    (l.modify i f).map sansPmc = l.map sansPmc := by
  apply List.ext_getElem?
  intro j
  rw [List.getElem?_map, List.getElem?_modify, List.getElem?_map]
  cases l[j]? with
  | none => rfl
  | some c =>
    by_cases h : i = j
    · simp [h, hf]
    · simp [h]

theorem bumped (s : State) (ctx event amount die : Nat) : Keeps s (s.bumped ctx event amount die) := by
  unfold State.bumped
  split
  · exact { refl s with ctxs := map_modify_sansPmc s.ctxs ctx fun _ => rfl }
  · exact refl s

theorem remote (s : State) (ctx die l n pte : Nat) : Keeps s (s.remote ctx die l n pte) := by
  unfold State.remote
  split
  · exact refl s
  · refine Keeps.trans ?_ (bumped _ ..)
    split
    · exact refl s
    · exact bumped s ..

/-! #### Slices -/

theorem evict (die : Nat) (s : State) (t : Tag) : Keeps s (State.evict die s t) := by
  unfold State.evict
  split
  · exact modDie s die fun _ => rfl
  · exact setL2 s _

theorem roomAt {s u : State} {die : Nat} {t : Tag} (h : s.roomAt die t = some u) : Keeps s u := by
  unfold State.roomAt at h
  split at h
  · cases h; exact refl s
  · obtain ⟨gone, -, rfl⟩ := Option.map_eq_some_iff.mp h
    exact foldl (evict die) gone s

theorem enter {s u : State} {x : HomeLine} (h : s.enter x = some u) : Keeps s u := by
  obtain ⟨t, ht, rfl⟩ := Option.map_eq_some_iff.mp h
  exact (roomAt ht).trans (setL2 t _)

theorem slices {s u : State} {line pte now : Nat} {w : Bool} (h : s.slices line pte now w = some u) : Keeps s u := by
  dsimp only [State.slices] at h
  split at h
  · exact enter h
  · split at h
    · exact enter h
    · cases h; exact refl s

theorem slices_getD (s : State) (line pte now : Nat) (w : Bool) : Keeps s ((s.slices line pte now w).getD s) := by
  cases h : s.slices line pte now w with
  | none => exact refl s
  | some u => exact slices h

end Keeps

/-! ### A write performed at home, where nothing is poisoned or watched -/

theorem CohObj.written_has (line l : Nat) (o : CohObj) : (o.written line).has l = o.has l := by
  unfold CohObj.written
  split <;> rfl

theorem Keeps.toDevice (s : State) (line : Nat) : Keeps s (s.toDevice line) :=
  { Keeps.refl s with
    homes := State.homeGone_congr rfl rfl (fun _ => rfl) fun l => by
      have hp : (fun o : CohObj => o.has l) ∘ CohObj.written (s.origin line) = fun o => o.has l :=
        funext fun o => CohObj.written_has _ _ o
      show ((s.objs.map (CohObj.written (s.origin line))).find? fun o => o.has l).isSome = _
      rw [List.find?_map, hp, Option.isSome_map]
      rfl }

theorem State.reevaluate_of_no_monitors {s : State} (h : s.monitors = []) (line : Nat) : s.reevaluate line = s := by
  cases s
  cases h
  rfl

theorem Keeps.putPart {s : State} (hp : s.poison = []) (hm : s.monitors = []) (line : Nat) (data : BitVec 1024)
    (mask : BitVec 128) (pte : Nat) (whole : BitVec 16) : Keeps s (s.putPart line data mask pte whole) := by
  unfold State.putPart
  have h1 : ∀ (m : List Cell) (f : Nat → Bool), Keeps s { s with mem := m, poison := s.poison.filter f } := fun m f =>
    { Keeps.refl s with poison := by simp [hp] }
  have h2 := (h1 (putMasked s.mem line data.toNat mask.toNat 0 128)
    (fun g => !(decide (g / 16 = line) && whole.getLsbD (g % 16)))).trans (Keeps.slices_getD _ line pte
      (lineOf (putMasked s.mem line data.toNat mask.toNat 0 128) line) true)
  rw [State.reevaluate_of_no_monitors (h2.monitors.trans hm)]
  exact h2

theorem Keeps.putHome {s : State} (hp : s.poison = []) (hm : s.monitors = []) (line : Nat) (data : BitVec 1024)
    (mask : BitVec 128) (pte : Nat) : Keeps s (s.putHome line data mask pte) :=
  (Keeps.toDevice s line).trans (Keeps.putPart (s := s.toDevice line) hp hm line data mask pte (wholeOf mask))


/-! ### Memory in its canonical form is determined by its bytes -/

/-- Memories in their canonical form that agree on every byte are equal data. -/
theorem Memory.ext_of_getByte {m k : List Cell} {lo : Nat} (hm : Memory.wfFrom lo m = true) (hk : Memory.wfFrom lo k = true)
    (h : ∀ x, getByte m x = getByte k x) : m = k := by
  induction m generalizing lo k with
  | nil =>
    cases k with
    | nil => rfl
    | cons c r =>
      simp only [Memory.wfFrom, Bool.and_eq_true, decide_eq_true_eq] at hk
      exact absurd (by simpa [getByte] using (h c.1).symm) hk.1.2
  | cons c r ih =>
    obtain ⟨a, b⟩ := c
    cases k with
    | nil =>
      simp only [Memory.wfFrom, Bool.and_eq_true, decide_eq_true_eq] at hm
      exact absurd (by simpa [getByte] using h a) hm.1.2
    | cons c' r' =>
      obtain ⟨a', b'⟩ := c'
      simp only [Memory.wfFrom, Bool.and_eq_true, decide_eq_true_eq] at hm hk
      have ha : a = a' := by
        rcases Nat.lt_trichotomy a a' with hlt | heq | hlt
        · have h1 := h a
          simp only [getByte, if_true, if_neg (Nat.ne_of_gt hlt)] at h1
          exact absurd (h1.trans (getByte_below hk.2 (by omega))) hm.1.2
        · exact heq
        · have h1 := h a'
          simp only [getByte, if_true, if_neg (Nat.ne_of_gt hlt)] at h1
          exact absurd (h1.symm.trans (getByte_below hm.2 (by omega))) hk.1.2
      subst ha
      have hb : b = b' := by simpa [getByte] using h a
      subst hb
      congr 1
      refine ih hm.2 hk.2 fun x => ?_
      by_cases hx : a = x
      · rw [getByte_below hm.2 (by omega), getByte_below hk.2 (by omega)]
      · simpa only [getByte, if_neg hx] using h x

/-! ### A span of a line -/

theorem spanMask_testBit {o n i : Nat} (hi : i < 128) : (spanMask o n).toNat.testBit i = decide (o ≤ i ∧ i < o + n) := by
  unfold spanMask
  rw [BitVec.toNat_ofNat, Nat.testBit_mod_two_pow, Nat.testBit_mul_two_pow, Nat.testBit_two_pow_sub_one]
  by_cases h1 : o ≤ i
  · simp only [hi, h1, decide_true, Bool.true_and, true_and]
    congr 1
    exact propext (by omega)
  · simp [h1]

/-- A span of a value fits in a word that holds its last byte. -/
theorem span_toNat {o n N : Nat} (v : Nat) (h : 8 * (n + o) ≤ N) :
    (BitVec.ofNat N (v % 256 ^ n * 256 ^ o)).toNat = v % 256 ^ n * 256 ^ o := by
  rw [BitVec.toNat_ofNat, Nat.mod_eq_of_lt]
  calc v % 256 ^ n * 256 ^ o < 256 ^ n * 256 ^ o :=
        Nat.mul_lt_mul_of_pos_right (Nat.mod_lt _ (Nat.pow_pos (by decide))) (Nat.pow_pos (by decide))
    _ = 256 ^ (n + o) := (Nat.pow_add ..).symm
    _ = 2 ^ (8 * (n + o)) := (Nat.pow_mul 2 8 _).symm
    _ ≤ 2 ^ N := Nat.pow_le_pow_right (by decide) h

theorem spanData_toNat {o n : Nat} (v : Nat) (h : o + n ≤ 128) : (spanData o n v).toNat = v % 256 ^ n * 256 ^ o :=
  span_toNat v (by omega)

/-- The bytes of a span are those of the value stored. -/
theorem spanData_byte {o n v i : Nat} (h : o + n ≤ 128) (h1 : o ≤ i) (h2 : i < o + n) :
    BitVec.ofNat 8 ((spanData o n v).toNat / 256 ^ i) = BitVec.ofNat 8 (v / 256 ^ (i - o)) := by
  obtain ⟨j, rfl⟩ := Nat.exists_eq_add_of_le h1
  obtain ⟨k, rfl⟩ : ∃ k, n = j + 1 + k := Nat.exists_eq_add_of_le (by omega)
  apply BitVec.eq_of_toNat_eq
  rw [spanData_toNat v h, BitVec.toNat_ofNat, BitVec.toNat_ofNat, Nat.pow_add 256 o j,
    ← Nat.div_div_eq_div_mul, Nat.mul_div_cancel _ (Nat.pow_pos (by decide)), Nat.add_sub_cancel_left,
    Nat.pow_add 256 (j + 1) k, Nat.mod_mul, Nat.pow_succ]
  rw [show v % (256 ^ j * 256) + 256 ^ j * 256 * (v / (256 ^ j * 256) % 256 ^ k) =
    v % (256 ^ j * 256) + 256 * (v / (256 ^ j * 256) % 256 ^ k) * 256 ^ j by ring]
  rw [Nat.add_mul_div_right _ _ (Nat.pow_pos (by decide)), Nat.mod_mul_right_div_self]
  omega

/-- A store of a span of one line, written at its home, is a store of its bytes. -/
theorem putMasked_span {m : List Cell} (hm : Memory.wf m = true) {pa n : Nat} (v : Nat) (h : pa % 128 + n ≤ 128) :
    putMasked m (pa / 128) (spanData (pa % 128) n v).toNat (spanMask (pa % 128) n).toNat 0 128 = putBytes m pa n v := by
  refine Memory.ext_of_getByte (putMasked_wf _ _ _ _ _ hm) (putBytes_wf _ _ _ hm) fun x => ?_
  rw [getByte_putMasked _ _ _ _ _ _ hm (by decide), getByte_putBytes _ _ _ _ hm, spanMask_testBit (by omega)]
  by_cases hx : pa ≤ x ∧ x < pa + n
  · rw [if_pos hx, if_pos ⟨by omega, by omega, by omega, by simp only [decide_eq_true_eq]; omega⟩,
      spanData_byte h (by omega) (by omega), show x % 128 - pa % 128 = x - pa by omega]
  · rw [if_neg hx, if_neg]
    rintro ⟨h1, -, -, h2⟩
    rw [decide_eq_true_eq] at h2
    omega


/-! ### Meanings that answer -/

theorem onFlt_ok {α : Type} {g : Flt → Flt} {m : M α} {s t : State} {a : α} (h : m s = .ok (a, t)) :
    onFlt g m s = .ok (a, t) := by
  unfold onFlt
  rw [h]

theorem atAddr_ok {α : Type} {va : Word} {m : M α} {s t : State} {a : α} (h : m s = .ok (a, t)) :
    atAddr va m s = .ok (a, t) := onFlt_ok h

theorem atLane_ok {α : Type} {l : Nat} {m : M α} {s t : State} {a : α} (h : m s = .ok (a, t)) :
    atLane l m s = .ok (a, t) := onFlt_ok h

theorem check_ok {b : Bool} (f : Flt) (s : State) (h : b = true) : check b f s = .ok ((), s) := by
  rw [h]; rfl

/-- An answer that one branch looks for, and the other has already. -/
theorem M.ite_bind {α β : Type} {c : Prop} [Decidable c] {m : M α} {k : α → M β} {s : State} {a x : α}
    (h : c → m s = .ok (a, s)) : (if c then m >>= k else pure x >>= k) s = k (if c then a else x) s := by
  split
  · next hc => rw [M.bind_ok (h hc)]
  · rfl

/-- A check that only one branch makes, and that it passes. -/
theorem M.ite_then {α β : Type} {c : Prop} [Decidable c] {m : M α} {k : M β} {s : State} {a : α}
    (h : c → m s = .ok (a, s)) : (if c then m >>= fun _ => k else k) s = k s := by
  split
  · next hc => rw [M.bind_ok (h hc)]
  · rfl

/-- Answers that leave the state as it is, collected. -/
theorem collect_ok {α β : Type} {l : List α} {f : α → M β} {g : α → β} {s : State} (h : ∀ a ∈ l, f a s = .ok (g a, s)) :
    collect l f s = .ok (l.map g, s) := by
  induction l with
  | nil => rfl
  | cons a r ih =>
    unfold collect
    rw [M.bind_ok (h a List.mem_cons_self), M.bind_ok (ih fun b hb => h b (List.mem_cons_of_mem _ hb))]
    rfl

/-! ### Nothing buffered: flushes and drains do nothing -/

theorem flushFwd_nil {s : State} (h : s.fwd = []) (pick : Fwd → Bool) : flushFwd pick s = .ok ((), s) := by
  cases s
  cases h
  rfl

theorem drainCore_nil {s : State} {core : Nat} (h : (s.coreAt core).wc = []) (pick : WcEntry → Bool) :
    drainCore core pick s = .ok ((), s) := by
  unfold drainCore
  rw [M.bind_apply, M.get_apply, M.after_ok, h]
  rfl

end Sys2Proof.Machine

namespace Sys2Proof.Machine.Keeps

open Host Safety

variable {s t : State} {e : Scene}

theorem quiet (k : Keeps s t) (h : Quiet s e) : Quiet t e where
  clamps := k.clamps.trans h.clamps
  migrs := k.migrs.trans h.migrs
  poison := k.poison.trans h.poison
  monitors := k.monitors.trans h.monitors
  fwd := k.fwd.trans h.fwd
  wc := (k.wc e.core).trans h.wc
  owed := h.owed

/-- The word is still being issued by its scene, whose context may have counted. -/
theorem issues {u : PfxUse} (k : Keeps s t) (h : Issues s u e) : ∃ c, Issues t u { e with ctx := c } := by
  have hc := congrArg (fun l => l[e.blk.ctx]?) k.ctxs
  have hs : s.ctxs[e.blk.ctx]? = some e.ctx := h.ctx
  simp only [List.getElem?_map, hs, Option.map_some, Option.map_eq_some_iff] at hc
  obtain ⟨c, hc, -⟩ := hc
  refine ⟨c, ?_, ?_, ?_, ?_, hc, h.core, ?_⟩
  · rw [State.blkAt, k.blocks, k.cur]; exact h.blk
  · rw [k.cur]; exact h.grp
  · rw [k.cur]; exact h.path
  · rw [k.grids]; exact h.grid
  · rw [pfxFor, k.cur]; exact h.pfx

/-- When the group then changes and goes to the next word, that is all an observer sees but for memory. -/
theorem sameBut (k : Keeps s t) (f : Group → Group) : SameBut s (wrote t f) f := by
  refine ⟨?_, k.grids, k.parts, k.time, k.cmds, k.mats, k.queues, k.ctxs⟩
  simp only [wrote, State.modGrp, State.modBlk, k.cur, k.blocks]

end Sys2Proof.Machine.Keeps

namespace Sys2Proof.Safety.Quiet

open Sys2Proof.Machine Host

variable {s : State} {e : Scene}

theorem pinned (h : Quiet s e) (t : Tag) : s.pinned t = false := State.pinned_free h.clamps h.migrs h.monitors t

theorem resolve (h : Quiet s e) (line : Nat) : s.resolve line = line := by
  unfold State.resolve
  rw [h.migrs]
  rfl

theorem atHome (h : Quiet s e) {line : Nat} (hh : s.homeGone line = none) (w : Bool) :
    Machine.atHome line w s = .ok (line, s) := by
  unfold Machine.atHome
  simp [h.resolve, hh, State.clamped, State.moving, h.clamps, h.migrs]

theorem poisonIn (h : Quiet s e) (pa n : Nat) : s.poisonIn pa n = none := by
  unfold State.poisonIn
  rw [h.poison]
  rfl

/-- The issuing core's own copies of a line go; nothing had to be performed first. -/
theorem ownCopies (h : Quiet s e) (line : Nat) :
    ∃ t, Machine.ownCopies e.ag line s = .ok ((), t) ∧ Keeps s t ∧ t.mem = s.mem := by
  have h1 : drainLine e.core line s = .ok ((), s) := drainCore_nil h.wc _
  refine ⟨_, ?_, (Keeps.modCore s e.core (f := fun k => k.dropL1 line) fun _ => rfl).trans
    (Keeps.modDie _ (dieOf e.core) (f := fun d => d.dropReplica line) fun _ => rfl), rfl⟩
  unfold Machine.ownCopies
  simp [Scene.ag, h1, flushFwd_nil h.fwd]

/-- A line that a read brings to its slice finds room there. -/
theorem allocate (h : Quiet s e) (line pte : Nat) :
    ∃ t, Machine.allocate line pte s = .ok ((), t) ∧ Keeps s t ∧ t.mem = s.mem := by
  obtain ⟨t, ht⟩ := Option.isSome_iff_exists.mp (State.slices_isSome h.pinned line pte (lineOf s.mem line) false)
  have hm := State.slices_mem s line pte (lineOf s.mem line) false
  rw [ht] at hm
  refine ⟨t, ?_, Keeps.slices ht, hm⟩
  unfold Machine.allocate
  simp [ht]

/-- A write at home finds room at its slice. -/
theorem writeAt (h : Quiet s e) (line : Nat) (data : BitVec 1024) (mask : BitVec 128) (pte : Nat) :
    Machine.writeAt line data mask pte s = .ok ((), s.putHome line data mask pte) := by
  obtain ⟨t, ht⟩ := Option.isSome_iff_exists.mp
    (State.slices_isSome h.pinned line pte (mergeLine (lineOf s.mem line) data.toNat mask.toNat) true)
  have hr : roomFor line data mask pte s = .ok ((), s) := by
    unfold roomFor
    simp [ht]
  exact M.bind_ok hr

end Sys2Proof.Safety.Quiet

namespace Sys2Proof.Machine

open Host Safety

/-! ### One read-modify-write, and those of several lanes in order -/

/-- Memory after a read-modify-write of `n` bytes at `pa`: `f` gives the new value, or none to store nothing. -/
def rmw (m : List Cell) (pa n : Nat) (f : Nat → Option Nat) : List Cell :=
  match f (getBytes m pa n) with
  | some new => putBytes m pa n new
  | none => m

theorem rmw_some {m : List Cell} {pa n new : Nat} {f : Nat → Option Nat} (h : f (getBytes m pa n) = some new) :
    rmw m pa n f = putBytes m pa n new := by
  unfold rmw
  rw [h]

theorem rmw_none {m : List Cell} {pa n : Nat} {f : Nat → Option Nat} (h : f (getBytes m pa n) = none) : rmw m pa n f = m := by
  unfold rmw
  rw [h]

theorem rmw_wf {m : List Cell} (h : Memory.wf m = true) (pa n : Nat) (f : Nat → Option Nat) :
    Memory.wf (rmw m pa n f) = true := by
  unfold rmw
  split
  · exact putBytes_wf _ _ _ h
  · exact h

/-- The read-modify-write of one more lane, after those of the lanes before it: memory, and what each lane has read. -/
def rmwLane (f : Nat → Nat → Option Nat) (tr : Nat → Tr) (n : Nat) (x : List Cell × List (Nat × Nat)) (l : Nat) :
    List Cell × List (Nat × Nat) :=
  (rmw x.1 (tr l).pa n (f l), x.2 ++ [(l, getBytes x.1 (tr l).pa n)])

/-- What the lanes before have read stands before what these read, and does not matter to them. -/
theorem foldl_rmwLane (f : Nat → Nat → Option Nat) (tr : Nat → Tr) (n : Nat) (ls : List Nat) (m : List Cell)
    (acc : List (Nat × Nat)) :
    ls.foldl (rmwLane f tr n) (m, acc) =
      ((ls.foldl (rmwLane f tr n) (m, [])).1, acc ++ (ls.foldl (rmwLane f tr n) (m, [])).2) := by
  induction ls generalizing m acc with
  | nil => simp
  | cons l r ih =>
    simp only [List.foldl_cons, rmwLane]
    rw [ih _ (acc ++ _), ih _ ([] ++ _)]
    simp

/-- The lanes that have read are those that were to, in their order. -/
theorem foldl_rmwLane_lanes (f : Nat → Nat → Option Nat) (tr : Nat → Tr) (n : Nat) (ls : List Nat) (m : List Cell) :
    (ls.foldl (rmwLane f tr n) (m, [])).2.map Prod.fst = ls := by
  induction ls generalizing m with
  | nil => rfl
  | cons l r ih =>
    rw [List.foldl_cons]
    simp only [rmwLane]
    rw [foldl_rmwLane]
    simp [ih]


/-- A change of the state that only one branch makes. -/
theorem M.ite_modify {β : Type} {c : Prop} [Decidable c] {g : State → State} {k : PUnit → M β} {s : State} :
    (if c then modify g >>= k else k ⟨⟩) s = k ⟨⟩ (if c then g s else s) := by
  split <;> rfl

theorem Keeps.toDeviceIf (s : State) (line : Nat) (c : Prop) [Decidable c] : Keeps s (if c then s.toDevice line else s) := by
  split
  · exact Keeps.toDevice s line
  · exact Keeps.refl s

theorem State.toDeviceIf_mem (s : State) (line : Nat) (c : Prop) [Decidable c] :
    (if c then s.toDevice line else s).mem = s.mem := by
  split <;> rfl

theorem State.bumped_mem (s : State) (ctx event amount die : Nat) : (s.bumped ctx event amount die).mem = s.mem := by
  unfold State.bumped
  split <;> rfl

theorem State.remote_mem (s : State) (ctx die l n pte : Nat) : (s.remote ctx die l n pte).mem = s.mem := by
  unfold State.remote
  split
  · rfl
  · rw [State.bumped_mem]
    split
    · rfl
    · rw [State.bumped_mem]

end Sys2Proof.Machine

namespace Sys2Proof.Safety.Quiet

open Sys2Proof.Machine Host

variable {s : State} {e : Scene} {n : Nat}

/-- A write at home of a span of its line leaves memory with the span's bytes. -/
theorem putHome_span (h : Quiet s e) (hm : MemOk s) {pa : Nat} (hn : pa % 128 + n ≤ 128) (v pte : Nat) :
    Keeps s (s.putHome (pa / 128) (spanData (pa % 128) n v) (spanMask (pa % 128) n) pte) ∧
      (s.putHome (pa / 128) (spanData (pa % 128) n v) (spanMask (pa % 128) n) pte).mem = putBytes s.mem pa n v :=
  ⟨Keeps.putHome h.poison h.monitors .., by rw [State.putHome_mem, putMasked_span hm v hn]⟩

/-- An atomic within one line whose home answers reads its word there and leaves memory with what it stores. -/
theorem atomicHome (h : Quiet s e) (hm : MemOk s) {tr : Tr} (hn : tr.pa % 128 + n ≤ 128)
    (hh : s.homeGone (tr.pa / 128) = none) (f : Nat → Option Nat) :
    ∃ t, Machine.atomicHome e.ag tr n f s = .ok (getBytes s.mem tr.pa n, t) ∧ Keeps s t ∧ t.mem = rmw s.mem tr.pa n f := by
  have hpa : 128 * (tr.pa / 128) + tr.pa % 128 = tr.pa := Nat.div_add_mod ..
  obtain ⟨t₁, hown, k₁, m₁⟩ := h.ownCopies (tr.pa / 128)
  have hat := (k₁.quiet h).atHome ((k₁.homes _).trans hh) true
  have k₂ := Keeps.toDeviceIf t₁ (tr.pa / 128) (regionOf tr.pa ≠ 0)
  obtain ⟨t₃, halloc, k₃, m₃⟩ := (k₂.quiet (k₁.quiet h)).allocate (tr.pa / 128) tr.pte
  have k₄ := ((k₁.trans k₂).trans k₃).trans (Keeps.remote t₃ e.ag.ctx e.ag.die (tr.pa / 128) n tr.pte)
  have m₄ : (t₃.remote e.ag.ctx e.ag.die (tr.pa / 128) n tr.pte).mem = s.mem := by
    rw [State.remote_mem, m₃, State.toDeviceIf_mem, m₁]
  unfold Machine.atomicHome
  dsimp only
  cases hf : f (getBytes s.mem tr.pa n) with
  | none =>
    refine ⟨_, atAddr_ok ?_, k₄, m₄.trans (rmw_none hf).symm⟩
    rw [M.bind_ok hown, M.bind_ok hat, M.bind_ok (M.get_apply _), (k₁.quiet h).poisonIn]
    dsimp only
    rw [M.ite_modify, M.bind_ok halloc, M.bind_ok (M.modify_apply ..), hpa, m₁, hf]
    rfl
  | some new =>
    have q₄ := k₄.quiet h
    have hm₄ : MemOk (t₃.remote e.ag.ctx e.ag.die (tr.pa / 128) n tr.pte) := by rw [MemOk, m₄]; exact hm
    obtain ⟨k₅, m₅⟩ := q₄.putHome_span hm₄ hn new tr.pte
    refine ⟨_, atAddr_ok ?_, k₄.trans k₅, by rw [m₅, m₄, rmw_some hf]⟩
    rw [M.bind_ok hown, M.bind_ok hat, M.bind_ok (M.get_apply _), (k₁.quiet h).poisonIn]
    dsimp only
    rw [M.ite_modify, M.bind_ok halloc, M.bind_ok (M.modify_apply ..), hpa, m₁, hf]
    exact M.bind_ok (q₄.writeAt ..)

/-- The atomics of several lanes, each within one line whose home answers, are made in the order of the list. -/
theorem collect_atomicHome (h : Quiet s e) (hm : MemOk s) (f : Nat → Nat → Option Nat) {tr : Nat → Tr} {ls : List Nat}
    (hl : ∀ l ∈ ls, (tr l).pa % 128 + n ≤ 128 ∧ s.homeGone ((tr l).pa / 128) = none) :
    ∃ t, collect (ls.map fun l => (l, tr l)) (fun x => do
        let old ← atLane x.1 (Machine.atomicHome e.ag x.2 n (f x.1))
        pure (x.1, BitVec.ofNat 64 old)) s =
        .ok ((ls.foldl (rmwLane f tr n) (s.mem, [])).2.map fun y => (y.1, BitVec.ofNat 64 y.2), t) ∧
      Keeps s t ∧ t.mem = (ls.foldl (rmwLane f tr n) (s.mem, [])).1 := by
  induction ls generalizing s with
  | nil => exact ⟨s, rfl, Keeps.refl s, rfl⟩
  | cons l r ih =>
    obtain ⟨hn, hh⟩ := hl l List.mem_cons_self
    obtain ⟨u, hu, ku, mu⟩ := h.atomicHome hm hn hh (f l)
    have hmu : MemOk u := by rw [MemOk, mu]; exact rmw_wf hm ..
    obtain ⟨t, ht, kt, mt⟩ := ih (ku.quiet h) hmu fun l' hl' => by
      obtain ⟨h1, h2⟩ := hl l' (List.mem_cons_of_mem _ hl')
      exact ⟨h1, (ku.homes _).trans h2⟩
    rw [mu] at ht mt
    rw [List.foldl_cons, rmwLane, foldl_rmwLane]
    refine ⟨t, ?_, ku.trans kt, mt⟩
    unfold collect
    rw [List.map_cons]
    dsimp only
    rw [M.bind_ok (M.bind_ok (atLane_ok hu)), M.bind_ok ht]
    rfl

end Sys2Proof.Safety.Quiet

namespace Sys2Proof.Safety

open Sys2Proof.Machine Host

/-! ### An access that its address reaches -/

/-- A naturally aligned access of a translated address stays within its line. -/
theorem Reaches.within_line {s : State} {e : Scene} {va : Word} {acc : Acc} {tr : Tr} (hr : Reaches s e va acc tr) {n : Nat}
    (hn : n ∣ 128) (ha : va.toNat % n = 0) : tr.pa % 128 + n ≤ 128 := by
  have h4096 : n ∣ 4096 := hn.trans (by decide)
  have hpa : n ∣ tr.pa := by
    rw [hr.pa]
    exact Nat.dvd_add (h4096.mul_left _) (Nat.dvd_sub (Nat.dvd_of_mod_eq_zero ha) (h4096.trans (Nat.dvd_of_mod_eq_zero hr.page)))
  obtain ⟨i, hi⟩ := (Nat.dvd_mod_iff hn).mpr hpa
  obtain ⟨j, hj⟩ := hn
  have hlt : n * i < n * j := by rw [← hi, ← hj]; exact Nat.mod_lt _ (by decide)
  calc tr.pa % 128 + n = n * (i + 1) := by rw [hi, Nat.mul_succ]
    _ ≤ n * j := Nat.mul_le_mul_left n (Nat.lt_of_mul_lt_mul_left hlt)
    _ = 128 := hj.symm

namespace Issues

variable {s : State} {u : PfxUse} {e : Scene}

theorem curAg (h : Issues s u e) : Machine.curAg s = .ok (e.ag, s) := by
  unfold Machine.curAg
  simp [h.curBlk, h.curCore, Scene.ag]

theorem findLeaf (h : Issues s u e) {va : Word} {acc : Acc} {tr : Tr} (hr : Reaches s e va acc tr) :
    Machine.findLeaf e.ag va acc s = .ok (⟨e.ctx.part, e.ctx.asn, tr.vbase, tr.span, tr.pte, tr.at_⟩, s) := by
  have hc : s.ctxAt e.ag.ctx = some e.ctx := h.ctx
  have hb := hr.hit
  unfold Machine.findLeaf
  rw [M.bind_ok (M.get_apply s), hc]
  simp only [Scene.ag, Option.bind_some, hb]
  rfl

theorem translate (h : Issues s u e) {va : Word} {acc : Acc} {tr : Tr} (hr : Reaches s e va acc tr) :
    Machine.translate e.ag va acc s = .ok (tr, s) := by
  have hcan : (!canonical va) = false := by rw [hr.canon]; rfl
  have hcow : (acc.writes && s.cowHeld e.ag.ctx va) = false := by
    cases hw : acc.writes with
    | false => rfl
    | true => exact hr.unheld hw
  have how : (!s.owns e.ag.ctx tr.pa) = false := by rw [show s.owns e.ag.ctx tr.pa = true from hr.own]; rfl
  have h14 : ¬ (acc.writes = true ∧ fld 14 14 tr.pte = 1) := fun hw => by rw [hr.noCow hw.1] at hw; cases hw.2
  unfold Machine.translate
  refine atAddr_ok ?_
  rw [hcan, if_neg Bool.false_ne_true, M.bind_ok (h.findLeaf hr), hr.perm]
  dsimp only
  rw [← hr.pa, M.bind_ok (M.get_apply s), hcow, if_neg Bool.false_ne_true, how, if_neg Bool.false_ne_true, if_neg h14]
  rfl

theorem reach (hq : Quiet s e) {tr : Tr} (hh : s.homeGone (tr.pa / 128) = none) : Machine.reach tr s = .ok ((), s) := by
  unfold Machine.reach
  rw [M.bind_ok (M.get_apply s), hq.resolve, hh]
  rfl

/-- An aligned access that its address reaches is translated, and its home answers. -/
theorem checkedAccess (h : Issues s u e) (hq : Quiet s e) {va : Word} {acc : Acc} {tr : Tr} (hr : Reaches s e va acc tr)
    {n : Nat} (ha : va.toNat % n = 0) : Machine.checkedAccess e.ag va n acc s = .ok (tr, s) := by
  unfold Machine.checkedAccess
  rw [M.bind_ok (check_ok _ s (by simpa using ha)), M.bind_ok (h.translate hr)]
  dsimp only
  rw [M.ite_then fun _ => reach hq hr.home]
  rfl

theorem checkLanes (h : Issues s u e) (hq : Quiet s e) {ls : List Nat} {addr : Nat → Word} {n : Nat} {acc : Acc} {tr : Nat → Tr}
    (hl : ∀ l ∈ ls, (addr l).toNat % n = 0 ∧ Reaches s e (addr l) acc (tr l)) :
    Machine.checkLanes e.ag ls addr n acc s = .ok (ls.map fun l => (l, tr l), s) :=
  collect_ok fun l hm => by
    obtain ⟨ha, hr⟩ := hl l hm
    rw [M.bind_ok (atLane_ok (h.checkedAccess hq hr ha))]
    rfl

end Issues

end Sys2Proof.Safety

namespace Sys2Proof.Machine

open Host Safety

/-! ### Enabled lanes -/

theorem mem_lanesOf {m : BitVec 32} {l : Nat} : l ∈ lanesOf m ↔ m.getLsbD l = true := by
  simp only [lanesOf, laneIds, List.mem_filter, List.mem_range, and_iff_right_iff_imp]
  exact BitVec.lt_of_getLsbD

/-- The bits ORed in are those of the listed lanes that a test picks. -/
theorem getLsbD_foldl_orBits (p : Nat → Bool) (i : Nat) (L : List Nat) (hL : ∀ l ∈ L, l < 32) (acc : BitVec 32) :
    (L.foldl (fun acc l => if p l then acc ||| BitVec.ofNat 32 (2 ^ l) else acc) acc).getLsbD i =
      (acc.getLsbD i || (L.contains i && p i)) := by
  induction L generalizing acc with
  | nil => simp
  | cons l r ih =>
    have hl := hL l List.mem_cons_self
    have hbit : (BitVec.ofNat 32 (2 ^ l)).getLsbD i = (i == l) := by
      rw [BitVec.getLsbD_ofNat, Nat.testBit_two_pow]
      by_cases h : i = l
      · subst h; simp [hl]
      · simp [h, Ne.symm h]
    have hstep : (if p l then acc ||| BitVec.ofNat 32 (2 ^ l) else acc).getLsbD i = (acc.getLsbD i || ((i == l) && p i)) := by
      by_cases h : i = l
      · subst h
        cases hp : p i
        · simp
        · rw [if_pos rfl, BitVec.getLsbD_or, hbit, Bool.and_true]
      · have h' : (i == l) = false := beq_eq_false_iff_ne.mpr h
        cases p l
        · simp [h']
        · rw [if_pos rfl, BitVec.getLsbD_or, hbit, h', Bool.false_and]
    rw [List.foldl_cons, ih fun x hx => hL x (List.mem_cons_of_mem _ hx), hstep, List.contains_cons, Bool.or_assoc,
      Bool.and_or_distrib_right]

theorem enabledLanes_getLsbD (m : BitVec 32) (k : BitVec 256) (l : Nat) :
    (enabledLanes m k).getLsbD l = (m.getLsbD l && k.getLsbD (l * 8)) := by
  unfold enabledLanes
  rw [getLsbD_foldl_orBits (laneOn k) l (lanesOf m) fun x hx => BitVec.lt_of_getLsbD (mem_lanesOf.mp hx)]
  have hc : (lanesOf m).contains l = m.getLsbD l := by
    rw [Bool.eq_iff_iff, List.contains_iff_mem, mem_lanesOf]
  rw [hc]
  simp [laneOn]

end Sys2Proof.Machine

namespace Sys2Proof.Safety.Issues

open Sys2Proof.Machine Host

variable {s : State} {u : PfxUse} {e : Scene}

theorem accessLanes (h : Issues s u e) (helpers : Bool) :
    Machine.accessLanes e.mask helpers s = .ok (laneIds.filter (e.accesses helpers), s) := by
  unfold Machine.accessLanes
  rw [M.bind_ok h.lanes, M.bind_ok h.curGrp, M.pure_apply, lanesOf, List.filter_filter]
  refine congrArg (fun l => Except.ok (l, s)) (List.filter_congr fun l hl => ?_)
  have hl : l < 32 := List.mem_range.mp hl
  rw [enabledLanes_getLsbD, Scene.accesses, decide_eq_true hl, Bool.true_and, Bool.and_comm]

/-! ### Scope and order -/

/-- A scope the instruction accepts, without a fourth operand of its own: the core that a remote scope names. -/
theorem memOrder_scoped (h : Issues s u e) (hs : Scoped s e) {acc : Acc} {ords : List Nat} (ho : ords.contains e.pfx.ord = true) :
    memOrder e.pfx acc ords true false s = .ok (if e.pfx.scope = 7 then some (e.uni e.op4).toNat else none, s) := by
  unfold memOrder
  unfold Scoped at hs
  rw [M.bind_ok (check_ok _ s ho)]
  split
  · next h7 =>
    rw [if_pos h7] at hs
    obtain ⟨hord, h4, hu, hsite, -⟩ := hs
    have hu' : Machine.readUni (BitVec.ofNat 7 e.pfx.op4) s = .ok (e.uni e.op4, s) := h.readUni hu
    rw [M.bind_ok (check_ok _ s (by simpa [h4] using hord)), M.bind_ok hu', M.bind_ok h.curBlk,
      M.bind_ok (M.get_apply s), M.bind_ok (check_ok _ s hsite)]
    rfl
  · next h7 =>
    rw [if_neg h7] at hs
    rw [M.bind_ok (check_ok _ s (by simpa using hs))]
    rfl

/-- A scope that is not remote, with a fourth operand of the instruction's own. -/
theorem memOrder_own4 {acc : Acc} {ords : List Nat} {remote : Bool} (ho : ords.contains e.pfx.ord = true)
    (h7 : e.pfx.scope ≠ 7) : memOrder e.pfx acc ords remote true s = .ok (none, s) := by
  unfold memOrder
  rw [M.bind_ok (check_ok _ s ho), if_neg h7, M.bind_ok (check_ok _ s (Bool.true_or _))]
  rfl

/-- A release with nothing buffered has nothing to place. -/
theorem releaseCur (h : Issues s u e) (hq : Quiet s e) (scope : Nat) : Machine.releaseCur scope s = .ok ((), s) := by
  have hd : drainGroup e.core s.cur.blk s.cur.grp s = .ok ((), s) := drainCore_nil hq.wc _
  unfold Machine.releaseCur releaseFor
  rw [M.bind_ok (M.get_apply s), M.bind_ok h.curCore]
  split
  · rfl
  · rw [M.bind_ok hd, M.bind_ok (M.get_apply s), M.bind_ok (flushFwd_nil hq.fwd _),
      M.bind_ok (M.get_apply s), h.grpAt, Option.bind_some, hq.owed]
    rfl

theorem acquireFor_keeps (core scope : Nat) (s : State) :
    ∃ t, acquireFor core scope s = .ok ((), t) ∧ Keeps s t ∧ t.mem = s.mem := by
  have k₁ := Keeps.modCore s core (f := fun c => { c with l1 := [] }) fun _ => rfl
  unfold acquireFor
  split
  · exact ⟨s, rfl, Keeps.refl s, rfl⟩
  · rw [M.bind_ok (m := clearL1 core) rfl]
    split
    · exact ⟨_, rfl, k₁.trans (Keeps.modDie _ (dieOf core) (f := Die.nextGen) fun _ => rfl), rfl⟩
    · exact ⟨_, rfl, k₁, rfl⟩

/-- The remote side of an acquire, of a core with an empty write-combining buffer. -/
theorem promote_keeps {core : Nat} (hf : s.fwd = []) (hw : (s.coreAt core).wc = []) :
    ∃ t, promote core s = .ok ((), t) ∧ Keeps s t ∧ t.mem = s.mem := by
  unfold promote
  rw [M.bind_ok (drainCore_nil hw _), M.bind_ok (flushFwd_nil hf _)]
  exact ⟨_, rfl, Keeps.modCore s core (f := fun c => { c with l1 := [] }) fun _ => rfl, rfl⟩

theorem acquireCur_keeps (h : Issues s u e) (hq : Quiet s e) (scope : Nat) {target : Option Nat}
    (ht : ∀ c ∈ target, (s.coreAt c).wc = []) :
    ∃ t, Machine.acquireCur scope target s = .ok ((), t) ∧ Keeps s t ∧ t.mem = s.mem := by
  unfold Machine.acquireCur
  rw [M.bind_ok h.curCore]
  cases target with
  | none => exact acquireFor_keeps ..
  | some c =>
    obtain ⟨t₁, h₁, k₁, m₁⟩ := promote_keeps hq.fwd (ht c rfl)
    obtain ⟨t₂, h₂, k₂, m₂⟩ := acquireFor_keeps e.core scope t₁
    exact ⟨t₂, (M.bind_ok h₁).trans h₂, k₁.trans k₂, m₂.trans m₁⟩

/-- Release and acquire, whatever ORD asks, move caches alone. -/
theorem orderCur_keeps (h : Issues s u e) (hq : Quiet s e) {target : Option Nat}
    (ht : ∀ c ∈ target, (s.coreAt c).wc = []) :
    ∃ t, Machine.orderCur e.pfx target s = .ok ((), t) ∧ Keeps s t ∧ t.mem = s.mem := by
  unfold Machine.orderCur
  dsimp only
  rw [M.ite_then fun _ => h.releaseCur hq _]
  split
  · exact h.acquireCur_keeps hq _ ht
  · exact ⟨s, rfl, Keeps.refl s, rfl⟩

/-! ### The register that a vector access writes -/

/-- The lanes of a vector register that an access writes: enabled ones take its value, disabled ones 0 under ZM. -/
theorem putSome_eq_loaded (e : Scene) (r : Nat) (v : Nat → Word) (g : Group) :
    putSome r (fun l => if e.path.lanes.getLsbD l then
      (if e.mask.getLsbD (l * 8) then some (v l) else if e.pfx.zm then some 0 else none) else none) g = loaded e r v g := by
  unfold putSome loaded
  congr 1
  · refine congrArg (g.setVreg r) (List.map_congr_left fun l _ => ?_)
    dsimp only
    cases e.path.lanes.getLsbD l <;> cases e.mask.getLsbD (l * 8) <;> cases e.pfx.zm <;> rfl
  · funext l
    dsimp only
    cases hl : e.path.lanes.getLsbD l with
    | false => rw [Bool.and_false]; rfl
    | true =>
      rw [decide_eq_true (BitVec.lt_of_getLsbD hl)]
      cases e.mask.getLsbD (l * 8) <;> cases e.pfx.zm <;> rfl

/-- Enabled lanes take the value of their access; disabled ones keep theirs, or take 0 under ZM. -/
theorem writeLoaded (h : Issues s u e) (r : Nat) {got : List (Nat × Word)} {v : Nat → Word}
    (hv : ∀ l, e.path.lanes.getLsbD l = true →
      (got.find? fun x => x.1 = l).map Prod.snd = if e.mask.getLsbD (l * 8) then some (v l) else none) :
    Machine.writeLoaded r e.pfx.zm got s = .ok ((), s.modGrp s.cur.blk s.cur.grp (loaded e r v)) := by
  have hval : (fun l => if !e.path.lanes.getLsbD l then none
      else match got.find? (fun x => x.1 = l) with
        | some x => some x.2
        | none => if e.pfx.zm then some (0 : Word) else none) = fun l => if e.path.lanes.getLsbD l then
        (if e.mask.getLsbD (l * 8) then some (v l) else if e.pfx.zm then some 0 else none) else none := by
    funext l
    cases hl : e.path.lanes.getLsbD l with
    | false => rfl
    | true =>
      have hl := hv l hl
      cases hg : got.find? (fun x => x.1 = l) with
      | none =>
        rw [hg] at hl
        cases hk : e.mask.getLsbD (l * 8) with
        | true => rw [hk] at hl; cases hl
        | false => rfl
      | some x =>
        rw [hg] at hl
        cases hk : e.mask.getLsbD (l * 8) with
        | true => rw [hk] at hl; exact hl
        | false => rw [hk] at hl; cases hl
  unfold Machine.writeLoaded writeVec
  rw [M.bind_ok h.lanes, modCurGrp_apply]
  refine congrArg (fun f => Except.ok ((), s.modGrp s.cur.blk s.cur.grp f)) (funext fun g => ?_)
  exact (congrArg (fun F => putSome r F g) hval).trans (putSome_eq_loaded e r v g)

end Sys2Proof.Safety.Issues

namespace Sys2Proof.Machine

open Host Safety

/-! ### The value of each atomic (spec/04 R89 to R92) -/

/-- The signed minimum is one of the two and no greater than either; the signed maximum is one and no less. -/
theorem atomicNew_signed (w old b x c : Nat) :
    (∃ y, atomicNew 2 w old b x c = some y ∧ (y = old ∨ y = b) ∧ toInt w y ≤ toInt w old ∧ toInt w y ≤ toInt w b) ∧
      ∃ y, atomicNew 3 w old b x c = some y ∧ (y = old ∨ y = b) ∧ toInt w old ≤ toInt w y ∧ toInt w b ≤ toInt w y := by
  by_cases h : toInt w old ≤ toInt w b
  · exact ⟨⟨old, congrArg some (if_pos h), .inl rfl, le_refl _, h⟩, b, congrArg some (if_pos h), .inr rfl, h, le_refl _⟩
  · have h' := le_of_not_ge h
    exact ⟨⟨b, congrArg some (if_neg h), .inr rfl, h', le_refl _⟩, old, congrArg some (if_neg h), .inl rfl, le_refl _, h'⟩

end Sys2Proof.Machine

namespace Sys2Proof.Safety

open Sys2Proof.Machine Host

namespace Scene

variable (e : Scene) (b : BitVec 7) (aop w : Nat)

/-- The value that an atomic of a lane stores in place of another one, from the lane's operands (spec/04 R88 to R92). -/
def laneNew (l old : Nat) : Option Nat :=
  atomicNew aop w old ((laneOf (e.operand b) l).toNat % 2 ^ w)
    (if w = 64 then (laneOf (e.operand (if aop = 12 then b + 1 else b)) l).toNat
      else (laneOf (e.operand b) l).toNat / 2 ^ 32)
    ((laneOf (e.operand (if aop = 10 then e.op4 else b)) l).toNat % 2 ^ w)

/-- Memory after the atomics of the lanes that make one, in ascending order, and what each has read (spec/04 R93). -/
def atomics (tr : Nat → Tr) (m : List Cell) : List Cell × List (Nat × Nat) :=
  (laneIds.filter (e.accesses false)).foldl (rmwLane (e.laneNew b aop w) tr (w / 8)) (m, [])

/-- What a lane of an atomic returns: what it has read, and 0 in a helper lane (spec/04 R93). -/
def returned (read : List (Nat × Nat)) (l : Nat) : Word :=
  match read.find? (fun y => y.1 = l) with
  | some y => BitVec.ofNat 64 y.2
  | none => 0

/-- The operand of ABADD's bound on 64 bits, and the value that ACAS compares with, are those the word reads for them. -/
theorem laneNew_eq (l old : Nat) : e.laneNew b aop w l old = atomicNew aop w old ((laneOf (e.operand b) l).toNat % 2 ^ w)
    (if w = 64 then (laneOf (if aop = 12 ∧ w = 64 then e.operand (b + 1) else e.operand b) l).toNat
      else (laneOf (e.operand b) l).toNat / 2 ^ 32)
    ((laneOf (if aop = 10 then e.operand e.op4 else e.operand b) l).toNat % 2 ^ w) := by
  rw [laneNew, apply_ite e.operand (aop = 10)]
  split
  · next hw => simp only [hw, and_true, apply_ite e.operand]
  · rfl

/-- The helper lanes among the enabled ones. -/
theorem mem_helpers {l : Nat} (hl : e.path.lanes.getLsbD l = true) :
    l ∈ (lanesOf (enabledLanes e.path.lanes e.mask)).filter (fun l => e.grp.helper.getLsbD l) ↔
      e.mask.getLsbD (l * 8) = true ∧ e.grp.helper.getLsbD l = true := by
  rw [List.mem_filter, mem_lanesOf, enabledLanes_getLsbD, hl, Bool.true_and]

/-- The lanes that make an atomic are the enabled ones that are no helpers. -/
theorem accesses_false_iff {l : Nat} (hl : e.path.lanes.getLsbD l = true) :
    l ∈ laneIds.filter (e.accesses false) ↔ e.mask.getLsbD (l * 8) = true ∧ e.grp.helper.getLsbD l = false := by
  have h32 := BitVec.lt_of_getLsbD hl
  simp [laneIds, accesses, hl, h32]

/-- The lanes that have read, in order, and then the helper lanes with 0, are the enabled lanes with what they return. -/
theorem find?_returned {read : List (Nat × Nat)} (hr : read.map Prod.fst = laneIds.filter (e.accesses false)) {l : Nat}
    (hl : e.path.lanes.getLsbD l = true) :
    ((read.map (fun y => (y.1, BitVec.ofNat 64 y.2)) ++
      ((lanesOf (enabledLanes e.path.lanes e.mask)).filter fun l => e.grp.helper.getLsbD l).map fun l => (l, (0 : Word))).find?
        fun x => x.1 = l).map Prod.snd = if e.mask.getLsbD (l * 8) then some (returned read l) else none := by
  have hmem := e.accesses_false_iff hl
  rw [← hr] at hmem
  have hcomp : (fun x : Nat × Word => decide (x.1 = l)) ∘ (fun y : Nat × Nat => (y.1, BitVec.ofNat 64 y.2)) =
    fun y => decide (y.1 = l) := rfl
  rw [List.find?_append, List.find?_map, List.find?_map, hcomp, returned]
  cases hf : read.find? (fun y => decide (y.1 = l)) with
  | some y =>
    have hy : y.1 = l := by simpa using List.find?_some hf
    have hmask := (hmem.mp (List.mem_map.mpr ⟨y, List.mem_of_find?_eq_some hf, hy⟩)).1
    rw [if_pos hmask]
    rfl
  | none =>
    have hnot : ¬ l ∈ read.map Prod.fst := by
      intro hin
      obtain ⟨y, hy, hyl⟩ := List.mem_map.mp hin
      exact List.find?_eq_none.mp hf y hy (decide_eq_true hyl)
    rw [hmem] at hnot
    cases hh : ((lanesOf (enabledLanes e.path.lanes e.mask)).filter fun l => e.grp.helper.getLsbD l).find?
        ((fun x : Nat × Word => decide (x.1 = l)) ∘ fun l => (l, (0 : Word))) with
    | some x =>
      have hx : x = l := by simpa using List.find?_some hh
      have hmask := ((e.mem_helpers hl).mp (hx ▸ List.mem_of_find?_eq_some hh)).1
      rw [if_pos hmask]
      rfl
    | none =>
      have hmask : ¬ e.mask.getLsbD (l * 8) = true := fun hk => by
        have hhelp : e.grp.helper.getLsbD l = true := by
          cases hg : e.grp.helper.getLsbD l with
          | true => rfl
          | false => exact absurd ⟨hk, hg⟩ hnot
        exact List.find?_eq_none.mp hh l ((e.mem_helpers hl).mpr ⟨hk, hhelp⟩) (decide_eq_true rfl)
      rw [if_neg hmask]
      rfl

end Scene

/-- The core that a remote scope names has nothing in its write-combining buffer. -/
theorem Scoped.target_wc {s : State} {e : Scene} (h : Scoped s e) :
    ∀ c ∈ (if e.pfx.scope = 7 then some (e.uni e.op4).toNat else none), (s.coreAt c).wc = [] := by
  intro c hc
  unfold Scoped at h
  split at hc
  · next h7 =>
    rw [if_pos h7] at h
    obtain ⟨-, -, -, -, hwc⟩ := h
    cases hc
    exact hwc
  · cases hc

namespace Issues

variable {s : State} {u : PfxUse} {e : Scene} {d a b : BitVec 7} {o : BitVec 4} {r : BitVec 1} {w : Nat} {tr : Nat → Tr}

theorem needPair (h : Issues s u e) (he : b.toNat % 2 = 0) (hb : e.hasVec b ∨ e.hasUni b)
    (hb1 : e.hasVec (b + 1) ∨ e.hasUni (b + 1)) : Machine.needPair b s = .ok ((), s) := by
  unfold Machine.needPair
  rw [M.bind_ok (check_ok _ s (decide_eq_true he)), M.bind_ok (h.needAny hb),
    M.bind_ok (check_ok _ s (decide_eq_true (by have := b.isLt; omega)))]
  exact h.needAny hb1

/-- What an atomic's scope and order ask: ACAS has its fourth operand for itself, the others may name a core by it. -/
theorem memOrder_atomic (h : Issues s u e) (hord : e.pfx.ord < 4) (hs : o.toNat ≠ 10 → Scoped s e)
    (hcas : o.toNat = 10 → e.pfx.scope ≠ 7) :
    ∃ target, memOrder e.pfx .atomic [0, 1, 2, 3] (decide (o.toNat ≠ 10)) (decide (o.toNat = 10)) s = .ok (target, s) ∧
      ∀ c ∈ target, (s.coreAt c).wc = [] := by
  have hord : [0, 1, 2, 3].contains e.pfx.ord = true := by
    rw [List.contains_iff_mem]
    simp only [List.mem_cons, List.not_mem_nil, or_false]
    omega
  by_cases hc : o.toNat = 10
  · rw [decide_eq_true hc]
    exact ⟨none, memOrder_own4 hord (hcas hc), fun c h => by cases h⟩
  · rw [decide_eq_true hc, decide_eq_false hc]
    exact ⟨_, h.memOrder_scoped (hs hc) hord, (hs hc).target_wc⟩

/-- What an atomic of `w` bits does: the read-modify-writes of its lanes, and the register if it returns what they read. -/
theorem atomicBody (h : Issues s { mask := true, zm := decide (r = 1), op4 := true, mem := true } e) (hm : MemOk s)
    (hq : Quiet s e) (hw : w / 8 ∣ 128) (hop : o.toNat < 14) (hd0 : r = 0 → d = 0) (hd1 : r = 1 → e.hasVec d) (ha : e.reads a)
    (hb : e.reads b) (hk : e.readsMask e.pfx.mask) (hord : e.pfx.ord < 4) (hs : o.toNat ≠ 10 → Scoped s e)
    (hcas : o.toNat = 10 → e.pfx.scope ≠ 7 ∧ e.pfx.op4 ≠ 0x7F ∧ e.reads e.op4)
    (hpair : o.toNat = 12 ∧ w = 64 → b.toNat % 2 = 0 ∧ e.reads (b + 1))
    (hl : ∀ l, e.accesses false l = true → (laneOf (e.operand a) l).toNat % (w / 8) = 0 ∧
      Reaches s e (laneOf (e.operand a) l) .atomic (tr l)) :
    ∃ t, Machine.atomicBody d a b o r w s = .ok ((), t) ∧ t.mem = (e.atomics b o.toNat w tr s.mem).1 ∧
      SameBut s t fun g => if r = 1 then loaded e d.toNat (Scene.returned (e.atomics b o.toNat w tr s.mem).2) g else g := by
  have hl' : ∀ l ∈ laneIds.filter (e.accesses false), (laneOf (e.operand a) l).toNat % (w / 8) = 0 ∧
      Reaches s e (laneOf (e.operand a) l) .atomic (tr l) := fun l hin => hl l (List.mem_filter.mp hin).2
  -- the checks that the word passes, and the operands it reads
  have hret : (decide (r = 1) || decide (d = 0)) = true := by
    by_cases hr : r = 1
    · rw [decide_eq_true hr]; rfl
    · rw [decide_eq_true (hd0 (by bv_omega)), Bool.or_true]
  have hc4 : decide (o.toNat ≠ 10 ∨ (e.pfx.op4 ≠ 0x7F ∧ e.pfx.scope ≠ 7)) = true :=
    decide_eq_true (or_iff_not_imp_left.mpr fun hc => ⟨(hcas (not_not.mp hc)).2.1, (hcas (not_not.mp hc)).1⟩)
  have hop4 : o.toNat = 10 → Machine.readOp (BitVec.ofNat 7 e.pfx.op4) s = .ok (e.operand e.op4, s) := fun hc =>
    h.readOp (hcas hc).2.2
  have hmask : Machine.readMask e.pfx.mask s = .ok (e.mask, s) := h.readMask hk
  obtain ⟨target, hmem, htarget⟩ := h.memOrder_atomic hord hs fun hc => (hcas hc).1
  -- release and acquire, and the lanes in order
  obtain ⟨t₁, hord₁, k₁, m₁⟩ := h.orderCur_keeps hq htarget
  obtain ⟨t₂, hgot, k₂, m₂⟩ := (k₁.quiet hq).collect_atomicHome (by rw [MemOk, m₁]; exact hm) (e.laneNew b o.toNat w)
    fun l hin => ⟨(hl' l hin).2.within_line hw (hl' l hin).1, (k₁.homes _).trans (hl' l hin).2.home⟩
  rw [m₁] at hgot m₂
  have k := k₁.trans k₂
  obtain ⟨c, h₂⟩ := k.issues h
  unfold Machine.atomicBody
  rw [M.bind_ok (check_ok _ s (decide_eq_true hop))]
  dsimp only
  rw [M.bind_ok (check_ok _ s hret), M.bind_ok h.getPfx, M.ite_then fun hr => h.needVec (hd1 (of_decide_eq_true hr)),
    M.bind_ok (h.readOp ha), M.bind_ok (h.readOp hb), M.ite_then fun hp => h.needPair (hpair hp).1 hb.1 (hpair hp).2.1,
    M.ite_bind fun hp => h.readOp (hpair hp).2, M.bind_ok (check_ok _ s hc4), M.ite_bind hop4, M.bind_ok hmask,
    M.bind_ok hmem, M.bind_ok h.curAg, M.bind_ok (h.accessLanes false), M.bind_ok (h.checkLanes hq hl'), M.bind_ok hord₁]
  simp only [← Scene.laneNew_eq]
  rw [M.bind_ok hgot]
  by_cases hr : r = 1
  · have hwrite := h₂.writeLoaded d.toNat (v := Scene.returned (e.atomics b o.toNat w tr s.mem).2) fun l hlane =>
      e.find?_returned (foldl_rmwLane_lanes ..) hlane
    rw [if_pos (decide_eq_true hr), M.bind_ok h₂.lanes, M.bind_ok h₂.curGrp, M.bind_ok hwrite]
    exact ⟨_, retire_modGrp _ t₂, m₂, by simp only [if_pos hr]; exact k.sameBut _⟩
  · rw [if_neg (by simpa using hr)]
    exact ⟨_, retire_apply t₂, m₂, by simp only [if_neg hr]; exact k.sameBut _⟩

end Issues

end Sys2Proof.Safety

namespace Sys2Proof.Machine

open Host Safety

/-- Settles O18: the values case by case, and the run from what an atomic's word does to its lanes in order. -/
theorem atomics : Obligations.Atomics := by
  unfold Obligations.Atomics
  refine ⟨fun w old b x c _ _ _ => ?_, ?_⟩
  · obtain ⟨hmin, hmax⟩ := atomicNew_signed w old b x c
    exact ⟨rfl, rfl, hmin, hmax, rfl, rfl, rfl, rfl, rfl, rfl, rfl, rfl, rfl, rfl⟩
  · intro s e d a b o r tr w n i r1 hwi hn h hm hq hop hd0 hd1 ha hb hk hord hs hcas hpair hl hr1
    subst hn
    have hw : w / 8 ∣ 128 := by
      obtain ⟨rfl, -⟩ | ⟨rfl, -⟩ := hwi <;> decide
    obtain ⟨t, ht, hmem, hsame⟩ := h.atomicBody hm hq hw hop hd0 hd1 ha hb hk hord hs hcas hpair hl
    have hr : r1 = e.atomics b o.toNat w tr s.mem := hr1
    rw [← hr] at hmem hsame
    refine ⟨t, ?_, fun x => by rw [hmem], hsame⟩
    obtain ⟨rfl, rfl⟩ | ⟨rfl, rfl⟩ := hwi
    · exact runWord_ok ht
    · exact runWord_ok ht

end Sys2Proof.Machine

/-!
PROOF. The integer vector instructions (spec/09 R195 to R200): the bits that the element operations of R196 and R197 give and the
bits of a compare's mask; what the forms of R195 answer for a word that is being issued; and the three statements about them.
-/

namespace Sys2Proof

/-! ### Two's complement, as bit vectors have it -/

theorem toInt_eq_toInt_ofNat (w x : Nat) : toInt w x = (BitVec.ofNat w x).toInt := by
  rw [BitVec.toInt_eq_toNat_cond, BitVec.toNat_ofNat]
  rfl

theorem ofInt_eq_toNat_ofInt (w : Nat) (x : Int) : ofInt w x = (BitVec.ofInt w x).toNat := (BitVec.toNat_ofInt x).symm

theorem ofInt_lt (w : Nat) (x : Int) : ofInt w x < 2 ^ w := by
  rw [ofInt_eq_toNat_ofInt]
  exact BitVec.isLt _

/-- A pattern of `n` bits read as an integer and written in `w` bits: above its top bit stand copies of that bit. -/
theorem ofInt_toInt_testBit {w n x i : Nat} (hi : i < w) (hx : x < 2 ^ n) :
    (ofInt w (toInt n x)).testBit i = if i < n then x.testBit i else x.testBit (n - 1) := by
  have hb : ∀ j, (BitVec.ofNat n x).getLsbD j = x.testBit j := fun j => by
    rw [BitVec.getLsbD, BitVec.toNat_ofNat, Nat.mod_eq_of_lt hx]
  rw [ofInt_eq_toNat_ofInt, toInt_eq_toInt_ofNat]
  change (BitVec.signExtend w (BitVec.ofNat n x)).getLsbD i = _
  rw [BitVec.getLsbD_signExtend, decide_eq_true hi, Bool.true_and, BitVec.msb_eq_getLsbD_last, hb, hb]

end Sys2Proof

namespace Sys2Proof.Machine

open Host Safety

/-! ### Bits added one by one -/

/-- Adding a bit that is not set sets it. -/
theorem testBit_add_two_pow {a j : Nat} (h : a.testBit j = false) (k : Nat) :
    (a + 2 ^ j).testBit k = (a.testBit k || decide (k = j)) := by
  have hr : a % 2 ^ j < 2 ^ j := Nat.mod_lt _ (Nat.two_pow_pos j)
  have ha : a = 2 ^ j * (a / 2 ^ j) + a % 2 ^ j := (Nat.div_add_mod ..).symm
  have hq : a / 2 ^ j % 2 = 0 := by
    have h0 : (a / 2 ^ j).testBit 0 = false := by rw [Nat.testBit_div_two_pow, Nat.zero_add, h]
    simpa [Nat.testBit_zero] using h0
  generalize a / 2 ^ j = q at ha hq
  generalize a % 2 ^ j = r at ha hr
  subst ha
  rw [show 2 ^ j * q + r + 2 ^ j = 2 ^ j * (q + 1) + r by ring, Nat.testBit_two_pow_mul_add _ hr,
    Nat.testBit_two_pow_mul_add _ hr]
  by_cases hk : k < j
  · simp [hk, Nat.ne_of_lt hk]
  · obtain ⟨m, rfl⟩ := Nat.exists_eq_add_of_le (Nat.le_of_not_lt hk)
    rw [if_neg hk, if_neg hk, Nat.add_sub_cancel_left]
    cases m with
    | zero =>
      have hodd : (q + 1) % 2 = 1 := by omega
      simp [Nat.testBit_zero, hodd]
    | succ m => simp [Nat.testBit_succ, show (q + 1) / 2 = q / 2 by omega]

/-- Different bits, added where a test picks them. -/
theorem testBit_foldl_two_pow (p : Nat → Bool) (g : Nat → Nat) {L : List Nat} (hL : (L.map g).Nodup) {a : Nat}
    (ha : ∀ i ∈ L, a.testBit (g i) = false) (k : Nat) :
    (L.foldl (fun a i => if p i then a + 2 ^ g i else a) a).testBit k =
      (a.testBit k || L.any fun i => p i && decide (k = g i)) := by
  induction L generalizing a with
  | nil => simp
  | cons i r ih =>
    have hi := ha i List.mem_cons_self
    rw [List.map_cons, List.nodup_cons] at hL
    have hstep : ∀ j, (if p i then a + 2 ^ g i else a).testBit j = (a.testBit j || (p i && decide (j = g i))) := by
      intro j
      cases p i with
      | false => simp
      | true => simpa using testBit_add_two_pow hi j
    have hr : ∀ x ∈ r, (if p i then a + 2 ^ g i else a).testBit (g x) = false := by
      intro x hx
      have hne : g x ≠ g i := fun h => hL.1 (h ▸ List.mem_map_of_mem hx)
      simp [hstep, ha x (List.mem_cons_of_mem _ hx), hne]
    rw [List.foldl_cons, ih hL.2 hr, hstep, List.any_cons, Bool.or_assoc]

/-! ### The element operations of R196 -/

theorem popCount_eq_length_filter (w x : Nat) : popCount w x = ((List.range w).filter fun i => x.testBit i).length := by
  unfold popCount
  rw [← List.foldl_filter (p := fun i => x.testBit i) (f := fun n _ => n + 1), List.foldl_add_const, Nat.zero_add,
    Nat.one_mul]

theorem bitReverse_testBit (w x i : Nat) : (bitReverse w x).testBit i = (decide (i < w) && x.testBit (w - 1 - i)) := by
  have hinj : ((List.range w).map fun i => w - 1 - i).Nodup :=
    List.Nodup.map_on (fun a ha b hb h => by rw [List.mem_range] at ha hb; omega) List.nodup_range
  unfold bitReverse
  rw [testBit_foldl_two_pow x.testBit (fun i => w - 1 - i) hinj fun _ _ => Nat.zero_testBit _, Nat.zero_testBit,
    Bool.false_or, Bool.eq_iff_iff]
  simp only [List.any_eq_true, List.mem_range, Bool.and_eq_true, decide_eq_true_eq]
  constructor
  · rintro ⟨j, hj, hx, rfl⟩
    exact ⟨by omega, by rwa [show w - 1 - (w - 1 - j) = j by omega]⟩
  · rintro ⟨hi, hx⟩
    exact ⟨w - 1 - i, by omega, hx, by omega⟩

theorem bitReverse_lt (w x : Nat) : bitReverse w x < 2 ^ w :=
  Nat.lt_pow_two_of_testBit _ fun i hi => by rw [bitReverse_testBit, decide_eq_false (by omega), Bool.false_and]

/-- The leading zeros of an element that is not 0 stand above its highest set bit. -/
theorem leadingZeros_of_ne_zero {w x : Nat} (hx : x < 2 ^ w) (h0 : x ≠ 0) :
    leadingZeros w x < w ∧ w - leadingZeros w x = Nat.log2 x + 1 := by
  have hlog : Nat.log2 x < w := (Nat.log2_lt h0).mpr hx
  rw [leadingZeros, if_neg h0]
  omega

theorem leadingZeros_zero (w : Nat) : leadingZeros w 0 = w := rfl

theorem leadingZeros_le {w x : Nat} (hx : x < 2 ^ w) : leadingZeros w x ≤ w := by
  by_cases h0 : x = 0
  · rw [h0, leadingZeros_zero]
  · exact (leadingZeros_of_ne_zero hx h0).1.le

theorem testBit_of_leadingZeros {w x i : Nat} (hx : x < 2 ^ w) (hi : w - leadingZeros w x ≤ i) : x.testBit i = false := by
  by_cases h0 : x = 0
  · rw [h0, Nat.zero_testBit]
  · rw [(leadingZeros_of_ne_zero hx h0).2] at hi
    exact Nat.testBit_lt_two_pow (Nat.lt_log2_self.trans_le (Nat.pow_le_pow_right (by decide) hi))

theorem testBit_below_leadingZeros {w x : Nat} (hx : x < 2 ^ w) (hl : leadingZeros w x < w) :
    x.testBit (w - 1 - leadingZeros w x) = true := by
  have h0 : x ≠ 0 := by
    rintro rfl
    rw [leadingZeros_zero] at hl
    exact absurd hl (Nat.lt_irrefl w)
  rw [show w - 1 - leadingZeros w x = Nat.log2 x by have := (leadingZeros_of_ne_zero hx h0).2; omega]
  exact Nat.testBit_log2 h0

/-! ### The element operations of R197 -/

/-- A rotated element: its low bits moved up, over its high bits moved down. -/
theorem rotateLeft_eq {w a : Nat} (b : Nat) (hw : 0 < w) (ha : a < 2 ^ w) :
    rotateLeft w a b = 2 ^ (b % w) * (a % 2 ^ (w - b % w)) + a / 2 ^ (w - b % w) ∧
      a / 2 ^ (w - b % w) < 2 ^ (b % w) := by
  have hpow : 2 ^ w = 2 ^ (w - b % w) * 2 ^ (b % w) := by
    rw [← Nat.pow_add, Nat.sub_add_cancel (Nat.mod_lt b hw).le]
  have hhigh : a / 2 ^ (w - b % w) < 2 ^ (b % w) := Nat.div_lt_of_lt_mul (hpow ▸ ha)
  refine ⟨?_, hhigh⟩
  unfold rotateLeft
  dsimp only
  rw [hpow, Nat.mul_mod_mul_right, Nat.mod_eq_of_lt hhigh, Nat.mul_comm]

theorem rotateLeft_testBit {w a i : Nat} (b : Nat) (ha : a < 2 ^ w) (hi : i < w) :
    (rotateLeft w a b).testBit i = a.testBit ((i + (w - b % w)) % w) := by
  have hk : b % w < w := Nat.mod_lt b (by omega)
  obtain ⟨heq, hhigh⟩ := rotateLeft_eq b (by omega) ha
  rw [heq, Nat.testBit_two_pow_mul_add _ hhigh]
  generalize b % w = k at hk
  by_cases hlow : i < k
  · rw [if_pos hlow, Nat.testBit_div_two_pow, Nat.mod_eq_of_lt (by omega)]
  · rw [if_neg hlow, Nat.testBit_mod_two_pow, decide_eq_true (by omega), Bool.true_and, Nat.mod_eq_sub_mod (by omega),
      Nat.mod_eq_of_lt (by omega)]
    congr 1
    omega

theorem rotateLeft_lt {w a : Nat} (b : Nat) (hw : 0 < w) (ha : a < 2 ^ w) : rotateLeft w a b < 2 ^ w := by
  obtain ⟨heq, hhigh⟩ := rotateLeft_eq b hw ha
  have hlow : a % 2 ^ (w - b % w) + 1 ≤ 2 ^ (w - b % w) := Nat.mod_lt _ (Nat.two_pow_pos _)
  calc rotateLeft w a b < 2 ^ (b % w) * (a % 2 ^ (w - b % w)) + 2 ^ (b % w) := by rw [heq]; omega
    _ = 2 ^ (b % w) * (a % 2 ^ (w - b % w) + 1) := (Nat.mul_succ ..).symm
    _ ≤ 2 ^ (b % w) * 2 ^ (w - b % w) := Nat.mul_le_mul_left _ hlow
    _ = 2 ^ w := by rw [← Nat.pow_add, Nat.add_sub_cancel' (Nat.mod_lt b hw).le]

/-- A field that begins past the element, or that has no length, is 0. -/
theorem bitField_empty {sg : Bool} {w a off len : Nat} (h : w ≤ off ∨ len = 0) : bitField sg w a off len = 0 := if_pos h

/-- A field clipped to the element, with its sign or without. -/
theorem bitField_of_lt {sg : Bool} {w a off len : Nat} (ho : off < w) (hl : len ≠ 0) :
    bitField sg w a off len =
      if sg then ofInt w (toInt (min len (w - off)) (a / 2 ^ off % 2 ^ min len (w - off)))
      else a / 2 ^ off % 2 ^ min len (w - off) := if_neg (by omega)

theorem bitField_testBit {w off len i : Nat} (sg : Bool) (a : Nat) (ho : off < w) (hl : len ≠ 0) (hi : i < w) :
    (bitField sg w a off len).testBit i =
      if i < min len (w - off) then a.testBit (off + i) else sg && a.testBit (off + min len (w - off) - 1) := by
  have hn : 0 < min len (w - off) := by omega
  rw [bitField_of_lt ho hl]
  generalize min len (w - off) = n at hn
  have hx : ∀ j, (a / 2 ^ off % 2 ^ n).testBit j = (decide (j < n) && a.testBit (off + j)) := fun j => by
    rw [Nat.testBit_mod_two_pow, Nat.testBit_div_two_pow, Nat.add_comm]
  cases sg with
  | false =>
    rw [if_neg Bool.false_ne_true, hx, Bool.false_and]
    by_cases h : i < n <;> simp [h]
  | true =>
    rw [if_pos rfl, ofInt_toInt_testBit hi (Nat.mod_lt _ (Nat.two_pow_pos n)), hx, hx, Bool.true_and,
      decide_eq_true (show n - 1 < n by omega), Bool.true_and, show off + (n - 1) = off + n - 1 by omega]
    by_cases h : i < n <;> simp [h]

theorem bitField_lt (sg : Bool) (w a off len : Nat) : bitField sg w a off len < 2 ^ w := by
  by_cases h : w ≤ off ∨ len = 0
  · rw [bitField_empty h]
    exact Nat.two_pow_pos w
  · rw [bitField_of_lt (by omega) (by omega)]
    cases sg with
    | true => exact ofInt_lt ..
    | false =>
      exact (Nat.mod_lt _ (Nat.two_pow_pos _)).trans_le (Nat.pow_le_pow_right (by decide) (by omega))

/-- The bits of a number in which the low bits of another replace a field. -/
theorem testBit_replace (a b off n i : Nat) :
    (a - a / 2 ^ off % 2 ^ n * 2 ^ off + b % 2 ^ n * 2 ^ off).testBit i =
      if off ≤ i ∧ i < off + n then b.testBit (i - off) else a.testBit i := by
  have hlow : a % 2 ^ off < 2 ^ off := Nat.mod_lt _ (Nat.two_pow_pos off)
  have hnew : b % 2 ^ n < 2 ^ n := Nat.mod_lt _ (Nat.two_pow_pos n)
  have hsplit : a / 2 ^ off * 2 ^ off =
      2 ^ off * (2 ^ n * (a / 2 ^ off / 2 ^ n)) + a / 2 ^ off % 2 ^ n * 2 ^ off := by
    rw [Nat.mul_comm _ (2 ^ off), Nat.mul_comm _ (2 ^ off), ← Nat.mul_add, Nat.div_add_mod]
  have ha : a / 2 ^ off * 2 ^ off + a % 2 ^ off = a := Nat.div_add_mod' ..
  have heq : a - a / 2 ^ off % 2 ^ n * 2 ^ off + b % 2 ^ n * 2 ^ off =
      2 ^ off * (2 ^ n * (a / 2 ^ off / 2 ^ n) + b % 2 ^ n) + a % 2 ^ off := by
    rw [Nat.mul_add, Nat.mul_comm (2 ^ off) (b % 2 ^ n)]
    omega
  rw [heq, Nat.testBit_two_pow_mul_add _ hlow, Nat.testBit_two_pow_mul_add _ hnew]
  by_cases h1 : i < off
  · rw [if_pos h1, if_neg (by omega), Nat.testBit_mod_two_pow, decide_eq_true h1, Bool.true_and]
  · rw [if_neg h1]
    by_cases h2 : i - off < n
    · rw [if_pos h2, if_pos (by omega), Nat.testBit_mod_two_pow, decide_eq_true h2, Bool.true_and]
    · rw [if_neg h2, if_neg (by omega), Nat.testBit_div_two_pow, Nat.testBit_div_two_pow]
      congr 1
      omega

/-- Where the width is a power of two, BFI's length stands above its offset in `c`. -/
theorem bitInsert_testBit {w : Nat} (a b c i : Nat) (hw : 2 ^ Nat.log2 w = w) :
    (bitInsert w a b c).testBit i =
      if c % w ≤ i ∧ i < c % w + min (c / w % (2 * w)) (w - c % w) then b.testBit (i - c % w) else a.testBit i := by
  unfold bitInsert
  rw [hw]
  exact testBit_replace ..

theorem bitInsert_lt {w a : Nat} (b c : Nat) (hw : 2 ^ Nat.log2 w = w) (ha : a < 2 ^ w) : bitInsert w a b c < 2 ^ w := by
  refine Nat.lt_pow_two_of_testBit _ fun i hi => ?_
  have hoff : c % w < w := Nat.mod_lt c (hw ▸ Nat.two_pow_pos _)
  rw [bitInsert_testBit a b c i hw, if_neg (by omega)]
  exact Nat.testBit_lt_two_pow (ha.trans_le (Nat.pow_le_pow_right (by decide) hi))

theorem two_pow_log2_of_mem {w : Nat} (hw : w ∈ [8, 16, 32, 64]) : 2 ^ Nat.log2 w = w := by
  simp only [List.mem_cons, List.not_mem_nil, or_false] at hw
  obtain rfl | rfl | rfl | rfl := hw <;> decide

/-! ### The mask of a compare (R200) -/

theorem getLsbD_maskOf (f : Nat → Bool) {i : Nat} (hi : i < 256) : (maskOf f).getLsbD i = f i := by
  have hnd : ((List.range 256).map id).Nodup := by rw [List.map_id]; exact List.nodup_range
  have hfold := testBit_foldl_two_pow f id hnd (a := 0) (fun _ _ => Nat.zero_testBit _) i
  unfold maskOf
  rw [BitVec.getLsbD_ofNat, decide_eq_true hi, Bool.true_and]
  refine hfold.trans ?_
  rw [Nat.zero_testBit, Bool.false_or, Bool.eq_iff_iff]
  simp only [List.any_eq_true, List.mem_range, Bool.and_eq_true, decide_eq_true_eq, id_eq]
  constructor
  · rintro ⟨j, -, hj, rfl⟩
    exact hj
  · exact fun h => ⟨i, hi, h, rfl⟩

theorem getLsbD_compareMask (n : Nat) (m : BitVec 32) (mask old : BitVec 256) (zm : Bool) (fn : Nat)
    (r : Nat → Nat → Bool) {l j : Nat} (hl : l < 32) (hj : j < 8) :
    (compareMask n m mask old zm fn r).getLsbD (l * 8 + j) =
      if m.getLsbD l = false ∨ n ≤ j then old.getLsbD (l * 8 + j)
      else if mask.getLsbD (l * 8 + j) then maskBit fn (old.getLsbD (l * 8 + j)) (r l j)
      else if zm then false else old.getLsbD (l * 8 + j) := by
  unfold compareMask
  rw [getLsbD_maskOf _ (by omega)]
  dsimp only
  rw [show (l * 8 + j) / 8 = l by omega, show (l * 8 + j) % 8 = j by omega]
  by_cases h : m.getLsbD l = false ∨ n ≤ j
  · rw [if_pos h, if_neg]
    rw [Bool.and_eq_true, decide_eq_true_eq]
    rintro ⟨hm, hn⟩
    obtain h | h := h
    · rw [h] at hm; cases hm
    · omega
  · obtain ⟨hm, hn⟩ := not_or.mp h
    rw [if_neg h, if_pos]
    rw [Bool.and_eq_true, decide_eq_true_eq]
    exact ⟨eq_true_of_ne_false hm, by omega⟩

/-- An ICMP word is its body, with the number of its way to combine the old bit with the condition. -/
theorem exec_icmp {i : Instr} {f : Bool → Bool → Bool} {k : BitVec 4} {c : BitVec 3} {a b : BitVec 7} {t : BitVec 2}
    (hi : (i, f) ∈ ([(.icmpSet k c a b t, fun _ x => x), (.icmpAnd k c a b t, (· && ·)), (.icmpOr k c a b t, (· || ·))] :
      List (Instr × (Bool → Bool → Bool)))) (s : State) :
    ∃ fn, exec i s = runWord (icmpBody k c a b (tyWidth t.toNat) fn) s ∧ maskBit fn = f := by
  simp only [List.mem_cons, Prod.mk.injEq, List.not_mem_nil, or_false] at hi
  obtain ⟨rfl, rfl⟩ | ⟨rfl, rfl⟩ | ⟨rfl, rfl⟩ := hi
  · exact ⟨0, rfl, rfl⟩
  · exact ⟨1, rfl, rfl⟩
  · exact ⟨2, rfl, rfl⟩

end Sys2Proof.Machine

namespace Sys2Proof.Safety.Issues

open Sys2Proof.Machine Host

/-! ### The forms of R195, for a word that is being issued -/

section

variable {s : State} {e : Scene} {d a b : BitVec 7} {t : BitVec 2} {t3 : BitVec 3}

theorem int2 (h : Issues s { mask := true, zm := true, sel := true } e)
    (hs : selOk e.pfx.sel (64 / tyWidth t.toNat) = true) (hd : e.hasVec d) (ha : e.reads a) (hb : e.reads b)
    (hk : e.readsMask e.pfx.mask) (op : Nat → Nat → Nat → Nat) :
    Machine.int2 d a b t op s = .next (vecNext s e d (tyWidth t.toNat) (64 / tyWidth t.toNat) fun l j =>
      op (tyWidth t.toNat) (e.sub a (tyWidth t.toNat) l j) (e.subSel b (tyWidth t.toNat) l j)) :=
  runWord_ok (h.intBody hs nofun hd ha (fun _ hob => Option.some.inj hob ▸ hb) nofun hk)

theorem bit2 (h : Issues s { mask := true, zm := true, sel := true } e)
    (hs : selOk e.pfx.sel (64 / tyWidth t3.toNat) = true) (hd : e.hasVec d) (ha : e.reads a) (hb : e.reads b)
    (hk : e.readsMask e.pfx.mask) (op : Nat → Nat → Nat → Nat) :
    Machine.bit2 d a b t3 op s = .next (vecNext s e d (tyWidth t3.toNat) (64 / tyWidth t3.toNat) fun l j =>
      op (tyWidth t3.toNat) (e.sub a (tyWidth t3.toNat) l j) (e.subSel b (tyWidth t3.toNat) l j)) :=
  runWord_ok (h.intBody hs nofun hd ha (fun _ hob => Option.some.inj hob ▸ hb) nofun hk)

theorem int1 (h : Issues s { mask := true, zm := true } e) (hs : selOk e.pfx.sel (64 / tyWidth t.toNat) = true)
    (hd : e.hasVec d) (ha : e.reads a) (hk : e.readsMask e.pfx.mask) (op : Nat → Nat → Nat) :
    Machine.int1 d a t op s = .next (vecNext s e d (tyWidth t.toNat) (64 / tyWidth t.toNat) fun l j =>
      op (tyWidth t.toNat) (e.sub a (tyWidth t.toNat) l j)) :=
  runWord_ok (h.intBody hs nofun hd ha nofun nofun hk)

theorem int3 (h : Issues s { mask := true, zm := true, op4 := true, sel := true } e)
    (hs : selOk e.pfx.sel (64 / tyWidth t.toNat) = true) (h4 : e.pfx.op4 ≠ 0x7F) (hd : e.hasVec d) (ha : e.reads a)
    (hb : e.reads b) (hc : e.reads e.op4) (hk : e.readsMask e.pfx.mask) (op : Nat → Nat → Nat → Nat → Nat) :
    Machine.int3 d a b t op s = .next (vecNext s e d (tyWidth t.toNat) (64 / tyWidth t.toNat) fun l j =>
      op (tyWidth t.toNat) (e.sub a (tyWidth t.toNat) l j) (e.subSel b (tyWidth t.toNat) l j)
        (e.sub e.op4 (tyWidth t.toNat) l j)) :=
  runWord_ok (h.intBody hs (fun _ => h4) hd ha (fun _ hob => Option.some.inj hob ▸ hb) (fun _ => hc) hk)

theorem mov (h : Issues s { mask := true, zm := true } e) (hs : selOk e.pfx.sel (64 / tyWidth t3.toNat) = true)
    (hd : e.hasVec d) (ha : e.reads a) (hk : e.readsMask e.pfx.mask) :
    exec (.mov d a t3) s = .next (vecNext s e d (tyWidth t3.toNat) (64 / tyWidth t3.toNat) fun l j =>
      e.sub a (tyWidth t3.toNat) l j) :=
  runWord_ok (h.intBody hs nofun hd ha nofun nofun hk)

theorem sel (h : Issues s { mask := true, zm := true, op4 := true, sel := true } e)
    (hs : selOk e.pfx.sel (64 / tyWidth t3.toNat) = true) (h4 : e.pfx.op4 ≠ 0x7F) (hd : e.hasVec d) (ha : e.reads a)
    (hb : e.reads b) (hc : e.reads e.op4) (hk : e.readsMask e.pfx.mask) :
    exec (.sel d a b t3) s = .next (vecNext s e d (tyWidth t3.toNat) (64 / tyWidth t3.toNat) fun l j =>
      if e.sub e.op4 (tyWidth t3.toNat) l j ≠ 0 then e.sub a (tyWidth t3.toNat) l j
      else e.subSel b (tyWidth t3.toNat) l j) :=
  runWord_ok (h.intBody hs (fun _ => h4) hd ha (fun _ hob => Option.some.inj hob ▸ hb) (fun _ => hc) hk)

/-- MOVS widens sub-element 0 of each lane with its sign. -/
theorem movs (h : Issues s { mask := true, zm := true } e) (ht : t.toNat < 3) (hd : e.hasVec d) (ha : e.reads a)
    (hk : e.readsMask e.pfx.mask) :
    exec (.movs d a t) s = .next (vecNext s e d 64 1 fun l _ =>
      ofInt 64 (toInt (tyWidth t.toNat) (elem (tyWidth t.toNat) 0 (laneOf (e.operand a) l)))) := by
  simp only [ofInt_eq_toNat_ofInt]
  exact runWord_ok ((M.bind_ok (check_ok _ s (decide_eq_true ht))).trans (h.wholeBody hd ha hk))

end

end Sys2Proof.Safety.Issues

namespace Sys2Proof.Machine

open Host Safety

/-- Settles O2: the counts and the reversal bit by bit, and each word by what its form of R195 answers. -/
theorem integerVector : Obligations.IntegerVector := by
  unfold Obligations.IntegerVector
  refine ⟨fun w x hx => ⟨popCount_eq_length_filter w x, fun i hi => ?_, bitReverse_lt w x, leadingZeros_le hx,
    fun i => testBit_of_leadingZeros hx, testBit_below_leadingZeros hx⟩, ?_, ?_⟩
  · rw [bitReverse_testBit, decide_eq_true hi, Bool.true_and]
  · rintro s e d a b t w rfl hs hd ha hb hk
    refine ⟨fun h => ?_, fun h => ?_, fun h h4 hc => h.int3 hs h4 hd ha hb hc hk fun w x y z => (x * y + z) % 2 ^ w⟩
    · have hrun := h.int2 hs hd ha hb hk
      exact ⟨hrun fun w x y => (x + y) % 2 ^ w, hrun fun w x y => (x + 2 ^ w - y) % 2 ^ w,
        hrun fun w x y => satTo w (toInt w x + toInt w y), hrun fun w x y => satTo w (toInt w x - toInt w y),
        hrun fun w x y => x * y % 2 ^ w, hrun mulHighSigned, hrun fun w x y => x * y / 2 ^ w,
        hrun fun w x y => if toInt w x ≤ toInt w y then x else y, hrun fun w x y => if toInt w x ≤ toInt w y then y else x,
        hrun fun _ x y => min x y, hrun fun _ x y => max x y⟩
    · have hrun := h.int1 hs hd ha hk
      exact ⟨hrun fun w x => ofInt w (toInt w x).natAbs, hrun fun w x => (2 ^ w - x) % 2 ^ w, hrun popCount,
        hrun leadingZeros, hrun bitReverse, fun ht => h.movs ht hd ha hk⟩
  · rintro s e d a b t w rfl hs hd ha hb hk
    refine ⟨fun h => ?_, fun h => h.mov hs hd ha hk, fun h h4 hc => h.sel hs h4 hd ha hb hc hk⟩
    have hrun := h.bit2 hs hd ha hb hk
    exact ⟨hrun fun _ x y => x &&& y, hrun fun _ x y => x ||| y, hrun fun _ x y => x ^^^ y,
      hrun fun w x y => x &&& (2 ^ w - 1 - y)⟩

/-- Settles O3: the bits of a rotation, of a field and of an insertion, and each word by what its form of R195 answers. -/
theorem shiftsAndBitFields : Obligations.ShiftsAndBitFields := by
  unfold Obligations.ShiftsAndBitFields
  refine ⟨fun w a b c i hw ha hi => ?_, ?_⟩
  · have hlog := two_pow_log2_of_mem hw
    refine ⟨rotateLeft_testBit b ha hi, fun sg n => ⟨bitField_empty, fun hb hc hn => ?_⟩, fun off n hoff hn => ?_,
      rotateLeft_lt b (by omega) ha, bitField_lt .., bitField_lt .., bitInsert_lt b c hlog ha⟩
    · subst hn
      exact bitField_testBit sg a hb hc hi
    · subst hn hoff
      exact bitInsert_testBit a b c i hlog
  · rintro s e d a b t w rfl hs hd ha hb hk
    refine ⟨fun h => ?_, fun h h4 hc => ?_⟩
    · have hrun := h.int2 hs hd ha hb hk
      exact ⟨hrun shiftLeft, hrun shiftRight, hrun shiftArith, hrun rotateLeft⟩
    · have hrun := h.int3 hs h4 hd ha hb hc hk
      exact ⟨hrun (bitField true), hrun (bitField false), hrun bitInsert⟩

/-- Settles O5: what an ICMP word answers, and the bits of the mask it writes. -/
theorem integerCompare : Obligations.IntegerCompare := by
  unfold Obligations.IntegerCompare
  refine ⟨?_, fun g v => rfl⟩
  rintro s e k c a b t w rfl h hs ha hb hk ho r rfl i f hi
  obtain ⟨fn, hexec, rfl⟩ := exec_icmp hi s
  exact ⟨_, hexec.trans (runWord_ok (h.icmpBody hs ha hb hk ho)), fun l j hl hj =>
    getLsbD_compareMask _ _ _ _ _ fn _ hl hj⟩

end Sys2Proof.Machine

/-!
PROOF. The cross-lane words and the mask words (spec/10 R212 to R218, R221, R222): what a register written at the end of a word
leaves, the bits that ELECT, VOTE and DROPK compute, what each word answers when it is being issued, and the two statements.
-/

namespace Sys2Proof.Machine

open Host Safety

/-! ### A register written at the end of a word -/

theorem writeMask_retire (k : Nat) (v : BitVec 256) (s : State) :
    (writeMask k v >>= fun _ => retire) s = .ok ((), maskNext s k v) := by
  unfold writeMask
  rw [M.bind_ok (modCurGrp_apply _ s)]
  exact retire_modGrp _ s

theorem writeUni_retire (d : BitVec 7) (v : Word) (s : State) :
    (writeUni (d.toNat - 96) v >>= fun _ => retire) s = .ok ((), uniNext s d v) := by
  unfold writeUni
  rw [M.bind_ok (modCurGrp_apply _ s)]
  exact retire_modGrp _ s

theorem State.modGrp_id (s : State) (b g : Nat) : s.modGrp b g id = s := by
  have hgroups : (fun k : Block => { k with groups := k.groups.modify g id }) = id := by
    funext k
    rw [List.modify_id]
    rfl
  unfold State.modGrp State.modBlk
  rw [hgroups, List.modify_id]

/-- Changes of the issuing group, one for each of a list, are one change of it. -/
theorem each_modCurGrp {α : Type} (f : α → Group → Group) (l : List α) (s : State) :
    each l (fun a => modCurGrp (f a)) s =
      .ok ((), s.modGrp s.cur.blk s.cur.grp fun g => l.foldl (fun g a => f a g) g) := by
  induction l generalizing s with
  | nil => exact congrArg (fun t => Except.ok ((), t)) (State.modGrp_id s ..).symm
  | cons a r ih =>
    rw [each, M.bind_ok (modCurGrp_apply (f a) s), ih]
    exact congrArg (fun t => Except.ok ((), t)) (State.modGrp_modGrp ..)

theorem check_fault {b : Bool} (f : Flt) (s : State) (h : b = false) : check b f s = .error (.fault f) := by
  rw [h]; rfl

/-! ### Bits of the masks, and the first active lane that a test picks -/

theorem getLsbD_activeMask (m : BitVec 32) (old : BitVec 256) (f : Nat → Bool) {i : Nat} (hi : i < 256) :
    (activeMask m old f).getLsbD i = if m.getLsbD (i / 8) then f i else old.getLsbD i := getLsbD_maskOf _ hi

theorem find?_lanesOf_eq_some {m : BitVec 32} {p : Nat → Bool} {l : Nat} :
    (lanesOf m).find? p = some l ↔
      m.getLsbD l = true ∧ p l = true ∧ ∀ i < l, ¬ (m.getLsbD i = true ∧ p i = true) := by
  unfold lanesOf laneIds
  rw [List.find?_filter, List.find?_range_eq_some]
  simp only [List.mem_range, Bool.not_eq_true', decide_eq_true_eq, Bool.eq_false_iff, ne_eq, and_assoc]
  exact ⟨fun ⟨hm, hp, _, h⟩ => ⟨hm, hp, h⟩, fun ⟨hm, hp, h⟩ => ⟨hm, hp, BitVec.lt_of_getLsbD hm, h⟩⟩

/-- The sum of the powers of the listed lanes that a test picks has their bits. -/
theorem testBit_foldl_lanesOf (m : BitVec 32) (p : Nat → Bool) (l : Nat) :
    ((lanesOf m).foldl (fun x l => if p l then x + 2 ^ l else x) 0).testBit l = (m.getLsbD l && p l) := by
  have hnd : ((lanesOf m).map id).Nodup := by
    rw [List.map_id]
    exact List.nodup_range.filter _
  refine (testBit_foldl_two_pow p id hnd (fun _ _ => Nat.zero_testBit _) l).trans ?_
  rw [Nat.zero_testBit, Bool.false_or, Bool.eq_iff_iff, List.any_eq_true]
  simp only [mem_lanesOf, Bool.and_eq_true, decide_eq_true_eq, id_eq]
  exact ⟨fun ⟨_, hm, hp, hl⟩ => hl ▸ ⟨hm, hp⟩, fun ⟨hm, hp⟩ => ⟨l, hm, hp, rfl⟩⟩

end Sys2Proof.Machine

namespace Sys2Proof.Safety

open Sys2Proof.Machine Host

namespace Scene

/-! ### What the words compute from the scene -/

/-- The lane that ELECT picks (spec/10 R217). -/
def elected (e : Scene) (a : BitVec 4) : Option Nat :=
  (lanesOf e.path.lanes).find? fun l =>
    !e.grp.helper.getLsbD l && (e.grp.kreg a.toNat).getLsbD (l * 8) && e.mask.getLsbD (l * 8)

/-- The mask that ELECT writes: the bit of sub-element 0 of the picked lane (spec/10 R217). -/
def electMask (e : Scene) (k a : BitVec 4) : BitVec 256 :=
  maskOf fun i =>
    if !e.path.lanes.getLsbD (i / 8) then (e.grp.kreg k.toNat).getLsbD i
    else if e.mask.getLsbD (i / 8 * 8) then decide (i % 8 = 0) && decide (e.elected a = some (i / 8))
    else if e.pfx.zm then false else (e.grp.kreg k.toNat).getLsbD i

/-- The ballot that VOTE writes (spec/10 R218). -/
def ballot (e : Scene) (a : BitVec 4) : Word :=
  BitVec.ofNat 64 ((lanesOf e.path.lanes).foldl
    (fun x l => if (e.grp.kreg a.toNat).getLsbD (l * 8) then x + 2 ^ l else x) 0)

/-- The mask that DROPK writes (spec/10 R222). -/
def dropMask (e : Scene) (k : BitVec 4) (a b : BitVec 7) (t : BitVec 3) : BitVec 256 :=
  maskOf fun i =>
    if e.path.lanes.getLsbD (i / 8) && decide (i % 8 < tyCount t.toNat) && e.mask.getLsbD i then
      keeps (BitVec.ofNat 32 ((e.uni b).toNat / 2 ^ 32)) (BitVec.ofNat 32 ((laneOf (e.operand a) (i / 8)).toNat + i % 8))
        ((e.uni b).toNat % 2 ^ 16)
    else (e.grp.kreg k.toNat).getLsbD i

variable (e : Scene)

theorem elected_eq_some {a : BitVec 4} {l : Nat} (hl : e.path.lanes.getLsbD l = true) (hm : e.mask.getLsbD (l * 8) = true) :
    e.elected a = some l ↔ (e.grp.helper.getLsbD l = false ∧ (e.grp.kreg a.toNat).getLsbD (l * 8) = true) ∧
      ∀ i < l, ¬ (e.path.lanes.getLsbD i = true ∧ e.grp.helper.getLsbD i = false ∧
        (e.grp.kreg a.toNat).getLsbD (i * 8) = true ∧ e.mask.getLsbD (i * 8) = true) := by
  unfold elected
  rw [find?_lanesOf_eq_some]
  simp only [hl, hm, Bool.and_eq_true, Bool.not_eq_true', true_and, and_true, and_assoc]

theorem getLsbD_electMask (k a : BitVec 4) {l j : Nat} (hl : l < 32) (hj : j < 8) :
    (e.electMask k a).getLsbD (l * 8 + j) =
      if e.path.lanes.getLsbD l = false then (e.grp.kreg k.toNat).getLsbD (l * 8 + j)
      else if e.mask.getLsbD (l * 8) then
        decide (j = 0 ∧ (e.grp.helper.getLsbD l = false ∧ (e.grp.kreg a.toNat).getLsbD (l * 8) = true) ∧
          ∀ i < l, ¬ (e.path.lanes.getLsbD i = true ∧ e.grp.helper.getLsbD i = false ∧
            (e.grp.kreg a.toNat).getLsbD (i * 8) = true ∧ e.mask.getLsbD (i * 8) = true))
      else if e.pfx.zm then false else (e.grp.kreg k.toNat).getLsbD (l * 8 + j) := by
  unfold electMask
  rw [getLsbD_maskOf _ (by omega), show (l * 8 + j) / 8 = l by omega, show (l * 8 + j) % 8 = j by omega]
  cases hlane : e.path.lanes.getLsbD l with
  | false => rfl
  | true =>
    cases hmask : e.mask.getLsbD (l * 8) with
    | false => rfl
    | true =>
      rw [← Bool.decide_and]
      exact decide_eq_decide.mpr (and_congr_right' (e.elected_eq_some hlane hmask))

theorem getLsbD_ballot (a : BitVec 4) {l : Nat} (hl : l < 64) :
    (e.ballot a).getLsbD l =
      (decide (l < 32) && e.path.lanes.getLsbD l && (e.grp.kreg a.toNat).getLsbD (l * 8)) := by
  unfold ballot
  rw [BitVec.getLsbD_ofNat, testBit_foldl_lanesOf, decide_eq_true hl, Bool.true_and]
  cases hlane : e.path.lanes.getLsbD l with
  | false => rw [Bool.and_false]
  | true => rw [decide_eq_true (BitVec.lt_of_getLsbD hlane)]; rfl

theorem getLsbD_dropMask (k : BitVec 4) (a b : BitVec 7) (t : BitVec 3) {l j : Nat} (hl : l < 32) (hj : j < 8) :
    (e.dropMask k a b t).getLsbD (l * 8 + j) =
      if e.path.lanes.getLsbD l = true ∧ j < tyCount t.toNat ∧ e.mask.getLsbD (l * 8 + j) = true then
        keeps (BitVec.ofNat 32 ((e.uni b).toNat / 2 ^ 32)) (BitVec.ofNat 32 ((laneOf (e.operand a) l).toNat + j))
          ((e.uni b).toNat % 2 ^ 16)
      else (e.grp.kreg k.toNat).getLsbD (l * 8 + j) := by
  unfold dropMask
  rw [getLsbD_maskOf _ (by omega), show (l * 8 + j) / 8 = l by omega, show (l * 8 + j) % 8 = j by omega]
  simp only [Bool.and_eq_true, decide_eq_true_eq, and_assoc]

/-- The element of A that an index names, and 0 where it names none (spec/10 R215). -/
def indexedElem (e : Scene) (a : BitVec 7) (w i : Nat) : Nat :=
  if i % 8 < 64 / w then elem w (i % 8) (laneOf (e.cross a) (laneIndex e.core (i % 256 / 8))) else 0

theorem indexed_elem (a : BitVec 7) (w i : Nat) :
    (match indexed i (64 / w) with
      | some (l, j) => elem w j (laneOf (e.cross a) (laneIndex e.core l))
      | none => 0) = e.indexedElem a w i := by
  unfold indexed indexedElem
  by_cases hi : i % 8 < 64 / w
  · rw [if_pos hi, if_pos hi]
  · rw [if_neg hi, if_neg hi]

/-- An operand that can be read in some lanes and is a uniform register can be read as one. -/
theorem readsUni_of_reads {e : Scene} {b : BitVec 7} (hb : e.reads b) (hu : e.hasUni b) : e.readsUni b :=
  ⟨hu, fun q hq hc => ⟨(hb.2 q hq hc).1, BitVec.getLsbD_zero⟩⟩

end Scene

namespace Issues

variable {s : State} {u : PfxUse} {e : Scene}

/-! ### The cross-lane words -/

section

variable {d a b : BitVec 7} {t : BitVec 3}

/-- A word that moves elements of A by what B's elements name. -/
theorem moveSome {w : Nat} {src : Nat → Nat → (Nat → Nat → Nat) → Nat → Option (Nat × Nat)}
    (h : Issues s { mask := true, zm := true, sel := true } e) (hs : selOk e.pfx.sel (64 / w) = true)
    (hd : e.hasVec d) (ha : e.readsAll a) (hb : e.reads b) (hk : e.readsMask e.pfx.mask) :
    Machine.moveBody d a (some b) w src s = .ok ((), vecNext s e d w (64 / w) fun l j =>
      match src l j (e.subSel b w) (64 / w) with
      | some (sl, sj) => elem w sj (laneOf (e.cross a) (laneIndex e.core sl))
      | none => 0) :=
  h.moveBody hs hd ha (fun _ hob => Option.some.inj hob ▸ hb) hk (fun _ hob => Option.some.inj hob ▸ rfl) nofun

/-- A word that moves by the index that each position names, or by one index for all (spec/10 R215). -/
theorem moveIndexed {w : Nat} (h : Issues s { mask := true, zm := true, sel := true } e) (hs : selOk e.pfx.sel (64 / w) = true)
    (hd : e.hasVec d) (ha : e.readsAll a) (hb : e.reads b) (hk : e.readsMask e.pfx.mask) (pos : Nat → Nat) :
    Machine.moveBody d a (some b) w (fun l j bv n => indexed (bv l (pos j)) n) s =
      .ok ((), vecNext s e d w (64 / w) fun l j => e.indexedElem a w (e.subSel b w l (pos j))) := by
  rw [h.moveSome hs hd ha hb hk]
  exact congrArg (fun f => Except.ok ((), vecNext s e d w (64 / w) f))
    (funext fun l => funext fun j => e.indexed_elem a w (e.subSel b w l (pos j)))

theorem shfl (h : Issues s { mask := true, zm := true, sel := true } e) (hs : selOk e.pfx.sel (64 / tyWidth t.toNat) = true)
    (hd : e.hasVec d) (ha : e.readsAll a) (hb : e.reads b) (hk : e.readsMask e.pfx.mask) :
    exec (.shfl d a b t) s = .next (vecNext s e d (tyWidth t.toNat) (64 / tyWidth t.toNat) fun l j =>
      e.indexedElem a (tyWidth t.toNat) (e.subSel b (tyWidth t.toNat) l j)) :=
  runWord_ok (h.moveIndexed hs hd ha hb hk id)

theorem bcast (h : Issues s { mask := true, zm := true, sel := true } e) (hs : selOk e.pfx.sel (64 / tyWidth t.toNat) = true)
    (hd : e.hasVec d) (ha : e.readsAll a) (hb : e.reads b) (hu : e.hasUni b) (hk : e.readsMask e.pfx.mask) :
    exec (.bcast d a b t) s = .next (vecNext s e d (tyWidth t.toNat) (64 / tyWidth t.toNat) fun l _ =>
      e.indexedElem a (tyWidth t.toNat) (e.subSel b (tyWidth t.toNat) l 0)) := by
  refine runWord_ok ?_
  rw [M.bind_ok h.getPfx, M.bind_ok (check_ok _ s hs), M.bind_ok (h.readUni (Scene.readsUni_of_reads hb hu))]
  exact h.moveIndexed hs hd ha hb hk fun _ => 0

theorem permb (h : Issues s { mask := true, zm := true, sel := true } e) (hs : selOk e.pfx.sel 8 = true)
    (hd : e.hasVec d) (ha : e.readsAll a) (hb : e.reads b) (hk : e.readsMask e.pfx.mask) :
    exec (.permb d a b) s = .next (vecNext s e d 8 8 fun l j =>
      if 128 ≤ e.subSel b 8 l j then 0 else elem 8 (e.subSel b 8 l j % 8) (laneOf (e.cross a) (laneIndex e.core l))) := by
  refine (runWord_ok (h.moveSome hs hd ha hb hk)).trans ?_
  refine congrArg (fun f => Outcome.next (vecNext s e d 8 8 f)) (funext fun l => funext fun j => ?_)
  by_cases hi : 128 ≤ e.subSel b 8 l j
  · rw [if_pos hi, if_pos hi]
  · rw [if_neg hi, if_neg hi]

theorem qswp {q : BitVec 2} (h : Issues s { mask := true, zm := true } e) (hs : e.pfx.sel = 0) (hq : q.toNat < 3)
    (hd : e.hasVec d) (ha : e.readsAll a) (hk : e.readsMask e.pfx.mask) :
    exec (.qswp d a q t) s = .next (vecNext s e d (tyWidth t.toNat) (64 / tyWidth t.toNat) fun l j =>
      elem (tyWidth t.toNat) j (laneOf (e.cross a) (laneIndex e.core (Nat.xor l (q.toNat + 1))))) := by
  have hsel : selOk e.pfx.sel (64 / tyWidth t.toNat) = true := by rw [hs]; rfl
  exact runWord_ok ((M.bind_ok (check_ok _ s (decide_eq_true hq))).trans
    (h.moveBody (ob := none) (bv := fun _ _ => 0) hsel hd ha nofun hk nofun fun _ _ _ _ _ _ => rfl))

end

/-- The quad's difference that a coarse derivative takes is that of its first lanes, a fine one's that of the lane's own pair
(spec/10 R216). -/
theorem deriv {d a : BitVec 7} {c : BitVec 1} {ty dx : Nat} {r : Nat → Nat → Nat × Nat}
    (h : Issues s { mask := true, zm := true, rm := true } e) (hd : e.hasVec d) (ha : e.readsAll a)
    (hk : e.readsMask e.pfx.mask)
    (hr : r = fun l j => if c = 1
      then (fmtOf ty).sub e.mode (elem (tyWidth ty) j (laneOf (e.cross a) (l / 4 * 4 + dx)))
        (elem (tyWidth ty) j (laneOf (e.cross a) (l / 4 * 4)))
      else (fmtOf ty).sub e.mode (elem (tyWidth ty) j (laneOf (e.cross a) (Nat.lor l dx)))
        (elem (tyWidth ty) j (laneOf (e.cross a) (Nat.xor (Nat.lor l dx) dx))))
    (ht : ¬ traps e (vecList e d (tyWidth ty) (64 / tyWidth ty) r).2) :
    runWord (Machine.derivBody d a (decide (c = 1)) ty dx) s = .next (fpNext s e d (tyWidth ty) (64 / tyWidth ty) r) := by
  refine runWord_ok (h.derivBody hd ha hk (hr.trans (funext fun l => funext fun j => ?_)) ht)
  by_cases hc : c = 1
  · rw [if_pos hc, decide_eq_true hc]; rfl
  · rw [if_neg hc, decide_eq_false hc]; rfl

theorem elect {k a : BitVec 4} (h : Issues s { mask := true, zm := true } e) (ha : e.readsMask a.toNat)
    (hk : e.readsMask e.pfx.mask) (hd : e.readsMask k.toNat) :
    exec (.elect k a) s = .next (maskNext s k.toNat (e.electMask k a)) := by
  refine runWord_ok ?_
  rw [M.bind_ok h.getPfx, M.bind_ok (h.readMask ha), M.bind_ok (h.readMask hk), M.bind_ok (h.readMask hd), M.bind_ok h.lanes,
    M.bind_ok h.curGrp]
  exact writeMask_retire ..

theorem vote {d : BitVec 7} {a : BitVec 4} (h : Issues s { mask := true, zm := true } e) (ha : e.readsMask a.toNat)
    (hd : e.hasUni d) : exec (.vote d a) s = .next (uniNext s d (e.ballot a)) := by
  refine runWord_ok ?_
  rw [M.bind_ok h.getPfx, M.bind_ok (h.needUni hd), M.bind_ok (h.readMask ha), M.bind_ok h.lanes]
  exact writeUni_retire ..

/-! ### The mask words -/

theorem maskWord {d a b : BitVec 4} {f : Bool → Bool → Bool} (h : Issues s {} e) (ha : e.readsMask a.toNat)
    (hb : e.readsMask b.toNat) (hd : e.readsMask d.toNat) :
    ∃ v : BitVec 256, runWord (Machine.maskBody d a b f) s = .next (maskNext s d.toNat v) ∧
      ∀ p, p < 256 → v.getLsbD p = if e.path.lanes.getLsbD (p / 8)
        then f ((e.grp.kreg a.toNat).getLsbD p) ((e.grp.kreg b.toNat).getLsbD p) else (e.grp.kreg d.toNat).getLsbD p :=
  ⟨_, runWord_ok (h.maskBody ha hb hd), fun _ hp => getLsbD_activeMask _ _ _ hp⟩

section

variable {d : BitVec 7} {k : BitVec 4}

/-- Four uniform registers from a multiple of 4 on, which the kernel has (spec/10 R221). -/
theorem needQuad (h : Issues s u e) (hd : e.hasUni d) (h4 : d.toNat % 4 = 0) (hn : d.toNat - 96 + 3 < e.grid.lrec.uregs) :
    Machine.needQuad d s = .ok (d.toNat - 96, s) := by
  have hmod : (d.toNat - 96) % 4 = 0 := by have := hd.1; omega
  unfold Machine.needQuad
  rw [M.bind_ok (h.needUni hd), M.bind_ok (check_ok _ s (decide_eq_true hmod)), M.bind_ok h.allocation]
  dsimp only
  rw [M.bind_ok (check_ok _ s (decide_eq_true hn))]
  rfl

/-- Four uniform registers that no kernel has as a quad are an illegal operand (spec/10 R221, spec/19 R308). -/
theorem needQuad_illegal (h : Issues s u e) (hd : e.hasUni d)
    (hn : d.toNat % 4 ≠ 0 ∨ e.grid.lrec.uregs ≤ d.toNat - 96 + 3) :
    Machine.needQuad d s = .error (.fault (illegal 3)) := by
  unfold Machine.needQuad
  rw [M.bind_ok (h.needUni hd)]
  by_cases hmod : (d.toNat - 96) % 4 = 0
  · have hlt : ¬ d.toNat - 96 + 3 < e.grid.lrec.uregs := by have := hd.1; omega
    rw [M.bind_ok (check_ok _ s (decide_eq_true hmod)), M.bind_ok h.allocation]
    exact M.bind_error (check_fault _ s (decide_eq_false hlt))
  · exact M.bind_error (check_fault _ s (decide_eq_false hmod))

theorem kmovS_illegal (h : Issues s {} e) (hd : e.hasUni d)
    (hn : d.toNat % 4 ≠ 0 ∨ e.grid.lrec.uregs ≤ d.toNat - 96 + 3) :
    exec (.kmovS d k) s = .next (takeFault (illegal 3) s) :=
  runWord_fault ((M.bind_ok h.noPfx).trans (M.bind_error (h.needQuad_illegal hd hn)))

theorem kmovK_illegal (h : Issues s {} e) (hd : e.hasUni d)
    (hn : d.toNat % 4 ≠ 0 ∨ e.grid.lrec.uregs ≤ d.toNat - 96 + 3) :
    exec (.kmovK k d) s = .next (takeFault (illegal 3) s) :=
  runWord_fault ((M.bind_ok h.noPfx).trans (M.bind_error (h.needQuad_illegal hd hn)))

/-- KMOV.S to s0 discards all four words (spec/10 R221). -/
theorem kmovS_zero (h : Issues s {} e) (hk : e.readsMask k.toNat) (hd : e.hasUni d)
    (hn : d.toNat - 96 + 3 < e.grid.lrec.uregs) (h0 : d.toNat = 96) : exec (.kmovS d k) s = .next (wrote s id) := by
  refine runWord_ok ?_
  rw [M.bind_ok h.noPfx, M.bind_ok (h.needQuad hd (by omega) hn), M.bind_ok (h.readMask hk), if_neg (by omega)]
  exact retire_apply s

theorem kmovS (h : Issues s {} e) (hk : e.readsMask k.toNat) (hd : e.hasUni d) (h4 : d.toNat % 4 = 0)
    (hn : d.toNat - 96 + 3 < e.grid.lrec.uregs) (h0 : d.toNat ≠ 96) :
    exec (.kmovS d k) s = .next (wrote s fun g => (List.range 4).foldl (fun g i =>
      (g.setSreg (d.toNat - 96 + i) (BitVec.ofNat 64 ((e.grp.kreg k.toNat).toNat / 2 ^ (64 * i)))).clean
        (96 + (d.toNat - 96 + i)) (fun _ => true)) g) := by
  have hn0 : d.toNat - 96 ≠ 0 := by have := hd.1; omega
  refine runWord_ok ?_
  rw [M.bind_ok h.noPfx, M.bind_ok (h.needQuad hd h4 hn), M.bind_ok (h.readMask hk), if_pos hn0]
  exact (M.bind_ok (each_modCurGrp _ _ s)).trans (retire_modGrp _ s)

theorem kmovK (h : Issues s {} e) (hk : e.readsMask k.toNat) (hd : e.hasUni d) (h4 : d.toNat % 4 = 0)
    (hn : d.toNat - 96 + 3 < e.grid.lrec.uregs) (hc : ∀ i < 4, e.clear (d.toNat + i) 0#32) :
    exec (.kmovK k d) s = .next (maskNext s k.toNat (activeMask e.path.lanes (e.grp.kreg k.toNat) fun i =>
      (e.grp.sreg (d.toNat - 96 + i / 64)).getLsbD (i % 64))) := by
  have hcheck : ∀ i ∈ List.range 4, Machine.checkReg (96 + (d.toNat - 96) + i) 0 s = .ok ((), s) := fun i hi => by
    rw [Nat.add_sub_cancel' hd.1]
    exact h.checkReg (hc i (List.mem_range.mp hi))
  refine runWord_ok ?_
  rw [M.bind_ok h.noPfx, M.bind_ok (h.needQuad hd h4 hn), M.bind_ok (collect_ok hcheck), M.bind_ok (h.readMask hk),
    M.bind_ok h.lanes, M.bind_ok h.curGrp]
  exact writeMask_retire ..

/-- A value written into the active lanes of a vector register. -/
theorem writeLanes (h : Issues s u e) (d : BitVec 7) (f : Nat → Word) :
    Machine.writeLanes d.toNat f s = .ok ((), s.modGrp s.cur.blk s.cur.grp (putLanes e d f)) := by
  unfold Machine.writeLanes writeVec
  rw [M.bind_ok h.lanes, modCurGrp_apply]
  refine congrArg (fun F => Except.ok ((), s.modGrp s.cur.blk s.cur.grp F)) (funext fun g => ?_)
  dsimp only [putLanes]
  congr 1
  · refine congrArg (g.setVreg d.toNat) (List.map_congr_left fun l _ => ?_)
    cases e.path.lanes.getLsbD l <;> rfl
  · funext l
    cases e.path.lanes.getLsbD l <;> rfl

theorem kmovV (h : Issues s {} e) (hk : e.readsMask k.toNat) (hd : e.hasVec d) :
    exec (.kmovV d k) s = .next (wrote s (putLanes e d fun l =>
      BitVec.ofNat 64 ((e.grp.kreg k.toNat).toNat / 2 ^ (8 * l) % 256))) := by
  refine runWord_ok ?_
  rw [M.bind_ok h.noPfx, M.bind_ok (h.needVec hd), M.bind_ok (h.readMask hk), M.bind_ok (h.writeLanes d _)]
  exact retire_modGrp _ s

theorem kpop (h : Issues s {} e) (hk : e.readsMask k.toNat) (hd : e.hasUni d) :
    exec (.kpop d k) s =
      .next (uniNext s d (BitVec.ofNat 64 (activeBits e.path.lanes (e.grp.kreg k.toNat)).length)) := by
  refine runWord_ok ?_
  rw [M.bind_ok h.noPfx, M.bind_ok (h.needUni hd), M.bind_ok (h.readMask hk), M.bind_ok h.lanes]
  exact writeUni_retire ..

theorem kfirst (h : Issues s {} e) (hk : e.readsMask k.toNat) (hd : e.hasUni d) :
    exec (.kfirst d k) s = .next (uniNext s d
      (match (List.range 256).find? (fun i => e.path.lanes.getLsbD (i / 8) && (e.grp.kreg k.toNat).getLsbD i) with
        | some i => BitVec.ofNat 64 i
        | none => BitVec.allOnes 64)) := by
  refine runWord_ok ?_
  rw [M.bind_ok h.noPfx, M.bind_ok (h.needUni hd), M.bind_ok (h.readMask hk), M.bind_ok h.lanes, activeBits, List.head?_filter]
  exact writeUni_retire ..

end

theorem dropk {k : BitVec 4} {a b : BitVec 7} {t : BitVec 3} (h : Issues s { mask := true } e) (ha : e.reads a)
    (hb : e.readsUni b) (hm : e.readsMask e.pfx.mask) (hk : e.readsMask k.toNat) :
    exec (.dropk k a b t) s = .next (maskNext s k.toNat (e.dropMask k a b t)) := by
  refine runWord_ok ?_
  rw [M.bind_ok h.getPfx, M.bind_ok (h.readOp ha), M.bind_ok (h.readUni hb), M.bind_ok (h.readMask hm),
    M.bind_ok (h.readMask hk), M.bind_ok h.lanes]
  exact writeMask_retire ..

end Issues

end Sys2Proof.Safety

namespace Sys2Proof.Machine

open Host Safety

/-- Settles O11: each word by what it answers, and the bits that ELECT and VOTE write. -/
theorem crossLane : Obligations.CrossLane := by
  unfold Obligations.CrossLane
  refine ⟨?_, ?_, ?_⟩
  · rintro s e d a b t q w rfl hd ha hk
    exact ⟨fun h hs => ⟨fun hb => h.shfl hs hd ha hb hk, fun hb hu => h.bcast hs hd ha hb hu hk⟩,
      fun h hs hb => h.permb hs hd ha hb hk, fun h hs hq => h.qswp hs hq hd ha hk⟩
  · rintro s e d a c t ty w rfl rfl h hd ha hk i dx r hi hr ht
    have hrun := h.deriv hd ha hk hr ht
    obtain ⟨rfl, rfl⟩ | ⟨rfl, rfl⟩ := hi
    · exact hrun
    · exact hrun
  · intro s e k a d h ha hm hk
    exact ⟨⟨_, h.elect ha hm hk, fun l j hl hj => e.getLsbD_electMask k a hl hj⟩,
      fun hd => ⟨_, h.vote ha hd, fun l hl => e.getLsbD_ballot a hl⟩⟩

/-- Settles O13: each word by what it answers, and the bits of the masks. -/
theorem masks : Obligations.Masks := by
  unfold Obligations.Masks
  refine ⟨?_, ?_, ?_, fun g v x => ⟨rfl, rfl⟩⟩
  · intro s e d a b h ha hb hd i f hi
    simp only [List.mem_cons, Prod.mk.injEq, List.not_mem_nil, or_false] at hi
    obtain ⟨rfl, rfl⟩ | ⟨rfl, rfl⟩ | ⟨rfl, rfl⟩ | ⟨rfl, rfl⟩ | ⟨rfl, rfl⟩ := hi
    · exact h.maskWord ha hb hd
    · exact h.maskWord ha hb hd
    · exact h.maskWord ha hb hd
    · exact h.maskWord ha ha hd
    · exact h.maskWord ha ha hd
  · intro s e k d h hk
    exact ⟨fun hd hn => ⟨h.kmovS_illegal hd hn, h.kmovK_illegal hd hn⟩,
      fun hd h4 hn => ⟨h.kmovS_zero hk hd hn, h.kmovS hk hd h4 hn, fun hc =>
        ⟨_, h.kmovK hk hd h4 hn hc, fun p hp => getLsbD_activeMask _ _ _ hp⟩⟩,
      h.kmovV hk, fun hd => ⟨h.kpop hk hd, h.kfirst hk hd⟩⟩
  · intro s e k a b t h ha hb hm hk
    exact ⟨_, h.dropk ha hb hm hk, fun l j hl hj => e.getLsbD_dropMask k a b t hl hj⟩

end Sys2Proof.Machine
